-- ==== Sys2Proof/Word.lean ====
section
/-!
DEFINITION. The word types of the Loeth and their plainest use: bytes, fixed-width words and the identity numbers
(core, group, tenant, stream, link, quad, compute domain) that the manual numbers as bit fields.
-/
namespace Sys2Proof

/-- One byte (R19: every record is a sequence of bytes, little-endian). -/
abbrev Byte := BitVec 8
/-- A 16-bit word. -/
abbrev U16 := BitVec 16
/-- A 32-bit word; also the bit pattern of an FP32 value (R189). -/
abbrev U32 := BitVec 32
/-- A 64-bit word: scalar registers (R221) and global addresses (R270). -/
abbrev U64 := BitVec 64

/-- A core ID, 10 bits: die [9], row [8:5], column [4:0] (02_package_fabric.md R33). -/
abbrev CoreId := BitVec 10
/-- A core group, 0 to 255 (04_dictionary_map.md R153). -/
abbrev GroupId := BitVec 8
/-- A tenant context, 12 bits (03_dictionary.md R82). -/
abbrev Tenant := BitVec 12
/-- A stream ID, 0x0000 to 0x3FFF (10_streams_attention.md R395). -/
abbrev StreamId := BitVec 14
/-- A Pass link P0 to P15 (15_pass_links.md). -/
abbrev LinkId := BitVec 4
/-- A quad of links, 0 to 3 (15_pass_links.md). -/
abbrev QuadId := BitVec 2
/-- A compute domain, 0 to 15 (19_power_health.md R827). -/
abbrev DomainId := BitVec 4
/-- A package number, 13 bits: frame [12:7], slot [6:0] (16_frame.md R663). -/
abbrev Pkg := BitVec 13
/-- A PCIe function: 0 the physical function, 1 to 31 the virtual functions (17_host_port.md). -/
abbrev FnId := BitVec 5
/-- A stock channel, 0 to 15 (07_memory_model.md R288). -/
abbrev ChannelId := BitVec 4

end Sys2Proof
end

