-- ==== Sys2Proof/Syntax.lean ====
section
/-!
DEFINITION. The commands of the Loeth: one constructor of Instr per row of spec/opcode_table.json, with its operands.
An operand is what the command brings from outside the block: an instruction word and the core that issues it, an access
body and its path, a flit, a frame, a sampled reading, what host memory or an I2C target answers.
-/
namespace Sys2Proof

/-- The path of a dictionary access; it fixes the role and the holder tag (R80, R92). -/
inductive DictPath where
  /-- BAR0 of PCIe function f: 0 is the physical function, others are virtual functions. -/
  | window (f : FnId)
  /-- The window of core group g in space 0x4. -/
  | coreWindow (g : GroupId)
  /-- A host command descriptor of queue pair t. -/
  | queue (t : Tenant)
  /-- The SPI target port. -/
  | spi
  /-- The CAN FD field port, by source node. -/
  | field (node : BitVec 7)
  /-- Gaffer firmware, internal. -/
  | gaffer
deriving DecidableEq, Repr

/-- What the VCORE_F regulator answers to the fresh pre-check reads of R831; none is a read that failed after its retries. -/
structure PreCheck where
  /-- STATUS_WORD: true when it shows a fault bit. -/
  faultBit : Option Bool
  /-- READ_IOUT in mA. -/
  ioutMa : Option Nat
deriving DecidableEq, Repr

/-- A dictionary access: the request body of R103 less its opcode, the path it came by, the bytes its carrier delivered
(R934), and what the regulator answers should the access need the pre-check of R831. -/
structure Access where
  path : DictPath
  flags : Byte
  index : U16
  sub : Byte
  sel : U16
  offset : U32
  length : U16
  tag : U16
  data : List Byte
  pre : PreCheck
deriving DecidableEq, Repr

/-- A host window: that of a PCIe function's BAR0, or that of a core group in space 0x4 (R109). -/
inductive WindowId where
  | fn (f : FnId)
  | group (g : GroupId)
deriving DecidableEq, Repr

/-- The bridges that carry channels (R31): edge bridge 0, the field bridge, edge bridge 1. -/
inductive BridgeId where
  | edge0 | field | edge1
deriving DecidableEq, Repr

/-- An edge die. -/
inductive EdgeDie where
  | e0 | e1
deriving DecidableEq, Repr

/-- A field die, or the vault die beneath it. -/
inductive FieldDie where
  | d0 | d1
deriving DecidableEq, Repr

/-- An end of a flit's way over the fabric: a core's router, or an edge die, met on its edge bridge channel k (R34 to R38). -/
inductive FlitEnd where
  | core (c : CoreId)
  | edge (e : EdgeDie) (k : BitVec 4)
deriving DecidableEq, Repr

/-- A flit of the fabric: where it starts and ends, its class, which flit of that class between those ends it is, and its 64
bytes (R42, R46, R47). -/
structure FabricFlit where
  src : FlitEnd
  dst : FlitEnd
  response : Bool
  seq : Nat
  data : List Byte
deriving DecidableEq, Repr

/-- A flit at the router that it reaches (R45, R48). -/
structure RouterFlit where
  router : CoreId
  flit : FabricFlit
deriving DecidableEq, Repr

/-- A random-number instruction's word, and whether the unit finds a parity error as it runs (R394). -/
structure RngIssue where
  word : U32
  parity : Bool
deriving DecidableEq, Repr

/-- The tag of the command that an engine is at, and whether a parity error is found there and not a stall. -/
structure EngineFinding where
  tag : Byte
  parity : Bool
deriving DecidableEq, Repr

/-- What SECDED finds in a 64-bit word of a flit (R48). -/
inductive EccFinding where
  | clean | corrected | uncorrectable
deriving DecidableEq, Repr

/-- A droop comparator: of a compute domain, or of a spine segment of a field die (R66). -/
inductive DroopSite where
  | domain (d : DomainId)
  | spine (die : FieldDie) (segment : Nat)
deriving DecidableEq, Repr

/-- One 1 µs sample of the on-die sense points and temperature sensors (R807): VCORE_F in mV, the hottest sensor of each
domain and of the package in tenths of °C. -/
structure SenseReadings where
  vcoreMv : Nat
  domainTenths : List Int
  packageTenths : Int
deriving DecidableEq, Repr

/-- The readings of one 1 ms window (R807 to R810): means of the sense points in mV, header current of each domain and
spine current of each field die in mA, the beats each reference ring counted. -/
structure WindowReadings where
  vcoreMv : Nat
  railMv : List Nat
  quadMv : List Nat
  domainMa : List Nat
  spineMa : List Nat
  ringBeats : List Nat
  domainTenths : List Int
  packageTenths : Int
deriving DecidableEq, Repr

/-- The outcome of a flash program or erase, found by polling and reading back (R778); a failure names the erase block of the half
that holds the failing page (R140). -/
inductive FlashOutcome where
  | ok | failed (block : BitVec 6)
deriving DecidableEq, Repr

/-- What a compaction or a format finds as it erases and programs a half (R126, R140, R938): whether block 0 and the half
header succeed, the blocks above 0 whose erase fails, and the blocks that hold a page whose program fails. -/
structure HalfOutcome where
  block0Ok : Bool
  failedBlocks : List (BitVec 6)
  failedPrograms : List (BitVec 6)
deriving DecidableEq, Repr

/-- A value of a comparison predicate of IEEE 754-2019 that a vector compare applies (R929). -/
inductive CmpPred where
  | eq | ne | lt | le | gt | ge | unordered
deriving DecidableEq, Repr

/-- The engine named in a fault record (R332). -/
inductive Engine where
  | control | arrays | vector | dma | message | random | savePath
deriving DecidableEq, Repr

/-- The faults that can strike a save path: uncorrectable memory, mesh uncorrectable, bridge stall, bridge pair lost, internal
check (R350). -/
inductive PathFault where
  | memory | mesh | stall | pairLost | internal
deriving DecidableEq, Repr

/-- A fault struck during a snapshot copy, save or restore (R354 to R356): the core, the underlying fault and its detail. -/
structure SaveFault where
  core : CoreId
  fault : PathFault
  detail : U16
deriving DecidableEq, Repr

/-- What host memory holds where a host operation reads it; an address that is not listed fails the read (R743). -/
abbrev HostBytes := List (Nat × Byte)

/-- How a failed host request ends (R743). -/
inductive HostReadResult where
  | data (bytes : List Byte)
  | unsupportedRequest
  | completerAbort
  | poisoned
deriving DecidableEq, Repr

/-- How a doorbell page is reached (R702, R708): page t of the PF queue region, or the page of VF f. -/
inductive DoorbellPage where
  | pf (t : Tenant)
  | vf (f : FnId)
deriving DecidableEq, Repr

/-- A PCIe capability that a function may list: those of the table Capabilities present (R699), those that R700 excludes, and any
other. -/
inductive PcieCap where
  | powerManagement | pciExpress | msix | advancedErrors | alternativeRouting | virtualization | accessControl | serialNumber
  | secondary | dataLinkFeature | physical16 | physical32 | physical64 | laneMargining
  | msi | ats | pri | pasid | tph | ltr | l1Substates | resizableBar | cxl | another
deriving DecidableEq, Repr

/-- A PCIe configuration request: the function, the register it names among those the manual gives an effect
(R698 to R702, R709, R744, R745), and a write's value. Of a capability it asks whether the function lists it; of a BAR its size. -/
inductive ConfigReg where
  | vendorDevice | classCode | command | vfEnable | numVfs | powerState | msixControl | completionTimeout
  | capability (k : PcieCap) | serialNumber (high : Bool) | barSize (n : BitVec 3)
  | totalVfs | firstVfOffset | vfStride | maxPayload | maxReadRequest | functionReset | tagBits | timeoutRanges | aspm | other
deriving DecidableEq, Repr

/-- What takes the host port down (R742, R870). -/
inductive HostResetCause where
  | perst | hotReset | linkDown
deriving DecidableEq, Repr

/-- A frame received on the field bus (R747, R749): identifier, whether it is extended, FD and with bit-rate switch, and
its data. -/
structure CanFrame where
  extended : Bool
  ident : BitVec 29
  fd : Bool
  brs : Bool
  data : List Byte
deriving DecidableEq, Repr

/-- One SPI transaction as the target samples it (R763, R766): whole 32-bit words received, and the clock edges of a last
partial word. -/
structure SpiTransaction where
  words : List U32
  extraEdges : BitVec 5
deriving DecidableEq, Repr

/-- The two I2C controllers. -/
inductive I2cBus where
  | pmbus | module
deriving DecidableEq, Repr

/-- One recovery round (R789): whether SDA is high before it starts, after how many pulses SDA went high (at most 9), and
whether it is high after STOP. -/
structure I2cRound where
  sdaHighAtStart : Bool
  pulses : BitVec 4
  sdaHighAfter : Bool
deriving DecidableEq, Repr

/-- Telemetry of one regulator as a poll reads it (R782). -/
structure RegulatorReading where
  voutMv : Nat
  ioutMa : Nat
  status : U16
deriving DecidableEq, Repr

/-- How a PMBus transaction ends (R783). -/
inductive BusOutcome where
  | stop | noAcknowledge | pecMismatch | sclTimeout
deriving DecidableEq, Repr

/-- An IEEE 1149.1 instruction (R891). -/
inductive TapInstr where
  | bypass | idcode | boundary | privateDebug
deriving DecidableEq, Repr

/-- The main rails of the table Rails, in the order of the regulator addresses 0x40 to 0x47 (R800). -/
inductive Rail where
  | vcoreF | vvault | vedge | vserdesA0 | vserdesA1 | vserdesH | vddqS | vio
deriving DecidableEq, Repr

/-- What the power-up sequence meets (R860, R863, R864): whether the PMBus recovers in step 3 and which rail fails step 4
after its retry. -/
structure PowerUpOutcome where
  pmbusOk : Bool
  failedRail : Option Rail
deriving DecidableEq, Repr

/-- One stock channel as training finds it (R288 to R290): density in GiB, 0 where absent, and whether it passes every step of
training at each speed grade in MT/s. -/
structure ChannelFinding where
  density : Nat
  passes6400 : Bool
  passes7500 : Bool
  passes8533 : Bool
deriving DecidableEq, Repr

/-- What the boot flash answers when the firmware starts (R775, R776, R897). -/
structure FlashFinding where
  readable : Bool
  sfdpOk : Bool
  identity : U32
  sizeMib : U32
  width : Byte
deriving DecidableEq, Repr

/-- The commands. One constructor per row of spec/opcode_table.json; LAWS.json maps each to its row. -/
inductive Instr where
  -- the object dictionary
  | dictRead (a : Access)
  | dictReadInformation (a : Access)
  | dictWrite (a : Access)
  | stagedWrite (a : Access)
  | commit (a : Access)
  | discardStage (a : Access)
  | restoreDefault (a : Access)
  | writePiece (a : Access)
  | stageExpiry (index : U16) (sub : Byte) (sel : Tenant)
  | windowSlotDoorbell (win : WindowId) (value : U32) (written : List Byte) (pre : PreCheck)
  | windowCompletionClear (win : WindowId) (off : U16) (value : U32)
  | journalRecordSealed (o : FlashOutcome)
  | journalCompaction (h : HalfOutcome)
  | compactionRetry (h : HalfOutcome)
  | lifeCycleTransition (a : Access)
  | vcoreFSetpointCommit (a : Access)
  | powerStateRequest (a : Access)
  | holdRecoveryRequest (a : Access)
  | groupStart (a : Access)
  | groupPreempt (a : Access)
  | groupResume (a : Access)
  | groupAbort (a : Access)
  | routeTableWrite (a : Access)
  | benchSubstitution (a : Access)
  | linkDisable (a : Access)
  | linkEnable (a : Access)
  | ringConfigure (a : Access)
  | queueEnable (a : Access)
  | queueDisable (a : Access)
  | alarmClear (a : Access)
  | keyDigestWrite (a : Access)
  | unlockChallengeRead (a : Access)
  | unlockResponseWrite (a : Access)
  | tenantReset (a : Access)
  | tenantResetAcksComplete (t : Tenant)
  | tenantResetAckTimeout (t : Tenant)
  | tenantResetComplete (t : Tenant)
  | eventLogClear (a : Access)
  | counterClear (a : Access)
  -- the fabric
  | bridgeFlitArrival (b : BridgeId) (ch : BitVec 5) (flit : FabricFlit) (crc : U16)
  | bridgeChannelOutOfService (b : BridgeId) (ch : BitVec 5)
  | bridgeStall (e : EdgeDie) (ch : BitVec 4)
  | linkReferenceStop (e : EdgeDie)
  | meshFlitArrival (hop : RouterFlit) (found : List EccFinding)
  | refreshTimebaseCalibration (die : FieldDie)
  | vaultRefresh (slice : CoreId) (bank : BitVec 4)
  | refreshPeriodChange (die : FieldDie) (hottestTenths : Int)
  | vaultScrub (slice : CoreId)
  | droopTrip (site : DroopSite) (senseMv : Nat)
  | droopCauseClear (die : FieldDie)
  | senseSample (r : SenseReadings)
  | msWindowEnd (r : WindowReadings)
  -- control processor: integer, immediate, memory and control flow
  | intAdd (c : CoreId) (w : U32)
  | intSubtract (c : CoreId) (w : U32)
  | intAnd (c : CoreId) (w : U32)
  | intOr (c : CoreId) (w : U32)
  | intExclusiveOr (c : CoreId) (w : U32)
  | intShiftLeft (c : CoreId) (w : U32)
  | intLogicalRight (c : CoreId) (w : U32)
  | intArithmeticRight (c : CoreId) (w : U32)
  | intProductLow (c : CoreId) (w : U32)
  | intProductHighUnsigned (c : CoreId) (w : U32)
  | intLessSigned (c : CoreId) (w : U32)
  | intLessUnsigned (c : CoreId) (w : U32)
  | intSignedMinimum (c : CoreId) (w : U32)
  | intSignedMaximum (c : CoreId) (w : U32)
  | intLeadingZeros (c : CoreId) (w : U32)
  | intSetBits (c : CoreId) (w : U32)
  | addImmediate (c : CoreId) (w : U32)
  | andImmediate (c : CoreId) (w : U32)
  | orImmediate (c : CoreId) (w : U32)
  | shiftOrImmediate (c : CoreId) (w : U32)
  | load (c : CoreId) (w : U32)
  | store (c : CoreId) (w : U32)
  | branch (c : CoreId) (w : U32)
  | jumpAndLink (c : CoreId) (w : U32)
  -- arrays, attention and streams
  | arrayProduct (c : CoreId) (w : U32)
  | attention (c : CoreId) (w : U32)
  | streamOpen (c : CoreId) (w : U32)
  | streamCommit (c : CoreId) (w : U32)
  | storyboardCompaction (c : CoreId)
  | streamPark (c : CoreId) (w : U32)
  | streamUnpark (c : CoreId) (w : U32)
  | streamClose (c : CoreId) (w : U32)
  | streamRead (c : CoreId) (w : U32)
  | streamRoster (c : CoreId) (w : U32)
  | streamAdopt (c : CoreId) (w : U32)
  | followReelWaitEnd (c : CoreId)
  | ringQueueWaitEnd (c : CoreId)
  | arrWait (c : CoreId) (w : U32)
  | epilogueBlock (c : CoreId)
  | deferredSweep (c : CoreId)
  | tileSendBlock (c : CoreId)
  | arrayCommandComplete (c : CoreId)
  | attentionComplete (c : CoreId)
  -- the vector engine
  | vectorAdd (c : CoreId) (w : U32)
  | vectorSubtract (c : CoreId) (w : U32)
  | vectorMultiply (c : CoreId) (w : U32)
  | vectorFusedMultiplyAdd (c : CoreId) (w : U32)
  | vectorMinimum (c : CoreId) (w : U32)
  | vectorMaximum (c : CoreId) (w : U32)
  | vectorCompare (c : CoreId) (w : U32) (p : CmpPred)
  | vectorSelect (c : CoreId) (w : U32)
  | vectorExp2 (c : CoreId) (w : U32)
  | vectorLog2 (c : CoreId) (w : U32)
  | vectorReciprocal (c : CoreId) (w : U32)
  | vectorReciprocalSquareRoot (c : CoreId) (w : U32)
  | vectorSquareRoot (c : CoreId) (w : U32)
  | vectorExp (c : CoreId) (w : U32)
  | vectorSigmoid (c : CoreId) (w : U32)
  | vectorTanh (c : CoreId) (w : U32)
  | laneSum (c : CoreId) (w : U32)
  | laneMaximum (c : CoreId) (w : U32)
  | vectorLoad (c : CoreId) (w : U32)
  | vectorStore (c : CoreId) (w : U32)
  | vSoftmax (c : CoreId) (w : U32)
  -- messages, DMA, random numbers, huddles, system
  | msgRsv (c : CoreId) (w : U32)
  | msgSend (c : CoreId) (w : U32)
  | msgRecv (c : CoreId) (w : U32)
  | msgPoll (c : CoreId) (w : U32)
  | msgUnrsv (c : CoreId) (w : U32)
  | messageArrival (dst : CoreId) (mailbox : BitVec 4) (srcPkg : Pkg) (srcCore : CoreId)
  | dmaCopy (c : CoreId) (w : U32)
  | dmaFill (c : CoreId) (w : U32)
  | dmaWait (c : CoreId) (w : U32)
  | dmaCommandComplete (c : CoreId) (tag : Byte)
  | rngGen (c : CoreId) (w : RngIssue)
  | rngVfill (c : CoreId) (w : RngIssue)
  | hud (c : CoreId) (w : U32)
  | huddleRelease (g : GroupId)
  | snapshotCopyComplete (c : CoreId) (fault : Option SaveFault)
  | preemptSaveComplete (g : GroupId) (fault : Option SaveFault)
  | resumeRestoreComplete (g : GroupId) (fault : Option SaveFault)
  | hudLocal (c : CoreId) (w : U32)
  | nop (c : CoreId) (w : U32)
  | beats (c : CoreId) (w : U32)
  | softwareFault (c : CoreId) (w : U32)
  | engineStall (c : CoreId) (e : Engine) (found : EngineFinding)
  -- atomics and leases
  | atomicRead (c : CoreId) (w : U32)
  | atomicSwap (c : CoreId) (w : U32)
  | compareAndSwap (c : CoreId) (w : U32)
  | atomicAdd (c : CoreId) (w : U32)
  | atomicAnd (c : CoreId) (w : U32)
  | atomicOr (c : CoreId) (w : U32)
  | atomicExclusiveOr (c : CoreId) (w : U32)
  | atomicSignedMinimum (c : CoreId) (w : U32)
  | atomicSignedMaximum (c : CoreId) (w : U32)
  | atomicUnsignedMinimum (c : CoreId) (w : U32)
  | atomicUnsignedMaximum (c : CoreId) (w : U32)
  | atomicFp32Add (c : CoreId) (w : U32)
  | leaseTake (c : CoreId) (w : U32)
  | leaseRelease (c : CoreId) (w : U32)
  -- stock, domains
  | stockChannelFailure (ch : ChannelId)
  | domainDrainComplete (d : DomainId)
  | headerStage (d : DomainId)
  | domainStagingComplete (d : DomainId)
  -- reels
  | sealWordSample (slice : CoreId)
  | reelOffer (port : BitVec 5)
  | reelAccept (port : BitVec 5)
  | reelHold (port : BitVec 5)
  | offerResend (slice : CoreId) (entry : U16)
  | reelStale (port : BitVec 5)
  | reelData (port : BitVec 5)
  | reelDone (port : BitVec 5)
  -- slates
  | slateTake
  | slateWordSample
  | slateDrain
  | restoreFromDailies
  | restoreFromHost (h : HostBytes)
  | shardLoad (h : HostBytes)
  | releaseDailies
  -- Pass links
  | modeWordOffer (n : LinkId) (word : U64)
  | modeWordChoice (n : LinkId) (word : U64)
  | modeWordConfirm (n : LinkId) (word : U64)
  | modeWordHold (n : LinkId) (word : U64)
  | holdHintExpiry (n : LinkId)
  | kickoffConfirmTimeout (n : LinkId)
  | kickoffRetry (n : LinkId)
  | linkSignalDetect (n : LinkId)
  | packetFlit (n : LinkId) (flit : List Byte)
  | nullFlit (n : LinkId) (flit : List Byte)
  | replayRequest (n : LinkId) (flit : List Byte)
  | replayTimeout (n : LinkId)
  | foulFlit (n : LinkId) (flit : List Byte)
  | linkControlPause (n : LinkId) (flit : List Byte)
  | linkControlDown (n : LinkId) (flit : List Byte)
  | pauseEnd (n : LinkId)
  | flitForward
  | lossOfSignal (n : LinkId) (presence : Bool)
  | signalReturn (n : LinkId)
  | recoveryExpiry (n : LinkId)
  | synthesiserLocked (q : QuadId)
  | synthesiserTuneTimeout (q : QuadId)
  | synthesiserRetry (q : QuadId)
  | quadRecalibration (q : QuadId) (tenths : Int)
  | recalibrationDeadline (q : QuadId)
  | quadRailStep (q : QuadId)
  -- packets of other packages; port 16 is this package itself
  | tenantGoneNotice (port : BitVec 5)
  | tenantGoneAcknowledgement (port : BitVec 5)
  | revocationNotice (port : BitVec 5)
  | revocationAcknowledgement (port : BitVec 5)
  | messagePacket (port : BitVec 5)
  | tileWritePacket (port : BitVec 5)
  | reservePacket (port : BitVec 5)
  | unreservePacket (port : BitVec 5)
  | sendStatusPacket (port : BitVec 5)
  | readPacket (port : BitVec 5)
  | writePacket (port : BitVec 5)
  | ringIndexRequest (port : BitVec 5)
  | ringGrant (port : BitVec 5)
  | ringRecordPublish (ring : BitVec 3)
  | releaseIndexReport (port : BitVec 5)
  | drainNotice (port : BitVec 5)
  | keeperClaim (port : BitVec 5)
  | claimStatus (port : BitVec 5)
  | readDataPacket (port : BitVec 5)
  | writeDonePacket (port : BitVec 5)
  | undeliverablePacket (port : BitVec 5)
  -- the host port
  | pcieLinkUp (rate : Byte) (width : Byte) (bothFlit : Bool)
  | configurationRequest (f : FnId) (reg : ConfigReg) (write : Option U32)
  | submissionTailDoorbell (page : DoorbellPage) (value : U32)
  | completionHeadDoorbell (page : DoorbellPage) (value : U32)
  | submissionFetch (t : Tenant)
  | hostDictionaryAccess (t : Tenant) (h : HostBytes) (pre : PreCheck)
  | hostGroupControl (t : Tenant) (pre : PreCheck)
  | groupWaitComplete (t : Tenant) (slot : U16)
  | hostCopy (t : Tenant) (h : HostBytes)
  | hostSlateOperation (t : Tenant)
  | hostNoOperation (t : Tenant)
  | completionPost (t : Tenant) (writeOk : Bool)
  | bar4Read (off : U64) (len : U16)
  | bar4Write (off : U64) (bytes : List Byte)
  | functionLevelReset (f : FnId)
  | hostPortReset (cause : HostResetCause)
  -- the field ports
  | canStandbyExit
  | canSearchFrame (valid : Bool) (brs : Bool)
  | canNominalSearchTimeout
  | canDataSearchTimeout
  | canBusOff
  | canBusOffRecovery
  | canDictionaryRequest (f : CanFrame) (pre : PreCheck)
  | canAlarmFrame (f : CanFrame)
  | canTimeSync (f : CanFrame)
  | canHeartbeat (elapsedUs : Nat)
  | spiRequest (x : SpiTransaction) (pre : PreCheck)
  | spiFetch (x : SpiTransaction)
  | spiNoOperation (x : SpiTransaction)
  | spiReadyTimer
  | flashStatusPoll (o : FlashOutcome)
  | pmbusPoll (reading : List RegulatorReading)
  | pmbusAlert (rail : Rail) (status : U16)
  | pmbusRetry (sdaHigh : Bool)
  | busLend
  | busTakeBack (sdaHigh : Bool)
  | i2cRecovery (bus : I2cBus) (round : I2cRound)
  | i2cRecoveryRoundWait (bus : I2cBus) (round : I2cRound)
  | moduleBusRetry (round : I2cRound)
  | moduleInserted (n : LinkId)
  | moduleRemoved (n : LinkId)
  | moduleRead (n : LinkId) (bytes : List Byte)
  -- power and ageing
  | transitionComplete
  | transitionDeadline
  | transitionReverted
  | returningCommandSettle (mv : Nat)
  | chainRetry
  | canaryMeasure (d : DomainId) (stressed : Nat) (twin : Nat)
  | vaultRetentionMeasure (sliceTimesUs : List Nat)
  | ageingRecord (meanTenths : Int) (meanMv : Nat) (writeOk : List Bool)
  -- start-up, resets and test
  | powerOnReset
  | powerUp (o : PowerUpOutcome)
  | stockTrainingComplete (found : List ChannelFinding)
  | stockWipeComplete
  | pcieCrsEnd
  | firmwareStart
  | dictionaryReady (flash : FlashFinding) (h : HalfOutcome) (h2 : HalfOutcome)
  | linksReleased
  | mainPowerLoss
  | vstbyLoss
  | packageReset
  | gafferWatchdogExpiry (within60s : Bool)
  | gafferReset
  | tapInstruction (tap : TapInstr)
  | railExcursion (rail : Rail) (mv : Int) (longerThan1ms : Bool)
  | linkReferenceReturn (e : EdgeDie)
  | equalisationTrainingComplete (n : LinkId)
  | recalibrationComplete (q : QuadId) (pausedUs : Nat)
  | canErrorPassive (tec : Byte) (rec : Byte)
  | activeBitRateSwitchFrame
  | fieldViolationFrame (f : CanFrame)
  | msiXTableWrite (f : FnId) (entry : U16) (dword : BitVec 2) (value : U32)
  | hostReadCompletion (req : Nat) (r : HostReadResult)
  | completionTimeout (req : Nat)
  | sysResetNRise
  | pmbusTransactionEnd (o : BusOutcome)
deriving DecidableEq, Repr

end Sys2Proof
end

