-- ==== Sys2Proof/Decode.lean ====
section
/-!
DEFINITION. The fields of a control-processor instruction (R222, R223) and which row of the command table an instruction
word spells; decodeTableWord, for the rows of the table that give bits: no row gives any.
-/
namespace Sys2Proof

/-! ### Fields (R222, table Instruction formats) -/

/-- Class, bits [31:27]. -/
def wCls (w : U32) : Nat := w.toNat / 2 ^ 27
/-- d of formats A, I and V, and a of formats B and E: bits [26:22]. -/
def wD (w : U32) : Nat := w.toNat / 2 ^ 22 % 32
/-- a of formats A, I and V, and b of formats B and E: bits [21:17]. -/
def wA (w : U32) : Nat := w.toNat / 2 ^ 17 % 32
/-- b of formats A and V: bits [16:12]. -/
def wB (w : U32) : Nat := w.toNat / 2 ^ 12 % 32
/-- c of format V: bits [11:7]. -/
def wC (w : U32) : Nat := w.toNat / 2 ^ 7 % 32
/-- Function of format A: bits [11:0]. -/
def wFnA (w : U32) : Nat := w.toNat % 2 ^ 12
/-- Function of format I: bits [16:15]. -/
def wFnI (w : U32) : Nat := w.toNat / 2 ^ 15 % 4
/-- Immediate of format I: bits [14:0], not yet extended. -/
def wImm (w : U32) : Nat := w.toNat % 2 ^ 15
/-- Condition of format B: bits [16:14]. -/
def wCond (w : U32) : Nat := w.toNat / 2 ^ 14 % 8
/-- Offset of format B in words: bits [13:0], not yet extended. -/
def wOff (w : U32) : Nat := w.toNat % 2 ^ 14
/-- Function of format V: bits [6:0]. -/
def wFnV (w : U32) : Nat := w.toNat % 2 ^ 7
/-- Function of format E: bits [16:8]. -/
def wFnE (w : U32) : Nat := w.toNat / 2 ^ 8 % 2 ^ 9
/-- Tag of format E: bits [7:0]. -/
def wTag (w : U32) : Nat := w.toNat % 2 ^ 8

/-- The instructions of R222 to R224, R302 as the table of commands separates them. The vector arithmetic functions 0x00 to
0x0E are not numbered one by one (R224), and what a queued descriptor asks of the arrays or the DMA mover stands in memory:
those rows share one spelling. -/
inductive Spelling where
  | integer (f : Nat)
  | immediate (f : Nat)
  | load (width : Nat)
  | store (width : Nat)
  | branch (cond : Nat)
  | jump
  | arrGo
  | arrWait
  | vectorArith
  | vectorSelect
  | vectorFn (f : Nat)
  | vectorReduce (f : Nat)
  | vectorLoadStore (f : Nat)
  | softmax
  | message (f : Nat)
  | dmaGo
  | dmaWait
  | rngGen
  | rngVfill
  | hud
  | hudLocal
  | atomic (op width : Nat)
  | nop
  | beats
  | fault
  | illegal
deriving DecidableEq, Repr

/-- What an instruction word spells (R222 to R224, R302); a word that no table lists raises the illegal-instruction fault
(R223). -/
def spell (w : U32) : Spelling :=
  match wCls w with
  | 0x00 => if wFnA w < 16 then .integer (wFnA w) else .illegal
  | 0x01 => .immediate (wFnI w)
  | 0x02 => .load (2 ^ wFnI w)
  | 0x03 => .store (2 ^ wFnI w)
  | 0x04 => if wCond w < 6 then .branch (wCond w) else .illegal
  | 0x05 => if wFnI w = 0 then .jump else .illegal
  | 0x08 => if wFnE w = 1 then .arrGo else if wFnE w = 2 then .arrWait else .illegal
  | 0x09 =>
    let f := wFnV w
    if f < 0x0F then .vectorArith
    else if f = 0x0F then .vectorSelect
    else if f < 0x18 then .vectorFn f
    else if f = 0x20 ∨ f = 0x21 then .vectorReduce f
    else if 0x30 ≤ f ∧ f < 0x40 then .vectorLoadStore f
    else if f = 0x40 then .softmax else .illegal
  | 0x0A => if 1 ≤ wFnE w ∧ wFnE w ≤ 5 then .message (wFnE w) else .illegal
  | 0x0B => if wFnE w = 1 then .dmaGo else if wFnE w = 2 then .dmaWait else .illegal
  | 0x0C => if wFnA w % 16 = 1 then .rngGen else if wFnA w % 16 = 2 then .rngVfill else .illegal
  | 0x0D => if wFnA w = 1 then .hud else if wFnA w = 2 then .hudLocal else .illegal
  | 0x0E =>
    let op := wFnA w % 16
    let wide := wFnA w / 16 % 2
    if op < 0xB then .atomic op (4 * (wide + 1))
    else if op = 0xB then (if wide = 0 then .atomic op 4 else .illegal)
    else if op ≤ 0xD then (if wide = 1 then .atomic op 8 else .illegal)
    else .illegal
  | 0x0F => if wFnA w = 0 then .nop else if wFnA w = 1 then .beats else if wFnA w = 2 then .fault else .illegal
  | _ => .illegal

/-- The command that a word of the command table's bits spells. No row of spec/opcode_table.json gives a field, so no word
spells a command. -/
def decodeTableWord (_nbits _w : Nat) : Option Instr := none

end Sys2Proof
end

