-- ==== Sys2Proof/Config.lean ====
section
/-!
DEFINITION. What a part fixes and what the manual leaves open. Every constant here is opaque: it has no body, so nothing
proved about the model rests on a value of it. notes/assumptions/ says of each why it is open.
-/
namespace Sys2Proof.Config

/-- The n-th free value of a run, as a number: State.freeCount picks n and advances (log entry 2). -/
opaque free : Nat → Nat

/-- The ordering code of this package: true for XL6-L (R23, 0x1001, fixed per part). -/
opaque longLife : Bool
/-- 0x1002, die steppings of this part (R150). -/
opaque steppings : U32
/-- 0x1003, the serial number's 16 characters as this part carries them (R150). -/
opaque serialByte : Nat → Byte
/-- 0x1031, version of the boot ROM of this part (R150). -/
opaque romVersion : U32
/-- The PCI-SIG vendor ID of Sarotte Systems (R698), which the manual does not give as a number. -/
opaque vendorId : U16
/-- The JEP106 code of Sarotte Systems in the IDCODE (R891), which the manual does not give as a number. -/
opaque jep106 : BitVec 11
/-- The factory canary ratio of a domain at the baseline of 650, 750 or 850 mV, in parts per 2^32 (R840, held in fuses). -/
opaque canaryBaseline : Nat → Nat → Nat

/-- The 16-bit CRC of a bridge flit over its 64 bytes (R39), whose polynomial the manual does not give (log entry 103). -/
opaque bridgeCrc : List Byte → U16
/-- The spine segment that holds the router of a core (R66), which the manual does not lay out (log entry 103). -/
opaque spineSegment : Nat → Nat

/-- What the package's own engines take from a byte that cannot be corrected, by free-value count and key (log entry 110). -/
opaque badByte : Nat → Nat → Byte

/-- The fresh challenge of the n-th read of 0xA020 (R889): byte i of it. -/
opaque challengeByte : Nat → Nat → Byte

/-- The word a vector compare writes to a lane whose predicate holds, or does not (R929 gives the predicate, no rule gives
the word). -/
opaque compareWord : Bool → U32
/-- Whether a lane of v[c] selects v[a] in a vector select (R224 says lanes are selected by v[c], not by which values). -/
opaque selects : U32 → Bool

/-- Which way package power rounds from µW to mW in 0x2002 (R810), which the manual does not state. -/
opaque roundPower : Nat → Nat
/-- Whether a vault retention margin that is no whole percent rounds up in 0x2060.05 (R842), which the manual does not
state: by the normalised time in µs. -/
opaque marginUp : Nat → Bool
/-- The weight w of one operating hour in units of 0.01 h (R847), a real number whose rounding the manual does not state:
mean temperature in tenths of °C and mean mV. -/
opaque hourWeight : Int → Nat → Nat

/-- Where the manual has a source write a keeper's generation without saying how it learns the keeper's capacity and lent
size (R583): the stock capacity of keeper k in GiB. -/
opaque keeperCapacity : Nat → BitVec 17
/-- The size that keeper k lends, in units of 2 MiB (R583). -/
opaque keeperLent : Nat → BitVec 26
end Sys2Proof.Config
end

