-- ==== Sys2Proof/Machine/Bits.lean ====
section
/-!
DEFINITION. Bytes and bit fields: little-endian values (R19), fields of records, and the three checks the manual uses,
CRC-32 of IEEE 802.3 (R120), CRC-32C (R625) and CRC-8 (R617, R765).
-/
namespace Sys2Proof.Machine

/-- The low n bytes of v, least significant first (R19). -/
def leBytes : Nat → Nat → List Byte
  | 0, _ => []
  | n + 1, v => BitVec.ofNat 8 v :: leBytes n (v / 256)

/-- The number that a little-endian byte list spells (R19). -/
def leNat : List Byte → Nat
  | [] => 0
  | b :: bs => b.toNat + 256 * leNat bs

/-- The n bytes of a record that start at an offset. -/
def slice (l : List Byte) (off n : Nat) : List Byte := (l.drop off).take n

/-- The little-endian field of n bytes at an offset of a record; bytes beyond the record read zero. -/
def fieldAt (l : List Byte) (off n : Nat) : Nat := leNat (slice l off n)

/-- A record with the bytes v put at an offset; the record's length stays. -/
def putAt (l : List Byte) (off : Nat) (v : List Byte) : List Byte :=
  l.take off ++ (v ++ l.drop (off + v.length)).take (l.length - off)

/-- n zero bytes. -/
def zeros (n : Nat) : List Byte := List.replicate n 0

/-- A list cut or filled with zero bytes to the length n. -/
def fit (n : Nat) (l : List Byte) : List Byte := l.take n ++ zeros (n - l.length)

/-- Bits [hi:lo] of a number. -/
def bitsOf (v hi lo : Nat) : Nat := v / 2 ^ lo % 2 ^ (hi - lo + 1)

/-- A Bool as the number 0 or 1. -/
def b2n (b : Bool) : Nat := if b then 1 else 0

/-- A Nat with bit i set, or cleared. -/
def withBit (v i : Nat) (b : Bool) : Nat :=
  if v.testBit i then (if b then v else v - 2 ^ i) else (if b then v + 2 ^ i else v)

/-- n rounded up to a multiple of k. -/
def roundUp (n k : Nat) : Nat := (n + k - 1) / k * k

/-- One shift of a reflected 32-bit CRC. -/
def crcShift (poly : Nat) (c : Nat) : Nat := if c % 2 = 1 then (c / 2) ^^^ poly else c / 2

/-- Eight shifts of a reflected 32-bit CRC after one byte. -/
def crcByte (poly : Nat) (c : Nat) (b : Byte) : Nat :=
  let f := crcShift poly
  f (f (f (f (f (f (f (f (c ^^^ b.toNat))))))))

/-- A reflected CRC of 32 bits with initial value and final exclusive-or of all ones. -/
def crcReflected (poly : Nat) (l : List Byte) : Nat := (l.foldl (crcByte poly) 0xFFFFFFFF) ^^^ 0xFFFFFFFF

/-- CRC-32 of IEEE 802.3 (R120). -/
def crc32 (l : List Byte) : Nat := crcReflected 0xEDB88320 l

/-- CRC-32C: polynomial 0x1EDC_6F41, reflected (R625). -/
def crc32c (l : List Byte) : Nat := crcReflected 0x82F63B78 l

/-- One shift of the CRC-8 with polynomial 0x07. -/
def crc8Shift (c : Nat) : Nat := if 128 ≤ c then (c * 2 % 256) ^^^ 7 else c * 2

/-- One byte of the CRC-8, most significant bit first. -/
def crc8Byte (c : Nat) (b : Byte) : Nat :=
  let f := crc8Shift
  f (f (f (f (f (f (f (f (c ^^^ b.toNat))))))))

/-- CRC-8 with polynomial 0x07 and initial value 0 over bytes (R617, R765). -/
def crc8 (l : List Byte) : Nat := l.foldl crc8Byte 0

/-- Position of the highest set bit of a positive number; 0 for 0. -/
def log2 (v : Nat) : Nat := v.log2

/-- The first element of a list of numbers that satisfies p, as its value. -/
def firstSome {α β : Type} (f : α → Option β) : List α → Option β
  | [] => none
  | x :: xs => match f x with
    | some y => some y
    | none => firstSome f xs

/-- Replace the element at an index of a list. -/
def setAt {α : Type} (l : List α) (i : Nat) (v : α) : List α := l.set i v

end Sys2Proof.Machine
end

