-- ==== Sys2Proof/Machine/Crypto.lean ====
section
/-!
DEFINITION. SHA-384 of FIPS 180-4 and ECDSA verification over P-384 of FIPS 186-5, which the manual takes by name from those
standards (20_startup_lifecycle.md R884, R885, R889; log entry 11). Every intermediate number is evaluated before it is used twice.
-/
namespace Sys2Proof.Machine

/-- A number handed on evaluated. -/
def forced {α : Type} (n : Nat) (f : Nat → α) : α :=
  match n with
  | 0 => f 0
  | m + 1 => f (m + 1)

/-- The number that a byte list spells, most significant byte first (R883). -/
def beNat (l : List Byte) : Nat := l.foldl (fun n b => n * 256 + b.toNat) 0

/-- The low n bytes of a number, most significant first. -/
def beBytes (n v : Nat) : List Byte := (leBytes n v).reverse

/-! ### SHA-384 (FIPS 180-4) -/

/-- A 64-bit word rotated right. -/
def rotr64 (n x : Nat) : Nat := (x >>> n ||| x <<< (64 - n)) % 2 ^ 64

/-- The complement of a 64-bit word. -/
def not64 (x : Nat) : Nat := 2 ^ 64 - 1 - x

/-- The functions of SHA-512: choice, majority, and the four sums. -/
def shaCh (x y z : Nat) : Nat := (x &&& y) ^^^ (not64 x &&& z)
def shaMaj (x y z : Nat) : Nat := (x &&& y) ^^^ (x &&& z) ^^^ (y &&& z)
def shaSum0 (x : Nat) : Nat := rotr64 28 x ^^^ rotr64 34 x ^^^ rotr64 39 x
def shaSum1 (x : Nat) : Nat := rotr64 14 x ^^^ rotr64 18 x ^^^ rotr64 41 x
def shaSig0 (x : Nat) : Nat := rotr64 1 x ^^^ rotr64 8 x ^^^ x >>> 7
def shaSig1 (x : Nat) : Nat := rotr64 19 x ^^^ rotr64 61 x ^^^ x >>> 6

/-- Round constants 0 to 15. -/
def shaK0 : List Nat :=
  [0x428a2f98d728ae22, 0x7137449123ef65cd, 0xb5c0fbcfec4d3b2f, 0xe9b5dba58189dbbc,
    0x3956c25bf348b538, 0x59f111f1b605d019, 0x923f82a4af194f9b, 0xab1c5ed5da6d8118,
    0xd807aa98a3030242, 0x12835b0145706fbe, 0x243185be4ee4b28c, 0x550c7dc3d5ffb4e2,
    0x72be5d74f27b896f, 0x80deb1fe3b1696b1, 0x9bdc06a725c71235, 0xc19bf174cf692694]
/-- Round constants 16 to 31. -/
def shaK1 : List Nat :=
  [0xe49b69c19ef14ad2, 0xefbe4786384f25e3, 0x0fc19dc68b8cd5b5, 0x240ca1cc77ac9c65,
    0x2de92c6f592b0275, 0x4a7484aa6ea6e483, 0x5cb0a9dcbd41fbd4, 0x76f988da831153b5,
    0x983e5152ee66dfab, 0xa831c66d2db43210, 0xb00327c898fb213f, 0xbf597fc7beef0ee4,
    0xc6e00bf33da88fc2, 0xd5a79147930aa725, 0x06ca6351e003826f, 0x142929670a0e6e70]
/-- Round constants 32 to 47. -/
def shaK2 : List Nat :=
  [0x27b70a8546d22ffc, 0x2e1b21385c26c926, 0x4d2c6dfc5ac42aed, 0x53380d139d95b3df,
    0x650a73548baf63de, 0x766a0abb3c77b2a8, 0x81c2c92e47edaee6, 0x92722c851482353b,
    0xa2bfe8a14cf10364, 0xa81a664bbc423001, 0xc24b8b70d0f89791, 0xc76c51a30654be30,
    0xd192e819d6ef5218, 0xd69906245565a910, 0xf40e35855771202a, 0x106aa07032bbd1b8]
/-- Round constants 48 to 63. -/
def shaK3 : List Nat :=
  [0x19a4c116b8d2d0c8, 0x1e376c085141ab53, 0x2748774cdf8eeb99, 0x34b0bcb5e19b48a8,
    0x391c0cb3c5c95a63, 0x4ed8aa4ae3418acb, 0x5b9cca4f7763e373, 0x682e6ff3d6b2b8a3,
    0x748f82ee5defb2fc, 0x78a5636f43172f60, 0x84c87814a1f0ab72, 0x8cc702081a6439ec,
    0x90befffa23631e28, 0xa4506cebde82bde9, 0xbef9a3f7b2c67915, 0xc67178f2e372532b]
/-- Round constants 64 to 79. -/
def shaK4 : List Nat :=
  [0xca273eceea26619c, 0xd186b8c721c0c207, 0xeada7dd6cde0eb1e, 0xf57d4f7fee6ed178,
    0x06f067aa72176fba, 0x0a637dc5a2c898a6, 0x113f9804bef90dae, 0x1b710b35131c471b,
    0x28db77f523047d84, 0x32caab7b40c72493, 0x3c9ebe0a15c9bebc, 0x431d67c49c100d4c,
    0x4cc5d4becb3e42b6, 0x597f299cfc657e2a, 0x5fcb6fab3ad6faec, 0x6c44198c4a475817]

/-- The 80 round constants. -/
def shaK : List Nat := shaK0 ++ shaK1 ++ shaK2 ++ shaK3 ++ shaK4

/-- The initial hash value of SHA-384. -/
def sha384Init : List Nat :=
  [0xcbbb9d5dc1059ed8, 0x629a292a367cd507, 0x9159015a3070dd17, 0x152fecd8f70e5939,
    0x67332667ffc00b31, 0x8eb44a8768581511, 0xdb0c2e0d64f98fa7, 0x47b5481dbefa4fa4]

/-- The rounds of one block: the constants left, the next sixteen words of the message schedule, and the working variables. -/
def shaRounds : List Nat → List Nat → Nat → Nat → Nat → Nat → Nat → Nat → Nat → Nat → List Nat
  | [], _, a, b, c, d, e, f, g, h => [a, b, c, d, e, f, g, h]
  | k :: ks, w, a, b, c, d, e, f, g, h =>
    forced (h + shaSum1 e + shaCh e f g + k + w.getD 0 0) fun t =>
    forced ((t + shaSum0 a + shaMaj a b c) % 2 ^ 64) fun a' =>
    forced ((d + t) % 2 ^ 64) fun e' =>
    forced ((shaSig1 (w.getD 14 0) + w.getD 9 0 + shaSig0 (w.getD 1 0) + w.getD 0 0) % 2 ^ 64) fun x =>
      shaRounds ks (w.drop 1 ++ [x]) a' a b c e' e f g

/-- The hash value after one block. -/
def shaBlock (hv : List Nat) (block : List Byte) : List Nat :=
  let w := (List.range 16).map (fun i => beNat (slice block (8 * i) 8))
  let r := shaRounds shaK w (hv.getD 0 0) (hv.getD 1 0) (hv.getD 2 0) (hv.getD 3 0) (hv.getD 4 0) (hv.getD 5 0) (hv.getD 6 0)
    (hv.getD 7 0)
  List.zipWith (fun x y => (x + y) % 2 ^ 64) hv r

/-- The padded message: a one bit, zero bits, and the length in bits, in whole blocks of 128 bytes. -/
def shaPad (l : List Byte) : List Byte :=
  l ++ [0x80] ++ zeros ((111 + 128 - l.length % 128) % 128) ++ beBytes 16 (8 * l.length)

/-- The blocks of a padded message, one after the other. -/
def shaBlocks : Nat → List Byte → List Nat → List Nat
  | 0, _, hv => hv
  | n + 1, l, hv => shaBlocks n (l.drop 128) (shaBlock hv (l.take 128))

/-- SHA-384 (R884, R885, R889). -/
def sha384 (l : List Byte) : List Byte :=
  let p := shaPad l
  ((shaBlocks (p.length / 128) p sha384Init).take 6).flatMap (beBytes 8)

/-! ### P-384 and ECDSA (FIPS 186-5) -/

/-- The field prime, the group order, the coefficient b and the base point of P-384. -/
def p384 : Nat := 2 ^ 384 - 2 ^ 128 - 2 ^ 96 + 2 ^ 32 - 1
def n384 : Nat := 0xffffffffffffffffffffffffffffffffffffffffffffffffc7634d81f4372ddf581a0db248b0a77aecec196accc52973
def b384 : Nat := 0xb3312fa7e23ee7e4988e056be3f82d19181d9c6efe8141120314088f5013875ac656398d8a2ed19d2a85c8edd3ec2aef
def gx384 : Nat := 0xaa87ca22be8b05378eb1c71ef320ad746e1d3b628ba79b9859f741e082542a385502f25dbf55296c3a545e3872760ab7
def gy384 : Nat := 0x3617de4a96262c6f5d9e98bf9292dc29f8f41dbd289a147ce9da3113b5f0b8c00a60b1ce1d7e819d7a431d7c90ea0e5f

/-- Differences and powers modulo m; the power takes the low bits of its exponent, most significant first. -/
def subMod (m a b : Nat) : Nat := (a + m - b) % m
def powMod (m a e : Nat) : Nat → Nat → Nat
  | 0, acc => acc
  | i + 1, acc =>
    forced (acc * acc % m) fun q =>
    forced (if e.testBit i then q * a % m else q) fun q => powMod m a e i q

/-- The inverse modulo a prime of 384 bits. -/
def invMod (m a : Nat) : Nat := powMod m a (m - 2) 384 1

/-- A point in Jacobian coordinates: x is X / Z², y is Y / Z³; Z is 0 for the point at infinity. -/
structure Jacobian where
  x : Nat
  y : Nat
  z : Nat
deriving DecidableEq, Repr

/-- A point handed on evaluated. -/
def forcedPoint {α : Type} (p : Jacobian) (f : Jacobian → α) : α :=
  match p with
  | ⟨x, y, z⟩ => forced x fun x => forced y fun y => forced z fun z => f ⟨x, y, z⟩

/-- A point doubled. -/
def pointDouble (p : Jacobian) : Jacobian :=
  if p.z = 0 then p
  else
    forced (p.z * p.z % p384) fun d =>
    forced (p.y * p.y % p384) fun g =>
    forced (p.x * g % p384) fun b =>
    forced (3 * subMod p384 p.x d * (p.x + d) % p384) fun a =>
    forced (subMod p384 (a * a % p384) (8 * b % p384)) fun x =>
    forced (subMod p384 (a * subMod p384 (4 * b % p384) x % p384) (8 * g * g % p384)) fun y =>
    forced (2 * p.y * p.z % p384) fun z => ⟨x, y, z⟩

/-- The sum of two points. -/
def pointAdd (p q : Jacobian) : Jacobian :=
  if p.z = 0 then q
  else if q.z = 0 then p
  else
    forced (p.z * p.z % p384) fun zp =>
    forced (q.z * q.z % p384) fun zq =>
    forced (p.x * zq % p384) fun u =>
    forced (p.y * (zq * q.z % p384) % p384) fun v =>
    forced (subMod p384 (q.x * zp % p384) u) fun h =>
    forced (subMod p384 (q.y * (zp * p.z % p384) % p384) v) fun r =>
    if h = 0 then (if r = 0 then pointDouble p else ⟨1, 1, 0⟩)
    else
      forced (h * h % p384) fun h2 =>
      forced (h * h2 % p384) fun h3 =>
      forced (u * h2 % p384) fun w =>
      forced (subMod p384 (r * r % p384) ((h3 + 2 * w) % p384)) fun x =>
      forced (subMod p384 (r * subMod p384 w x % p384) (v * h3 % p384)) fun y =>
      forced (h * p.z * q.z % p384) fun z => ⟨x, y, z⟩

/-- a times P plus b times Q, over the low n bits of a and b, most significant first, from an accumulator on. -/
def mulAdd (a b : Nat) (p q : Jacobian) : Nat → Jacobian → Jacobian
  | 0, acc => acc
  | i + 1, acc =>
    forcedPoint (pointDouble acc) fun r =>
    forcedPoint (if a.testBit i then pointAdd r p else r) fun r =>
    forcedPoint (if b.testBit i then pointAdd r q else r) fun r => mulAdd a b p q i r

/-- An affine point of the curve that is a public key. -/
def onCurve (x y : Nat) : Bool :=
  decide (x < p384 ∧ y < p384) && y * y % p384 == (x * x * x + (p384 - 3) * x + b384) % p384

/-- ECDSA P-384 verification (R884, R889): an uncompressed public key of 97 bytes, a digest of 48 and a signature of 96. -/
def ecdsaVerify (key digest sig : List Byte) : Bool :=
  forced (beNat (slice key 1 48)) fun x =>
  forced (beNat (slice key 49 48)) fun y =>
  forced (beNat (slice sig 0 48)) fun r =>
  forced (beNat (slice sig 48 48)) fun s =>
  if key.length ≠ 97 ∨ key.head? ≠ some 0x04 ∨ sig.length ≠ 96 ∨ onCurve x y = false ∨ r = 0 ∨ n384 ≤ r ∨ s = 0 ∨ n384 ≤ s then false
  else
    forced (invMod n384 s) fun w =>
    forced (beNat digest % n384 * w % n384) fun a =>
    forced (r * w % n384) fun b =>
    forcedPoint (mulAdd a b ⟨gx384, gy384, 1⟩ ⟨x, y, 1⟩ 384 ⟨1, 1, 0⟩) fun t =>
    if t.z = 0 then false
    else
      forced (invMod p384 t.z) fun i =>
      t.x * i % p384 * i % p384 % n384 == r

end Sys2Proof.Machine
end

