-- ==== Sys2Proof/Machine/State.lean ====
section
/-!
DEFINITION. The state of one Loeth package as plain data, and State.reset: the machine right after VSTBY has entered its
range (a power-on reset, R867) with PWR_OK low. A sparse table (Tbl) holds what differs from the value at reset; memory is a
list of cells with rising addresses. Each field's comment names what the manual calls it, the rule, its width and its value
at reset.
-/
namespace Sys2Proof.Machine

/-- A sparse table: keys strictly rising; a key that is not listed holds the default that its accessor names. -/
abbrev Tbl (α : Type) := List (Nat × α)

/-! ### The object dictionary -/

/-- The holder tag of a dictionary access (R92): path (with function, queue pair or node) and tenant context. -/
structure Holder where
  path : DictPath
  tenant : Tenant
deriving DecidableEq, Repr

/-- A record's stage (R90, R91): its record and tenant instance, its holder and the staged fields by subindex. -/
structure Stage where
  index : U16
  ten : Tenant
  holder : Holder
  fields : Tbl (List Byte)
deriving DecidableEq, Repr

/-- The claim of a piecewise STR or BLOB write (R99, R100). -/
structure Claim where
  index : U16
  sub : Byte
  tenant : Tenant
  holder : Holder
  bytes : List Byte
deriving DecidableEq, Repr

/-- An access response body (R103). -/
structure Response where
  opcode : Byte
  type : Byte
  index : U16
  sub : Byte
  count : Byte
  status : U16
  total : U32
  length : U16
  tag : U16
  data : List Byte
deriving DecidableEq, Repr

/-- Where the response of an access goes (R109, R113, R114, R115); none for an access given as a command of its own. -/
inductive Carrier where
  | direct
  | slot (win : WindowId) (n : Nat)
  | command (t : Tenant) (index : Nat)
  | spi
  | can (ident : BitVec 29)
deriving DecidableEq, Repr

/-- A reset-class value held as pending (R85): its bytes and whether it was journalled. -/
structure Pending where
  bytes : List Byte
  persistent : Bool
deriving DecidableEq, Repr

/-- One record of the journal (R120) as the flash holds it, with the flash offset it starts at: kind 0xD1 of an entry value or
0xC0 of a compaction commit, its fields, the CRC-32 and the seal that stand in it. Reserved bits are as R120 writes them. -/
structure JournalRec where
  offset : Nat
  kind : Byte
  type : Byte
  index : U16
  sub : Byte
  tombstone : Bool
  tenant : Tenant
  seq : Nat
  value : List Byte
  crc : U32
  sealWord : U32
deriving DecidableEq, Repr

/-- What an accepted write does once it takes effect (R85, R93): the entry or record and its tenant instance, the values by
subindex, whether it counts as a record's commit, and its flag [0]. -/
structure Effect where
  index : U16
  ten : Tenant
  holder : Holder
  record : Bool
  fields : Tbl (List Byte)
  volatile : Bool
deriving DecidableEq, Repr

/-- A persistent commit that waits until its journal record is sealed (R116): the record being written, what the commit does,
and its response. -/
structure Awaiting where
  rec' : JournalRec
  effect : Effect
  carrier : Carrier
  resp : Response
deriving DecidableEq, Repr

/-- One half of the journal (R117, R119): the 64 bytes of its header (none where the half is erased), its compaction commit
record (R936), its entry records oldest first and the offset within the half where appending goes on. -/
structure Half where
  header : List Byte
  commit : Option JournalRec
  recs : List JournalRec
  next : Nat
deriving DecidableEq, Repr

/-- The journal and its compaction (R116 to R131, R938). -/
structure Journal where
  /-- half A [03_dictionary.md R117; flash contents; reset: blank, DESIGN CHOICE] -/
  halfA : Half
  /-- half B [03_dictionary.md R117; flash contents; reset: blank, DESIGN CHOICE] -/
  halfB : Half
  /-- true when half B is authoritative, 0x1040.01 [03_dictionary.md R122; 1 bit; reset: half A] -/
  authB : Bool
  /-- compaction in progress, window status bit [1] [03_dictionary.md R126; 1 bit; reset: false] -/
  compacting : Bool
  /-- next journal sequence number [03_dictionary.md R120; 32 bits; reset: 1, DESIGN CHOICE 5] -/
  seq : Nat
  /-- consecutive abandoned compactions [03_dictionary.md R938; 0 to 4; reset: 0] -/
  abandoned : Nat
  /-- persistent commits are rejected with 0x000D [03_dictionary.md R123, R140, R938; 1 bit; reset: false] -/
  unwritable : Bool
  /-- consecutive failed blocks of the record being written [03_dictionary.md R140; 0 to 4; reset: 0] -/
  failedBlocks : Nat
deriving DecidableEq, Repr

/-- The dictionary: committed values, stages, claims, pending values and the journal. -/
structure Dict where
  /-- committed values of the writable entries, by entry key; unlisted is the entry's default [03_dictionary.md R83; per
  entry; reset: defaults of 04_dictionary_map.md] -/
  vals : Tbl (List Byte)
  /-- pending reset-class values [03_dictionary.md R85; per entry; reset: none] -/
  pend : Tbl Pending
  /-- commit counts of records, by entry key [03_dictionary.md R93; 8 bits each; reset: 0, DESIGN CHOICE 4] -/
  counts : Tbl Byte
  /-- latched counts 0xFE of the serving, reel and lateness records, by index [04_dictionary_map.md R147; 8 bits each;
  reset: 0, DESIGN CHOICE 4] -/
  latched : Tbl Byte
  /-- stages held [03_dictionary.md R91; one per record; reset: none] -/
  stages : List Stage
  /-- stages discarded for idleness whose holder has not written since (abort 0x0017) [03_dictionary.md R101; list; reset:
  none] -/
  expired : List (U16 × Tenant × Holder)
  /-- piecewise claims [03_dictionary.md R100; list; reset: none] -/
  claims : List Claim
  /-- response of the access executed last [03_dictionary.md R103; 16 bytes and data; reset: none] -/
  response : Option Response
  /-- the commit that waits for its seal [03_dictionary.md R116; option; reset: none] -/
  awaiting : Option Awaiting
  /-- accesses delivered behind it, oldest first, with their opcodes and carriers [03_dictionary.md R108; list; reset: none] -/
  queued : List (Byte × Access × Carrier)
  /-- the journal [03_dictionary.md R117; two halves; reset: blank] -/
  journal : Journal
deriving DecidableEq, Repr

/-! ### Events, readiness, life cycle -/

/-- An event record (R164). -/
structure EventRec where
  seq : U32
  time : U32
  code : U16
  source : U16
  detail : U32
deriving DecidableEq, Repr

/-- The event log 0xF001 with 0xF000 and the Gaffer's milliseconds. -/
structure EventLog where
  /-- 0xF000, sequence of the next event [04_dictionary_map.md R163, R166; 32 bits; reset: 1] -/
  next : U32
  /-- records by slot; an unlisted slot is all zero [04_dictionary_map.md R163; 4,096 × 16 bytes; reset: zero] -/
  recs : Tbl EventRec
  /-- Gaffer milliseconds since the standby rail came up [04_dictionary_map.md R164; 32 bits wrapping; reset: 0] -/
  ms : U32
deriving DecidableEq, Repr

/-- The fuses (R878, R887, R160). -/
structure Fuses where
  /-- burned life-cycle rows n [20_startup_lifecycle.md R878; 0 to 32; reset: 0, a BLANK part, DESIGN CHOICE 6] -/
  rows : Nat
  /-- the retire fuse [20_startup_lifecycle.md R878; 1 bit; reset: false, DESIGN CHOICE 6] -/
  retired : Bool
  /-- key digest 0xA010 once burned [04_dictionary_map.md R160; 48 bytes; reset: unburned] -/
  keyDigest : Option (List Byte)
  /-- rollback floor 0xA000.02 [20_startup_lifecycle.md R887; 32 bits; reset: 0, DESIGN CHOICE 6] -/
  floor : U32
  /-- fuse words burned for the floor [20_startup_lifecycle.md R887; 0 to 64; reset: 0, DESIGN CHOICE 6] -/
  floorWords : Nat
deriving DecidableEq, Repr

/-- A Gaffer image slot of the boot flash (table Image header): the 256 bytes before the payload, and the payload. -/
structure ImageSlot where
  header : List Byte
  payload : List Byte
deriving DecidableEq, Repr

/-- The Gaffer: boot, start-up block, security. -/
structure Gaffer where
  /-- firmware runs, bit [0] of 0x1021 [20_startup_lifecycle.md R860; 1 bit; reset: false] -/
  running : Bool
  /-- the ROM halted without a valid image [20_startup_lifecycle.md R886; 1 bit; reset: false] -/
  halted : Bool
  /-- the boot ROM is loading an image [20_startup_lifecycle.md R860; 1 bit; reset: false, step 1 comes with PWR_OK] -/
  loading : Bool
  /-- running slot 0xA000.01: true is slot B [04_dictionary_map.md R159; 1 bit; reset: slot A] -/
  slotB : Bool
  /-- image slot A [20_startup_lifecycle.md R885; flash contents; reset: a valid image of version 1, DESIGN CHOICE 7] -/
  imageA : ImageSlot
  /-- image slot B [20_startup_lifecycle.md R885; flash contents; reset: invalid, DESIGN CHOICE 7] -/
  imageB : ImageSlot
  /-- slot that a fallback found invalid, for event 0x2050 [20_startup_lifecycle.md R886; option; reset: none] -/
  fallback : Option Bool
  /-- start-up block: slot, stock cap, window; none when invalid [20_startup_lifecycle.md R859; record; reset: invalid] -/
  block : Option (Bool × Nat × Bool)
  /-- the block's values that the present start-up used [20_startup_lifecycle.md R859; record; reset: A, 8,533, true] -/
  used : Bool × Nat × Bool
  /-- readiness 0x1021 [04_dictionary_map.md R150; 32 bits; reset: 0] -/
  readiness : U32
  /-- dictionary ready 0x1020 [20_startup_lifecycle.md R860; 1 bit; reset: false] -/
  dictReady : Bool
  /-- reset or transition code 0x3040.01 [20_startup_lifecycle.md R867; 8 bits; reset: 0, DESIGN CHOICE 4] -/
  wipeKind : Byte
  /-- wiped tiers 0x3040.02 [20_startup_lifecycle.md R868; 8 bits; reset: 0, DESIGN CHOICE 4] -/
  wipedTiers : Byte
  /-- kind code of the reset whose start-up runs [20_startup_lifecycle.md R867; 8 bits; reset: 0x01] -/
  resetKind : Byte
  /-- start-up steps 5 and 7 done: dies released and vaults wiped [20_startup_lifecycle.md R860; 1 bit; reset: false] -/
  diesReleased : Bool
  /-- package reset held until SYS_RESET_N rises [20_startup_lifecycle.md R858; 1 bit; reset: false] -/
  inReset : Bool
  /-- the firmware's start follows a Gaffer reset: the fabric kept running [20_startup_lifecycle.md R872; 1 bit; reset: false] -/
  warm : Bool
  /-- number of challenges read, the freshness of 0xA020 [20_startup_lifecycle.md R889; count; reset: 0] -/
  challenges : Nat
  /-- the present challenge answers one write [20_startup_lifecycle.md R889; 1 bit; reset: false] -/
  challengeLive : Bool
  /-- debug unlocked 0x1012 [20_startup_lifecycle.md R890; 1 bit; reset: false] -/
  debug : Bool
deriving DecidableEq, Repr

/-- The package's input pins, and what is outside them. -/
structure Pins where
  /-- VSTBY is within its range [20_startup_lifecycle.md R940; 1 bit; reset: true] -/
  vstby : Bool
  /-- PWR_OK [20_startup_lifecycle.md R857; 1 bit; reset: low] -/
  pwrOk : Bool
  /-- SYS_RESET_N [20_startup_lifecycle.md R858; 1 bit; reset: high, its pull-up] -/
  sysResetN : Bool
  /-- PMB_REQ_N asserted [18_field_ports.md R784; 1 bit; reset: not asserted] -/
  pmbReq : Bool
  /-- CAN_STBY output [18_field_ports.md R759; 1 bit; reset: high] -/
  canStby : Bool
  /-- SPI_MISO is high impedance [18_field_ports.md R773; 1 bit; reset: true] -/
  misoHiZ : Bool
  /-- flash pins are high impedance for an external programmer [20_startup_lifecycle.md R886; 1 bit; reset: false] -/
  flashHiZ : Bool
  /-- STK0_RESET_N and STK1_RESET_N hold low [21_electrical_package.md R909; 1 bit; reset: true] -/
  stkResetLow : Bool
  /-- the boot ROM asserts FAULT_N: no valid image [18_field_ports.md R746; 1 bit; reset: false] -/
  romFault : Bool
deriving DecidableEq, Repr

/-! ### Power -/

/-- A domain's power state, codes of 0x2010+d.02 (R151). -/
inductive PState where
  | on | retention | off | staging
deriving DecidableEq, Repr

/-- A compute domain (R827 to R838, R854). -/
structure Domain where
  /-- power state request 0x2010+d.01 [19_power_health.md R828; 0 to 2; reset: 0 (R835)] -/
  request : Nat
  /-- power state 0x2010+d.02 [19_power_health.md R828; 2 bits; reset: off] -/
  state : PState
  /-- the state it stages from: true is off [19_power_health.md R828; 1 bit; reset: off] -/
  fromOff : Bool
  /-- header stages switched [19_power_health.md R829; 0 to 8; reset: 0] -/
  stage : Nat
  /-- draining toward retention or off [07_memory_model.md R314; option; reset: none] -/
  drain : Option PState
  /-- droop cause present [19_power_health.md R836; 1 bit; reset: false] -/
  droop : Bool
  /-- temperature cause present [19_power_health.md R836; 1 bit; reset: false] -/
  hot : Bool
  /-- domain current 0x2010+d.03 in mA [19_power_health.md R808; 32 bits; reset: 0, DESIGN CHOICE 4] -/
  currentMa : Nat
  /-- measured beat rate 0x2010+d.04 [02_package_fabric.md R55; 32 bits; reset: 0, DESIGN CHOICE 4] -/
  beatRate : Nat
  /-- domain temperature 0x2010+d.05 in tenths of °C [19_power_health.md R854; F32 when read; reset: 0, DESIGN CHOICE 4] -/
  tenths : Int
  /-- domain energy 0x2010+d.06 in mJ [19_power_health.md R809; 64 bits; reset: 0] -/
  energy : Nat
  /-- energy remainder carried, in nJ [19_power_health.md R809; reset: 0] -/
  energyRem : Nat
  /-- canary drift of 0x2060.04 in ppm [19_power_health.md R840; I32; reset: 0, DESIGN CHOICE 4] -/
  drift : Int
  /-- Gaffer second in which 0x2012 was last logged [19_power_health.md R837; option; reset: none] -/
  droopLogged : Option Nat
deriving DecidableEq, Repr

/-- A board regulator and its telemetry. -/
structure Regulator where
  /-- the rail is on [20_startup_lifecycle.md R860; 1 bit; reset: off (R901)] -/
  on : Bool
  /-- last stable commanded value in mV [19_power_health.md R812; 16 bits; reset: 0] -/
  stable : Nat
  /-- READ_VOUT of the last poll in mV [18_field_ports.md R782; reset: 0, DESIGN CHOICE 4] -/
  vout : Nat
  /-- READ_IOUT of the last poll in mA [18_field_ports.md R782; reset: 0, DESIGN CHOICE 4] -/
  iout : Nat
  /-- STATUS_WORD of the last poll [18_field_ports.md R782; 16 bits; reset: 0, DESIGN CHOICE 4] -/
  status : U16
deriving DecidableEq, Repr

/-- What a transition is for (R811, R821): a step of the VCORE_F chain, for a commit of 0x2000 or else for the governor; a step
of a quad. -/
inductive TransKind where
  | vcore (commit : Bool)
  | quad (q : QuadId)
deriving DecidableEq, Repr

/-- A regulator transition in progress (R812): the rail's last stable value and target; whether it has a VOUT_COMMAND, and
whether that has reached STOP; whether the returning command is being sent, or was sent; whether the rail is left to settle by
itself (R818, R939). -/
structure Transition where
  kind : TransKind
  fromMv : Nat
  toMv : Nat
  command : Bool
  stopSeen : Bool
  returning : Bool
  lost : Bool
deriving DecidableEq, Repr

/-- The VCORE_F chain, the governor and the rails. -/
structure Power where
  /-- the eight regulators by rail number; unlisted is off [19_power_health.md R800; records; reset: off] -/
  regs : Tbl Regulator
  /-- transition in progress on the one bus [19_power_health.md R813; option; reset: none] -/
  trans : Option Transition
  /-- quad rail steps that wait, in the order required [19_power_health.md R813; list; reset: none] -/
  waiting : List QuadId
  /-- the chain runs toward the effective setpoint [19_power_health.md R811; 1 bit; reset: false] -/
  chain : Bool
  /-- the chain's present run is for a commit of 0x2000 not yet reached [19_power_health.md R814; 1 bit; reset: false] -/
  committed : Bool
  /-- the chain reverted once and runs again after 100 ms [19_power_health.md R815; 1 bit; reset: false] -/
  retry : Bool
  /-- the repeated run of the chain is in progress [19_power_health.md R815; 1 bit; reset: false] -/
  second : Bool
  /-- governor cap in mV [19_power_health.md R823; 620 to 880; reset: 880] -/
  cap : Nat
  /-- consecutive windows that allow a raise [19_power_health.md R823; count; reset: 0] -/
  goodWindows : Nat
  /-- VCORE_F current of the last ten windows in mA, newest first [19_power_health.md R823; list; reset: none] -/
  currents : List Nat
  /-- package power 0x2002 in mW [19_power_health.md R810; 32 bits; reset: 0, DESIGN CHOICE 4] -/
  packageMw : Nat
  /-- spine currents of F0 and F1 in mA [19_power_health.md R808; reset: 0, DESIGN CHOICE 4] -/
  spineMa : List Nat
  /-- the second part of 0x2002 in µW, as of the last window outside voltage hold [19_power_health.md R810; reset: 0] -/
  otherUw : Nat
  /-- VCORE_F measured 0x2001 in mV [19_power_health.md R807; 16 bits; reset: 0, DESIGN CHOICE 4] -/
  vcoreMv : Nat
  /-- 0x2030.01 to .06 in mV [19_power_health.md R807; 6 × 16 bits; reset: 0, DESIGN CHOICE 4] -/
  railMv : List Nat
  /-- a commit of 0x2000 or a change of the cap fell within the transition in progress [19_power_health.md R816; 1 bit;
  reset: false] -/
  again : Bool
  /-- junction maximum 0x2020 in tenths of °C [04_dictionary_map.md R151; F32 when read; reset: 0, DESIGN CHOICE 4] -/
  junction : Int
  /-- 0x2020 is above the thermal alarm level [04_dictionary_map.md R151; 1 bit; reset: false] -/
  aboveAlarm : Bool
  /-- comparators that tripped while the Gaffer restarts, with the sense point in mV, newest first [20_startup_lifecycle.md R874;
  list; reset: none] -/
  heldTrips : List (DroopSite × Nat)
  /-- spine segments held on the retention supply [19_power_health.md R837; list of die and segment; reset: none] -/
  spineHeld : List (FieldDie × Nat)
  /-- a comparator of F0, of F1, has tripped and not cleared [19_power_health.md R836; 2 bits; reset: false] -/
  dieDroop : Bool × Bool
  /-- the compute domains [19_power_health.md R827; 16 records; reset: off, request 0] -/
  domains : Tbl Domain
  /-- voltage hold, 0x2050 [18_field_ports.md R790; 1 bit; reset: false] -/
  hold : Bool
deriving DecidableEq, Repr

/-- An ageing record (R846). -/
structure AgeRec where
  offset : Nat
  seq : Nat
  hours : Nat
  weighted : Nat
  worstDrift : Int
  margin : Nat
  journalMax : Nat
  eol : Nat
  eraseTotal : Nat
deriving DecidableEq, Repr

/-- Wear and the predicted end of life (R839 to R849, R856). -/
structure Ageing where
  /-- operating hours 0x2060.01 [19_power_health.md R847; 32 bits; reset: 0 (no valid record)] -/
  hours : Nat
  /-- weighted hours W in units of 0.01 h [19_power_health.md R847; 32 bits; reset: 0] -/
  weighted : Nat
  /-- vault retention margin 0x2060.05 in percent [19_power_health.md R842; 8 bits; reset: 0, DESIGN CHOICE 4] -/
  margin : Nat
  /-- erases of each boot-flash block since start-up, by block number [19_power_health.md R844; counts; reset: 0] -/
  erases : Tbl Nat
  /-- journal erase maximum and erase total that start-up took from the ageing store [19_power_health.md R846; counts; reset: 0] -/
  maxBase : Nat
  totalBase : Nat
  /-- predicted end of life 0x2060.03 [19_power_health.md R848; 32 bits; reset: 0, DESIGN CHOICE 4] -/
  eol : Nat
  /-- value last logged by 0x2013 [19_power_health.md R849; option; reset: none] -/
  loggedEol : Option Nat
  /-- 24-hour periods counted by the retention measurement, and that of the last 0x2014 [19_power_health.md R843; reset: 0] -/
  day : Nat
  loggedDay : Option Nat
  /-- records of the ageing store, oldest first [19_power_health.md R846; flash contents; reset: none] -/
  store : List AgeRec
  /-- sequence of the next ageing record [19_power_health.md R846; 32 bits; reset: 0, DESIGN CHOICE 5] -/
  seq : Nat
  /-- next slot of the ageing ring, block × 1,024 + slot [19_power_health.md R846; reset: 0] -/
  pos : Nat
deriving DecidableEq, Repr

/-! ### Fabric and memory -/

/-- One lane of a bridge channel: the flits of one direction and one class (R39, R46, R52). -/
structure Lane where
  /-- consecutive CRC mismatches of the flits sent, the first transmission's among them [02_package_fabric.md R69; count;
  reset: 0] -/
  fails : Nat
  /-- flits that the sending endpoint keeps until acknowledged, oldest first [02_package_fabric.md R39, R52; on an edge bridge
  up to 16; reset: none] -/
  buffer : List FabricFlit
  /-- flits that wait for room in the buffer, oldest first [02_package_fabric.md R52, R71; list; reset: none] -/
  behind : List FabricFlit
deriving DecidableEq, Repr

/-- One bridge channel (R39, R69 to R72). -/
structure Channel where
  /-- out of service until the next reset [02_package_fabric.md R69; 1 bit; reset: false] -/
  out : Bool
  /-- the four lanes, by direction × 2 + class [02_package_fabric.md R39, R46; 4 records; reset: empty] -/
  lanes : Tbl Lane
deriving DecidableEq, Repr

/-- The fabric (R39 to R74). -/
structure Fabric where
  /-- channels by bridge × 32 + channel; unlisted is in service and idle [02_package_fabric.md R31; records; reset: idle] -/
  channels : Tbl Channel
  /-- flits on the mesh with the router that each reaches next, oldest first [02_package_fabric.md R45; list; reset: none] -/
  transit : List (CoreId × FabricFlit)
  /-- flits sent so far by class and ends [02_package_fabric.md R47; list of counts; reset: 0] -/
  sent : List (FlitEnd × FlitEnd × Bool × Nat)
  /-- flits that have reached their ends, newest first [02_package_fabric.md R39, R48; list; reset: none] -/
  delivered : List FabricFlit
  /-- the link reference of E0, of E1, has stopped [02_package_fabric.md R71; 2 bits; reset: false] -/
  refStopped : Bool × Bool
  /-- words of mesh flits corrected [02_package_fabric.md R48; count; reset: 0] -/
  meshCorrected : Nat
  /-- refresh timebases calibrated, V0 and V1 [02_package_fabric.md R54; counts; reset: 0] -/
  calibrations : Nat × Nat
  /-- refresh periods of V0 and V1 in µs, 0x2022 and 0x2023 [02_package_fabric.md R63; 16 bits; reset: 2,000, DEDUCED 9] -/
  periods : Nat × Nat
  /-- refreshes issued [02_package_fabric.md R64; count; reset: 0] -/
  refreshes : Nat
  /-- words scrubbed slices, count [07_memory_model.md R286; count; reset: 0] -/
  scrubs : Nat
deriving DecidableEq, Repr

/-- A stock channel, 0x3020+c (R288 to R295). -/
structure StockChannel where
  /-- density in GiB, 0 absent [07_memory_model.md R288; 8 bits; reset: 0] -/
  density : Nat
  /-- state: 0 absent, 1 training, 2 in service, 3 failed [07_memory_model.md R290; 8 bits; reset: 0] -/
  state : Nat
  /-- rate trained in MT/s [07_memory_model.md R288; 16 bits; reset: 0] -/
  rate : Nat
  /-- failed while in service: still in the interleave [07_memory_model.md R295; 1 bit; reset: false] -/
  failedInService : Bool
deriving DecidableEq, Repr

/-- The ECC record of a tier, 0x3000 to 0x3002 (R277, R283, R291). -/
structure Ecc where
  corrected : Nat
  uncorrectable : Nat
  last : Nat
deriving DecidableEq, Repr

/-- The three memory tiers (R270 to R321). -/
structure Mem where
  /-- bytes of scratchpad, vault and stock by space × 2^47 + offset; unlisted reads zero (R319) [07_memory_model.md R270; up
  to 512 GiB + 34 GiB; reset: zero] -/
  cells : List Host.Cell
  /-- words with an error, by the key of their first byte; true is uncorrectable [07_memory_model.md R277, R283, R291; list;
  reset: none] -/
  bad : Tbl Bool
  /-- lease lists of the homes: keys of lease words with held = 1 [07_memory_model.md R310; list; reset: none] -/
  leases : List Nat
  /-- stock channels [07_memory_model.md R288; 16 records; reset: absent] -/
  stock : Tbl StockChannel
  /-- 0x3000, 0x3001, 0x3002 [04_dictionary_map.md R152; 64, 32 and 64 bits each; reset: 0] -/
  vaultEcc : Ecc
  stockEcc : Ecc
  scratchEcc : Ecc
deriving DecidableEq, Repr

/-! ### Cores -/

/-- A held message reservation (R206). -/
structure Resv where
  pkg : Pkg
  core : CoreId
  mailbox : BitVec 4
deriving DecidableEq, Repr

/-- A message (R208, R209): seq counts the sends of its sender to its mailbox, num those since the receiver's group started, which
its header shows (log entry 35). -/
structure Msg where
  pkg : Pkg
  core : CoreId
  tenant : Tenant
  userTag : U16
  crossed : Bool
  seq : U32
  num : U32
  payload : List Byte
deriving DecidableEq, Repr

/-- One mailbox: slots reserved by sender, its group where it is of this package, messages placed but not yet counted as arrived, arrived messages oldest first
(R205, R685). -/
structure Mailbox where
  reserved : List (Pkg × CoreId × Option GroupId × Tenant)
  placed : List Msg
  arrived : List Msg
deriving DecidableEq, Repr

/-- What a save keeps of a member's mailbox store, whose layout in the slot the manual does not give (R343; log entry 24):
its mailboxes and its sequence counts. -/
structure MailStore where
  boxes : Tbl Mailbox
  sendSeq : Tbl U32
  recvSeq : Tbl U32
  seqBase : Tbl U32
deriving DecidableEq, Repr

/-- A cached segment entry (R330): tenant-side space, package, base, length, physical base and rights. -/
structure Seg where
  flags : Byte
  space : Nat
  pkg : Nat
  base : Nat
  phys : Nat
  len : Nat
deriving DecidableEq, Repr

/-- An array product descriptor (R187). -/
structure ProductDesc where
  mode : Nat
  actFmt : Nat
  wFmt : Nat
  m : Nat
  n : Nat
  k : Nat
  flags : Nat
  line : Nat
  actAddr : Nat
  actStride : Nat
  wAddr : Nat
  wStride : Nat
  actScale : Nat
  wScale : Nat
  actScaleStride : Nat
  wScaleStride : Nat
  chain : Nat
deriving DecidableEq, Repr

/-- A stage record (R234). -/
structure StageRec where
  code : Nat
  fmt : Nat
  option : Nat
  a : Nat
  param : Nat
  b : Nat
deriving DecidableEq, Repr

/-- A stage chain, as copied at ARR.GO (R234, R236). -/
structure Chain where
  flags : Nat
  rowBase : Nat
  colBase : Nat
  kBase : Nat
  stream : Nat
  prologue : List StageRec
  epilogue : List StageRec
deriving DecidableEq, Repr

/-- An attention descriptor (R420). -/
structure AttnDesc where
  fmt : Nat
  d : Nat
  q : Nat
  g : Nat
  s : Nat
  list : Nat
  queries : Nat
  output : Nat
  stride : Nat
  bases : Nat
  pageStride : Nat
  kOff : Nat
  vOff : Nat
  scale : U32
  flags : U16
  lse : Nat
  parents : Nat
  staging : Nat
  firstPage : Nat
  pageCount : Nat
deriving DecidableEq, Repr

/-- A stream command (R401). -/
structure StreamCmd where
  cmd : Nat
  stream : Nat
  count : Nat
  addr : U64
  user : U64
  adapter : U16
  ring : Nat
  flags : Byte
deriving DecidableEq, Repr

/-- What an array queue entry does. -/
inductive ArrKind where
  | product (d : ProductDesc) (chain : Option Chain)
  | attention (d : AttnDesc)
  | stream (s : StreamCmd)
deriving DecidableEq, Repr

/-- One array queue entry (R186, R224): tag, descriptor offset and copy, and how far it has run: started; blocks of in-flight
chain work done; deferred sweep done; what its tile-sends are to write, by block and stage, as offset and bytes; tile-send
blocks sent, of how many; answers awaited; notify messages sent; tile-send stages that failed; the streams it reads; the chain
status word. -/
structure ArrCmd where
  tag : Byte
  off : Nat
  kind : ArrKind
  started : Bool
  block : Nat
  swept : Bool
  ready : List (Nat × Nat × Int × List Byte)
  sent : Nat
  sends : Nat
  acks : Nat
  notified : Bool
  failed : List Nat
  streams : List Nat
  status : Nat
deriving DecidableEq, Repr

/-- A DMA queue entry (R335): tag, descriptor offset, queue slot, descriptor fields, the byte it started at, the byte at
which it goes on, and the parts (position and length) whose answer from another package or from host memory is awaited. -/
structure DmaCmd where
  tag : Byte
  off : Nat
  slot : Nat
  fill : Bool
  rows : Nat
  src : U64
  dst : U64
  rowLen : Nat
  srcStride : Nat
  dstStride : Nat
  pattern : U64
  start : Nat
  next : Nat
  pend : List (Nat × Nat)
  came : List (Nat × Nat × List Byte)
deriving DecidableEq, Repr

/-- What a core waits for from another package; a load names its register and the byte its part goes to, 8 for a load in one
part; a load or store names its address as issued. -/
inductive RemoteKind where
  | load (d shift addr : Nat)
  | store (addr : Nat)
  | reserve (d pkg dst mailbox : Nat)
  | send (d pkg dst mailbox : Nat)
  | unreserve
  | tile (tag : Byte) (stage : Nat)
  | dmaRead (tag : Byte) (pos n dst : Nat)
  | dmaWrite (tag : Byte) (pos n : Nat)
deriving DecidableEq, Repr

/-- One core: control processor, engines, mailboxes, translation cache, save path (05_cores_arrays.md). -/
structure Core where
  /-- pc, as the offset from the code base [05_cores_arrays.md R222; 64 bits; reset: 0, DESIGN CHOICE 4] -/
  pc : U64
  /-- scalar registers s1 to s31 [05_cores_arrays.md R221; 64 bits each; reset: 0, DESIGN CHOICE 4] -/
  regs : Tbl U64
  /-- vector registers v0 to v31 of 64 FP32 lanes [05_cores_arrays.md R199; 2,048 bits each; reset: 0, DESIGN CHOICE 4] -/
  vregs : Tbl (List U32)
  /-- accumulator lines of 16 FP32 values [05_cores_arrays.md R185; 1,024 × 512 bits; reset: 0, DESIGN CHOICE 4] -/
  acc : Tbl (List U32)
  /-- lines written since half A, half B, was last written [08_faults_preemption.md R333; sets; reset: none] -/
  dirtyA : List Nat
  dirtyB : List Nat
  /-- a snapshot copy runs, into half B when true [08_faults_preemption.md R333, R334; option; reset: none] -/
  snapB : Option Bool
  /-- lines that the running copy takes, and the kernel and huddle count of the kernel it closes [08_faults_preemption.md R333,
  R356; set and two counts; reset: none] -/
  snapLines : List Nat
  snapOf : Nat × Nat
  /-- array queue, oldest first [05_cores_arrays.md R186; up to 4; reset: empty] -/
  arrQ : List ArrCmd
  /-- DMA queue [05_cores_arrays.md R225; up to 8; reset: empty] -/
  dmaQ : List DmaCmd
  /-- reservations held as a sender [05_cores_arrays.md R206; up to 16; reset: none] -/
  resv : List Resv
  /-- inbound mailboxes [05_cores_arrays.md R205; 16 × 8 slots; reset: empty] -/
  boxes : Tbl Mailbox
  /-- mailboxes closed to new reservations during a save [08_faults_preemption.md R343; 1 bit; reset: false] -/
  closed : Bool
  /-- next sequence of a sender to a mailbox, by sender and mailbox [05_cores_arrays.md R209; 32 bits each; reset: 0] -/
  sendSeq : Tbl U32
  /-- next sequence to count as arrived, by sender and mailbox [16_frame.md R685; 32 bits each; reset: 0] -/
  recvSeq : Tbl U32
  /-- sendSeq as the group started, by sender and mailbox [05_cores_arrays.md R209; 32 bits each; reset: 0] -/
  seqBase : Tbl U32
  /-- translation cache, most recently used first [08_faults_preemption.md R330; up to 16; reset: empty] -/
  tcache : List Seg
  /-- arrived at the huddle [05_cores_arrays.md R218; 1 bit; reset: false] -/
  arrived : Bool
  /-- fenced, its bit in 0x4001 [08_faults_preemption.md R349; 1 bit; reset: false] -/
  fenced : Bool
  /-- packages whose answer to this core's revocation is awaited, step 4 of recovery [08_faults_preemption.md R361; list;
  reset: none] -/
  revoking : List Nat
  /-- instruction buffer: bytes of the code region as read at the last start or resume [05_cores_arrays.md R230; 32 KiB;
  reset: empty] -/
  ibuf : List Byte
  /-- transfer tags whose answers the control processor waits for [08_faults_preemption.md R340; list; reset: none] -/
  waiting : List Nat
  /-- beats counted by the array reference since the group started, as BEATS last read them [05_cores_arrays.md R224; 64
  bits; reset: 0; log entry 2] -/
  beatsMark : Nat
deriving DecidableEq, Repr

/-- A shot list header (R216). -/
structure ShotHeader where
  members : Nat
  kernels : Nat
  flags : U32
  codeBase : U64
  argBase : U64
deriving DecidableEq, Repr

/-- Huddle-class values latched by a group (R87, R542). -/
structure Latched where
  canonical : Bool
  seed : U64
  mode : Nat
  stochastic : Bool
  lateness : Nat
deriving DecidableEq, Repr

/-- A group's state, codes of 0x4400+g.01 (R153). -/
inductive GState where
  | idle | running | preempted | fenced | lost
deriving DecidableEq, Repr

/-- One core group (05_cores_arrays.md, 08_faults_preemption.md). -/
structure Group where
  /-- group state 0x4400+g.01 [04_dictionary_map.md R153; 8 bits; reset: 0 idle] -/
  state : GState
  /-- huddles passed 0x4400+g.02 [05_cores_arrays.md R219; 64 bits; reset: 0] -/
  huddles : Nat
  /-- kernel index 0x4400+g.03 [05_cores_arrays.md R219; 32 bits; reset: 0] -/
  kernel : Nat
  /-- last fault 0x4400+g.04 [08_faults_preemption.md R348; 16 bits; reset: 0] -/
  lastFault : U16
  /-- last accepted request 0x4300+g [04_dictionary_map.md R153; 8 bits; reset: 0] -/
  request : Nat
  /-- latched huddle-class values [05_cores_arrays.md R219; record; reset: defaults] -/
  latched : Latched
  /-- latched count 0x4200+g.FE [04_dictionary_map.md R147; 8 bits; reset: 0] -/
  latchedCount : Byte
  /-- bounds and pool sizes this generator group has latched, by commit count [10_streams_attention.md R413; reset: 0] -/
  servingCount : Byte × Byte
  /-- array mode and flags of the current kernel record [05_cores_arrays.md R216; 8 bits each; reset: 0] -/
  kernelMode : Nat
  kernelFlags : Nat
  /-- shot list header in force [05_cores_arrays.md R216; 64 bytes; reset: none] -/
  header : ShotHeader
  /-- pre-emption pending [08_faults_preemption.md R342; 1 bit; reset: false] -/
  pending : Bool
  /-- saving after the taking huddle [08_faults_preemption.md R343; 1 bit; reset: false] -/
  saving : Bool
  /-- restoring after a resume request [08_faults_preemption.md R346; 1 bit; reset: false] -/
  restoring : Bool
  /-- members, and kernel, saved by a pre-emption [08_faults_preemption.md R346; count; reset: 0] -/
  savedMembers : Nat
  savedKernel : Nat
  /-- save slots' base: space and offset [08_faults_preemption.md R343; reset: 0] -/
  saveSpace : Nat
  saveBase : Nat
  /-- mailboxes and sequence counts saved by a pre-emption, by rank [08_faults_preemption.md R343; list; reset: none] -/
  savedMail : List MailStore
deriving DecidableEq, Repr

/-! ### Serving, reels, rings, slates -/

/-- A stream tracker's state, codes of the table Stream states (R400). -/
inductive TState where
  | free | open' | running | parked | pageWait | cueWait | verifying | closing | lost
deriving DecidableEq, Repr

/-- A stream tracker (R395): the fields of its 64-byte record; pages holds its page list. -/
structure Tracker where
  state : TState
  bucket : Nat
  tenant : Tenant
  group : GroupId
  lagFlag : Bool
  promptDone : Bool
  tokens : Nat
  prompt : Nat
  pages : List (Nat × Nat)
  reel : U16
  adapter : U16
  ring : Nat
  listAddr : U64
  listSpace : Nat
  listGranules : List Nat
  user : U64
  ticket : Nat
  nodes : Nat
  readers : Nat
deriving DecidableEq, Repr

/-- The serving unit's copy of an open storyboard (R460, R511): nodes, parents, the root reel, that reel's latched KV policy
and the base. -/
structure Storyboard where
  n : Nat
  parents : List Nat
  rootReel : U16
  rootPolicy : Nat
  base : Nat
deriving DecidableEq, Repr

/-- The serving unit (10_streams_attention.md, 11_adapters_storyboards.md). -/
structure Serving where
  /-- stream trackers by stream ID; unlisted is free [10_streams_attention.md R395; 16,384 × 64 bytes; reset: free] -/
  trackers : Tbl Tracker
  /-- pages in use, as (bucket, index) [10_streams_attention.md R412; 16 free-page maps; reset: none] -/
  used : List (Nat × Nat)
  /-- bucket bounds in force [10_streams_attention.md R413; 16 × 32 bits; reset: 64 × 2^b] -/
  bounds : List Nat
  /-- pool sizes in force [10_streams_attention.md R413; 16 × 32 bits; reset: 0] -/
  pools : List Nat
  /-- next wait ticket [10_streams_attention.md R416; 32 bits; reset: 1] -/
  ticket : Nat
  /-- storyboard copies by stream [11_adapters_storyboards.md R460; records; reset: none] -/
  boards : Tbl Storyboard
deriving DecidableEq, Repr

/-- A bank's state, codes of the table Bank states (R485). -/
inductive BState where
  | empty | filling | front | draining
deriving DecidableEq, Repr

/-- A bank of the weight region (R483, R485): its state, its reel, the KV policy latched with that reel (R509). -/
structure Bank where
  state : BState
  reel : U16
  policy : Nat
deriving DecidableEq, Repr

/-- An experience record queued for its ring (R510, R517). -/
structure ExpRec where
  ring : Nat
  bytes : List Byte
deriving DecidableEq, Repr

/-- What a destination knows of an incoming entry (R493, R496; log entry 22): its length as offered, where it starts in the share,
bytes of the arriving reel performed in order, and the length and source of a done frame received. -/
structure Arrival where
  len : Option Nat
  start : Option Nat
  performed : Nat
  ended : Option (Nat × Nat)
deriving DecidableEq, Repr

/-- The package's use of one ring (R514 to R520). -/
structure RingUse where
  /-- indices granted by this home [12_reels_changeover.md R517; 64 bits; reset: 0] -/
  granted : Nat
  /-- records that reached the home, by granted index; one already written above the write index is empty
  [12_reels_changeover.md R518; list; reset: none] -/
  arrived : Tbl (List Byte)
  /-- write index at the home, records sent on a feeder, 0x7130+k.03 [12_reels_changeover.md R515; 64 bits; reset: 0] -/
  written : Nat
  /-- release index last taken at the home, or last reported [12_reels_changeover.md R519; 64 bits; reset: 0] -/
  released : Nat
  /-- deferred requests of feeders: package, count, transfer tag, base [12_reels_changeover.md R517; list; reset: none] -/
  deferred : List (Nat × Nat × Nat × Nat)
  /-- a feeder's request outstanding: records asked for [12_reels_changeover.md R517; count; reset: 0] -/
  asked : Nat
  /-- packages that have asked the home for indices, which hear its release index [12_reels_changeover.md R515; list; reset:
  none] -/
  feeders : List Nat
deriving DecidableEq, Repr

/-- The reel engine and the rings (12_reels_changeover.md). -/
structure Reels where
  /-- slices of the weight region [12_reels_changeover.md R483; bitmap; reset: none] -/
  slices : List CoreId
  /-- slices that are push sources [12_reels_changeover.md R484; bitmap; reset: none] -/
  sources : List CoreId
  /-- bank A [12_reels_changeover.md R485; record; reset: empty, reel 0] -/
  bankA : Bank
  /-- bank B [12_reels_changeover.md R485; record; reset: empty, reel 0] -/
  bankB : Bank
  /-- posted reel N, 0x7000.02 [12_reels_changeover.md R487; 16 bits; reset: 0, cleared (R528)] -/
  posted : U16
  /-- an offer has set N since reset [12_reels_changeover.md R487; 1 bit; reset: false] -/
  anyPosted : Bool
  /-- latched changeover share [12_reels_changeover.md R499; 5 to 60; reset: 25] -/
  share : Nat
  /-- latched KV policy [12_reels_changeover.md R499; 8 bits; reset: 0] -/
  policy : Nat
  /-- record queue, oldest first [12_reels_changeover.md R517; up to 4,096; reset: empty] -/
  queue : List ExpRec
  /-- rings by k [12_reels_changeover.md R515; 8 records; reset: unused] -/
  rings : Tbl RingUse
  /-- what is known of incoming entries, by slice × 1,024 + index [12_reels_changeover.md R493, R496; records; reset: none; log
  entry 22] -/
  arriving : Tbl Arrival
  /-- index requests for a ring that is not configured here: package, count, tag, base [12_reels_changeover.md R529; list;
  reset: none] -/
  unplaced : List (Nat × Nat × Nat × Nat)
deriving DecidableEq, Repr

/-- A slate command as parsed (R569). -/
structure SlateCmd where
  op : Nat
  pkg : Nat
  step : Nat
  addr : U64
  length : U64
deriving DecidableEq, Repr

/-- Who started a slate operation: a host command of queue pair 0x000, or the slate word (R569). -/
inductive SlateOrigin where
  | host (index : Nat)
  | word
deriving DecidableEq, Repr

/-- How far a slate operation has run: requested; a take (R580) claiming its keeper, choosing its generation by the headers there,
opening it with state 0, writing data, writing the manifest, closing it with state 1; a restore from dailies (R592) reading the
manifest headers, the extents and the data. -/
inductive SlatePhase where
  | requested | claiming | choosing | opening | writing | manifest | closing | headers | extents | data
deriving DecidableEq, Repr

/-- A slate operation in progress: its command and origin, its number among the operations, which its requests to other packages
carry, its phase, the generation it works on, the answers it awaits, what it has read from the keeper by stock offset, the bytes of
data performed at the keeper (R580 step 3), a take's template and the reels its manifest records (R573). -/
structure SlateOp where
  cmd : SlateCmd
  origin : SlateOrigin
  id : Nat
  phase : SlatePhase
  gen : Nat
  acks : Nat
  buf : Tbl (List Byte)
  mark : Nat
  template : List Byte
  reels : List Nat
deriving DecidableEq, Repr

/-- The slate engine (14_slates.md). -/
structure Slate where
  /-- take in progress [14_slates.md R568; option; reset: none] -/
  take : Option SlateOp
  /-- drain in progress [14_slates.md R568; option; reset: none] -/
  drain : Option SlateOp
  /-- restore or shard load in progress [14_slates.md R568; option; reset: none] -/
  restore : Option SlateOp
  /-- release of dailies requested [14_slates.md R586; option; reset: none] -/
  release : Option SlateOp
  /-- global address of the slate word, 0 none [14_slates.md R577; 64 bits; reset: 0] -/
  word : U64
  /-- the keeper whose lent region this package has claimed [14_slates.md R580; option; reset: none] -/
  claimed : Option Nat
  /-- operations started, which numbers them [the model's own; log entry 51; reset: 0] -/
  ops : Nat
  /-- package whose dailies this keeper holds [14_slates.md R584; option; reset: none] -/
  keeperOf : Option Nat
  /-- that holder tag has been revoked [14_slates.md R586; 1 bit; reset: false] -/
  revoked : Bool
  /-- 0x7211.01 [04_dictionary_map.md R156; 64 bits; reset: 0, DESIGN CHOICE 4] -/
  lastStep : Nat
  /-- 0x7211.02 [04_dictionary_map.md R156; 64 bits; reset: 0, DESIGN CHOICE 4] -/
  lastDrained : Nat
  /-- 0x7211.03 [04_dictionary_map.md R156; 16 bits; reset: 0, DESIGN CHOICE 4] -/
  lastReel : U16
deriving DecidableEq, Repr

/-! ### Links and packets -/

/-- A flit (R624). -/
structure Flit where
  vc : Nat
  response : Bool
  first : Bool
  last : Bool
  ftype : Nat
  ackValid : Bool
  hops : Nat
  dst : Nat
  src : Nat
  seq : U16
  ack : U16
  crPool : Nat
  crCount : Nat
  payload : List Byte
deriving DecidableEq, Repr

/-- A packet (R632), or a reel frame as its single-flit packet (R633) with operation 0. -/
structure Packet where
  vc : Nat
  response : Bool
  dst : Nat
  src : Nat
  hops : Nat
  op : Nat
  wantsAnswer : Bool
  tenant : Nat
  tag : Nat
  arg : Nat
  body : List Byte
deriving DecidableEq, Repr

/-- A flit that a link is to send, or keeps until acknowledged, with the packet it belongs to; a foul flit belongs to none. -/
structure TxFlit where
  flit : Flit
  packet : Option Packet
deriving DecidableEq, Repr

/-- A Pass link's state, codes of the table Link states (R623). -/
inductive LState where
  | disabled | down | holding | offering | training | awaitingTune | up | paused | recovery | failedToTune | kickoffFailed
deriving DecidableEq, Repr

/-- A kickoff candidate (R619): lane mode bit, width bit, deep FEC. -/
structure Cand where
  mode : Nat
  width : Nat
  deep : Bool
deriving DecidableEq, Repr

/-- Why a link is paused (R642, R646, R648). -/
inductive PauseCause where
  | partner | tuning | recalibration | step
deriving DecidableEq, Repr

/-- One Pass link (15_pass_links.md). -/
structure Link where
  /-- link state 0x5200+n.01 [15_pass_links.md R623; 4 bits; reset: down] -/
  state : LState
  /-- signal on lane 0 [15_pass_links.md R623; 1 bit; reset: false] -/
  signal : Bool
  /-- lane mode, width bit and FEC in use [15_pass_links.md R620; record; reset: none] -/
  mode : Option Cand
  /-- partner package and link 0x5200+n.05, .06 [15_pass_links.md R620; 13 and 4 bits; reset: 0, DESIGN CHOICE 4] -/
  partner : Nat × Nat
  /-- candidates not yet failed, the present one first [15_pass_links.md R619; list; reset: none] -/
  cands : List Cand
  /-- confirm words are being sent [15_pass_links.md R620; 1 bit; reset: false] -/
  confirming : Bool
  /-- the partner's confirm word came while training [15_pass_links.md R620; 1 bit; reset: false] -/
  confirmSeen : Bool
  /-- offers wait for the partner's hint [15_pass_links.md R659; 1 bit; reset: false] -/
  hinted : Bool
  /-- the present kickoff follows a recovery [15_pass_links.md R653; 1 bit; reset: false] -/
  recovering : Bool
  /-- next sequence to send [15_pass_links.md R627; 16 bits; reset: 0] -/
  txSeq : U16
  /-- next sequence expected, and whether one was accepted [15_pass_links.md R628, R629; 16 bits; reset: 0] -/
  rxSeq : U16
  rxAny : Bool
  /-- sent and not acknowledged, oldest first [15_pass_links.md R630; up to 512; reset: empty] -/
  unacked : List TxFlit
  /-- queued and not sent, oldest first [15_pass_links.md R640; up to 512 with the unacked; reset: empty] -/
  txq : List TxFlit
  /-- credits by pool, spent so far; unlisted is none spent [15_pass_links.md R638; counts; reset: 0] -/
  spent : Tbl Nat
  /-- credits to return by pool [15_pass_links.md R638; counts; reset: 0] -/
  owed : Tbl Nat
  /-- flits received whose credit has not been returned, by pool [15_pass_links.md R638; counts; reset: 0] -/
  taken : Tbl Nat
  /-- hundredths of a slot due to VC3 under the changeover share [12_reels_changeover.md R498; 0 to 99; reset: 0] -/
  shareDue : Nat
  /-- a replay request is out and flits are discarded until the expected one [15_pass_links.md R628; 1 bit; reset: false] -/
  asked : Bool
  /-- flits of a packet in progress, by pool, newest last [15_pass_links.md R635; lists; reset: none] -/
  part : Tbl (List Flit)
  /-- pools on which the rest of a discarded packet is still to come [15_pass_links.md R649; list; reset: none] -/
  skip : List Nat
  /-- why the link is paused [15_pass_links.md R648; option; reset: none] -/
  pause : Option PauseCause
  /-- VC1 goes first at the next choice between VC1 and VC2 [15_pass_links.md R639; 1 bit; reset: true] -/
  vc1First : Bool
  /-- last foul code received 0x5200+n.07 [15_pass_links.md R651; 16 bits; reset: 0] -/
  lastFoul : U16
  /-- millisecond in which a foul flit of a code was last sent [15_pass_links.md R650; list; reset: none] -/
  foulMs : Tbl Nat
  /-- second and count of 0x2031, and of 0x2030, logged [15_pass_links.md R650, R651; reset: 0] -/
  sentLog : Nat × Nat
  recvLog : Nat × Nat
  /-- counters 0xF100+n.01 to .05 [04_dictionary_map.md R161; 64, 64, 64, 64, 32 bits; reset: 0] -/
  flitsSent : Nat
  flitsRecv : Nat
  replays : Nat
  crcErrors : Nat
  fouls : Nat
deriving DecidableEq, Repr

/-- A quad synthesiser's state, codes of 0x5300+q.01 (R642). -/
inductive SynthState where
  | off | tuning | locked | failed | recalibrating
deriving DecidableEq, Repr

/-- One quad (15_pass_links.md, 19_power_health.md). -/
structure Quad where
  /-- synthesiser state 0x5300+q.01 [15_pass_links.md R642; 3 bits; reset: off] -/
  synth : SynthState
  /-- recalibrations 0x5300+q.02 [15_pass_links.md R646; 32 bits; reset: 0] -/
  recals : Nat
  /-- temperature at the last calibration in tenths of °C [15_pass_links.md R646; reset: 0, DESIGN CHOICE 4] -/
  calTenths : Int
  /-- quad rail target 0x2040+q.01 [19_power_health.md R820; 900 or 950; reset: 900] -/
  target : Nat
  /-- quad rail measured 0x2040+q.02 [04_dictionary_map.md R151; 16 bits; reset: 0, DESIGN CHOICE 4] -/
  measured : Nat
  /-- series regulator in regulate mode [19_power_health.md R820; 1 bit; reset: bypass] -/
  regulate : Bool
  /-- a step of this quad is in progress [19_power_health.md R821; 1 bit; reset: false] -/
  stepping : Bool
deriving DecidableEq, Repr

/-- What an answer from another package completes: a core's operation, a push of a record, a request of a slate operation by its
number (a claim or a write of n data bytes, or a read at a stock offset), a revocation or tenant-gone notice to a package. -/
inductive Outstanding where
  | core (c : CoreId) (k : RemoteKind)
  | record (ring index : Nat) (bytes : List Byte)
  | ringAsk (ring : Nat)
  | slate (op n : Nat)
  | slateRead (op off : Nat)
  | notice (tag pkg : Nat)
  | gone (t : Tenant) (pkg : Nat)
  | none
deriving DecidableEq, Repr

/-- A packet in the crossbar's buffers, the link it came by (none for one of this package's own), and the reason it is answered
undeliverable with where it has no route: 3, or that of the link which gave it back (R643, R654, R672, R675, R693). -/
structure Held where
  packet : Packet
  fromLink : Option Nat
  reason : Nat := 3
deriving DecidableEq, Repr

/-- Links, crossbar and packets. -/
structure Net where
  /-- Pass links P0 to P15; unlisted is down [15_pass_links.md R623; 16 records; reset: down] -/
  links : Tbl Link
  /-- quads [15_pass_links.md R641; 4 records; reset: off] -/
  quads : Tbl Quad
  /-- packets held by the crossbar, oldest first [16_frame.md R672, R693; list; reset: empty] -/
  xbar : List Held
  /-- whole packets received for this package, not yet applied, by link (16 is this package itself), oldest first
  [15_pass_links.md R635; list; reset: empty] -/
  inbox : List (Nat × Packet)
  /-- next transfer tag, never 0 [15_pass_links.md R632; 16 bits; reset: 1, DESIGN CHOICE 5] -/
  nextTag : Nat
  /-- transfers awaiting an answer, by transfer tag [15_pass_links.md R632; list; reset: none] -/
  out : Tbl Outstanding
  /-- sequences this package's cores have sent to remote mailboxes [05_cores_arrays.md R209; 32 bits each; reset: 0] -/
  remoteSeq : Tbl U32
deriving DecidableEq, Repr

/-! ### Host port -/

/-- One MSI-X table entry (R699, R729). -/
structure MsixEntry where
  addr : U64
  data : U32
  masked : Bool
  pendingBit : Bool
deriving DecidableEq, Repr

/-- One host window (R109). -/
structure Window where
  /-- overrun bit [3] of the window status [03_dictionary.md R110; 1 bit; reset: 0] -/
  overrun : Bool
  /-- completion bits [03_dictionary.md R109; 16 bits; reset: 0] -/
  done : U16
  /-- slots whose access has not completed [03_dictionary.md R110; 16 bits; reset: 0] -/
  busy : U16
  /-- request and response bodies of the slots, by offset; unlisted reads zero [03_dictionary.md R109; 64 KiB; reset: zero,
  DESIGN CHOICE 4] -/
  bytes : List Host.Cell
deriving DecidableEq, Repr

/-- A PCIe function (R698 to R702, R729, R737). -/
structure Fn where
  /-- Bus Master Enable [17_host_port.md R744; 1 bit; reset: false] -/
  busMaster : Bool
  /-- Memory Space Enable [17_host_port.md R699; 1 bit; reset: false, PRESUMED 15] -/
  memSpace : Bool
  /-- MSI-X enable [17_host_port.md R729; 1 bit; reset: false, PRESUMED 15] -/
  msixEnable : Bool
  /-- MSI-X function mask [17_host_port.md R729; 1 bit; reset: false, PRESUMED 15] -/
  fnMask : Bool
  /-- MSI-X table by entry; unlisted is zero and masked [17_host_port.md R729; 2,048 or 64 entries; reset: masked, PRESUMED
  15] -/
  msix : Tbl MsixEntry
  /-- in D3hot [17_host_port.md R738; 1 bit; reset: D0] -/
  d3hot : Bool
  /-- Completion Timeout Value [17_host_port.md R745; 4 bits; reset: 0, the default range] -/
  timeout : Nat
deriving DecidableEq, Repr

/-- A submission entry (R718). -/
structure Entry where
  opcode : Nat
  flags : Nat
  cid : Nat
  dataAddr : Nat
  dataLen : Nat
  body : List Byte
  reservedSet : Bool
deriving DecidableEq, Repr

/-- What a completion entry reports (R719). -/
structure Completion where
  status : Nat
  result : Nat
  length : Nat
  second : Nat
  inline : List Byte
deriving DecidableEq, Repr

/-- How far a host command has come (R726, R727). -/
inductive CmdState where
  | fetched
  | running
  | finished (c : Completion)
deriving DecidableEq, Repr

/-- A fetched host command: its submission index, its entry, its state, and whether its completion is discarded when it
finishes (function reset, R737). -/
structure HostCmd where
  index : Nat
  entry : Entry
  state : CmdState
  discard : Bool
deriving DecidableEq, Repr

/-- A tenant's queue pair and its reset (17_host_port.md, 08_faults_preemption.md R363). -/
structure TenantQ where
  /-- submission head, queue status [31:16] [17_host_port.md R712; 16 bits; reset: 0] -/
  subHead : Nat
  /-- submission tail [17_host_port.md R712; 16 bits; reset: 0] -/
  subTail : Nat
  /-- completion head [17_host_port.md R712; 16 bits; reset: 0] -/
  compHead : Nat
  /-- completion tail [17_host_port.md R712; 16 bits; reset: 0] -/
  compTail : Nat
  /-- completion phase to be written [17_host_port.md R712; 1 bit; reset: 1] -/
  phase : Bool
  /-- queue status error bit and cause [17_host_port.md R710; 1 and 4 bits; reset: 0] -/
  error : Bool
  cause : Nat
  /-- status of the PF page while the tenant is bound to a VF [17_host_port.md R713; 1 bit; reset: 0] -/
  wrongFunction : Bool
  /-- commands fetched and not yet posted, in index order [17_host_port.md R716; list; reset: none] -/
  cmds : List HostCmd
  /-- entries requested from host memory, not yet delivered [17_host_port.md R716; count; reset: 0] -/
  fetching : Nat
  /-- tenant reset step, 0 none [08_faults_preemption.md R363; 0 to 7; reset: 0] -/
  resetStep : Nat
  /-- packages whose answer to the tenant-gone notice is awaited [08_faults_preemption.md R364; list; reset: none] -/
  awaiting : List Nat
  /-- cores that were members of the tenant's groups at step 1 [08_faults_preemption.md R363; list; reset: none] -/
  former : List Nat
  /-- 0xF200.01 to .03 [04_dictionary_map.md R161; 64 bits each; reset: 0] -/
  misses : Nat
  kernels : Nat
  completions : Nat
deriving DecidableEq, Repr

/-- What a request to host memory is for (R743). -/
inductive HostReq where
  | entry (t : Tenant)
  | dma (c : CoreId) (tag : Byte) (pos n dst : Nat)
deriving DecidableEq, Repr

/-- The host port. -/
structure HostPort where
  /-- PCIe rate code, width and Flit mode, 0x8000 [17_host_port.md R696; 8 bits each; reset: down] -/
  rate : Byte
  width : Byte
  flitMode : Bool
  /-- configuration requests are answered with retry status [17_host_port.md R733; 1 bit; reset: true] -/
  retryStatus : Bool
  /-- VF Enable and NumVFs, 0x8001 [17_host_port.md R701; 1 bit and 5 bits; reset: 0] -/
  vfEnable : Bool
  numVfs : Nat
  /-- BAR4 is implemented [17_host_port.md R702; 1 bit; reset: true] -/
  bar4 : Bool
  /-- the functions; unlisted is as after reset [17_host_port.md R699; 32 records; reset: as after reset] -/
  fns : Tbl Fn
  /-- host windows: 0 to 31 the functions', 256 + g those of space 0x4 [03_dictionary.md R109; 64 KiB each; reset: idle] -/
  windows : Tbl Window
  /-- queue pairs, tenant counters and tenant resets, by tenant [17_host_port.md R708; 4,096 records; reset: idle] -/
  tenants : Tbl TenantQ
  /-- requests to host memory awaiting completion, by number [17_host_port.md R743; list; reset: none] -/
  reads : Tbl HostReq
  /-- number of the next request [17_host_port.md R743; count; reset: 0] -/
  nextReq : Nat
deriving DecidableEq, Repr

/-! ### Field ports -/

/-- The field port's state, codes of the table Auto-baud states (R759). -/
inductive CanState where
  | standby | nominalSearch | dataSearch | lockedSilent | active | busOff
deriving DecidableEq, Repr

/-- An alarm record (R757). -/
structure AlarmRec where
  ident : BitVec 29
  fd : Bool
  brs : Bool
  dropped : Nat
  data : List Byte
deriving DecidableEq, Repr

/-- The CAN FD field port. -/
structure Can where
  /-- auto-baud state 0x9003.01 [18_field_ports.md R759; 3 bits; reset: standby] -/
  state : CanState
  /-- nominal and data codes being tried or locked, 0x9003.02 [18_field_ports.md R759; 4 bits each; reset: 0] -/
  nominal : Nat
  data : Nat
  /-- consecutive valid frames, and whether one had bit-rate switch [18_field_ports.md R759; count; reset: 0] -/
  valid : Nat
  sawBrs : Bool
  /-- consecutive errors without bit-rate switch in data search [18_field_ports.md R759; count; reset: 0] -/
  errors : Nat
  /-- the data search was entered from active [18_field_ports.md R760; 1 bit; reset: false] -/
  fromActive : Bool
  /-- transmit and receive error counters 0x9003.03, .04 [18_field_ports.md R760; 8 bits each; reset: 0] -/
  txErr : Byte
  rxErr : Byte
  /-- Gaffer seconds of the last bus-off entries, newest first [18_field_ports.md R759; list; reset: none] -/
  busOffs : List Nat
  /-- node and fixed rates in use: 0x9000 to 0x9002 in effect [18_field_ports.md R794; 7, 3 and 3 bits; reset: 127, 0, 0] -/
  node : Nat
  fixedNominal : Nat
  fixedData : Nat
  /-- alarm records, oldest first [18_field_ports.md R757; up to 8; reset: none] -/
  alarms : List AlarmRec
  /-- heartbeat transaction tag [18_field_ports.md R754; 8 bits; reset: 0, DESIGN CHOICE 5] -/
  hbTag : Nat
  /-- last field time received [18_field_ports.md R753; option of 64 bits; reset: none] -/
  time : Option Nat
  /-- outstanding requests, by identifier [18_field_ports.md R752; up to 4 per source; reset: none] -/
  pending : List (BitVec 29)
  /-- millisecond of the last reject to a source node [18_field_ports.md R761; table; reset: none] -/
  rejectMs : Tbl Nat
  /-- second and count of 0x2041 logged [18_field_ports.md R761; reset: 0] -/
  violLog : Nat × Nat
deriving DecidableEq, Repr

/-- The SPI target port. -/
structure Spi where
  /-- an accepted request has no response yet [18_field_ports.md R764; 1 bit; reset: false] -/
  waiting : Bool
  /-- the response that waits to be fetched [18_field_ports.md R770; option; reset: none] -/
  response : Option Response
  /-- sticky bits 0x9010 [18_field_ports.md R772; 5 bits; reset: 0] -/
  sticky : Nat
deriving DecidableEq, Repr

/-- The boot flash as found (R775, R776). -/
structure Flash where
  /-- 0x9020.01 to .03 [18_field_ports.md R775; 32, 32, 8 bits; reset: 0, DESIGN CHOICE 4] -/
  identity : U32
  sizeMib : U32
  width : Byte
  /-- the flash may be written [18_field_ports.md R776; 1 bit; reset: true] -/
  writable : Bool
deriving DecidableEq, Repr

/-- State of an I2C controller, codes of 0x9030.01 (R789). -/
inductive I2cState where
  | idle | recovering | stuck
deriving DecidableEq, Repr

/-- Why an I2C recovery runs (R789, R792). -/
inductive RecoveryCause where
  | enable | gafferReset | beforeTransaction | request | retry
deriving DecidableEq, Repr

/-- The I2C controllers and the PMBus. -/
structure I2c where
  /-- PMBus state 0x9030.01 [18_field_ports.md R789; 2 bits; reset: idle] -/
  pm : I2cState
  /-- PMBus holder 0x9030.02 [18_field_ports.md R785; 32 bits; reset: the kind 6 tag] -/
  holder : U32
  /-- rounds run and pulses used by the PMBus recovery, and its cause [18_field_ports.md R789; reset: 0] -/
  pmRounds : Nat
  pmPulses : Nat
  pmCause : RecoveryCause
  /-- retries of the failed PMBus transaction [18_field_ports.md R783; 0 to 3; reset: 0] -/
  retries : Nat
  /-- a regulator transaction has failed and waits for its retry [18_field_ports.md R783; 1 bit; reset: false] -/
  failed : Bool
  /-- the bus is lent [18_field_ports.md R784; 1 bit; reset: false] -/
  lent : Bool
  /-- module bus state 0x9031.01 [18_field_ports.md R789; 2 bits; reset: idle] -/
  mod : I2cState
  modRounds : Nat
  modPulses : Nat
  /-- modules present 0x9031.02 [18_field_ports.md R788; 16 bits; reset: 0] -/
  present : U16
  /-- module records 0x9040+n [18_field_ports.md R787; 16 × 128 bytes; reset: zero] -/
  modules : Tbl (List Byte)
deriving DecidableEq, Repr

/-! ### The whole machine -/

/-- What the package has driven outward; the machine never reads it back. -/
inductive Output where
  /-- a memory write request to host memory by a function -/
  | hostWrite (f : FnId) (addr : Nat) (bytes : List Byte)
  /-- a memory read request to host memory by a function -/
  | hostRead (f : FnId) (addr : Nat) (len : Nat) (req : Nat)
  /-- an MSI-X message of a function -/
  | msix (f : FnId) (addr : U64) (data : U32)
  /-- an answer to a PCIe read: data, or Unsupported Request (none), and whether it is poisoned -/
  | pcieRead (data : Option (List Byte)) (poisoned : Bool)
  /-- an answer to a configuration request: none is Retry Status -/
  | pcieConfig (data : Option U32)
  /-- a mode word on a link, on lane 0 or on every lane of the candidate -/
  | modeWord (n : Nat) (word : U64) (allLanes : Bool)
  /-- a flit on a link -/
  | flit (n : Nat) (f : Flit)
  /-- a replay request on a link, naming a sequence -/
  | askReplay (n : Nat) (seq : U16)
  /-- four copies of a link control flit: code and pause limit in µs -/
  | control (n : Nat) (code : Nat) (limitUs : Nat)
  /-- a field-bus frame -/
  | can (ident : BitVec 29) (fd : Bool) (brs : Bool) (data : List Byte)
  /-- what SPI_MISO shifted out -/
  | miso (words : List U32)
  /-- a PMBus command to a regulator: code and value -/
  | pmbus (rail : Rail) (code : Nat) (value : Nat)
  /-- a PMBus read of the Alert Response Address -/
  | alertResponse
  /-- a write of bytes to an address of the module bus -/
  | moduleWrite (addr : Nat) (bytes : List Byte)
  /-- a read of n bytes from a start on at an address of the module bus -/
  | moduleFetch (addr start n : Nat)
  /-- PMB_GNT_N driven -/
  | pmbGnt (asserted : Bool)
  /-- the test access port's answer to IDCODE -/
  | idcode (value : U32)
deriving DecidableEq, Repr

/-- The state of the package, with the queue of commands that wait. -/
structure State where
  /-- commands waiting, first in first out [the model's own; list; reset: empty] -/
  pending : List Instr
  /-- index of the next free value [the model's own, log entry 2; count; reset: 0, DESIGN CHOICE 2] -/
  freeCount : Nat
  /-- what the package has driven outward, newest first [the model's own, log entry 3; list; reset: empty] -/
  outputs : List Output
  /-- pins [20_startup_lifecycle.md R857; record] -/
  pins : Pins
  /-- Gaffer [20_startup_lifecycle.md R860; record] -/
  gaffer : Gaffer
  /-- fuses [20_startup_lifecycle.md R878; record] -/
  fuses : Fuses
  /-- event log [04_dictionary_map.md R163; record] -/
  log : EventLog
  /-- object dictionary [03_dictionary.md R76; record] -/
  dict : Dict
  /-- power [19_power_health.md R800; record] -/
  power : Power
  /-- ageing [19_power_health.md R844; record] -/
  ageing : Ageing
  /-- fabric [02_package_fabric.md R31; record] -/
  fabric : Fabric
  /-- memory tiers [07_memory_model.md R270; record] -/
  mem : Mem
  /-- cores; unlisted is as after reset [05_cores_arrays.md R214; 1,024 records] -/
  cores : Tbl Core
  /-- core groups; unlisted is idle [04_dictionary_map.md R153; 256 records] -/
  groups : Tbl Group
  /-- serving unit [10_streams_attention.md R395; record] -/
  serving : Serving
  /-- reel engine and rings [12_reels_changeover.md R483; record] -/
  reels : Reels
  /-- slate engine [14_slates.md R568; record] -/
  slate : Slate
  /-- links, crossbar and packets [15_pass_links.md R623; record] -/
  net : Net
  /-- host port [17_host_port.md R696; record] -/
  host : HostPort
  /-- field port [18_field_ports.md R747; record] -/
  can : Can
  /-- SPI target port [18_field_ports.md R762; record] -/
  spi : Spi
  /-- boot flash port [18_field_ports.md R774; record] -/
  flash : Flash
  /-- I2C controllers [18_field_ports.md R779; record] -/
  i2c : I2c
deriving DecidableEq, Repr

/-- Why the block stops. Only a condition under which the manual says that none of its rules holds stops it. -/
inductive Fault where
  /-- A rail passed an absolute maximum rating: no rule of the manual holds until the next power-on reset (R898). Raised by
  RAIL_EXCURSION. Safe: the machine stops where the manual says nothing. -/
  | beyondAbsoluteMaximum
deriving DecidableEq, Repr

/-- Why a command is turned away. -/
inductive Refusal where
  /-- The command has no meaning in this model yet. Raised by exec's refused arms alone. Safe. -/
  | notModelled (mnemonic : String)
  /-- The command's operands do not spell the row: an instruction word or an access that another row names. Raised by the
  meanings of those rows. Safe: no behaviour is claimed for it. -/
  | illFormed (mnemonic : String)
deriving DecidableEq, Repr

/-! ### Values after reset of what the tables do not list -/

/-- A journal half that holds nothing. -/
def Half.blank : Half := { header := [], commit := none, recs := [], next := 0 }

/-- A compute domain after reset (R835): off, request 0. -/
def Domain.reset : Domain :=
  { request := 0, state := .off, fromOff := true, stage := 0, drain := none, droop := false, hot := false,
    currentMa := 0, beatRate := 0, tenths := 0, energy := 0, energyRem := 0, drift := 0, droopLogged := none }

/-- A regulator whose rail is off (R901). -/
def Regulator.reset : Regulator := { on := false, stable := 0, vout := 0, iout := 0, status := 0 }

/-- A bridge channel after reset: in service and idle. -/
def Channel.reset : Channel := { out := false, lanes := [] }

/-- An empty lane. -/
def Lane.reset : Lane := { fails := 0, buffer := [], behind := [] }

/-- A stock channel before training. -/
def StockChannel.reset : StockChannel := { density := 0, state := 0, rate := 0, failedInService := false }

/-- An empty mailbox. -/
def Mailbox.reset : Mailbox := { reserved := [], placed := [], arrived := [] }

/-- A core after reset. -/
def Core.reset : Core :=
  { pc := 0, regs := [], vregs := [], acc := [], dirtyA := [], dirtyB := [], snapB := none, snapLines := [], snapOf := (0, 0), arrQ := [], dmaQ := [], resv := [],
    boxes := [], closed := false, sendSeq := [], recvSeq := [], seqBase := [], tcache := [], arrived := false, fenced := false,
    revoking := [], ibuf := [], waiting := [], beatsMark := 0 }

/-- Huddle-class values at their defaults (R153, R156). -/
def Latched.reset : Latched := { canonical := false, seed := 0, mode := 0, stochastic := false, lateness := 1 }

/-- A group after reset: idle. -/
def Group.reset : Group :=
  { state := .idle, huddles := 0, kernel := 0, lastFault := 0, request := 0, latched := Latched.reset, latchedCount := 0,
    servingCount := (0, 0), kernelMode := 0, kernelFlags := 0,
    header := { members := 0, kernels := 0, flags := 0, codeBase := 0, argBase := 0 },
    pending := false, saving := false, restoring := false, savedMembers := 0, savedKernel := 0, saveSpace := 0, saveBase := 0,
    savedMail := [] }

/-- A free tracker: all fields zero (R399). -/
def Tracker.reset : Tracker :=
  { state := .free, bucket := 0, tenant := 0, group := 0, lagFlag := false, promptDone := false, tokens := 0, prompt := 0,
    pages := [], reel := 0, adapter := 0, ring := 0, listAddr := 0, listSpace := 0, listGranules := [], user := 0, ticket := 0,
    nodes := 0, readers := 0 }

/-- An unused ring. -/
def RingUse.reset : RingUse := { granted := 0, arrived := [], written := 0, released := 0, deferred := [], asked := 0, feeders := [] }

/-- An empty bank. -/
def Bank.reset : Bank := { state := .empty, reel := 0, policy := 0 }

/-- A link after reset: down. -/
def Link.reset : Link :=
  { state := .down, signal := false, mode := none, partner := (0, 0), cands := [], confirming := false, confirmSeen := false,
    hinted := false, recovering := false, txSeq := 0, rxSeq := 0, rxAny := false, unacked := [], txq := [], spent := [],
    owed := [], taken := [], shareDue := 0, asked := false, part := [], skip := [], pause := none, vc1First := true, lastFoul := 0, foulMs := [], sentLog := (0, 0),
    recvLog := (0, 0), flitsSent := 0, flitsRecv := 0, replays := 0, crcErrors := 0, fouls := 0 }

/-- A quad after reset: synthesiser off, rail target 900 mV. -/
def Quad.reset : Quad :=
  { synth := .off, recals := 0, calTenths := 0, target := 900, measured := 0, regulate := false, stepping := false }

/-- An idle host window. -/
def Window.reset : Window := { overrun := false, done := 0, busy := 0, bytes := [] }

/-- An MSI-X entry after reset: zero and masked. -/
def MsixEntry.reset : MsixEntry := { addr := 0, data := 0, masked := true, pendingBit := false }

/-- A PCIe function after reset. -/
def Fn.reset : Fn :=
  { busMaster := false, memSpace := false, msixEnable := false, fnMask := false, msix := [], d3hot := false, timeout := 0 }

/-- A tenant's queue pair after reset. -/
def TenantQ.reset : TenantQ :=
  { subHead := 0, subTail := 0, compHead := 0, compTail := 0, phase := true, error := false, cause := 0,
    wrongFunction := false, cmds := [], fetching := 0, resetStep := 0, awaiting := [], former := [],
    misses := 0, kernels := 0, completions := 0 }

/-- The journal of a blank flash. -/
def Journal.reset : Journal :=
  { halfA := Half.blank, halfB := Half.blank, authB := false, compacting := false, seq := 1, abandoned := 0,
    unwritable := false, failedBlocks := 0 }

/-- The dictionary after reset: every entry at its default. -/
def Dict.reset : Dict :=
  { vals := [], pend := [], counts := [], latched := [], stages := [], expired := [], claims := [], response := none,
    awaiting := none, queued := [], journal := Journal.reset }

/-- Rails off, cap 880 mV. -/
def Power.reset : Power :=
  { regs := [], trans := none, waiting := [], chain := false, committed := false, retry := false, second := false, cap := 880,
    goodWindows := 0, currents := [], packageMw := 0, spineMa := [], otherUw := 0, vcoreMv := 0, railMv := [], again := false, junction := 0, aboveAlarm := false,
    heldTrips := [], spineHeld := [], dieDroop := (false, false), domains := [], hold := false }

/-- Wear counts with no valid ageing record (R846). -/
def Ageing.reset : Ageing :=
  { hours := 0, weighted := 0, margin := 0, erases := [], maxBase := 0, totalBase := 0, eol := 0, loggedEol := none, day := 0, loggedDay := none, store := [],
    seq := 0, pos := 0 }

/-- The fabric after reset. -/
def Fabric.reset : Fabric :=
  { channels := [], transit := [], sent := [], delivered := [], refStopped := (false, false), meshCorrected := 0,
    calibrations := (0, 0), periods := (2000, 2000), refreshes := 0, scrubs := 0 }

/-- Memory after reset: every word reads zero (R319). -/
def Mem.reset : Mem :=
  { cells := [], bad := [], leases := [], stock := [], vaultEcc := ⟨0, 0, 0⟩, stockEcc := ⟨0, 0, 0⟩, scratchEcc := ⟨0, 0, 0⟩ }

/-- The serving unit after reset (R399): every tracker free, every pool empty, bounds 64 × 2^b. -/
def Serving.reset : Serving :=
  { trackers := [], used := [], bounds := (List.range 16).map (fun b => 64 * 2 ^ b), pools := List.replicate 16 0, ticket := 1,
    boards := [] }

/-- The reel engine after reset (R528). -/
def Reels.reset : Reels :=
  { slices := [], sources := [], bankA := Bank.reset, bankB := Bank.reset, posted := 0, anyPosted := false, share := 25,
    policy := 0, queue := [], rings := [], arriving := [], unplaced := [] }

/-- Nothing known of an incoming entry. -/
def Arrival.reset : Arrival := { len := none, start := none, performed := 0, ended := none }

/-- The slate engine after reset. -/
def Slate.reset : Slate :=
  { take := none, drain := none, restore := none, release := none, word := 0, claimed := none, ops := 0, keeperOf := none,
    revoked := false, lastStep := 0, lastDrained := 0, lastReel := 0 }

/-- Links and crossbar after reset. -/
def Net.reset : Net := { links := [], quads := [], xbar := [], inbox := [], nextTag := 1, out := [], remoteSeq := [] }

/-- The host port after reset. -/
def HostPort.reset : HostPort :=
  { rate := 0, width := 0, flitMode := false, retryStatus := true, vfEnable := false, numVfs := 0, bar4 := true, fns := [],
    windows := [], tenants := [], reads := [], nextReq := 0 }

/-- The field port after reset: standby. -/
def Can.reset : Can :=
  { state := .standby, nominal := 0, data := 0, valid := 0, sawBrs := false, errors := 0, fromActive := false, txErr := 0,
    rxErr := 0, busOffs := [], node := 127, fixedNominal := 0, fixedData := 0, alarms := [], hbTag := 0,
    time := none, pending := [], rejectMs := [], violLog := (0, 0) }

/-- The SPI target after reset. -/
def Spi.reset : Spi := { waiting := false, response := none, sticky := 0 }

/-- The flash port before the firmware has read SFDP. -/
def Flash.reset : Flash := { identity := 0, sizeMib := 0, width := 0, writable := true }

/-- The I2C controllers after reset: the Gaffer (holder kind 6) owns the PMBus. -/
def I2c.reset : I2c :=
  { pm := .idle, holder := 0x60000000, pmRounds := 0, pmPulses := 0, pmCause := .enable, retries := 0, failed := false,
    lent := false, mod := .idle, modRounds := 0, modPulses := 0, present := 0, modules := [] }

/-- Pins with VSTBY in its range and PWR_OK low. -/
def Pins.reset : Pins :=
  { vstby := true, pwrOk := false, sysResetN := true, pmbReq := false, canStby := true, misoHiZ := true, flashHiZ := false,
    stkResetLow := true, romFault := false }

/-- The fuses of a BLANK part. -/
def Fuses.reset : Fuses := { rows := 0, retired := false, keyDigest := none, floor := 0, floorWords := 0 }

/-- The image that slot A holds (log entry 7): version 1, a payload of the bytes 0 to 15, signed with a key of its own. -/
def ImageSlot.signed : ImageSlot :=
  { header := [0x58, 0x47, 0x46, 0x57] ++ leBytes 2 1 ++ zeros 2 ++ leBytes 4 1 ++ leBytes 4 16 ++ zeros 16 ++ [0x04] ++
      beBytes 48 0xd5136d1655c65b914e665c9ed35e4e01d1d8da847736957a6a751ea4cf2f80a1380f08c2ae239bc498d1b1bb3fba744f ++
      beBytes 48 0x0e746b1ce69a33ebe8e8a90604f1b2804397cf0410fed1beb08a12e00f8e7f3ec07a6774569844826d0370826f7f1f9f ++ zeros 31 ++
      beBytes 48 0x4e47a237cc608f03d38bf953c2c25c8cb99de4bbada9288a6b43656520b2559143f1fd344dde210802bbc630315996be ++
      beBytes 48 0x4ad0105897bada1fea96fe48e992899881d61068969f6fb4e7b3dd8464390e927ccb63db9c5862560e99d054b4103fa4
    payload := (List.range 16).map (fun i => BitVec.ofNat 8 i) }

/-- An erased image slot. -/
def ImageSlot.erased : ImageSlot := { header := List.replicate 256 0xFF, payload := [] }

/-- The Gaffer after a power-on reset. -/
def Gaffer.reset : Gaffer :=
  { running := false, halted := false, loading := false, slotB := false, imageA := ImageSlot.signed, imageB := ImageSlot.erased,
    fallback := none, block := none, used := (false, 8533, true), readiness := 0, dictReady := false, wipeKind := 0,
    wipedTiers := 0, resetKind := 1, diesReleased := false, inReset := false, warm := false, challenges := 0,
    challengeLive := false, debug := false }

/-- The event log when the standby rail comes up (R166): nothing written, the first event will carry sequence 1. -/
def EventLog.reset : EventLog := { next := 1, recs := [], ms := 0 }

/-- The package right after a power-on reset: VSTBY in range, PWR_OK low, nothing powered up (R867). -/
def State.reset : State :=
  { pending := [], freeCount := 0, outputs := [], pins := Pins.reset, gaffer := Gaffer.reset, fuses := Fuses.reset,
    log := EventLog.reset, dict := Dict.reset, power := Power.reset, ageing := Ageing.reset, fabric := Fabric.reset,
    mem := Mem.reset, cores := [], groups := [], serving := Serving.reset, reels := Reels.reset, slate := Slate.reset,
    net := Net.reset, host := HostPort.reset, can := Can.reset, spi := Spi.reset, flash := Flash.reset, i2c := I2c.reset }

end Sys2Proof.Machine
end

