-- ==== Sys2Proof/Machine/Ops.lean ====
section
/-!
DEFINITION. The named operations over State that every meaning shares: sparse tables, one accessor and one update per kind
of unit, free values, the event log, committed dictionary values, core groups and identity, packets queued to the crossbar.
-/
namespace Sys2Proof.Machine

/-! ### Sparse tables -/

/-- The value a table lists under a key. -/
def tfind {α : Type} : Tbl α → Nat → Option α
  | [], _ => none
  | (k, v) :: t, n => if k = n then some v else tfind t n

/-- The value under a key, or the default of a key that is not listed. -/
def tget {α : Type} (t : Tbl α) (n : Nat) (d : α) : α := (tfind t n).getD d

/-- The table with v under the key n; keys stay in rising order. -/
def tput {α : Type} : Tbl α → Nat → α → Tbl α
  | [], n, v => [(n, v)]
  | (k, w) :: t, n, v => if n < k then (n, v) :: (k, w) :: t else if n = k then (n, v) :: t else (k, w) :: tput t n v

/-- The table without the key n. -/
def tdel {α : Type} (t : Tbl α) (n : Nat) : Tbl α := t.filter (fun e => e.1 != n)

/-- The table with the value under n changed by f, from the default d where n is not listed. -/
def tmod {α : Type} (t : Tbl α) (n : Nat) (d : α) (f : α → α) : Tbl α := tput t n (f (tget t n d))

/-! ### Units of the package -/

/-- Core c. -/
def coreOf (s : State) (c : Nat) : Core := tget s.cores c Core.reset
/-- Core c replaced. -/
def setCore (s : State) (c : Nat) (k : Core) : State := { s with cores := tput s.cores c k }
/-- Core c changed. -/
def modCore (s : State) (c : Nat) (f : Core → Core) : State := setCore s c (f (coreOf s c))

/-- Core group g. -/
def groupOf (s : State) (g : Nat) : Group := tget s.groups g Group.reset
/-- Group g changed. -/
def modGroup (s : State) (g : Nat) (f : Group → Group) : State :=
  { s with groups := tput s.groups g (f (groupOf s g)) }

/-- Compute domain d. -/
def domOf (s : State) (d : Nat) : Domain := tget s.power.domains d Domain.reset
/-- Domain d changed. -/
def modDom (s : State) (d : Nat) (f : Domain → Domain) : State :=
  { s with power := { s.power with domains := tput s.power.domains d (f (domOf s d)) } }

/-- Regulator of rail number r (0 to 7, R800). -/
def regOf (s : State) (r : Nat) : Regulator := tget s.power.regs r Regulator.reset
/-- Regulator r changed. -/
def modReg (s : State) (r : Nat) (f : Regulator → Regulator) : State :=
  { s with power := { s.power with regs := tput s.power.regs r (f (regOf s r)) } }

/-- Pass link n. -/
def linkOf (s : State) (n : Nat) : Link := tget s.net.links n Link.reset
/-- Link n changed. -/
def modLink (s : State) (n : Nat) (f : Link → Link) : State :=
  { s with net := { s.net with links := tput s.net.links n (f (linkOf s n)) } }

/-- Quad q. -/
def quadOf (s : State) (q : Nat) : Quad := tget s.net.quads q Quad.reset
/-- Quad q changed. -/
def modQuad (s : State) (q : Nat) (f : Quad → Quad) : State :=
  { s with net := { s.net with quads := tput s.net.quads q (f (quadOf s q)) } }

/-- PCIe function f. -/
def fnOf (s : State) (f : Nat) : Fn := tget s.host.fns f Fn.reset
/-- Function f changed. -/
def modFn (s : State) (f : Nat) (h : Fn → Fn) : State :=
  { s with host := { s.host with fns := tput s.host.fns f (h (fnOf s f)) } }

/-- Queue pair of tenant t. -/
def tqOf (s : State) (t : Nat) : TenantQ := tget s.host.tenants t TenantQ.reset
/-- Queue pair of tenant t changed. -/
def modTq (s : State) (t : Nat) (f : TenantQ → TenantQ) : State :=
  { s with host := { s.host with tenants := tput s.host.tenants t (f (tqOf s t)) } }

/-- Number of a host window: functions 0 to 31, then 256 + g for core group g. -/
def winNum : WindowId → Nat
  | .fn f => f.toNat
  | .group g => 256 + g.toNat
/-- Host window w. -/
def winOf (s : State) (w : Nat) : Window := tget s.host.windows w Window.reset
/-- Host window w changed. -/
def modWin (s : State) (w : Nat) (f : Window → Window) : State :=
  { s with host := { s.host with windows := tput s.host.windows w (f (winOf s w)) } }

/-- Stream tracker i. -/
def trackerOf (s : State) (i : Nat) : Tracker := tget s.serving.trackers i Tracker.reset
/-- Tracker i replaced; a free tracker is not listed. -/
def setTracker (s : State) (i : Nat) (t : Tracker) : State :=
  { s with serving := { s.serving with
      trackers := if t = Tracker.reset then tdel s.serving.trackers i else tput s.serving.trackers i t } }
/-- Tracker i changed. -/
def modTracker (s : State) (i : Nat) (f : Tracker → Tracker) : State := setTracker s i (f (trackerOf s i))

/-- Experience ring k. -/
def ringOf (s : State) (k : Nat) : RingUse := tget s.reels.rings k RingUse.reset
/-- Ring k changed. -/
def modRing (s : State) (k : Nat) (f : RingUse → RingUse) : State :=
  { s with reels := { s.reels with rings := tput s.reels.rings k (f (ringOf s k)) } }

/-- Stock channel ch. -/
def stockOf (s : State) (ch : Nat) : StockChannel := tget s.mem.stock ch StockChannel.reset
/-- Bridge channel at bridge × 32 + channel. -/
def chanOf (s : State) (i : Nat) : Channel := tget s.fabric.channels i Channel.reset

/-- Memory changed. -/
def modMem (s : State) (f : Mem → Mem) : State := { s with mem := f s.mem }
/-- Dictionary changed. -/
def modDict (s : State) (f : Dict → Dict) : State := { s with dict := f s.dict }
/-- Journal changed. -/
def modJournal (s : State) (f : Journal → Journal) : State :=
  { s with dict := { s.dict with journal := f s.dict.journal } }
/-- Power changed. -/
def modPower (s : State) (f : Power → Power) : State := { s with power := f s.power }
/-- Gaffer changed. -/
def modGaffer (s : State) (f : Gaffer → Gaffer) : State := { s with gaffer := f s.gaffer }
/-- Fabric changed. -/
def modFabric (s : State) (f : Fabric → Fabric) : State := { s with fabric := f s.fabric }
/-- Reels changed. -/
def modReels (s : State) (f : Reels → Reels) : State := { s with reels := f s.reels }
/-- Slate engine changed. -/
def modSlate (s : State) (f : Slate → Slate) : State := { s with slate := f s.slate }
/-- Links and crossbar changed. -/
def modNet (s : State) (f : Net → Net) : State := { s with net := f s.net }
/-- Host port changed. -/
def modHost (s : State) (f : HostPort → HostPort) : State := { s with host := f s.host }
/-- Field port changed. -/
def modCan (s : State) (f : Can → Can) : State := { s with can := f s.can }
/-- SPI target changed. -/
def modSpi (s : State) (f : Spi → Spi) : State := { s with spi := f s.spi }
/-- I2C controllers changed. -/
def modI2c (s : State) (f : I2c → I2c) : State := { s with i2c := f s.i2c }
/-- Pins changed. -/
def modPins (s : State) (f : Pins → Pins) : State := { s with pins := f s.pins }
/-- Ageing changed. -/
def modAgeing (s : State) (f : Ageing → Ageing) : State := { s with ageing := f s.ageing }

/-! ### Free values and outputs -/

/-- The free value at hand, counted i from the next one (log entry 2). -/
def freeAt (s : State) (i : Nat) : Nat := Config.free (s.freeCount + i)

/-- n free values are used up. -/
def useFree (s : State) (n : Nat) : State := { s with freeCount := s.freeCount + n }

/-- n bytes, each a free value. -/
def freeBytes (s : State) (n : Nat) : List Byte := (List.range n).map (fun i => BitVec.ofNat 8 (freeAt s i))

/-- The package drives something outward (log entry 3). -/
def emit (s : State) (o : Output) : State := { s with outputs := o :: s.outputs }

/-! ### Committed dictionary values -/

/-- Where the committed value of an entry's instance stands (R76, R82). -/
def dictKey (index sub ten : Nat) : Nat := index * 2 ^ 20 + sub * 2 ^ 12 + ten

/-- The value in effect of a writable entry, or the default d (R83). -/
def valOf (s : State) (index sub ten : Nat) (d : List Byte) : List Byte := tget s.dict.vals (dictKey index sub ten) d

/-- The value in effect of a writable scalar as a number, or the default d. -/
def valNat (s : State) (index sub ten : Nat) (d : Nat) : Nat :=
  match tfind s.dict.vals (dictKey index sub ten) with
  | some v => leNat v
  | none => d

/-- The value in effect of an entry replaced. -/
def setVal (s : State) (index sub ten : Nat) (v : List Byte) : State :=
  { s with dict := { s.dict with vals := tput s.dict.vals (dictKey index sub ten) v } }

/-- An entry's instance returned to its default (R83). -/
def clearVal (s : State) (index sub ten : Nat) : State :=
  { s with dict := { s.dict with vals := tdel s.dict.vals (dictKey index sub ten) } }

/-! ### The event log -/

/-- Source of an event: kind and instance (R164). -/
def evSrc (kind inst : Nat) : U16 := BitVec.ofNat 16 (kind * 4096 + inst % 4096)
/-- The Gaffer as a source (R932). -/
def srcGaffer : U16 := evSrc 0 0
def srcGroup (g : Nat) : U16 := evSrc 1 g
def srcLink (n : Nat) : U16 := evSrc 2 n
def srcDomain (d : Nat) : U16 := evSrc 3 d
def srcStock (ch : Nat) : U16 := evSrc 4 ch
def srcTenant (t : Nat) : U16 := evSrc 5 t
def srcBridge (b : Nat) : U16 := evSrc 6 b
/-- Field port instances (R164): 0 CAN FD, 1 SPI target, 2 PMBus, 3 module bus, 4 flash. -/
def srcField (i : Nat) : U16 := evSrc 7 i

/-- The 16 bytes of an event record (R164). -/
def eventBytes (e : EventRec) : List Byte :=
  leBytes 4 e.seq.toNat ++ leBytes 4 e.time.toNat ++ leBytes 2 e.code.toNat ++ leBytes 2 e.source.toNat ++
    leBytes 4 e.detail.toNat

/-- The next event record written into its slot (R163). -/
def appendEvent (s : State) (e : EventRec) : State :=
  { s with log := { s.log with
      next := s.log.next + 1
      recs := tput s.log.recs (s.log.next.toNat % 4096) e } }

/-- A field identifier (R749). -/
def fieldIdent (cls dst src svc tag : Nat) : BitVec 29 :=
  BitVec.ofNat 29 (cls % 8 * 2 ^ 26 + dst % 128 * 2 ^ 19 + src % 128 * 2 ^ 12 + svc % 16 * 256 + tag % 256)

/-- The lengths that an FD frame can carry (R750, ISO 11898-1). -/
def fdLengths : List Nat := [0, 1, 2, 3, 4, 5, 6, 7, 8, 12, 16, 20, 24, 32, 48, 64]

/-- An FD payload padded with zero bytes to the next valid length (R750). -/
def fdPad (l : List Byte) : List Byte :=
  match fdLengths.find? (fun n => l.length ≤ n) with
  | some n => fit n l
  | none => l

/-- An FD frame of the Loeth: with bit-rate switching whenever the locked data code is not 0 (R750). A port that is not in
the state active sends nothing (R759; log entry 20). -/
def canSendFd (s : State) (ident : BitVec 29) (data : List Byte) : State :=
  if s.can.state = .active then emit s (.can ident true (s.can.data != 0) (fdPad data)) else s

/-- CAN_ALARM_EVENT_SEND (R755): an alarm-class event is broadcast as one alarm frame; its tag is a free value. -/
def alarmFrame (s : State) (e : EventRec) : State :=
  if e.code.toNat / 4096 = 4 then
    useFree (canSendFd s (fieldIdent 0 0 s.can.node 3 (freeAt s 0)) (eventBytes e)) 1
  else s

/-- Function and MSI-X entry of an interrupt vector (R705); the vectors from 4,032 on are reserved. -/
def vectorPlace (v : Nat) : Option (Nat × Nat) :=
  if v < 2048 then some (0, v) else if v < 4032 then some (1 + (v - 2048) / 64, (v - 2048) % 64) else none

/-- An MSI-X message of a function's entry (R729): a masked vector sets its pending bit. -/
def sendMsix (s : State) (f e : Nat) : State :=
  let x := tget (fnOf s f).msix e MsixEntry.reset
  if (fnOf s f).msixEnable = false then s
  else if x.masked ∨ (fnOf s f).fnMask then
    modFn s f (fun k => { k with msix := tput k.msix e { x with pendingBit := true } })
  else emit (modFn s f (fun k => { k with msix := tput k.msix e { x with pendingBit := false } })) (.msix (BitVec.ofNat 5 f) x.addr x.data)

/-- An interrupt vector is raised (R705, R706). -/
def raiseVector (s : State) (v : Nat) : State :=
  match vectorPlace v with
  | some (f, e) => sendMsix s f e
  | none => s

/-- An alarm is broadcast on the field bus (R755) and raises vector 2,046 (R706). -/
def alarmOut (s : State) (e : EventRec) : State :=
  if e.code.toNat / 4096 = 4 then raiseVector (alarmFrame s e) 2046 else s

/-- The Gaffer logs an event (R163, R164); an alarm goes out as well. -/
def logEvent (s : State) (code : Nat) (source : U16) (detail : Nat) : State :=
  let e : EventRec :=
    { seq := s.log.next, time := s.log.ms, code := BitVec.ofNat 16 code, source := source,
      detail := BitVec.ofNat 32 detail }
  alarmOut (appendEvent s e) e

/-! ### Identity -/

/-- The package number of 0x1004 (R150). -/
def idNumber (s : State) : Nat := valNat s 0x1004 0 0 0x1FFF

/-- Bench substitution 0x5001 in force: substituted slot and bench slot (R677). -/
def substitution (s : State) : Option (Nat × Nat) :=
  if valNat s 0x5001 3 0 0 = 1 then some (valNat s 0x5001 1 0 0, valNat s 0x5001 2 0 64) else none

/-- The number the package takes as its own: a bench package that its own 0x5001 names as the bench slot takes the
substituted number (R678). -/
def ownPkg (s : State) : Nat :=
  match substitution s with
  | some (slot, bench) =>
    if idNumber s % 128 = bench ∧ idNumber s ≠ 0x1FFF then idNumber s / 128 * 128 + slot else idNumber s
  | none => idNumber s

/-- A package number with 0x1FFF resolved to this package (R270, R678). -/
def resolvePkg (s : State) (p : Nat) : Nat := if p = 0x1FFF then ownPkg s else p

/-! ### Cores, groups, tenants, domains -/

/-- Compute domain of a core (R827). -/
def domainOf (c : Nat) : Nat := 8 * (c / 512) + c / 4 % 8

/-- A domain's comparator has tripped and its handshakes are held until the Gaffer has restarted (R66, R874). -/
def tripHeld (s : State) (d : Nat) : Bool := s.power.heldTrips.any (fun e => e.1 == .domain (BitVec.ofNat 4 d))

/-- A core's compute domain is on, and its handshakes run (R828, R874). -/
def coreOn (s : State) (c : Nat) : Bool := (domOf s (domainOf c)).state == .on && !tripHeld s (domainOf c)

/-- A readiness bit of 0x1021 (R150). -/
def ready (s : State) (i : Nat) : Bool := s.gaffer.readiness.toNat.testBit i

/-- A readiness bit sets, and event 0x1003 is logged (R862). -/
def setReady (s : State) (i : Nat) : State :=
  if ready s i then s
  else logEvent (modGaffer s (fun g => { g with readiness := BitVec.ofNat 32 (withBit g.readiness.toNat i true) }))
    0x1003 srcGaffer i

/-- Core c is named by the member bitmap 0x4100+g.01 (R153). -/
def isMember (s : State) (g c : Nat) : Bool :=
  ((valOf s (0x4100 + g) 1 0 []).getD (c / 8) 0).toNat.testBit (c % 8)

/-- The members of a bitmap of 128 bytes, in ascending core ID (R215). -/
def bitmapCores (l : List Byte) : List Nat :=
  (List.range 128).flatMap (fun i =>
    let b := (l.getD i 0).toNat
    if b = 0 then [] else ((List.range 8).filter (fun j => b.testBit j)).map (fun j => 8 * i + j))

/-- The members of group g in ascending core ID (R215). -/
def members (s : State) (g : Nat) : List Nat := bitmapCores (valOf s (0x4100 + g) 1 0 [])

/-- Tenant context 0x4100+g.02 of a group. -/
def groupTenant (s : State) (g : Nat) : Nat := valNat s (0x4100 + g) 2 0 0
/-- Role 0x4100+g.04 of a group: 0 general, 1 generator, 2 learner. -/
def groupRole (s : State) (g : Nat) : Nat := valNat s (0x4100 + g) 4 0 0

/-- The groups that are not idle, in ascending number. -/
def busyGroups (s : State) : List Nat := (s.groups.filter (fun e => e.2.state != .idle)).map (·.1)

/-- The groups that run (0x4400+g.01 reads 1). -/
def runningGroups (s : State) : List Nat := (s.groups.filter (fun e => e.2.state == .running)).map (·.1)

/-- The running group of which a core is a member. -/
def runningGroup (s : State) (c : Nat) : Option Nat := (runningGroups s).find? (fun g => isMember s g c)

/-- The groups whose member bitmap has been written, from the committed values. -/
def namedGroups (s : State) : List Nat :=
  (List.range 256).filter (fun g => (tfind s.dict.vals (dictKey (0x4100 + g) 1 0)).isSome)

/-- A group holds its members: it does not read 2, or its cores are being restored (R345, R346). -/
def holdsCores (s : State) (g : Nat) : Bool := (groupOf s g).state != .preempted || (groupOf s g).restoring

/-- The group a core belongs to (R214): the running one; else one that is not idle and holds its cores; else the lowest that names
it, one that reads 2 left out (R345). -/
def groupOfCore (s : State) (c : Nat) : Option Nat :=
  match runningGroup s c with
  | some g => some g
  | none => match (busyGroups s).find? (fun g => holdsCores s g && isMember s g c) with
    | some g => some g
    | none => (namedGroups s).find? (fun g => holdsCores s g && isMember s g c)

/-- Tenant context of the group a core belongs to, when it belongs to one. -/
def coreTenant? (s : State) (c : Nat) : Option Nat := (groupOfCore s c).map (groupTenant s)

/-- Tenant context of a core; the operator context 0x000 for a core of no group. -/
def coreTenant (s : State) (c : Nat) : Nat := (coreTenant? s c).getD 0

/-- A member's rank: its index among the members in ascending core ID (R215). -/
def rankOf (s : State) (g c : Nat) : Nat := ((members s g).takeWhile (fun m => m < c)).length

/-- 0xA030 of a tenant; tenant 0x000 reads true (R159). -/
def tenantEnabled (s : State) (t : Nat) : Bool := t == 0 || valNat s 0xA030 0 t 0 == 1

/-- A tenant reset of t runs: 0xA031 reads true (R363). -/
def tenantResetting (s : State) (t : Nat) : Bool := (tqOf s t).resetStep != 0

/-- Life-cycle state 0x1010 from the fuses (R878): the retire fuse gives RETIRED; else the row count n gives BLANK,
PROVISIONED and then DEPLOYED or SERVICE by turns. -/
def lifeState (s : State) : Nat :=
  if s.fuses.retired then 4
  else if s.fuses.rows = 0 then 0
  else if s.fuses.rows = 1 then 1
  else if s.fuses.rows % 2 = 0 then 2 else 3

/-! ### Packets of this package's own -/

/-- A packet starts: into the crossbar's buffers, or straight to this package's own port 16 where it is addressed to the
package itself (R489, R672). One of a tenant whose reset runs here is discarded (R363 step 2). -/
def sendPacket (s : State) (p : Packet) : State :=
  if (p.vc = 1 ∨ p.vc = 2) ∧ tenantResetting s p.tenant then s
  else if p.dst = ownPkg s then modNet s (fun n => { n with inbox := n.inbox ++ [(16, p)] })
  else modNet s (fun n => { n with xbar := n.xbar ++ [{ packet := p, fromLink := none }] })

/-- A packet of this package: the source is its own number and it has made no hop (R632, R674). -/
def mkPacket (s : State) (vc : Nat) (response : Bool) (dst op : Nat) (wants : Bool) (ten tag arg : Nat)
    (body : List Byte) : Packet :=
  { vc := vc, response := response, dst := dst, src := ownPkg s, hops := 0, op := op, wantsAnswer := wants, tenant := ten,
    tag := tag, arg := arg, body := body }

/-- A transfer tag is taken for an answer that is awaited (R632); 0 is kept for packets that await none. -/
def takeTag (s : State) (o : Outstanding) : State :=
  modNet s (fun n => { n with nextTag := n.nextTag % 65535 + 1, out := tput n.out n.nextTag o })

/-- A request to another package whose answer is awaited (R632, R636). -/
def sendRequest (s : State) (vc dst op ten arg : Nat) (body : List Byte) (o : Outstanding) : State :=
  sendPacket (takeTag s o) (mkPacket s vc false dst op true ten s.net.nextTag arg body)

/-- An answer to a packet, with its tag, to its source (R632). -/
def answer (s : State) (p : Packet) (op arg : Nat) (body : List Byte) : State :=
  sendPacket s (mkPacket s p.vc (p.vc != 0) p.src op false p.tenant p.tag arg body)

/-- Buffers of n flits of a pool at a link are free again: the credits are owed to its partner (R638). Port 16 has none. -/
def freeBuffer (s : State) (port pool n : Nat) : State :=
  if port < 16 then modLink s port (fun l => { l with owed := tmod l.owed pool 0 (fun v => v + n) }) else s

/-- Flits that a packet of a body of n bytes takes (R632). -/
def flitsOf (n : Nat) : Nat := (16 + n + 239) / 240

/-- Pool of a virtual channel and class (R637). -/
def poolOf (vc : Nat) (response : Bool) : Nat :=
  match vc with
  | 0 => 0
  | 1 => if response then 2 else 1
  | 2 => if response then 4 else 3
  | _ => 5

/-- Pools in which a packet operation arrives (table Packet operations). -/
def opPools (op : Nat) : List Nat :=
  if op = 0x2F then [2, 4]
  else if op < 0x10 then [0]
  else if op < 0x18 then [1]
  else if op < 0x20 then [2]
  else if op < 0x28 then [3] else [4]

/-- The oldest whole packet of a pool received on a port, where it has an operation; it leaves the buffer (R635, R638). -/
def takePacket (s : State) (port op : Nat) : Option (State × Packet) :=
  firstSome (fun pool =>
    match s.net.inbox.find? (fun e => e.1 == port && e.2.vc != 3 && poolOf e.2.vc e.2.response == pool) with
    | some (p, k) =>
      if k.op = op then
        some (freeBuffer (modNet s (fun n => { n with inbox := n.inbox.erase (p, k) })) port pool (flitsOf k.body.length), k)
      else none
    | none => none) (opPools op)

/-- What the answer with a transfer tag completes, which is then no longer awaited (R632). -/
def takeOutstanding (s : State) (tag : Nat) : State × Option Outstanding :=
  (modNet s (fun n => { n with out := tdel n.out tag }), tfind s.net.out tag)

/-- Every package a package of frame f may hold (R364): slots 0 to 71. -/
def frameSlots (f : Nat) : List Nat := (List.range 72).map (fun i => f * 128 + i)

end Sys2Proof.Machine
end

