-- ==== Sys2Proof/Machine/DictMap.lean ====
section
/-!
DEFINITION. The dictionary index map (04_dictionary_map.md R141 to R161, R930): every entry with its type, rights, effect class,
default, markers and the limits a written value is checked against.
-/
namespace Sys2Proof.Machine

/-- One entry or field of the map: type code (R76), rights as five digits in role order (2 for W, 1 for R, 0 for -, R78), effect
class as R105 codes it, the markers P, T, O and K, and the default value's bytes (R149: zeros where the map shows none). -/
structure Desc where
  ty : Nat
  rights : Nat
  cls : Nat
  persist : Bool
  perTen : Bool
  once : Bool
  kept : Bool
  dflt : List Byte
deriving DecidableEq, Repr

/-- An index of the map: one entry that stands alone, or a record with its fields by subindex (R77). -/
inductive MapEntry where
  | one (d : Desc)
  | rec' (fs : List (Nat × Desc))
deriving DecidableEq, Repr

/-! ### Types, rights and classes (R76, R78, R105) -/

def tBool : Nat := 1
def tU8 : Nat := 2
def tU16 : Nat := 3
def tU32 : Nat := 4
def tU64 : Nat := 5
def tI32 : Nat := 6
def tF32 : Nat := 7
def tStr : Nat := 8
def tBlob : Nat := 9
def tRec : Nat := 10

/-- Size of a value of a type; 0 for STR, BLOB and REC, whose size the entry gives (R76). -/
def tySize (t : Nat) : Nat :=
  if t = tBool ∨ t = tU8 then 1
  else if t = tU16 then 2
  else if t = tU32 ∨ t = tI32 ∨ t = tF32 then 4
  else if t = tU64 then 8
  else 0

/-- A type whose value has pieces and offsets. -/
def isText (t : Nat) : Bool := t == tStr || t == tBlob

def cFixed : Nat := 0
def cLive : Nat := 1
def cHuddle : Nat := 2
def cReel : Nat := 3
def cQuiet : Nat := 4
def cReset : Nat := 5
def cSelf : Nat := 6

/-- Roles in the order of R78. -/
inductive Role where
  | system | operator | tenant | service | field
deriving DecidableEq, Repr

/-- A role's place in a rights string, counted from the last character. -/
def Role.place : Role → Nat
  | .system => 4
  | .operator => 3
  | .tenant => 2
  | .service => 1
  | .field => 0

/-- The digit a rights number gives a role. -/
def rightOf (rights : Nat) (r : Role) : Nat := rights / 10 ^ r.place % 10

/-- The rights byte of read information: W, R or - (R105). -/
def rightByte (d : Nat) : Byte := if d = 2 then 0x57 else if d = 1 then 0x52 else 0x2D

/-- The five rights bytes in role order (R105). -/
def rightBytes (rights : Nat) : List Byte :=
  [Role.system, .operator, .tenant, .service, .field].map (fun r => rightByte (rightOf rights r))

/-! ### Rows of the map -/

/-- A row that only the Loeth sets (R144), of n bytes. -/
def ownN (ty rights n : Nat) : Desc :=
  { ty := ty, rights := rights, cls := cSelf, persist := false, perTen := false, once := false, kept := false, dflt := zeros n }

/-- A scalar row that only the Loeth sets. -/
def own (ty rights : Nat) : Desc := ownN ty rights (tySize ty)

/-- A row of class fixed, with its value. -/
def fixedRow (ty : Nat) (v : List Byte) : Desc := { ownN ty 11111 0 with cls := cFixed, dflt := v }

/-- A writable scalar row with its class and its default. -/
def row (ty rights cls d : Nat) : Desc := { ownN ty rights 0 with cls := cls, dflt := leBytes (tySize ty) d }

/-- A writable BLOB row. -/
def blob (rights cls : Nat) (d : List Byte) : Desc := { ownN tBlob rights 0 with cls := cls, dflt := d }

/-- The marker P (R145). -/
def mkP (d : Desc) : Desc := { d with persist := true }
/-- The marker T (R145). -/
def mkT (d : Desc) : Desc := { d with perTen := true }
/-- The marker K (R171). -/
def mkK (d : Desc) : Desc := { d with kept := true }
/-- The marker O (R145). -/
def mkO (d : Desc) : Desc := { d with once := true }

/-- The 16 characters of 0x1003 (R150), fixed per part. -/
def serialBytes : List Byte := (List.range 16).map Config.serialByte

/-- The characters of 0x1001 (R24, R150): "XL6-L" or "XL6-S". -/
def orderingCode : List Byte := [0x58, 0x4C, 0x36, 0x2D, if Config.longLife then 0x4C else 0x53]

/-- Rated life in hours, 0x2060.02 (R25, R151). -/
def ratedLife : Nat := if Config.longLife then 70080 else 43800

/-- Identity, life cycle and communication (R150). -/
def map1 (i : Nat) : Option MapEntry :=
  match i with
  | 0x1000 => some (.one (fixedRow tU32 (leBytes 4 0x00584C06)))
  | 0x1001 => some (.one (fixedRow tStr orderingCode))
  | 0x1002 => some (.one (fixedRow tU32 (leBytes 4 (Config.steppings.toNat % 2 ^ 24))))
  | 0x1003 => some (.one (fixedRow tStr serialBytes))
  | 0x1004 => some (.one (mkP (row tU16 22121 cReset 0x1FFF)))
  | 0x1010 => some (.one (own tU8 11111))
  | 0x1011 => some (.rec' [(1, row tU8 22020 cQuiet 0), (2, row tU32 22020 cQuiet 0)])
  | 0x1012 => some (.one (own tBool 11111))
  | 0x1020 => some (.one (own tBool 11111))
  | 0x1021 => some (.one (own tU32 11111))
  | 0x1030 => some (.one (own tU32 11111))
  | 0x1031 => some (.one (fixedRow tU32 (leBytes 4 Config.romVersion.toNat)))
  | 0x1040 => some (.rec' [(1, own tU8 11111), (2, own tU32 11111), (3, own tU32 11111), (4, own tU32 11111)])
  | _ => none

/-- Power, thermal and ageing (R151); the families stand under their base. -/
def map2 (i : Nat) : Option MapEntry :=
  match i with
  | 0x2000 => some (.one (mkK (mkP (row tU16 22021 cLive 750))))
  | 0x2001 => some (.one (own tU16 11111))
  | 0x2002 => some (.one (own tU32 11011))
  | 0x2003 => some (.one (mkP (row tU16 22021 cLive 1250)))
  | 0x2010 => some (.rec' [(1, mkK (row tU8 22021 cLive 0)), (2, own tU8 11111), (3, own tU32 11011), (4, own tU32 11111),
      (5, own tF32 11011), (6, own tU64 11011)])
  | 0x2020 => some (.one (own tF32 11111))
  | 0x2021 => some (.one (mkP (row tF32 22020 cLive 0x42C80000)))
  | 0x2022 => some (.one (own tU16 11011))
  | 0x2023 => some (.one (own tU16 11011))
  | 0x2030 => some (.rec' [(1, own tU16 11011), (2, own tU16 11011), (3, own tU16 11011), (4, own tU16 11011),
      (5, own tU16 11011), (6, own tU16 11011)])
  | 0x2040 => some (.rec' [(1, own tU16 11011), (2, own tU16 11011)])
  | 0x2050 => some (.one (own tBool 11111))
  | 0x2051 => some (.one (row tBool 22020 cLive 0))
  | 0x2060 => some (.rec' [(1, own tU32 11111), (2, fixedRow tU32 (leBytes 4 ratedLife)), (3, own tU32 11111),
      (4, ownN tBlob 11011 64), (5, own tU8 11011), (6, own tU32 11011), (7, own tU64 11011)])
  | _ => none

/-- Memory and translation (R152). -/
def map3 (i : Nat) : Option MapEntry :=
  match i with
  | 0x3000 => some (.rec' [(1, own tU64 11011), (2, own tU32 11011), (3, own tU64 11010)])
  | 0x3001 => some (.rec' [(1, own tU64 11010), (2, own tU32 11010), (3, own tU64 11010)])
  | 0x3002 => some (.rec' [(1, own tU64 11010), (2, own tU32 11010), (3, own tU64 11010)])
  | 0x3010 => some (.one (mkP (row tU16 22020 cReset 8533)))
  | 0x3011 => some (.one (own tU16 11111))
  | 0x3020 => some (.rec' [(1, own tU8 11011), (2, own tU8 11011), (3, own tU16 11011)])
  | 0x3030 => some (.one (mkT (blob 22120 cQuiet (zeros 1024))))
  | 0x3031 => some (.one (mkT (row tU8 22120 cQuiet 0)))
  | 0x3040 => some (.rec' [(1, own tU8 11011), (2, own tU8 11011)])
  | _ => none

/-- Cores and kernels (R153). -/
def map4 (i : Nat) : Option MapEntry :=
  match i with
  | 0x4000 => some (.one (fixedRow tU16 (leBytes 2 1024)))
  | 0x4001 => some (.one (ownN tBlob 11011 128))
  | 0x4002 => some (.one (fixedRow tU8 [0x0A]))
  | 0x4100 => some (.rec' [(1, blob 22020 cQuiet (zeros 128)), (2, row tU16 22120 cQuiet 0), (3, row tU64 22120 cQuiet 0),
      (4, row tU8 22120 cQuiet 0)])
  | 0x4200 => some (.rec' [(1, row tBool 22220 cHuddle 0), (2, row tU64 22220 cHuddle 0), (3, row tU8 22220 cHuddle 0),
      (4, row tBool 22220 cHuddle 0), (0xFE, own tU8 11110)])
  | 0x4300 => some (.one (row tU8 22220 cLive 0))
  | 0x4400 => some (.rec' [(1, own tU8 11110), (2, own tU64 11110), (3, own tU32 11110), (4, own tU16 11110)])
  | _ => none

/-- Links and routing (R154). -/
def map5 (i : Nat) : Option MapEntry :=
  match i with
  | 0x5000 => some (.one (blob 22020 cLive (zeros 8192)))
  | 0x5001 => some (.rec' [(1, row tU8 22021 cLive 0), (2, row tU8 22021 cLive 64), (3, row tBool 22021 cLive 0)])
  | 0x5100 => some (.rec' [(1, mkP (row tU8 22020 cQuiet 0x0F)), (2, mkP (row tU8 22020 cQuiet 0x0F)),
      (3, mkP (row tU8 22020 cQuiet 0x03)), (4, mkP (row tBool 22020 cQuiet 1))])
  | 0x5200 => some (.rec' [(1, own tU8 11011), (2, own tU8 11011), (3, own tU8 11011), (4, own tU8 11011),
      (5, own tU16 11011), (6, own tU8 11011), (7, own tU16 11011)])
  | 0x5300 => some (.rec' [(1, own tU8 11011), (2, own tU32 11011)])
  | _ => none

/-- Serving (R155); field 0x01 + b of bucket b. -/
def map6 (i : Nat) : Option MapEntry :=
  match i with
  | 0x6000 => some (.one (fixedRow tU16 (leBytes 2 16384)))
  | 0x6001 => some (.one (own tU16 11111))
  | 0x6010 => some (.rec' ((List.range 16).map (fun b => (b + 1, mkP (row tU32 22220 cHuddle (64 * 2 ^ b)))) ++
      [(0xFE, own tU8 11110)]))
  | 0x6020 => some (.rec' ((List.range 16).map (fun b => (b + 1, row tU32 22220 cHuddle 0)) ++ [(0xFE, own tU8 11110)]))
  | 0x6021 => some (.one (ownN tBlob 11111 64))
  | 0x6030 => some (.one (row tU64 22020 cQuiet 0))
  | 0x6031 => some (.one (fixedRow tU16 (leBytes 2 4096)))
  | 0x6032 => some (.one (fixedRow tU16 (leBytes 2 0x1040)))
  | _ => none

/-- Reels, experience and slates (R156). -/
def map7 (i : Nat) : Option MapEntry :=
  match i with
  | 0x7000 => some (.rec' [(1, own tU16 11111), (2, own tU16 11111), (3, own tU8 11111), (4, own tU16 11111),
      (5, own tU16 11111)])
  | 0x7010 => some (.one (fixedRow tU8 [3]))
  | 0x7120 => some (.rec' [(1, mkP (row tU8 22021 cReel 25)), (2, mkP (row tU8 22020 cReel 0)), (0xFE, own tU8 11011)])
  | 0x7130 => some (.rec' [(1, row tU64 22120 cQuiet 0), (2, row tU8 22120 cQuiet 0), (3, own tU64 11110),
      (4, own tU64 11110)])
  | 0x7200 => some (.one (row tU8 22020 cHuddle 1))
  | 0x7210 => some (.rec' [(1, row tU16 22020 cQuiet 0x1FFF), (2, row tU64 22020 cQuiet 0)])
  | 0x7211 => some (.rec' [(1, own tU64 11011), (2, own tU64 11011), (3, own tU16 11011)])
  | _ => none

/-- Host port and queues (R157). -/
def map8 (i : Nat) : Option MapEntry :=
  match i with
  | 0x8000 => some (.rec' [(1, own tU8 11011), (2, own tU8 11011), (3, own tBool 11011)])
  | 0x8001 => some (.one (own tU8 11011))
  | 0x8002 => some (.one (mkP (row tBool 22020 cReset 1)))
  | 0x8010 => some (.one (mkP (row tU16 22020 cQuiet 0x8000)))
  | 0x8100 => some (.rec' [(1, mkT (row tU64 22120 cQuiet 0)), (2, mkT (row tU64 22120 cQuiet 0)),
      (3, mkT (row tU8 22120 cQuiet 6)), (4, mkT (row tU16 22120 cQuiet 0)), (5, mkT (row tBool 22220 cLive 0))])
  | _ => none

/-- Field ports (R158). -/
def map9 (i : Nat) : Option MapEntry :=
  match i with
  | 0x9000 => some (.one (mkP (row tU8 22021 cReset 127)))
  | 0x9001 => some (.one (mkP (row tU8 22021 cReset 0)))
  | 0x9002 => some (.one (mkP (row tU8 22021 cReset 0)))
  | 0x9003 => some (.rec' [(1, own tU8 11011), (2, own tU8 11011), (3, own tU8 11011), (4, own tU8 11011)])
  | 0x9004 => some (.one (ownN tBlob 11011 0))
  | 0x9005 => some (.one (row tU8 22022 cLive 0))
  | 0x9010 => some (.one (row tU32 22020 cLive 0))
  | 0x9020 => some (.rec' [(1, own tU32 11010), (2, own tU32 11010), (3, own tU8 11010)])
  | 0x9030 => some (.rec' [(1, own tU8 11011), (2, own tU32 11010), (3, mkP (row tU16 22020 cReset 400))])
  | 0x9031 => some (.rec' [(1, own tU8 11011), (2, own tU16 11011), (3, mkP (row tU16 22020 cReset 400))])
  | 0x9040 => some (.one (ownN tBlob 11011 128))
  | _ => none

/-- Security (R159). -/
def mapA (i : Nat) : Option MapEntry :=
  match i with
  | 0xA000 => some (.rec' [(1, own tU8 11111), (2, own tU32 11111), (3, own tU32 11011), (4, own tU32 11011)])
  | 0xA001 => some (.one (mkP (row tU8 22020 cReset 0)))
  | 0xA002 => some (.one (row tU32 22020 cReset 0))
  | 0xA010 => some (.one (mkO (blob 22021 cFixed (List.replicate 48 0xFF))))
  | 0xA020 => some (.one (ownN tBlob 11010 48))
  | 0xA021 => some (.one (blob 22020 cLive []))
  | 0xA030 => some (.one (mkT (row tBool 22120 cQuiet 0)))
  | 0xA031 => some (.one (mkT (row tBool 22020 cLive 0)))
  | _ => none

/-- Counters and event log (R161). -/
def mapF (i : Nat) : Option MapEntry :=
  match i with
  | 0xF000 => some (.one (own tU32 11011))
  | 0xF001 => some (.one (ownN tBlob 11011 65536))
  | 0xF002 => some (.one (row tBool 22020 cLive 0))
  | 0xF003 => some (.one (row tBool 22020 cLive 0))
  | 0xF100 => some (.rec' [(1, own tU64 11011), (2, own tU64 11011), (3, own tU64 11011), (4, own tU64 11011),
      (5, own tU32 11011)])
  | 0xF200 => some (.rec' [(1, mkT (own tU64 11110)), (2, mkT (own tU64 11110)), (3, mkT (own tU64 11110))])
  | _ => none

/-- The families base+v of the map (R142): base, first and last index. -/
def families : List (Nat × Nat × Nat) :=
  [(0x2010, 0x2010, 0x201F), (0x2040, 0x2040, 0x2043), (0x3020, 0x3020, 0x302F), (0x4100, 0x4100, 0x41FF),
   (0x4200, 0x4200, 0x42FF), (0x4300, 0x4300, 0x43FF), (0x4400, 0x4400, 0x44FF), (0x5100, 0x5100, 0x510F),
   (0x5200, 0x5200, 0x520F), (0x5300, 0x5300, 0x5303), (0x7130, 0x7130, 0x7137), (0x8010, 0x8011, 0x802F),
   (0x9040, 0x9040, 0x904F), (0xF100, 0xF100, 0xF10F)]

/-- Base of the family an index belongs to, or the index itself; none where a base has no instance (R142, R157). -/
def baseOf (i : Nat) : Option Nat :=
  match families.find? (fun f => decide (f.2.1 ≤ i ∧ i ≤ f.2.2)) with
  | some f => some f.1
  | none => if i = 0x8010 then none else some i

/-- The map's entry under an index (R141). -/
def entryAt (i : Nat) : Option MapEntry :=
  match baseOf i with
  | none => none
  | some b =>
    match b / 4096 with
    | 0x1 => map1 b
    | 0x2 => map2 b
    | 0x3 => map3 b
    | 0x4 => map4 b
    | 0x5 => map5 b
    | 0x6 => map6 b
    | 0x7 => map7 b
    | 0x8 => map8 b
    | 0x9 => map9 b
    | 0xA => mapA b
    | 0xF => mapF b
    | _ => none

/-! ### Records (R77, R93, R933) -/

/-- The greater right of two, role by role, as a rights number. -/
def joinRights (a b : Nat) : Nat :=
  [Role.system, .operator, .tenant, .service, .field].foldl
    (fun n r => n + max (rightOf a r) (rightOf b r) * 10 ^ r.place) 0

/-- A rights number with every W as R. -/
def readRights (a : Nat) : Nat :=
  [Role.system, .operator, .tenant, .service, .field].foldl (fun n r => n + min (rightOf a r) 1 * 10 ^ r.place) 0

/-- The classes in order, the most restrictive first (R933). -/
def restrictive : List Nat := [cFixed, cReset, cQuiet, cReel, cHuddle, cLive]

/-- The class that read information reports for a record: the most restrictive of its writable fields' classes (R933). -/
def recClass (fs : List (Nat × Desc)) : Nat :=
  let ws := fs.filter (fun f => [Role.system, .operator, .tenant, .service, .field].any (fun r => rightOf f.2.rights r == 2))
  (restrictive.find? (fun c => ws.any (fun f => f.2.cls == c))).getD cSelf

/-- The commit count of a record as an entry of the map (R933): a U8 reported as type REC. -/
def countDesc (fs : List (Nat × Desc)) : Desc :=
  { ty := tRec, rights := fs.foldl (fun n f => joinRights n f.2.rights) 0, cls := recClass fs,
    persist := fs.any (·.2.persist), perTen := fs.any (·.2.perTen), once := false, kept := false, dflt := [0] }

/-- What a subindex of an index names (R77, R141). -/
def descOf (e : MapEntry) (sub : Nat) : Option Desc :=
  match e with
  | .one d => if sub = 0 then some d else none
  | .rec' fs => if sub = 0 then some (countDesc fs) else (fs.find? (fun f => f.1 == sub)).map (·.2)

/-- The entry and subindex of the map (R141). -/
def desc (i sub : Nat) : Option Desc := (entryAt i).bind (fun e => descOf e sub)

/-- The fields of a record that a party may write (R146): all but those that only the Loeth sets. -/
def writable (fs : List (Nat × Desc)) : List (Nat × Desc) := fs.filter (fun f => f.2.cls != cSelf && f.2.cls != cFixed)

/-- The index names a record. -/
def isRecord (i : Nat) : Bool := match entryAt i with
  | some (.rec' _) => true
  | _ => false

/-- The fields of a record; none for any other index. -/
def fieldsOf (i : Nat) : List (Nat × Desc) := match entryAt i with
  | some (.rec' fs) => fs
  | _ => []

/-- The persistent fields of a record in subindex order (R121). -/
def persistFields (i : Nat) : List (Nat × Desc) := (fieldsOf i).filter (·.2.persist)

/-- The map's default of an entry or field. -/
def defaultOf (i sub : Nat) : List Byte := ((desc i sub).map (·.dflt)).getD []

/-- Bytes that a completed write of an entry carries: 96 for 0xA021 (R159), else the default's size. -/
def valueSize (i : Nat) (d : Desc) : Nat := if i = 0xA021 then 96 else d.dflt.length

/-! ### Limits of written values (R76, R930, and the rows of the map) -/

/-- 0x0007, out of range, unless the condition holds. -/
def inRange (c : Bool) : Nat := if c then 0 else 0x0007
/-- 0x0008, not allowed, unless the condition holds. -/
def inList (c : Bool) : Nat := if c then 0 else 0x0008
/-- The first of two codes that is not 0. -/
def orCode (a b : Nat) : Nat := if a = 0 then b else a

/-- A binary32 that is a NaN. -/
def isNan32 (v : Nat) : Bool := decide (0x7F800000 < v % 2 ^ 31)

/-- The limit that the map's row gives an entry or field (R150 to R161, R930), by the family's base; 0 where the value passes. -/
def rowCheck (b sub v : Nat) : Nat :=
  match b, sub with
  | 0x1004, _ => orCode (inRange (decide (v < 0x2000))) (inList (v == 0x1FFF || decide (v % 128 < 72)))
  | 0x2000, _ => inRange (decide (620 ≤ v ∧ v ≤ 880))
  | 0x2003, _ => inRange (decide (300 ≤ v ∧ v ≤ 1250))
  | 0x2010, _ => inList (decide (v ≤ 2))
  | 0x2021, _ => inRange (decide (0x428C0000 ≤ v ∧ v ≤ 0x42D00000))
  | 0x3010, _ => inList (v == 6400 || v == 7500 || v == 8533)
  | 0x3031, _ => inRange (decide (v ≤ 64))
  | 0x4100, 2 => inRange (decide (v < 0x1000))
  | 0x4100, 4 => inList (decide (v ≤ 2))
  | 0x4200, 3 => inList (decide (v ≤ 2))
  | 0x4300, _ => orCode (inRange (v != 0)) (inList (decide (v ≤ 4)))
  | 0x5001, 1 => inRange (decide (v ≤ 63))
  | 0x5001, 2 => inRange (decide (64 ≤ v ∧ v ≤ 71))
  | 0x5100, 3 => orCode (inRange (decide (v ≤ 3))) (inList (v != 0))
  | 0x5100, 4 => 0
  | 0x5100, _ => orCode (inRange (decide (v ≤ 15))) (inList (v != 0))
  | 0x7120, 1 => inRange (decide (5 ≤ v ∧ v ≤ 60))
  | 0x7120, 2 => inList (decide (v ≤ 1))
  | 0x7130, 2 => inRange (v == 0 || decide (10 ≤ v ∧ v ≤ 26))
  | 0x7200, _ => inRange (decide (v ≤ 4))
  | 0x7210, 1 => inRange (decide (v < 0x2000))
  | 0x7210, 2 => inRange (v % 2 ^ 21 == 0)
  | 0x8010, _ => if v = 0x8000 then 0 else orCode (inRange (decide (v < 0x1000))) (inList (v != 0))
  | 0x8100, 3 => inRange (decide (4 ≤ v ∧ v ≤ 16))
  | 0x8100, 4 => inRange (decide (v < 4096))
  | 0x9000, _ => inRange (decide (1 ≤ v ∧ v ≤ 127))
  | 0x9001, _ => inList (decide (v ≤ 4))
  | 0x9002, _ => inList (decide (v ≤ 4))
  | 0x9010, _ => inRange (decide (v < 32))
  | 0x9030, _ => inList (v == 100 || v == 400 || v == 1000)
  | 0x9031, _ => inList (v == 100 || v == 400 || v == 1000)
  | 0xA001, _ => inList (decide (v ≤ 1))
  | _, _ => 0

/-- A value against its type and its row (R76, R930): an invalid BOOL and a NaN are out of range. -/
def valueCheck (i sub : Nat) (d : Desc) (l : List Byte) : Nat :=
  if isText d.ty then 0
  else if d.ty = tBool ∧ 1 < leNat l then 0x0007
  else if d.ty = tF32 ∧ isNan32 (leNat l) = true then 0x0007
  else rowCheck ((baseOf i).getD i) sub (leNat l)

/-! ### Read information (R105) -/

/-- The 16-byte record that read information returns. -/
def infoBytes (d : Desc) : List Byte :=
  leBytes 1 d.ty ++ leBytes 1 d.cls ++ leBytes 1 (b2n d.persist + 2 * b2n d.perTen + 4 * b2n d.once) ++ [0] ++
    rightBytes d.rights ++ zeros 3 ++ leBytes 4 d.dflt.length

end Sys2Proof.Machine
end

