-- ==== Sys2Proof/Machine/Float.lean ====
section
/-!
DEFINITION. FP32 arithmetic: every product exact, every named exact sum exact, every other result rounded once to nearest,
ties to even, subnormals kept, a NaN written as 0x7FC0_0000 (R189); the correctly rounded functions (R200), minimum, maximum
and comparison (R929), the composite functions (R201) and the pairwise tree (R195).
-/
namespace Sys2Proof.Machine

/-- A value of a binary format without rounding: NaN, an infinity, or a signed m × 2^e. -/
inductive Fp where
  | nan
  | inf (neg : Bool)
  | fin (neg : Bool) (m : Nat) (e : Int)
deriving DecidableEq, Repr

/-- An FP32 bit pattern. -/
abbrev F32 := U32

/-- The NaN that every NaN result is written as (R189). -/
def nan32 : F32 := 0x7FC00000
def inf32 : F32 := 0x7F800000
def negInf32 : F32 := 0xFF800000
def one32 : F32 := 0x3F800000

/-- m × 2^d for an integer d that is not negative. -/
def shl (m : Nat) (d : Int) : Nat := m * 2 ^ d.toNat

/-- m divided by 2^d, rounded to nearest, ties to even (R189). -/
def shrEven (m d : Nat) : Nat :=
  let h := 2 ^ d
  let q := m / h
  let r := m % h
  if h < 2 * r ∨ (2 * r = h ∧ q % 2 = 1) then q + 1 else q

/-- The exponent of the quantum of a format of precision p and least normal exponent emin at m × 2^e (R204). -/
def quantum (p : Nat) (emin : Int) (m : Nat) (e : Int) : Int := max (e + (log2 m : Int) - p + 1) (emin - p + 1)

/-- m × 2^e in quanta, rounded to nearest, ties to even. -/
def roundEven (m : Nat) (e qe : Int) : Nat := if qe ≤ e then shl m (e - qe) else shrEven m (qe - e).toNat

/-- m × 2^e in quanta, with r of 16 random bits added below the quantum and then truncated (R204). -/
def roundStochastic (m : Nat) (e qe : Int) (r : Nat) : Nat :=
  if qe ≤ e then shl m (e - qe) else (m * 2 ^ 16 + r * 2 ^ (qe - e).toNat) / 2 ^ (16 + (qe - e).toNat)

/-- The bit pattern of q quanta of exponent qe, without its sign, for a format of precision p and least normal exponent
emin. -/
def packMag (p : Nat) (emin : Int) (q : Nat) (qe : Int) : Nat := (qe - (emin - p + 1)).toNat * 2 ^ (p - 1) + q

/-- The value of an FP32 bit pattern. -/
def dec32 (b : F32) : Fp :=
  let v := b.toNat
  let neg := v.testBit 31
  let ex : Nat := v / 2 ^ 23 % 256
  let fr := v % 2 ^ 23
  if ex = 255 then (if fr = 0 then .inf neg else .nan)
  else if ex = 0 then .fin neg fr (-149)
  else .fin neg (2 ^ 23 + fr) ((ex : Int) - 150)

/-- A value rounded to FP32 (R189, R193). -/
def enc32 : Fp → F32
  | .nan => nan32
  | .inf neg => if neg then negInf32 else inf32
  | .fin neg m e =>
    let sign := if neg then 2 ^ 31 else 0
    if m = 0 then BitVec.ofNat 32 sign
    else
      let qe := quantum 24 (-126) m e
      let mag := packMag 24 (-126) (roundEven m e qe) qe
      BitVec.ofNat 32 (sign + min mag 0x7F800000)

/-- An exact sum. A zero sum is −0 only where both terms are −0 (IEEE 754-2019, to nearest). -/
def exAdd : Fp → Fp → Fp
  | .nan, _ => .nan
  | _, .nan => .nan
  | .inf a, .inf b => if a = b then .inf a else .nan
  | .inf a, _ => .inf a
  | _, .inf b => .inf b
  | .fin n1 m1 e1, .fin n2 m2 e2 =>
    let e := min e1 e2
    let a := shl m1 (e1 - e)
    let b := shl m2 (e2 - e)
    if n1 = n2 then .fin n1 (a + b) e
    else if a = b then .fin false 0 e
    else if b < a then .fin n1 (a - b) e else .fin n2 (b - a) e

/-- An exact product. -/
def exMul : Fp → Fp → Fp
  | .nan, _ => .nan
  | _, .nan => .nan
  | .inf a, .inf b => .inf (a != b)
  | .inf a, .fin b m _ => if m = 0 then .nan else .inf (a != b)
  | .fin a m _, .inf b => if m = 0 then .nan else .inf (a != b)
  | .fin a m1 e1, .fin b m2 e2 => .fin (a != b) (m1 * m2) (e1 + e2)

/-- The opposite. -/
def exNeg : Fp → Fp
  | .nan => .nan
  | .inf a => .inf (!a)
  | .fin a m e => .fin (!a) m e

def fAdd (a b : F32) : F32 := enc32 (exAdd (dec32 a) (dec32 b))
def fSub (a b : F32) : F32 := enc32 (exAdd (dec32 a) (exNeg (dec32 b)))
def fMul (a b : F32) : F32 := enc32 (exMul (dec32 a) (dec32 b))
/-- Fused multiply-add a × b + c with one rounding. -/
def fFma (a b c : F32) : F32 := enc32 (exAdd (exMul (dec32 a) (dec32 b)) (dec32 c))
/-- The sign changed. -/
def fNeg (a : F32) : F32 := enc32 (exNeg (dec32 a))

/-- The order of values that are not NaN, with −0 below +0 (R929). -/
def exLess : Fp → Fp → Bool
  | .inf a, .inf b => a && !b
  | .inf a, .fin .. => a
  | .fin .., .inf b => !b
  | .fin n1 m1 e1, .fin n2 m2 e2 =>
    let e := min e1 e2
    let a := shl m1 (e1 - e)
    let b := shl m2 (e2 - e)
    match n1, n2 with
    | true, false => true
    | false, true => false
    | false, false => decide (a < b)
    | true, true => decide (b < a)
  | _, _ => false

/-- A NaN bit pattern. -/
def isNan (a : F32) : Bool := dec32 a == .nan

/-- Minimum and maximum of IEEE 754-2019 (R929). -/
def fMin (a b : F32) : F32 :=
  if isNan a || isNan b then nan32 else if exLess (dec32 a) (dec32 b) then a else b
def fMax (a b : F32) : F32 :=
  if isNan a || isNan b then nan32 else if exLess (dec32 a) (dec32 b) then b else a

/-- Values compare equal: −0 equals +0 (R929). -/
def exEqual : Fp → Fp → Bool
  | .inf a, .inf b => a == b
  | .fin n1 m1 e1, .fin n2 m2 e2 =>
    let e := min e1 e2
    (m1 == 0 && m2 == 0) || (n1 == n2 && shl m1 (e1 - e) == shl m2 (e2 - e))
  | _, _ => false

/-- Whether a comparison predicate of IEEE 754-2019 holds; a NaN operand compares unordered (R929). -/
def fCompare (p : CmpPred) (a b : F32) : Bool :=
  let x := dec32 a
  let y := dec32 b
  let un := isNan a || isNan b
  let eq := exEqual x y
  let lt := !un && !eq && exLess x y
  let gt := !un && !eq && exLess y x
  match p with
  | .eq => eq
  | .ne => !eq
  | .lt => lt
  | .le => lt || eq
  | .gt => gt
  | .ge => gt || eq
  | .unordered => un

/-! ### Correctly rounded functions (R200) -/

/-- The integer square root, one bit at a time from bit n − 1 down. -/
def isqrtBits : Nat → Nat → Nat → Nat
  | 0, _, r => r
  | n + 1, v, r => isqrtBits n v (if (r + 2 ^ n) * (r + 2 ^ n) ≤ v then r + 2 ^ n else r)

/-- The greatest r with r × r ≤ v, for v below 2^256. -/
def isqrt (v : Nat) : Nat := isqrtBits 128 v 0

/-- A result known as a floor of many bits: one more bit says whether something was cut off, so rounding it is right. -/
def stickyFp (neg : Bool) (q : Nat) (exact : Bool) (e : Int) : Fp := .fin neg (2 * q + b2n (!exact)) (e - 1)

/-- reciprocal(x), correctly rounded. -/
def fRecip (a : F32) : F32 :=
  match dec32 a with
  | .nan => nan32
  | .inf neg => enc32 (.fin neg 0 0)
  | .fin neg m e =>
    if m = 0 then enc32 (.inf neg)
    else enc32 (stickyFp neg (2 ^ 64 / m) (2 ^ 64 % m == 0) (-64 - e))

/-- square root, correctly rounded. -/
def fSqrt (a : F32) : F32 :=
  match dec32 a with
  | .nan => nan32
  | .inf neg => if neg then nan32 else inf32
  | .fin neg m e =>
    if m = 0 then a
    else if neg then nan32
    else
      let odd := e % 2 != 0
      let v := (if odd then 2 * m else m) * 2 ^ 64
      let e' := (if odd then e - 1 else e) - 64
      enc32 (stickyFp false (isqrt v) (isqrt v * isqrt v == v) (e' / 2))

/-- reciprocal square root, correctly rounded (zeros give infinities, IEEE 754-2019 rSqrt). -/
def fRsqrt (a : F32) : F32 :=
  match dec32 a with
  | .nan => nan32
  | .inf neg => if neg then nan32 else 0
  | .fin neg m e =>
    if m = 0 then enc32 (.inf neg)
    else if neg then nan32
    else
      let odd := e % 2 != 0
      let v := if odd then 2 * m else m
      let e' := if odd then e - 1 else e
      let r := isqrt (2 ^ 128 / v)
      enc32 (stickyFp false r (r * r * v == 2 ^ 128) (-64 - e' / 2))

/-- ln 2 in units of 2^−192, rounded down. -/
def ln2Fixed : Nat := 4350955369971217654477563090224794165364344896676135745069

/-- The exponential series at y (in units of 2^−192): the sum of n more terms, the present one being t of number i. -/
def expSeries : Nat → Nat → Nat → Nat → Nat
  | 0, _, _, _ => 0
  | n + 1, y, i, t => t + expSeries n y (i + 1) (t * y / 2 ^ 192 / (i + 1))

/-- 2^f for f in units of 2^−192 below 1, in units of 2^−192, to more than 150 bits (log entry 16). -/
def pow2Fixed (f : Nat) : Nat := expSeries 60 (f * ln2Fixed / 2 ^ 192) 0 (2 ^ 192)

/-- exp2(x), correctly rounded. -/
def fExp2 (a : F32) : F32 :=
  match dec32 a with
  | .nan => nan32
  | .inf neg => if neg then 0 else inf32
  | .fin neg m e =>
    if m = 0 then one32
    else if e + (log2 m : Int) ≥ 8 then (if neg then 0 else inf32)
    else if e + (log2 m : Int) < -26 then one32
    else
      -- |x| in units of 2^−192: exact, since e is −149 or more
      let v := shl m (e + 192)
      let n : Nat := v / 2 ^ 192
      let f := v % 2 ^ 192
      if neg then
        if f = 0 then enc32 (.fin false 1 (-(n : Int)))
        else enc32 (stickyFp false (pow2Fixed (2 ^ 192 - f)) false (-(n : Int) - 1 - 192))
      else if f = 0 then enc32 (.fin false 1 n)
      else enc32 (stickyFp false (pow2Fixed f) false ((n : Int) - 192))

/-- n binary digits of log2 of u, a number of units of 2^−248 from 1 to below 2, by repeated squaring. -/
def log2Digits : Nat → Nat → Nat → Nat
  | 0, _, acc => acc
  | n + 1, u, acc =>
    let v := u * u / 2 ^ 248
    if 2 ^ 249 ≤ v then log2Digits n (v / 2) (2 * acc + 1) else log2Digits n v (2 * acc)

/-- log2(x), correctly rounded (log entry 16). -/
def fLog2 (a : F32) : F32 :=
  match dec32 a with
  | .nan => nan32
  | .inf neg => if neg then nan32 else inf32
  | .fin neg m e =>
    if m = 0 then negInf32
    else if neg then nan32
    else
      let l := log2 m
      let n : Int := e + l
      if m = 2 ^ l then enc32 (.fin (decide (n < 0)) n.natAbs 0)
      else
        let d := log2Digits 110 (m * 2 ^ (248 - l)) 0
        -- n + d / 2^110, with something cut off
        if 0 ≤ n then enc32 (stickyFp false (n.toNat * 2 ^ 110 + d) false (-110))
        else enc32 (stickyFp true ((-n).toNat * 2 ^ 110 - d - 1) false (-110))

/-! ### Composite functions (R201) -/

def fExp (x : F32) : F32 := fExp2 (fMul x 0x3FB8AA3B)
def fLn (x : F32) : F32 := fMul (fLog2 x) 0x3F317218
def fSigmoid (x : F32) : F32 := fRecip (fAdd one32 (fExp (fNeg x)))
def fTanh (x : F32) : F32 := fSub (fMul 0x40000000 (fSigmoid (fMul 0x40000000 x))) one32

/-- One level of the pairwise tree: neighbours added, an odd last element passed up (R195). -/
def treeLevel : List F32 → List F32
  | a :: b :: l => fAdd a b :: treeLevel l
  | l => l

/-- Levels of the tree until one value remains. -/
def treeLevels : Nat → List F32 → F32
  | 0, l => l.headD 0
  | n + 1, l => match l with
    | [] => 0
    | [a] => a
    | l => treeLevels n (treeLevel l)

/-- The pairwise tree of a list; that of the empty list is +0.0 (R195). -/
def pairTree (l : List F32) : F32 := treeLevels l.length l

/-- A list cut into chunks of k elements; fuel bounds the number of chunks. -/
def chunksOf {α : Type} : Nat → Nat → List α → List (List α)
  | 0, _, _ => []
  | f + 1, k, l => if l.isEmpty then [] else l.take k :: chunksOf f k (l.drop k)

/-- A sum over a row: the pairwise tree of its 64-lane chunk sums in chunk order (R202). -/
def rowSum (l : List F32) : F32 := pairTree ((chunksOf l.length 64 l).map pairTree)

/-- The maximum of a list; −Inf for an empty one (R202, R929). -/
def rowMax (l : List F32) : F32 := l.foldl fMax negInf32

/-- softmax over a row (R201). -/
def softmaxRow (l : List F32) : List F32 :=
  let m := rowMax l
  let e := l.map (fun x => fExp (fSub x m))
  let r := fRecip (rowSum e)
  e.map (fun x => fMul x r)

end Sys2Proof.Machine
end

