-- ==== Sys2Proof/Machine/Mesh.lean ====
section
/-!
DEFINITION. Ways over the fabric (02_package_fabric.md R31 to R39, R45 to R47, R52, R66 to R74): bridge channels and their
lanes, the channel that traffic uses, the mesh's column-first routes, and whether a core's traffic with an edge die can pass.
-/
namespace Sys2Proof.Machine

/-! ### Places -/

/-- Mesh column, row and die of a core (R33). -/
def columnOf (c : Nat) : Nat := c % 32
def rowOf (c : Nat) : Nat := c / 32 % 16
def dieOf (c : Nat) : Nat := c / 512
/-- The core at a row and column of a field die (R33). -/
def coreAt (die row col : Nat) : Nat := 512 * die + 32 * row + col

/-- Number of a bridge, as event 0x3010 names it. -/
def bridgeNum : BridgeId → Nat
  | .edge0 => 0
  | .field => 1
  | .edge1 => 2

/-- The edge bridge of an edge die. -/
def edgeBridge : EdgeDie → Nat
  | .e0 => 0
  | .e1 => 2

/-- The field die beside an edge die. -/
def edgeSide : EdgeDie → Nat
  | .e0 => 0
  | .e1 => 1

/-- Channels of a bridge (R31). -/
def bridgeChannels (b : Nat) : Nat := if b = 1 then 32 else 16

/-- The row of a field die that faces a bridge: edge bridges 0 and 1 meet rows 0 of F0 and 15 of F1, the field bridge joins
row 15 of F0 to row 0 of F1 (R34, R35). -/
def facingRow (die b : Nat) : Nat := if b = 1 then (if die = 0 then 15 else 0) else (if die = 0 then 0 else 15)

/-- The column in which channel ch of bridge b ends (R34, R35). -/
def channelColumn (b ch : Nat) : Nat := if b = 1 then ch else 2 * ch

/-- Field die on whose mesh an end lies, or that its edge bridge joins. -/
def endDie : FlitEnd → Nat
  | .core c => dieOf c.toNat
  | .edge e _ => edgeSide e

/-- The column that a flit for an end travels to on the die of that end, and across the field bridge (R36, R38, R45). -/
def endColumn : FlitEnd → Nat
  | .core c => columnOf c.toNat
  | .edge _ k => 2 * k.toNat

/-- The ends fit: a core uses edge channel column >> 1 (R36), transit keeps its channel (R38), and some way lies between. -/
def flitRouted (f : FabricFlit) : Bool :=
  match f.src, f.dst with
  | .core _, .core _ => true
  | .core c, .edge _ k => k.toNat == columnOf c.toNat / 2
  | .edge _ k, .core c => k.toNat == columnOf c.toNat / 2
  | .edge e k, .edge e' k' => e != e' && k == k'

/-- The core whose traffic a flit is: the sender of a request, the receiver of a response, the core at its one end; none for
transit. -/
def flitOwner (f : FabricFlit) : Option CoreId :=
  match f.src, f.dst with
  | .core a, .core b => some (if f.response then b else a)
  | .core a, .edge _ _ => some a
  | .edge _ _, .core b => some b
  | .edge _ _, .edge _ _ => none

/-- Two flits of one class between the same ends (R47). -/
def sameFlow (f g : FabricFlit) : Bool := f.src == g.src && f.dst == g.dst && f.response == g.response

/-! ### Channels and lanes -/

/-- Bridge channel changed. -/
def modChan (s : State) (i : Nat) (f : Channel → Channel) : State :=
  modFabric s (fun k => { k with channels := tput k.channels i (f (chanOf s i)) })

/-- Lane of a channel. -/
def Channel.lane (k : Channel) (l : Nat) : Lane := tget k.lanes l Lane.reset

/-- Lane changed. -/
def modLane (s : State) (i l : Nat) (f : Lane → Lane) : State :=
  modChan s i (fun k => { k with lanes := tput k.lanes l (f (k.lane l)) })

/-- The flits of a lane, oldest first. -/
def Lane.flits (l : Lane) : List FabricFlit := l.buffer ++ l.behind

/-- The flits of a channel's lanes. -/
def Channel.flits (k : Channel) : List FabricFlit := (List.range 4).flatMap (fun l => (k.lane l).flits)

/-- Flits that a buffer of bridge b holds for one direction and class: 16 at an edge bridge (R52; log entry 104). -/
def bufferRoom (b : Nat) (held : Nat) : Bool := b == 1 || decide (held < 16)

/-- The lane with a flit behind those it holds. -/
def Lane.push (b : Nat) (l : Lane) (f : FabricFlit) : Lane :=
  if l.behind = [] ∧ bufferRoom b l.buffer.length then { l with buffer := l.buffer ++ [f] }
  else { l with behind := l.behind ++ [f] }

/-- The lane once its oldest flit has been acknowledged: the next one that waits takes the room. -/
def Lane.pop (l : Lane) : Lane :=
  { fails := 0, buffer := (l.buffer ++ l.behind.take 1).drop 1, behind := l.behind.drop 1 }

/-- The clocked end of a bridge has stopped (R71). -/
def clockStopped (s : State) (b : Nat) : Bool :=
  (b == 0 && s.fabric.refStopped.1) || (b == 2 && s.fabric.refStopped.2)

/-- The channel that traffic of channel ch uses: ch itself, or ch XOR 1 while ch is out; none with both out (R70). -/
def useChannel (s : State) (b ch : Nat) : Option Nat :=
  if (chanOf s (b * 32 + ch)).out = false then some ch
  else if (chanOf s (b * 32 + (ch ^^^ 1))).out = false then some (ch ^^^ 1)
  else none

/-- The channel of bridge b that a flit crosses by R34 to R38 and R45, with its lane there: direction (toward F1 and E1, or
back) × 2 + class; none where its way does not lead over that bridge (R37). -/
def flitCrossing (f : FabricFlit) (b : Nat) : Option (Nat × Nat) :=
  let cls := b2n f.response
  if b = 1 then
    if endDie f.src = endDie f.dst then none else some (endColumn f.dst, 2 * b2n (endDie f.dst == 1) + cls)
  else
    let e : EdgeDie := if b = 0 then .e0 else .e1
    match f.src, f.dst with
    | .edge x k, .edge y _ => if x = e then some (k.toNat, 2 * b2n (b == 0) + cls)
        else if y = e then some (k.toNat, 2 * b2n (b == 2) + cls) else none
    | .edge x k, .core _ => if x = e then some (k.toNat, 2 * b2n (b == 0) + cls) else none
    | .core _, .edge y k => if y = e then some (k.toNat, 2 * b2n (b == 2) + cls) else none
    | .core _, .core _ => none

/-! ### Readiness of the fabric (R41, R66, R74) -/

/-- The field dies carry traffic: released, with VCORE_F on and commanded within the characterised span (R41, R74). -/
def fabricUp (s : State) : Bool :=
  s.gaffer.diesReleased && (regOf s 0).on && decide (600 ≤ (regOf s 0).stable ∧ (regOf s 0).stable ≤ 900)

/-- The spine segment of a router is held on the retention supply: it issues no new handshake (R66, R837). -/
def spineHeldAt (s : State) (c : Nat) : Bool :=
  s.power.spineHeld.contains ((if dieOf c = 0 then FieldDie.d0 else .d1), Config.spineSegment c)

/-! ### Routes -/

/-- Where a flit goes from a router. -/
inductive Hop where
  /-- its end: the core of this router -/
  | arrive
  /-- the router of a neighbouring core -/
  | router (c : Nat)
  /-- a bridge channel -/
  | bridge (b ch : Nat)
  /-- the channel it needs and the paired one are both out of service -/
  | lost (b ch : Nat)
deriving DecidableEq, Repr

/-- One mesh link toward a column, then toward a row (R45); none at that place. -/
def meshStep (at' row col : Nat) : Option Nat :=
  let c := columnOf at'
  let r := rowOf at'
  if c < col then some (at' + 1)
  else if col < c then some (at' - 1)
  else if r < row then some (at' + 32)
  else if row < r then some (at' - 32)
  else none

/-- The way to channel ch of bridge b, or to the channel that takes its traffic, from a router of the die (R45, R70). -/
def towardBridge (s : State) (at' b ch : Nat) : Hop :=
  match useChannel s b ch with
  | none => .lost b ch
  | some u => match meshStep at' (facingRow (dieOf at') b) (channelColumn b u) with
    | some c => .router c
    | none => .bridge b u

/-- The next hop of a flit from a router (R36 to R38, R45, R70): over the field bridge while its end lies beyond the other die,
else toward its core or its edge channel. -/
def nextHop (s : State) (f : FabricFlit) (at' : Nat) : Hop :=
  if dieOf at' = endDie f.dst then
    match f.dst with
    | .core c => match meshStep at' (rowOf c.toNat) (columnOf c.toNat) with
      | some r => .router r
      | none => .arrive
    | .edge e k => towardBridge s at' (edgeBridge e) k.toNat
  else towardBridge s at' 1 (endColumn f.dst)

/-- The router at which a flit that has crossed channel ch of bridge b in a lane's direction comes out; none at an edge die. -/
def exitRouter (b ch lane : Nat) : Option Nat :=
  let up := decide (2 ≤ lane)
  if b = 1 then some (coreAt (b2n up) (facingRow (b2n up) 1) ch)
  else if b = 0 then (if up then some (coreAt 0 0 (2 * ch)) else none)
  else (if up then none else some (coreAt 1 15 (2 * ch)))

/-- The routers at the ends of channel ch of bridge b (R34, R35). -/
def bridgeRouters (b ch : Nat) : List Nat :=
  if b = 0 then [coreAt 0 0 (2 * ch)]
  else if b = 1 then [coreAt 0 15 ch, coreAt 1 0 ch]
  else [coreAt 1 15 (2 * ch)]

/-! ### A core's traffic with an edge die (R36, R70, R71) -/

/-- The pairs of bridge channels that traffic between a core and an edge die needs, by bridge and channel (R36, R37, R45):
those of both directions lie in one pair of the field bridge. -/
def edgeWay (c : Nat) (e : EdgeDie) : List (Nat × Nat) :=
  let k := columnOf c / 2
  if dieOf c = edgeSide e then [(edgeBridge e, k)] else [(1, columnOf c), (1, 2 * k), (edgeBridge e, k)]

/-- Whether a core's traffic with an edge die passes: open, held by a stopped link reference (R71), or lost with both channels
of a pair (R70). -/
inductive Way where
  | open'
  | held
  | lost (ch : Nat)
deriving DecidableEq, Repr

/-- The way between a core and an edge die as it is now. -/
def wayTo (s : State) (c : Nat) (e : EdgeDie) : Way :=
  match (edgeWay c e).find? (fun p => useChannel s p.1 p.2 == none) with
  | some p => .lost p.2
  | none => if clockStopped s (edgeBridge e) then .held else .open'

/-- The way between a core and the links, which both edge dies have (R36, R37): open where either is. -/
def wayOut (s : State) (c : Nat) : Way :=
  match wayTo s c .e0, wayTo s c .e1 with
  | .open', _ => .open'
  | _, .open' => .open'
  | .held, _ => .held
  | _, .held => .held
  | .lost ch, .lost _ => .lost ch

/-- The way of a core's access to the column of another core or slice (R45): over the field bridge where that lies on the other
die. -/
def wayAcross (s : State) (c d : Nat) : Way :=
  if dieOf c = dieOf d then .open'
  else match [columnOf d, columnOf c].find? (fun k => useChannel s 1 k == none) with
    | some k => .lost k
    | none => .open'

/-- Whether the channels of transit k are in service, themselves or by their pair, on both edge bridges and the field bridge
(R38, R70). -/
def transitOpen (s : State) (k : Nat) : Bool :=
  (useChannel s 0 k).isSome && (useChannel s 1 (2 * k)).isSome && (useChannel s 2 k).isSome

/-- Transit between the edge dies can pass (R37, R38, R71, R74): the fabric is up, neither clocked end has stopped, and some
channel is open. -/
def transitPasses (s : State) : Bool :=
  fabricUp s && !clockStopped s 0 && !clockStopped s 2 && (List.range 16).any (transitOpen s)

end Sys2Proof.Machine
end

