-- ==== Sys2Proof/Machine/Memory.lean ====
section
/-!
DEFINITION. The three memory tiers (07_memory_model.md): bytes in one canonical list, error correction, lease lists, the
layouts of the spaces, stock interleave, and the translation of a tenant's addresses (08_faults_preemption.md R322 to R331).
-/
namespace Sys2Proof.Machine

/-! ### Cells -/

/-- A byte of memory; an address that is not listed reads zero (R319). -/
def cellGet : List Host.Cell → Nat → Byte
  | [], _ => 0
  | (k, b) :: m, n => if k = n then b else cellGet m n

/-- n bytes from an address on. -/
def cellRead (m : List Host.Cell) (k n : Nat) : List Byte := (List.range n).map (fun i => cellGet m (k + i))

/-- The cells that hold a block of bytes: a zero byte is not listed. -/
def cellBlock : Nat → List Byte → List Host.Cell
  | _, [] => []
  | k, b :: bs => if b = 0 then cellBlock (k + 1) bs else (k, b) :: cellBlock (k + 1) bs

/-- Memory with a block of bytes written from an address on. -/
def cellWrite (m : List Host.Cell) (k : Nat) (bs : List Byte) : List Host.Cell :=
  m.filter (fun e => decide (e.1 < k)) ++ cellBlock k bs ++ m.filter (fun e => decide (k + bs.length ≤ e.1))

/-- Memory with n bytes from an address on zeroed. -/
def cellClear (m : List Host.Cell) (k n : Nat) : List Host.Cell :=
  m.filter (fun e => decide (e.1 < k ∨ k + n ≤ e.1))

/-- The canonical form: addresses strictly rise and no listed byte is zero. -/
def cellsWf : List Host.Cell → Bool
  | [] => true
  | [(_, b)] => b != 0
  | (k, b) :: (k', b') :: m => b != 0 && decide (k < k') && cellsWf ((k', b') :: m)

/-- The package's memory is in canonical form. -/
def Mem.wf (m : Mem) : Bool := cellsWf m.cells

/-! ### Keys -/

/-- The key of a byte: spaces 0 (scratchpad), 1 (vault), 2 (stock) (R271). -/
def memKey (space off : Nat) : Nat := space * 2 ^ 47 + off
/-- The key of a byte of core c's scratchpad. -/
def scratchKey (c off : Nat) : Nat := c * 2 ^ 21 + off
/-- The key of a byte of slice c. -/
def sliceKey (c off : Nat) : Nat := 2 ^ 47 + c * 2 ^ 25 + off
/-- The space of a key. -/
def keySpace (k : Nat) : Nat := k / 2 ^ 47
/-- The global address of a key of this package (R270). -/
def globalOf (s : State) (k : Nat) : Nat := ownPkg s * 2 ^ 51 + k

/-- Bytes of a protected word: 8 in scratchpad and stock, 32 in the vault (R277, R283, R291). -/
def wordBytes (space : Nat) : Nat := if space = 1 then 32 else 8
/-- The key of the word that holds a byte. -/
def wordKey (k : Nat) : Nat := k / wordBytes (keySpace k) * wordBytes (keySpace k)

/-! ### Stock (R288 to R295) -/

/-- Channels in the interleave: those in service, and those that failed while in service (R295), in ascending number. -/
def interleaved (s : State) (e : Nat) : List Nat :=
  ((List.range 8).map (fun i => 8 * e + i)).filter
    (fun ch => (stockOf s ch).state == 2 || (stockOf s ch).failedInService)

/-- Density in GiB of an edge die's channels (R289: all equal). -/
def dieDensity (s : State) (e : Nat) : Nat :=
  match interleaved s e with
  | [] => 0
  | ch :: _ => (stockOf s ch).density

/-- m of R292: the smaller density among the dies with a channel in service. -/
def commonDensity (s : State) : Nat :=
  let d0 := dieDensity s 0
  let d1 := dieDensity s 1
  if d0 = 0 then d1 else if d1 = 0 then d0 else min d0 d1

/-- Capacity of region A in GiB (R292). -/
def regionA (s : State) : Nat := ((interleaved s 0).length + (interleaved s 1).length) * commonDensity s

/-- Channels of region B (R292). -/
def regionBList (s : State) : List Nat :=
  if dieDensity s 0 > commonDensity s then interleaved s 0
  else if dieDensity s 1 > commonDensity s then interleaved s 1 else []

/-- Capacity of region B in GiB. -/
def regionB (s : State) : Nat :=
  (regionBList s).length * (max (dieDensity s 0) (dieDensity s 1) - commonDensity s)

/-- 0x3011: stock capacity in GiB (R293). -/
def capacityGiB (s : State) : Nat := regionA s + regionB s

/-- Channel and byte address within the channel of a stock offset (R293); none beyond the capacity. -/
def stockPlace (s : State) (off : Nat) : Option (Nat × Nat) :=
  let a := regionA s * 2 ^ 30
  let list := if off < a then interleaved s 0 ++ interleaved s 1 else regionBList s
  let r := if off < a then off else off - a
  let base := if off < a then 0 else commonDensity s * 2 ^ 30
  let g := r / 1024
  if capacityGiB s * 2 ^ 30 ≤ off ∨ list.length = 0 then none
  else (list[g % list.length]?).map (fun ch => (ch, base + g / list.length * 1024 + r % 1024))

/-- The channel of a stock offset. -/
def stockChannelOf (s : State) (off : Nat) : Nat := ((stockPlace s off).map (·.1)).getD 0

/-- The first offset of a range that lies on a channel that failed while in service (R295). -/
def failedStock (s : State) (off n : Nat) : Option Nat :=
  if s.mem.stock.any (fun e => e.2.failedInService) then
    ((List.range ((off + n - 1) / 1024 + 1 - off / 1024)).map (fun i => max off ((off / 1024 + i) * 1024))).find?
      (fun o => (stockOf s (stockChannelOf s o)).failedInService)
  else none

/-! ### Error correction (R277, R283, R291) -/

/-- Why an access to memory fails: fault code, detail and physical address (R350). -/
structure MemErr where
  code : Nat
  detail : Nat
  phys : Nat
deriving DecidableEq, Repr

/-- One correction counted in the tier's record, or one uncorrectable word recorded with its address (R277, R283, R291). -/
def eccNote (s : State) (k : Nat) (unc : Bool) : State :=
  let f : Ecc → Ecc := fun e =>
    if unc then { e with uncorrectable := (e.uncorrectable + 1) % 2 ^ 32, last := globalOf s k }
    else { e with corrected := (e.corrected + 1) % 2 ^ 64 }
  match keySpace k with
  | 0 => modMem s (fun m => { m with scratchEcc := f m.scratchEcc })
  | 1 =>
    let s' := modMem s (fun m => { m with vaultEcc := f m.vaultEcc })
    if unc then logEvent s' 0x3022 srcGaffer (globalOf s k) else s'
  | _ =>
    let s' := modMem s (fun m => { m with stockEcc := f m.stockEcc })
    if unc then logEvent s' 0x3023 (srcStock (stockChannelOf s (k % 2 ^ 47))) (globalOf s k) else s'

/-- Words in error that a range touches, in rising order; an empty range touches none. -/
def badIn (s : State) (k n : Nat) : List (Nat × Bool) :=
  s.mem.bad.filter (fun e => decide (0 < n ∧ e.1 < k + n ∧ k < e.1 + wordBytes (keySpace e.1)))

/-- A word is free of errors again. -/
def mendWord (s : State) (k : Nat) : State := modMem s (fun m => { m with bad := tdel m.bad k })

/-- The words in error that a read meets, in order: each correctable one is written back and counted; the first
uncorrectable one ends the read (R277, R283, R291). -/
def eccScan : List (Nat × Bool) → State → State × Option Nat
  | [], s => (s, none)
  | (k, true) :: _, s => (eccNote s k true, some k)
  | (k, false) :: l, s => eccScan l (mendWord (eccNote s k false) k)

/-- A read of n bytes: the bytes before the first uncorrectable word, and that word's key. -/
def eccRead (s : State) (k n : Nat) : State × List Byte × Option Nat :=
  match eccScan (badIn s k n) s with
  | (s', none) => (s', cellRead s.mem.cells k n, none)
  | (s', some w) => (s', cellRead s.mem.cells k (w - k), some w)

/-- A word of a range that the range covers only in part. -/
def partWord (k n w : Nat) : Bool := decide (w < k ∨ k + n < w + wordBytes (keySpace w))

/-- The lease lists after a write: a word of the range whose held bit is clear leaves its list (R311). -/
def leaseSweep (m : Mem) (k n : Nat) : Mem :=
  { m with leases := m.leases.filter (fun w =>
      decide (k + n ≤ w ∨ w + 8 ≤ k) || (cellGet m.cells (w + 7)).toNat.testBit 7) }

/-- Bytes written with no check: every word that takes a byte ends free of errors. -/
def rawWrite (s : State) (k : Nat) (bs : List Byte) : State :=
  if bs = [] then s else modMem s (fun m =>
    leaseSweep { m with
      cells := cellWrite m.cells k bs
      bad := m.bad.filter (fun e => decide (k + bs.length ≤ e.1 ∨ e.1 + wordBytes (keySpace e.1) ≤ k)) } k bs.length)

/-- A write of bytes: a word covered in part is merged by read-modify-write (R278, R284, R294); an uncorrectable one is not
written and ends the write, and the bytes before it are written (log entry 8). -/
def eccWrite (s : State) (k : Nat) (bs : List Byte) : State × Nat × Option Nat :=
  let n := bs.length
  let parts := (badIn s k n).filter (fun e => partWord k n e.1)
  match eccScan parts s with
  | (s', none) => (rawWrite s' k bs, n, none)
  | (s', some w) => (rawWrite s' k (bs.take (w - k)), min n (w - k), some w)

/-- Bytes zeroed with valid check bits: a wipe or a domain's return (R279, R319). -/
def wipe (s : State) (k n : Nat) : State :=
  modMem s (fun m => { m with
    cells := cellClear m.cells k n
    bad := m.bad.filter (fun e => decide (e.1 < k ∨ k + n ≤ e.1))
    leases := m.leases.filter (fun e => decide (e < k ∨ k + n ≤ e)) })

/-- Bytes zeroed as a wipe does it, but for the ranges (key, length) that are spared (R475, R527). -/
def wipeExcept (s : State) (k n : Nat) (spare : List (Nat × Nat)) : State :=
  let kept : Nat → Bool := fun x => decide (x < k ∨ k + n ≤ x) || spare.any (fun r => decide (r.1 ≤ x ∧ x < r.1 + r.2))
  modMem s (fun m => { m with
    cells := m.cells.filter (fun e => kept e.1)
    bad := m.bad.filter (fun e => kept e.1)
    leases := m.leases.filter kept })

/-! ### The package's own records in memory (log entry 110) -/

/-- A byte lies on a stock channel that failed while in service (R295). -/
def keyFailed (s : State) (k : Nat) : Bool := keySpace k == 2 && (failedStock s (k % 2 ^ 47) 1).isSome

/-- What the package's own engines find in a byte: in an uncorrectable word, or on a failed channel, a free value. -/
def ownByte (s : State) (k : Nat) : Byte :=
  if tfind s.mem.bad (wordKey k) = some true ∨ keyFailed s k then Config.badByte s.freeCount k else cellGet s.mem.cells k

/-- n bytes of a record of the package's own. -/
def ownRead (s : State) (k n : Nat) : List Byte := (List.range n).map (fun i => ownByte s (k + i))

/-- The errors that a read of n bytes of the package's own meets are corrected, counted and recorded (R277, R283, R291). -/
def noteRead (s : State) (k n : Nat) : State := (eccRead s k n).1

/-- n bytes read by the package's own engines where every word of them can be read (R277, R283, R291, R295). -/
def ownTry (s : State) (k n : Nat) : State × Option (List Byte) :=
  if keySpace k = 2 ∧ (failedStock s (k % 2 ^ 47) n).isSome then (s, none)
  else match eccRead s k n with
    | (s, _, some _) => (s, none)
    | (s, l, none) => (s, some l)

/-- Bytes written by the package's own engines. A word covered in part is merged (R278, R284, R294); one that is uncorrectable
is recorded and keeps its bytes, and so do bytes on a failed channel (R295); the rest is written. -/
def ownWrite (s : State) (k : Nat) (bs : List Byte) : State :=
  let parts := (badIn s k bs.length).filter (fun e => partWord k bs.length e.1)
  let s' := parts.foldl (fun s e => if e.2 then eccNote s e.1 true else mendWord (eccNote s e.1 false) e.1) s
  let lost : Nat → Bool := fun x => parts.contains (wordKey x, true) || keyFailed s x
  if parts.all (fun e => !e.2) && (keySpace k != 2 || (failedStock s (k % 2 ^ 47) bs.length).isNone) then rawWrite s' k bs
  else (List.range bs.length).foldl (fun s i => if lost (k + i) then s else rawWrite s (k + i) [bs.getD i 0]) s'

/-- A little-endian number in a record of the package's own. -/
def memNat (s : State) (k n : Nat) : Nat := leNat (ownRead s k n)
/-- A little-endian number written to a record of the package's own. -/
def memPut (s : State) (k n v : Nat) : State := ownWrite s k (leBytes n v)

/-! ### Layouts of the spaces (R271, R282) and targets (R313 to R316) -/

/-- First byte of a slice's continuity area (R281). -/
def continuityBase : Nat := 0x1FC8000
/-- First byte of a slice's reel bank directory (R281). -/
def directoryBase : Nat := 0x1FF0000

/-- Who accesses memory, as far as R281, R282 and R315 tell agents apart: a load of the operator context, the slate engine,
any other. -/
inductive Agent where
  | operatorLoad | slate | engine
deriving DecidableEq, Repr

/-- The layout of spaces 0 to 2 for n bytes at an offset: a load of the operator context reads the reel bank directory, the
slate engine the continuity area (R281, R282). -/
def layoutOk (s : State) (space off n : Nat) (who : Agent) : Bool :=
  match space with
  | 0 => decide (off + n ≤ 2 ^ 31)
  | 1 => decide (off + n ≤ 2 ^ 35) &&
      (decide (off % 2 ^ 25 + n ≤ if who = .slate then directoryBase else continuityBase) ||
        (who == .operatorLoad && decide (directoryBase ≤ off % 2 ^ 25 ∧ off % 2 ^ 25 + n ≤ 2 ^ 25)))
  | 2 => decide (off + n ≤ capacityGiB s * 2 ^ 30)
  | _ => false

/-- Why a core's scratchpad is not reached: retention 0, off 1, fenced 2, which does not keep the slate engine out (R313, R315,
R350). A staging domain answers as the state it stages from (R279). -/
def targetDetail (s : State) (c : Nat) (who : Agent) : Option Nat :=
  let d := domOf s (domainOf c)
  match d.state with
  | .on => if (coreOf s c).fenced ∧ who ≠ .slate then some 2 else none
  | .retention => some 0
  | .off => some 1
  | .staging => some (b2n d.fromOff)

/-- The checks of a physical access of n bytes within one granule: layout, then target (R271, R282, R295, R313 to R316). -/
def physCheck (s : State) (space off n : Nat) (who : Agent) : Option MemErr :=
  let phys := globalOf s (memKey space off)
  if space = 2 ∧ ready s 7 = false then some ⟨0x0206, 3, phys⟩
  else if layoutOk s space off n who = false then some ⟨0x0201, space, phys⟩
  else if space = 0 then
    match targetDetail s (off / 2 ^ 21) who with
    | some d => some ⟨0x0206, d, phys⟩
    | none => none
  else none

/-- A checked read of n bytes within one granule: the bytes before what fails, and why it fails. -/
def physRead (s : State) (space off n : Nat) (who : Agent) : State × List Byte × Option MemErr :=
  match physCheck s space off n who with
  | some e => (s, [], some e)
  | none =>
    let lim := if space = 2 then ((failedStock s off n).map (fun o => o - off)).getD n else n
    match eccRead s (memKey space off) lim with
    | (s', l, some w) => (s', l, some ⟨0x0401, space, globalOf s w⟩)
    | (s', l, none) =>
      if lim < n then (s', l, some ⟨0x0401, 2, globalOf s (memKey 2 (off + lim))⟩) else (s', l, none)

/-- A checked write within one granule: the bytes written before what fails, and why it fails. -/
def physWrite (s : State) (space off : Nat) (bs : List Byte) (who : Agent) : State × Nat × Option MemErr :=
  match physCheck s space off bs.length who with
  | some e => (s, 0, some e)
  | none =>
    let lim := if space = 2 then ((failedStock s off bs.length).map (fun o => o - off)).getD bs.length else bs.length
    match eccWrite s (memKey space off) (bs.take lim) with
    | (s', n, some w) => (s', n, some ⟨0x0401, space, globalOf s w⟩)
    | (s', n, none) =>
      if lim < bs.length then (s', n, some ⟨0x0401, 2, globalOf s (memKey 2 (off + lim))⟩) else (s', n, none)

/-- An engine's read of its own core's scratchpad. -/
def scratchRead (s : State) (c off n : Nat) : State × List Byte × Option MemErr :=
  match eccRead s (scratchKey c off) n with
  | (s', l, some w) => (s', l, some ⟨0x0401, 0, globalOf s w⟩)
  | (s', l, none) => (s', l, none)

/-- An engine's write of its own core's scratchpad. -/
def scratchWrite (s : State) (c off : Nat) (bs : List Byte) : State × Option MemErr :=
  match eccWrite s (scratchKey c off) bs with
  | (s', _, some w) => (s', some ⟨0x0401, 0, globalOf s w⟩)
  | (s', _, none) => (s', none)

/-! ### Segment tables (R322 to R331) -/

/-- Segment entry i of a tenant's table 0x3030 (R322). -/
def segEntry (s : State) (t i : Nat) : Seg :=
  let e := slice (valOf s 0x3030 0 t []) (16 * i) 16
  { flags := BitVec.ofNat 8 (fieldAt e 0 1), space := fieldAt e 1 1, pkg := fieldAt e 2 2 % 2 ^ 13, base := fieldAt e 4 4,
    phys := fieldAt e 8 4, len := fieldAt e 12 4 }

/-- An entry is valid: flag [0], a space it may have, a length of at least 1 (R322). -/
def Seg.valid (e : Seg) : Bool :=
  e.flags.toNat.testBit 0 && (e.space == 1 || e.space == 2 || e.space == 3) && e.len != 0

/-- The entries of a tenant's table that are consulted: 0 to 0x3031 less one (R322). -/
def segTable (s : State) (t : Nat) : List Seg := (List.range (valNat s 0x3031 0 t 0)).map (segEntry s t)

/-- A valid entry covers a granule of a space of a package; its package 0x1FFF is the issuing package (R322, R323). -/
def Seg.covers (e : Seg) (own pkg space granule : Nat) : Bool :=
  e.valid && e.space == space && (if e.pkg = 0x1FFF then own else e.pkg) == pkg &&
    decide (e.base ≤ granule ∧ granule < e.base + e.len)

/-- The lowest-numbered valid entry that covers an offset (R323). -/
def segMatch (s : State) (t pkg space off : Nat) : Option Seg :=
  (segTable s t).find? (fun e => e.covers (ownPkg s) pkg space (off / 2 ^ 21))

/-- The rights: 1 read, 2 write, 3 atomic; the entry's flag of that number grants it (R322, R324). -/
def Seg.grants (e : Seg) (right : Nat) : Bool := e.flags.toNat.testBit right

/-- A tenant's save segment: the valid entry with flag [4] that R329 allows. -/
def saveSegment (s : State) (t : Nat) : Option Seg :=
  (segTable s t).find? (fun e => e.valid && e.flags.toNat.testBit 4 && (e.space == 1 || e.space == 2) && e.pkg == 0x1FFF &&
    e.grants 1 && e.grants 2)

/-- The core's translation cache after it uses an entry: most recently used first, at most 16 (R330); a miss counts in
0xF200.01 of the tenant. -/
def cacheUse (s : State) (c t : Nat) (e : Option Seg) : State :=
  let k := coreOf s c
  match e with
  | some g =>
    let s' := if k.tcache.contains g then s else modTq s t (fun q => { q with misses := (q.misses + 1) % 2 ^ 64 })
    modCore s' c (fun k => { k with tcache := (g :: k.tcache.filter (fun x => x != g)).take 16 })
  | none => modTq s t (fun q => { q with misses := (q.misses + 1) % 2 ^ 64 })

/-- A translated offset, or why there is none (R324, R325). -/
inductive Trans where
  | ok (off : Nat)
  | fail (e : MemErr)
deriving DecidableEq, Repr

/-- Whether the core of a scratchpad offset, or the group of a window offset, is of the issuer's tenant (R325). -/
def sameTenant (s : State) (t space off : Nat) : Bool :=
  if space = 0 then coreTenant? s (off / 2 ^ 21 % 1024) == some t
  else (groupTenant s (off / 2 ^ 16 % 256)) == t

/-- Translation with a tenant's table and no cache: what an agent other than a core uses (R323 to R326). A translated offset
that does not fit in [46:0] is beyond every layout (R271). -/
def translateAt (s : State) (t pkg space off right : Nat) : Trans :=
  if t = 0 then .ok off
  else if space = 0 ∨ space = 4 then
    if pkg = ownPkg s ∧ sameTenant s t space off = false then .fail ⟨0x0205, 4, 0⟩ else .ok off
  else if space = 1 ∨ space = 2 ∨ space = 3 then
    match segMatch s t pkg space off with
    | none => .fail ⟨0x0204, space, 0⟩
    | some e =>
      let o := e.phys * 2 ^ 21 + off - e.base * 2 ^ 21
      if e.grants right = false then .fail ⟨0x0205, right, 0⟩
      else if o < 2 ^ 47 then .ok o else .fail ⟨0x0201, space, 0⟩
  else .ok off

/-- Translation of an access of core c within one granule, through its cache (R323 to R331). -/
def translate (s : State) (c t pkg space off right : Nat) : State × Trans :=
  if t ≠ 0 ∧ (space = 1 ∨ space = 2 ∨ space = 3) then
    (cacheUse s c t (segMatch s t pkg space off), translateAt s t pkg space off right)
  else (s, translateAt s t pkg space off right)

/-- Package, space and offset of a global address, with 0x1FFF resolved (R270). -/
def splitAddr (s : State) (a : Nat) : Nat × Nat × Nat :=
  (resolvePkg s (a / 2 ^ 51 % 2 ^ 13), a / 2 ^ 47 % 16, a % 2 ^ 47)

/-! ### Lease lists (R310) -/

/-- The home of a key and the length of its list: a core's scratchpad 64, a slice 64, an edge die's stock controllers
4,096 (R310). -/
def leaseHome (s : State) (k : Nat) : Nat × Nat :=
  match keySpace k with
  | 0 => (k / 2 ^ 21, 64)
  | 1 => (2048 + k % 2 ^ 47 / 2 ^ 25, 64)
  | _ => (4096 + stockChannelOf s (k % 2 ^ 47) / 8, 4096)

/-- Lease words listed at a home. -/
def leasesAt (s : State) (home : Nat) : Nat := (s.mem.leases.filter (fun k => (leaseHome s k).1 == home)).length

end Sys2Proof.Machine
end

