-- ==== Sys2Proof/Machine/Reels.lean ====
section
/-!
DEFINITION. The reel engine (12_reels_changeover.md): the reel bank directory, bank transitions, pushes and their frames,
seal words, and the meanings of the reel commands.
-/
namespace Sys2Proof.Machine

/-! ### The directory and the banks -/

/-- A field of the directory of slice c (R484). -/
def dirNat (s : State) (c off n : Nat) : Nat := memNat s (sliceKey c (directoryBase + off)) n
/-- The reel engine reads the head of a directory: its errors are corrected, counted and recorded (R283). -/
def noteDir (s : State) (c : Nat) : State := noteRead s (sliceKey c directoryBase) 64
/-- A field of the directory written by the reel engine. -/
def dirPut (s : State) (c off n v : Nat) : State := memPut s (sliceKey c (directoryBase + off)) n v

/-- Reel r is newer than reel q (R486). -/
def newer (r q : Nat) : Bool :=
  let d := (r + 65536 - q % 65536) % 65536
  decide (1 ≤ d ∧ d ≤ 32767)

/-- (N − r) modulo 2^16 (R501, R510). -/
def reelLag (n r : Nat) : Nat := (n + 65536 - r % 65536) % 65536

/-- A bank: false is A, true is B. -/
def bankOf (s : State) (b : Bool) : Bank := if b then s.reels.bankB else s.reels.bankA

/-- The bank that is front (R485). -/
def frontBank (s : State) : Option Bool :=
  if s.reels.bankA.state = .front then some false
  else if s.reels.bankB.state = .front then some true else none

/-- The bank that is filling. -/
def fillingBank (s : State) : Option Bool :=
  if s.reels.bankA.state = .filling then some false
  else if s.reels.bankB.state = .filling then some true else none

/-- The front reel, where a bank is front. -/
def frontReel (s : State) : Option Nat := (frontBank s).map (fun b => (bankOf s b).reel.toNat)

/-- Code of a bank state (R485). -/
def BState.code : BState → Nat
  | .empty => 0
  | .filling => 1
  | .front => 2
  | .draining => 3

/-- A bank takes a state and a reel; the directory copies of every slice of the region follow (R485). -/
def setBank (s : State) (b : Bool) (k : Bank) : State :=
  let s' := modReels s (fun r => if b then { r with bankB := k } else { r with bankA := k })
  s.reels.slices.foldl (fun s c =>
    dirPut (dirPut s c.toNat (if b then 0x15 else 0x14) 1 k.state.code) c.toNat (if b then 0x1A else 0x18) 2 k.reel.toNat) s'

/-- Incoming entries of slice c (R484). -/
def incomingCount (s : State) (c : Nat) : Nat := min (dirNat s c 0x16 2) 1024
/-- Offset of incoming entry i. -/
def incomingOff (i : Nat) : Nat := 0x40 + 8 * i

/-- Every done bit of the region cleared (R485). -/
def clearDone (s : State) : State :=
  s.reels.slices.foldl (fun s c =>
    (List.range (incomingCount s c.toNat)).foldl (fun s i => dirPut s c.toNat (incomingOff i + 6) 2 0) s) s

/-- Every incoming entry of every slice is done (R485). -/
def allDone (s : State) : Bool :=
  s.reels.slices.all (fun c =>
    (List.range (incomingCount s c.toNat)).all (fun i => dirNat s c.toNat (incomingOff i + 6) 2 % 2 == 1))

/-- A tracker state that holds its running reel's bank (R505). -/
def TState.holdsBank : TState → Bool
  | .open' => true
  | .running => true
  | .verifying => true
  | _ => false

/-- Some tracker holds the bank of a reel (R485, R505). -/
def reelHeld (s : State) (r : Nat) : Bool :=
  s.serving.trackers.any (fun e => e.2.state.holdsBank && e.2.reel.toNat == r)

/-- BANK_DRAINED (R485): a draining bank that no tracker holds becomes empty. -/
def drainBank (s : State) (b : Bool) : State :=
  if (bankOf s b).state = .draining ∧ reelHeld s (bankOf s b).reel.toNat = false then
    setBank s b { bankOf s b with state := .empty }
  else s

/-- BANK_DRAINED on either bank. -/
def drainBanks (s : State) : State := drainBank (drainBank s false) true

/-- REEL_LATCH (R499): share and KV policy latched with the reel of bank b that becomes front; 0x7120.FE takes the commit
count (R88, R147). -/
def reelLatch (s : State) (b : Bool) : State :=
  let p := valNat s 0x7120 2 0 0
  let s := modReels s (fun r => { r with share := valNat s 0x7120 1 0 25, policy := p })
  let s := modDict s (fun d => { d with latched := tput d.latched 0x7120 (tget d.counts (dictKey 0x7120 0 0) 0) })
  setBank s b { bankOf s b with policy := p }

/-- 0x7010: the reels a stream may lag (R156). -/
def lagLimit : Nat := 3

/-- CUE_WAIT_RELEASE (R504): streams in cue wait return to running on the front reel r when its lag is within the limit. -/
def cueRelease (s : State) (r : Nat) : State :=
  if lagLimit < reelLag s.reels.posted.toNat r then s
  else { s with serving := { s.serving with
      trackers := s.serving.trackers.map (fun e =>
        if e.2.state = .cueWait then
          (e.1, { e.2 with state := .running, reel := BitVec.ofNat 16 r, lagFlag := false })
        else e) } }

/-- BANK_BECOMES_FRONT (R485): a filling bank whose every incoming entry is done becomes front and the old front draining. -/
def becomeFront (s : State) (b : Bool) : State :=
  let s := setBank s b { bankOf s b with state := .front }
  let s := if (bankOf s (!b)).state = .front then setBank s (!b) { bankOf s (!b) with state := .draining } else s
  let s := reelLatch s b
  drainBanks (cueRelease s (bankOf s b).reel.toNat)

/-- BANK_BECOMES_FRONT where its condition holds. -/
def checkComplete (s : State) : State :=
  match fillingBank s with
  | some b => if allDone s then becomeFront s b else s
  | none => s

/-- What has been performed of the entries of a bank that is to receive a reel: what it holds of that reel already, else
nothing; no done frame has come (R485, R496). -/
def freshArrivals (same : Bool) (l : Tbl Arrival) : Tbl Arrival :=
  l.map (fun e => (e.1, { e.2 with performed := if same then e.2.performed else 0, ended := none }))

/-- A bank starts, or restarts, to receive reel r: every done bit cleared (R485, R494). -/
def beginFill (s : State) (b : Bool) (r : Nat) : State :=
  let same := (bankOf s b).reel.toNat == r
  let s := setBank s b { state := .filling, reel := BitVec.ofNat 16 r, policy := (bankOf s b).policy }
  checkComplete (clearDone (modReels s (fun x => { x with arriving := freshArrivals same x.arriving })))

/-- The posted reel N takes r when r is the newest reel offered since reset (R487, R494). -/
def postReel (s : State) (r : Nat) : State :=
  if s.reels.anyPosted = false ∨ newer r s.reels.posted.toNat then
    modReels s (fun x => { x with posted := BitVec.ofNat 16 r, anyPosted := true })
  else s

/-- The other bank of R494: the one that is not front; with no front, the filling one, else bank A (log entry 23). -/
def otherBank (s : State) : Bool :=
  match frontBank s with
  | some b => !b
  | none => (fillingBank s).getD false

/-- Reel frame kinds (R493). -/
def frameOffer : Nat := 1
def frameAccept : Nat := 2
def frameHold : Nat := 3
def frameStale : Nat := 4
def frameData : Nat := 5
def frameDone : Nat := 6

/-- A reel frame: kind, reel, incoming index, destination slice, value and data (R493). -/
def reelFrame (kind reel inc dslice value : Nat) (data : List Byte) : List Byte :=
  leBytes 1 kind ++ leBytes 1 0 ++ leBytes 2 reel ++ leBytes 2 inc ++ leBytes 2 dslice ++ leBytes 4 value ++ leBytes 4 0 ++
    (if kind = frameData then fit 224 data else [])

/-- A reel frame on its way on VC3; from the package to itself it goes over the spine (R493). -/
def sendFrame (s : State) (dst : Nat) (f : List Byte) : State := sendPacket s (mkPacket s 3 false dst 0 false 0 0 0 f)

/-- The answer to an offer of reel r for slice c and its effect (R494, table Offer answers); the posted reel takes r first (R487).
Until a shard load has written the directory, and for a slice of no bank share, it is stale (R528). -/
def offerAnswer (s : State) (r c : Nat) : State × Nat :=
  let s := postReel s r
  if s.reels.slices.any (fun x => x.toNat == c) = false then (s, frameStale)
  else
    let b := otherBank s
    let k := bankOf s b
    let notNewer := match frontReel s with
      | some f => !newer r f
      | none => false
    if notNewer then (s, frameStale)
    else match k.state with
      | .empty => (beginFill s b r, frameAccept)
      | .draining => (s, frameHold)
      | .filling =>
        if k.reel.toNat = r then (s, frameAccept)
        else if newer r k.reel.toNat then (beginFill s b r, frameAccept)
        else (s, frameStale)
      | .front => (s, frameStale)

/-! ### Push entries at the source -/

/-- Offset of push entry i in the directory (R484). -/
def pushOff (i : Nat) : Nat := 0x2040 + 32 * i
/-- Push entries of slice c. -/
def pushCount (s : State) (c : Nat) : Nat := min (dirNat s c 0x1C 2) 1536
/-- State of push entry i: 0 idle, 1 pushing, 2 held, 3 done, 4 stale, 5 stopped. -/
def pushState (s : State) (c i : Nat) : Nat := dirNat s c (pushOff i + 0x12) 1
def pushLen (s : State) (c i : Nat) : Nat := dirNat s c (pushOff i + 4) 4
def pushMark (s : State) (c i : Nat) : Nat := dirNat s c (pushOff i + 0x14) 4
def pushReel (s : State) (c i : Nat) : Nat := dirNat s c (pushOff i + 0x18) 2
/-- Destination package of an entry, 0x1FFF resolved. -/
def pushDst (s : State) (c i : Nat) : Nat := resolvePkg s (dirNat s c (pushOff i + 8) 2 % 2 ^ 13)
def pushSlice (s : State) (c i : Nat) : Nat := dirNat s c (pushOff i + 0xA) 2 % 1024
def pushInc (s : State) (c i : Nat) : Nat := dirNat s c (pushOff i + 0x10) 2
def setPushState (s : State) (c i v : Nat) : State := dirPut s c (pushOff i + 0x12) 1 v
def setPushMark (s : State) (c i v : Nat) : State := dirPut s c (pushOff i + 0x14) 4 v

/-- The seal word of a source slice (R490). -/
def sealKey (s : State) (c : Nat) : Nat := sliceKey c (dirNat s c 0x28 4)
def sealReel (s : State) (c : Nat) : Nat := memNat s (sealKey s c) 2
def sealState (s : State) (c : Nat) : Nat := memNat s (sealKey s c + 2) 1
/-- The reel engine writes the seal word's state. -/
def setSeal (s : State) (c v : Nat) : State := memPut s (sealKey s c + 2) 1 v

/-- Once every entry reads 3, 4 or 5 the seal word takes 3, or 4 if any reads 5 (R492). -/
def sealProgress (s : State) (c : Nat) : State :=
  let l := (List.range (pushCount s c)).map (pushState s c)
  if sealState s c = 2 ∧ l.all (fun v => v == 3 || v == 4 || v == 5) then
    setSeal s c (if l.contains 5 then 4 else 3)
  else s

/-- An offer of push entry i of slice c (R495). -/
def sendOffer (s : State) (c i : Nat) : State :=
  sendFrame s (pushDst s c i)
    (reelFrame frameOffer (pushReel s c i) (pushInc s c i) (pushSlice s c i) (pushLen s c i) [])

/-- An entry starts from mark 0 with a new offer (R492, R599). -/
def startPush (s : State) (c i : Nat) (reel : Nat) : State :=
  sendOffer (dirPut (setPushMark (setPushState s c i 1) c i 0) c (pushOff i + 0x18) 2 reel) c i

/-- Data frames of an entry from a mark on, 224 bytes each, and then the done frame; an uncorrectable word of the source, or
an entry that reaches beyond the source region, stops the entry with state 5 (R493, R495, R523). -/
def sendData : Nat → State → Nat → Nat → Nat → State
  | 0, s, _, _, _ => s
  | f + 1, s, c, i, m =>
    let len := pushLen s c i
    let off := dirNat s c (pushOff i + 0xC) 4
    let start := dirNat s c (pushOff i) 4
    if dirNat s c 0x24 4 < start + len then sealProgress (setPushState s c i 5) c
    else if len ≤ m then
      sendFrame s (pushDst s c i) (reelFrame frameDone (pushReel s c i) (pushInc s c i) (pushSlice s c i) len [])
    else
      let n := min 224 (len - m)
      match eccRead s (sliceKey c (dirNat s c 0x20 4 + start + m)) n with
      | (s', _, some _) => sealProgress (setPushState s' c i 5) c
      | (s', l, none) =>
        sendData f
          (sendFrame s' (pushDst s c i) (reelFrame frameData (pushReel s c i) (pushInc s c i) (pushSlice s c i) (off + m) l))
          c i (m + n)

/-- The push entry of this package that an answer names: pushing or held, to that package, slice and incoming index. -/
def findPush (s : State) (pkg dslice inc reel : Nat) : Option (Nat × Nat) :=
  firstSome (fun (c : CoreId) =>
    ((List.range (pushCount s c.toNat)).find? (fun i =>
      (pushState s c.toNat i == 1 || pushState s c.toNat i == 2) && pushDst s c.toNat i == pkg &&
        pushSlice s c.toNat i == dslice && pushInc s c.toNat i == inc && pushReel s c.toNat i == reel)).map
      (fun i => (c.toNat, i))) s.reels.sources

/-- What names a frame within its destination: kind, incoming index, slice, reel (log entry 21). -/
def frameName (f : List Byte) : Nat :=
  fieldAt f 0 1 % 8 + fieldAt f 4 2 % 1024 * 2 ^ 3 + fieldAt f 6 2 % 1024 * 2 ^ 13 + fieldAt f 2 2 * 2 ^ 23

/-- A data or done frame of this package has been performed at a destination, as its answer's argument names it with its value
(R497): the entry's mark passes the bytes that follow those performed before, and the done frame ends it. -/
def framePerformed (s : State) (pkg arg : Nat) : State :=
  match findPush s pkg (arg / 2 ^ 13 % 1024) (arg / 2 ^ 3 % 1024) (arg / 2 ^ 23 % 65536) with
  | none => s
  | some (c, i) =>
    let off := dirNat s c (pushOff i + 0xC) 4
    let v := arg / 2 ^ 39 % 2 ^ 25
    let m := pushMark s c i
    if pushState s c i ≠ 1 then s
    else if arg % 8 = frameData then
      (if off ≤ v ∧ v - off ≤ m then setPushMark s c i (min (pushLen s c i) (max m (v - off + 224))) else s)
    else if arg % 8 = frameDone then sealProgress (setPushState (setPushMark s c i (pushLen s c i)) c i 3) c
    else s

/-- The source of a data or done frame hears that it has been performed (R497): within the package at once, else by a write done
with tag 0 whose argument names the frame (log entry 21). -/
def tellPerformed (s : State) (src : Nat) (f : List Byte) : State :=
  let arg := frameName f + fieldAt f 8 4 % 2 ^ 25 * 2 ^ 39
  if src = ownPkg s then framePerformed s src arg
  else sendPacket s (mkPacket s 2 true src 0x29 false 0 0 arg [])

/-- A frame of push entry i of slice c that waits to leave. -/
def frameOf (s : State) (c i : Nat) (p : Packet) : Bool :=
  p.vc == 3 && p.src == ownPkg s && p.dst == pushDst s c i && fieldAt p.body 6 2 % 1024 == pushSlice s c i &&
    fieldAt p.body 4 2 == pushInc s c i && fieldAt p.body 2 2 == pushReel s c i &&
    [frameOffer, frameData, frameDone].contains (fieldAt p.body 0 1)

/-- The frames of a push entry that wait to leave are dropped: the entry stops at its mark (R522). -/
def dropFrames (s : State) (c i : Nat) : State :=
  modNet s (fun n => { n with
    inbox := n.inbox.filter (fun e => !(e.1 == 16 && frameOf s c i e.2))
    xbar := n.xbar.filter (fun h => !(h.fromLink == none && frameOf s c i h.packet))
    links := n.links.map (fun e => (e.1, { e.2 with txq := e.2.txq.filter (fun t => !t.packet.any (frameOf s c i)) })) })

/-- A fence of the core above a source slice stops that slice's entries at their marks (R522). -/
def stopSource (s : State) (c : Nat) : State :=
  if s.reels.sources.any (fun x => x.toNat == c) then
    let s' := (List.range (pushCount s c)).foldl (fun s i =>
      if pushState s c i = 1 ∨ pushState s c i = 2 then setPushState (dropFrames s c i) c i 5 else s) s
    if sealState s c = 1 ∨ sealState s c = 2 then setSeal s' c 4 else s'
  else s

/-- Revocation of the kind 9 tag of a source package empties a filling bank (R485, R521). -/
def revokeReelSource (s : State) (pkg : Nat) : State :=
  match fillingBank s with
  | some b =>
    if s.reels.slices.any (fun c => (List.range (incomingCount s c.toNat)).any (fun i =>
        dirNat s c.toNat (incomingOff i) 2 % 2 ^ 13 == pkg)) then
      setBank s b { bankOf s b with state := .empty }
    else s
  | none => s

/-! ### Frames at this package -/

/-- The oldest VC3 packet received on a port, where its frame has the kind (R633, R635). -/
def takeFrame (s : State) (port kind : Nat) : Option (State × Packet) :=
  match s.net.inbox.find? (fun e => e.1 == port && e.2.vc == 3) with
  | some (p, k) =>
    if fieldAt k.body 0 1 = kind then
      some (freeBuffer (modNet s (fun n => { n with inbox := n.inbox.erase (p, k) })) port 5 1, k)
    else none
  | none => none

/-- Reel of a frame, its incoming index, destination slice and value (R493). -/
def frReel (f : List Byte) : Nat := fieldAt f 2 2
def frInc (f : List Byte) : Nat := fieldAt f 4 2
def frSlice (f : List Byte) : Nat := fieldAt f 6 2 % 1024
def frValue (f : List Byte) : Nat := fieldAt f 8 4

/-- What is known of the incoming entry that a frame names. -/
def arrivalOf (s : State) (f : List Byte) : Arrival := tget s.reels.arriving (frSlice f * 1024 + frInc f) Arrival.reset
/-- What is known of it changed. -/
def setArrival (s : State) (f : List Byte) (a : Arrival) : State :=
  modReels s (fun r => { r with arriving := tput r.arriving (frSlice f * 1024 + frInc f) a })

/-- An offer is answered (R494); an accept notes the entry's length. -/
def applyOffer (s : State) (p : Packet) : State :=
  let f := p.body
  let a := offerAnswer (noteDir s (frSlice f)) (frReel f) (frSlice f)
  let s := if a.2 = frameAccept then
      setArrival a.1 f { arrivalOf a.1 f with len := some (frValue f), ended := none }
    else a.1
  let v := if a.2 = frameStale then (frontReel s).getD 0 else 0
  sendFrame s p.src (reelFrame a.2 (frReel f) (frInc f) (frSlice f) v [])

/-- The bank that fills the reel of a frame for a slice of the region (R496). -/
def fillsFrame (s : State) (f : List Byte) : Option Bool :=
  match fillingBank s with
  | some b => if (bankOf s b).reel.toNat = frReel f ∧ s.reels.slices.any (fun x => x.toNat == frSlice f) then some b else none
  | none => none

/-- The done bit of an incoming entry sets once its done frame has come and every earlier data frame has been performed (R496);
the source hears of it (R497). -/
def finishEntry (s : State) (f : List Byte) : State :=
  let a := arrivalOf s f
  match a.ended with
  | some (n, src) =>
    if n ≤ a.performed ∧ frInc f < incomingCount s (frSlice f) then
      let s := checkComplete (dirPut (setArrival s f { a with ended := none }) (frSlice f) (incomingOff (frInc f) + 6) 2 1)
      tellPerformed s src (reelFrame frameDone (frReel f) (frInc f) (frSlice f) n [])
    else s
  | none => s

/-- A data frame is written into the bank share only while that bank fills the frame's reel, and only over the bytes of its
entry as far as they are known (R496; log entry 22). Its source hears that it has been performed (R497). -/
def applyData (s : State) (p : Packet) : State :=
  let f := p.body
  let c := frSlice f
  match fillsFrame s f with
  | none => s
  | some b =>
    let s := noteDir s c
    let a := arrivalOf s f
    let v := frValue f
    let start := a.start.getD v
    let share := dirNat s c 0x10 4
    let n := min 224 (((a.len.map (fun n => min share (start + n))).getD share) - v)
    match eccWrite s (sliceKey c (dirNat s c (if b then 0xC else 8) 4 + v)) (slice f 16 n) with
    | (s, _, some _) => s
    | (s, _, none) =>
      let done := if start ≤ v ∧ v - start ≤ a.performed then max a.performed (v + n - start) else a.performed
      finishEntry (tellPerformed (setArrival s f { a with start := some start, performed := done }) p.src f) f

/-- A done frame whose reel is arriving is noted, and ends its entry where all of its data has been performed (R496). -/
def applyDone (s : State) (p : Packet) : State :=
  match fillsFrame s p.body with
  | none => s
  | some _ => finishEntry (setArrival s p.body { arrivalOf s p.body with ended := some (frValue p.body, p.src) }) p.body

/-! ### Commands -/

/-- SEAL_WORD_SAMPLE (R492): a sealed source slice starts every push entry with mark 0. -/
def sealSample (s : State) (c : Nat) : State :=
  if s.reels.sources.any (fun x => x.toNat == c) then
    let s := noteRead (noteDir s c) (sealKey s c) 8
    if sealState s c = 1 then
      let s := setSeal s c 2
      sealProgress ((List.range (pushCount s c)).foldl (fun s i => startPush s c i (sealReel s c)) s) c
    else sealProgress s c
  else s

/-- REEL_OFFER (R494). -/
def reelOffer (s : State) (port : Nat) : State :=
  match takeFrame s port frameOffer with
  | some (s, p) => drainBanks (applyOffer s p)
  | none => s

/-- REEL_ACCEPT (R495): the source sends its data from the mark, and the done frame. -/
def reelAccept (s : State) (port : Nat) : State :=
  match takeFrame s port frameAccept with
  | some (s, p) =>
    match findPush s p.src (frSlice p.body) (frInc p.body) (frReel p.body) with
    | some (c, i) =>
      let s := noteRead s (sliceKey c (directoryBase + pushOff i)) 32
      sendData (pushLen s c i / 224 + 2) (setPushState s c i 1) c i (pushMark s c i)
    | none => s
  | none => s

/-- REEL_HOLD (R495): the entry reads 2 while it waits. -/
def reelHold (s : State) (port : Nat) : State :=
  match takeFrame s port frameHold with
  | some (s, p) =>
    match findPush s p.src (frSlice p.body) (frInc p.body) (frReel p.body) with
    | some (c, i) => setPushState s c i 2
    | none => s
  | none => s

/-- OFFER_RESEND (R495): the offer of a held entry is sent again. -/
def offerResend (s : State) (c i : Nat) : State :=
  if s.reels.sources.any (fun x => x.toNat == c) ∧ i < pushCount s c ∧ pushState s c i = 2 then sendOffer s c i else s

/-- REEL_STALE (R495): the entry reads 4. -/
def reelStale (s : State) (port : Nat) : State :=
  match takeFrame s port frameStale with
  | some (s, p) =>
    match findPush s p.src (frSlice p.body) (frInc p.body) (frReel p.body) with
    | some (c, i) => sealProgress (setPushState s c i 4) c
    | none => s
  | none => s

/-- Entries that write a slice whose core was fenced wait at what has been performed until recovery's step 4 has ended (R357,
R522). A fault that fences no core has no step 4: its recovery ends within the command that raises it. -/
def slicePaused (s : State) (port kind : Nat) : Bool :=
  match takeFrame s port kind with
  | some (_, p) => (coreOf s (frSlice p.body)).revoking != []
  | none => false

/-- REEL_DATA (R496). -/
def reelData (s : State) (port : Nat) : State :=
  if slicePaused s port frameData then s
  else match takeFrame s port frameData with
    | some (s, p) => applyData s p
    | none => s

/-- REEL_DONE (R496). -/
def reelDone (s : State) (port : Nat) : State :=
  if slicePaused s port frameDone then s
  else match takeFrame s port frameDone with
    | some (s, p) => applyDone s p
    | none => s

/-- SEAL_WORD_SAMPLE. -/
def execSealWordSample (c : CoreId) (s : State) : Host.Outcome State Fault Refusal := .next (sealSample s c.toNat)
/-- REEL_OFFER. -/
def execReelOffer (port : BitVec 5) (s : State) : Host.Outcome State Fault Refusal := .next (reelOffer s port.toNat)
/-- REEL_ACCEPT. -/
def execReelAccept (port : BitVec 5) (s : State) : Host.Outcome State Fault Refusal := .next (reelAccept s port.toNat)
/-- REEL_HOLD. -/
def execReelHold (port : BitVec 5) (s : State) : Host.Outcome State Fault Refusal := .next (reelHold s port.toNat)
/-- OFFER_RESEND. -/
def execOfferResend (c : CoreId) (entry : U16) (s : State) : Host.Outcome State Fault Refusal :=
  .next (offerResend s c.toNat entry.toNat)
/-- REEL_STALE. -/
def execReelStale (port : BitVec 5) (s : State) : Host.Outcome State Fault Refusal := .next (reelStale s port.toNat)
/-- REEL_DATA. -/
def execReelData (port : BitVec 5) (s : State) : Host.Outcome State Fault Refusal := .next (reelData s port.toNat)
/-- REEL_DONE. -/
def execReelDone (port : BitVec 5) (s : State) : Host.Outcome State Fault Refusal := .next (reelDone s port.toNat)

end Sys2Proof.Machine
end

