-- ==== Sys2Proof/Machine/Trackers.lean ====
section
/-!
DEFINITION. The serving unit's trackers (10_streams_attention.md R395 to R419, 11_adapters_storyboards.md R443 to R450):
stream trackers, page pools, adapter bindings, and the return of a closing tracker's pages.
-/
namespace Sys2Proof.Machine

/-! ### Trackers (R395) -/

/-- Code of a tracker state (table Stream states). -/
def TState.code : TState → Nat
  | .free => 0
  | .open' => 1
  | .running => 2
  | .parked => 3
  | .pageWait => 4
  | .cueWait => 5
  | .verifying => 6
  | .closing => 7
  | .lost => 8

/-- The 64-byte record of tracker i (table Stream tracker). -/
def trackerBytes (s : State) (i : Nat) : List Byte :=
  let t := trackerOf s i
  if t.state = .free then zeros 64
  else leBytes 1 t.state.code ++ leBytes 1 t.bucket ++ leBytes 2 i ++ leBytes 2 t.tenant.toNat ++ leBytes 1 t.group.toNat ++
    leBytes 1 (b2n (t.nodes != 0) + 2 * b2n t.lagFlag + 4 * b2n t.promptDone) ++ leBytes 4 t.tokens ++
    leBytes 4 t.pages.length ++ leBytes 2 t.reel.toNat ++ leBytes 2 t.adapter.toNat ++ leBytes 1 t.ring ++ zeros 3 ++
    leBytes 8 t.listAddr.toNat ++ leBytes 8 t.user.toNat ++ leBytes 4 t.ticket ++ leBytes 2 t.nodes ++ leBytes 2 t.readers ++
    zeros 16

/-- A tracker takes a state. -/
def setTState (s : State) (i : Nat) (st : TState) : State := modTracker s i (fun t => { t with state := st })

/-- Lowest stream ID whose tracker is free (R401). -/
def lowestFreeStream (s : State) : Option Nat :=
  (List.range 16384).find? (fun i => (trackerOf s i).state == .free)

/-! ### Buckets and pools (R410 to R419) -/

/-- Bound of bucket b in force. -/
def boundOf (s : State) (b : Nat) : Nat := s.serving.bounds.getD b 0
/-- The bucket of L committed tokens: the smallest b whose bound holds L + 64 (R410); 15 where none does (R441). -/
def bucketFor (s : State) (l : Nat) : Nat := ((List.range 16).find? (fun b => decide (l + 64 ≤ boundOf s b))).getD 15

/-- Lowest index of pool b that is free, from i on (R411, R412). -/
def lowestFreePage (used : List (Nat × Nat)) (b size : Nat) : Nat → Nat → Option Nat
  | 0, _ => none
  | f + 1, i =>
    if size ≤ i then none else if used.contains (b, i) then lowestFreePage used b size f (i + 1) else some i

/-- The page that pool b grants next. -/
def nextPage (s : State) (b : Nat) : Option Nat :=
  lowestFreePage s.serving.used b (s.serving.pools.getD b 0) (s.serving.used.length + 1) 0

/-- Free indices of pool b below its size (R415). -/
def pagesFree (s : State) (b : Nat) : Nat :=
  let n := s.serving.pools.getD b 0
  n - (s.serving.used.filter (fun u => u.1 == b && decide (u.2 < n))).length

/-- Pages that positions 0 to L + 63 need (R403, R404). -/
def pagesNeeded (l : Nat) : Nat := (l + 64 + 63) / 64

/-- The address of entry e of a stream's page list, as an offset of its space (R396). -/
def Tracker.entryAt (t : Tracker) (e : Nat) : Nat := t.listAddr.toNat % 2 ^ 47 + 4 * e

/-- Bytes written to a page list at an offset within one granule, at the granule that the open translated it to (R323, R403). -/
def listPiece (s : State) (t : Tracker) (a : Nat) (bs : List Byte) : State × Option MemErr :=
  match t.listGranules[a / 2 ^ 21 - t.listAddr.toNat % 2 ^ 47 / 2 ^ 21]? with
  | none => (s, some ⟨0x0201, t.listSpace, 0⟩)
  | some g =>
    match physWrite s t.listSpace (g * 2 ^ 21 + a % 2 ^ 21) bs .engine with
    | (s, _, some e) => (s, some e)
    | (s, _, none) => (s, none)

/-- Entry e of a stream's page list is written (R396); one that crosses a granule lies in both. -/
def listPut (s : State) (t : Tracker) (e v : Nat) : State × Option MemErr :=
  let a := t.entryAt e
  let n := min 4 (2 ^ 21 - a % 2 ^ 21)
  match listPiece s t a ((leBytes 4 v).take n) with
  | (s, some e) => (s, some e)
  | (s, none) => if n < 4 then listPiece s t (a + n) ((leBytes 4 v).drop n) else (s, none)

/-- Pages granted to stream i in position order until it holds need of them or the pool of its bucket is empty (R404, R412,
R416); each is written to the page list (R396). -/
def grantPages : Nat → State → Nat → Nat → State × Option MemErr
  | 0, s, _, _ => (s, none)
  | f + 1, s, i, need =>
    let t := trackerOf s i
    if need ≤ t.pages.length then (s, none)
    else match nextPage s t.bucket with
      | none => (s, none)
      | some p =>
        let s := { s with serving := { s.serving with used := (t.bucket, p) :: s.serving.used } }
        let s := modTracker s i (fun t => { t with pages := t.pages ++ [(t.bucket, p)] })
        match listPut s t t.pages.length (t.bucket * 2 ^ 28 + p) with
        | (s, some e) => (s, some e)
        | (s, none) => grantPages f s i need

/-- The stream holds every page that its next token needs. -/
def pagesHeld (s : State) (i : Nat) : Bool := decide (pagesNeeded (trackerOf s i).tokens ≤ (trackerOf s i).pages.length)

/-- A stream whose pages could not all be granted takes the next wait ticket (R416). -/
def enterWait (s : State) (i : Nat) : State :=
  let s' := modTracker s i (fun t => { t with state := .pageWait, ticket := s.serving.ticket })
  { s' with serving := { s'.serving with
      ticket := if s.serving.ticket + 1 = 2 ^ 32 then 1 else s.serving.ticket + 1 } }

/-- The front reel; with no bank in front a free value (R503; log entry 36). -/
def frontNow (s : State) : State × Nat :=
  match frontReel s with
  | some r => (s, r)
  | none => (useFree s 1, freeAt s 0 % 65536)

/-- A stream leaves page wait once every missing page is granted, on the front reel (R418, R503). -/
def leaveWait (s : State) (i : Nat) : State :=
  let r := frontNow s
  modTracker r.1 i (fun t => { t with
    state := if t.promptDone then .running else .open'
    ticket := 0
    reel := BitVec.ofNat 16 r.2 })

/-- An element put into a list sorted by a measure. -/
def insertBy {α : Type} (f : α → Nat) (x : α) : List α → List α
  | [] => [x]
  | y :: l => if f x ≤ f y then x :: y :: l else y :: insertBy f x l

/-- A list sorted by a measure. -/
def sortBy {α : Type} (f : α → Nat) (l : List α) : List α := l.foldr (insertBy f) []

/-- Streams in page wait on pool b, by ticket (R418). -/
def waiters (s : State) (b : Nat) : List Nat :=
  (sortBy (fun e => e.2.ticket)
    (s.serving.trackers.filter (fun e => e.2.state == .pageWait && e.2.bucket == b))).map (·.1)

/-- PAGE_GRANT_TO_WAITER (R418): what pool b holds free goes to its waiting streams, lowest ticket first. A page list entry
that cannot be written is lost; the grant stands (log entry 37). -/
def serveWaiters (s : State) : State :=
  (List.range 16).foldl (fun s b => (waiters s b).foldl (fun s i =>
    let t := trackerOf s i
    let need := pagesNeeded (if t.promptDone then t.tokens else t.prompt)
    let s := (grantPages (need + 1) s i need).1
    if need ≤ (trackerOf s i).pages.length then leaveWait s i else s) s) s

/-- Commit counts of a record's present values. -/
def commitCount (s : State) (index : Nat) : Byte := tget s.dict.counts (dictKey index 0 0) 0

/-- The generator groups of the package that are not idle (R413). -/
def generators (s : State) : List Nat := (busyGroups s).filter (fun g => groupRole s g == 1)

/-- The sixteen committed fields of 0x6010 or 0x6020. -/
def sixteen (s : State) (index : Nat) (d : Nat → Nat) : List Nat :=
  (List.range 16).map (fun b => valNat s index (b + 1) 0 (d b))

/-- Committed bounds and pool sizes come into force once every generator group that is not idle has latched them (R413,
R414); 0xFE of the record takes the commit count (R147). Buckets follow the bounds (R410). -/
def serveLatch (s : State) : State :=
  let c1 := commitCount s 0x6010
  let c2 := commitCount s 0x6020
  let s1 := if (generators s).all (fun g => (groupOf s g).servingCount.1 == c1) ∧ tget s.dict.latched 0x6010 0 ≠ c1 then
      let s := { s with serving := { s.serving with bounds := sixteen s 0x6010 (fun b => 64 * 2 ^ b) } }
      let s := modDict s (fun d => { d with latched := tput d.latched 0x6010 c1 })
      { s with serving := { s.serving with trackers := s.serving.trackers.map (fun e =>
          if e.2.state = .closing then e else (e.1, { e.2 with bucket := bucketFor s e.2.tokens })) } }
    else s
  let s2 := if (generators s1).all (fun g => (groupOf s1 g).servingCount.2 == c2) ∧ tget s1.dict.latched 0x6020 0 ≠ c2 then
      modDict { s1 with serving := { s1.serving with pools := sixteen s1 0x6020 (fun _ => 0) } }
        (fun d => { d with latched := tput d.latched 0x6020 c2 })
    else s1
  serveWaiters s2

/-! ### Adapters (R443 to R450) -/

/-- Space and offset of adapter descriptor i; none while 0x6030 reads 0 (R443). -/
def adapterAt (s : State) (i : Nat) : Option (Nat × Nat) :=
  let a := valNat s 0x6030 0 0 0
  if a = 0 then none else some (a / 2 ^ 47 % 16, a % 2 ^ 47 + 64 * i)

/-- What the bind of an open finds in the state word and the tenant field (R444, R446, R447): a status, or a word it cannot read
(R478). -/
def bindCheck (s : State) (t : Nat) (adapter : Nat) : State × Nat × Option MemErr :=
  if adapter.testBit 15 then (s, 0, none)
  else match adapterAt s (adapter % 4096) with
    | none => (s, 2, none)
    | some (sp, off) =>
      match physRead s sp off 10 .engine with
      | (s, _, some e) => (s, 0, some e)
      | (s, l, none) =>
        if fieldAt l 0 1 ≠ 2 then (s, 2, none) else if fieldAt l 8 2 % 4096 ≠ t then (s, 3, none) else (s, 0, none)

/-- The use count of an adapter changed by an atomic at its home (R446, R448); where its word cannot be read nothing changes
(R320). -/
def adapterUse (s : State) (adapter : Nat) (f : Nat → Nat) : State :=
  if adapter.testBit 15 then s
  else match adapterAt s (adapter % 4096) with
    | none => s
    | some (sp, off) =>
      match physRead s sp (off + 4) 4 .engine with
      | (s, _, some _) => s
      | (s, l, none) => (physWrite s sp (off + 4) (leBytes 4 (f (leNat l) % 2 ^ 32)) .engine).1

/-! ### Closing (R405, R435, R448) -/

/-- A closing tracker without readers becomes free: its pages return and its adapter's use count falls. -/
def freeTracker (s : State) (i : Nat) : State :=
  let t := trackerOf s i
  if t.state = .closing ∧ t.readers = 0 then
    let s := { s with serving := { s.serving with
      used := s.serving.used.filter (fun u => !t.pages.contains u)
      boards := tdel s.serving.boards i } }
    serveWaiters (setTracker (adapterUse s t.adapter.toNat (fun v => v + 2 ^ 32 - 1)) i Tracker.reset)
  else s

/-- A tracker moves to closing (table Stream transitions); its storyboard is discarded (R471). -/
def closeTracker (s : State) (i : Nat) : State :=
  let s := modTracker s i (fun t => { t with state := .closing, ticket := 0, nodes := 0 })
  drainBanks (freeTracker { s with serving := { s.serving with boards := tdel s.serving.boards i } } i)

end Sys2Proof.Machine
end

