-- ==== Sys2Proof/Machine/Faults.lean ====
section
/-!
DEFINITION. Faults, fences, revocation by holder tag, the stop of a group and the continuity area that holds their marks
(08_faults_preemption.md R332 to R361).
-/
namespace Sys2Proof.Machine

/-! ### Fault codes (R350) -/

def fIllegal : Nat := 0x0101
def fSoftware : Nat := 0x0102
def fStall : Nat := 0x0103
def fAddress : Nat := 0x0201
def fAlignment : Nat := 0x0202
def fCrossAtomic : Nat := 0x0203
def fTranslation : Nat := 0x0204
def fRights : Nat := 0x0205
def fTarget : Nat := 0x0206
def fDescriptor : Nat := 0x0301
def fUncorrectable : Nat := 0x0401
def fMesh : Nat := 0x0402
def fBridgeStall : Nat := 0x0501
def fBridgeLost : Nat := 0x0502
def fPathLost : Nat := 0x0601
def fTenantGone : Nat := 0x0602
def fSaveFailed : Nat := 0x0701
def fRestoreFailed : Nat := 0x0702
def fInternal : Nat := 0x0801

/-- The faults marked "core" in the table Fault codes, which fence the core as well (R349, R350). -/
def fencesCore (code : Nat) : Bool := code == fMesh || code == fSaveFailed || code == fRestoreFailed || code == fInternal

/-- Code of a fault that strikes a save path (R350). -/
def pathCode : PathFault → Nat
  | .memory => fUncorrectable
  | .mesh => fMesh
  | .stall => fBridgeStall
  | .pairLost => fBridgeLost
  | .internal => fInternal

/-- Code of an engine in a fault record (R332). -/
def engineCode : Engine → Nat
  | .control => 0
  | .arrays => 1
  | .vector => 2
  | .dma => 3
  | .message => 4
  | .random => 5
  | .savePath => 6

/-! ### The continuity area (R332) -/

/-- The key of a byte of core c's continuity area. -/
def contKey (c off : Nat) : Nat := sliceKey c (continuityBase + off)

/-- State of a mark header: 0 none, 1 running, 2 faulted, 3 saved, 4 lost (R332). -/
def setMarkState (s : State) (c v : Nat) : State := memPut s (contKey c 6) 1 v

/-- The mark header of a member that starts or resumes: no half valid (R332). -/
def writeMarkHeader (s : State) (c g : Nat) (slot : Nat) : State :=
  ownWrite s (contKey c 0)
    ([0x43, 0x4F, 0x4E, 0x54] ++ leBytes 2 1 ++ leBytes 1 1 ++ leBytes 1 0 ++ leBytes 8 0 ++ leBytes 8 0 ++ leBytes 4 0 ++
      leBytes 4 0 ++ leBytes 2 g ++ leBytes 2 (groupTenant s g) ++ leBytes 2 (rankOf s g c) ++ leBytes 2 0 ++ leBytes 8 slot ++
      zeros 16)

/-- A fault as it is recorded: code, engine, tag, detail, address as issued, physical address (R332). -/
structure FaultInfo where
  code : Nat
  engine : Engine
  tag : Nat
  detail : Nat
  addr : Nat
  phys : Nat
deriving DecidableEq, Repr

/-- The fault record of core c in a kernel with a huddle count (R332); the event sequence is that of the 0x3011 that follows.
The control state takes the scalar registers, reservations and latched values in a layout that the manual does not give: free
bytes (log entry 24). -/
def writeFaultRecordAt (s : State) (c : Nat) (f : FaultInfo) (kernel huddles : Nat) : State :=
  let s1 := ownWrite s (contKey c 0x40)
    (leBytes 2 f.code ++ leBytes 2 c ++ leBytes 4 kernel ++ leBytes 8 huddles ++ leBytes 4 (coreOf s c).pc.toNat ++
      leBytes 1 (engineCode f.engine) ++ leBytes 1 f.tag ++ leBytes 2 f.detail ++ leBytes 8 f.addr ++ leBytes 8 f.phys ++
      leBytes 4 s.log.next.toNat ++ zeros 20)
  useFree (setMarkState (ownWrite s1 (contKey c 0x1000) (freeBytes s1 4096)) c 2) 4096

/-- The fault record of core c in the present kernel of group g. -/
def writeFaultRecord (s : State) (c g : Nat) (f : FaultInfo) : State :=
  writeFaultRecordAt s c f (groupOf s g).kernel (groupOf s g).huddles

/-! ### Stages and claims (R96, R100, R135, R136) -/

/-- Stages and claims whose holder satisfies p are discarded; each logs 0x1012 with its cause: 0 idle, 1 revocation, 2
tenant reset. One discarded as R96 says is remembered for abort 0x0017. -/
def discardStages (s : State) (p : Nat → Holder → Bool) (cause : Nat) : State :=
  let st := s.dict.stages.filter (fun x => p x.index.toNat x.holder)
  let cl := s.dict.claims.filter (fun x => p x.index.toNat x.holder)
  let s1 := modDict s (fun d => { d with
    stages := d.stages.filter (fun x => !p x.index.toNat x.holder)
    claims := d.claims.filter (fun x => !p x.index.toNat x.holder)
    expired := if cause = 2 then d.expired
      else st.map (fun x => (x.index, x.ten, x.holder)) ++ d.expired })
  (st.map (fun x => x.index.toNat) ++ cl.map (fun x => x.index.toNat)).foldl
    (fun s i => logEvent s 0x1012 srcGaffer (i * 65536 + cause)) s1

/-! ### Messages: reservations and mailboxes (R206, R213, R231) -/

/-- Key of a sender and one of its mailboxes. -/
def senderKey (pkg c mb : Nat) : Nat := (pkg * 1024 + c) * 16 + mb

/-- A sequence comes before another, in 32 bits that wrap (R209). -/
def seqBefore (a b : U32) : Bool := a != b && decide ((b - a).toNat < 2 ^ 31)

/-- Messages in flight to a core that satisfy p are lost; later ones of their senders are awaited next (R211, R213). -/
def dropPlaced (k : Core) (p : Msg → Bool) : Core :=
  { k with
    boxes := k.boxes.map (fun b => (b.1, { b.2 with placed := b.2.placed.filter (fun m => !p m) }))
    recvSeq := (k.boxes.flatMap (fun b => (b.2.placed.filter p).map (fun m => (senderKey m.pkg.toNat m.core.toNat b.1, m.seq)))).foldl
      (fun t x => if seqBefore x.2 (tget t x.1 0) then t else tput t x.1 (x.2 + 1)) k.recvSeq }

/-- A core's mailbox reservations that satisfy p return. -/
def dropReserved (k : Core) (p : Pkg × CoreId × Option GroupId × Tenant → Bool) : Core :=
  { k with boxes := k.boxes.map (fun b => (b.1, { b.2 with reserved := b.2.reserved.filter (fun r => !p r) })) }

/-- Group number of a core of this package for a holder tag; 256, which none has, for a core of another package. -/
def senderGroup (s : State) (m : Msg) : Nat :=
  if m.pkg.toNat = ownPkg s then (groupOfCore s m.core.toNat).getD 256 else 256

/-- The reservations of senders that satisfy p (package, core, group, tenant) are revoked: their slots return, and their sends in
flight are not delivered (R213). -/
def revokeSenders (s : State) (p : Nat → Nat → Nat → Nat → Bool) : State :=
  { s with cores := s.cores.map (fun e => (e.1,
      dropPlaced (dropReserved e.2 (fun r => p r.1.toNat r.2.1.toNat ((r.2.2.1.map (·.toNat)).getD 256) r.2.2.2.toNat))
        (fun m => p m.pkg.toNat m.core.toNat (senderGroup s m) m.tenant.toNat))) }

/-- Reservations that cores of this package hold, where p holds of the sending core and the reservation, are gone. -/
def dropHeld (s : State) (p : Nat → Resv → Bool) : State :=
  { s with cores := s.cores.map (fun e => (e.1, { e.2 with resv := e.2.resv.filter (fun r => !p e.1 r) })) }

/-- Every reservation against core c is revoked and every message in flight to it is lost (R213, R343). -/
def revokeAgainst (s : State) (c : Nat) : State :=
  dropHeld (modCore s c (fun k => dropPlaced (dropReserved k (fun _ => true)) (fun _ => true)))
    (fun _ r => r.pkg.toNat == ownPkg s && r.core.toNat == c)

/-- A core's mailboxes are emptied and the reservations against them return (R231). -/
def emptyBoxes (s : State) (c : Nat) : State := modCore (revokeAgainst s c) c (fun k => { k with boxes := [] })

/-! ### Leases (R308, R311) -/

/-- Holder of a lease word: core, package, group, tenant (R308). -/
def leaseHolder (w : Nat) : Nat × Nat × Nat × Nat :=
  (w % 2 ^ 10, w / 2 ^ 10 % 2 ^ 13, w / 2 ^ 23 % 2 ^ 8, w / 2 ^ 31 % 2 ^ 12)

/-- Listed leases whose holder (package, core, group, tenant) satisfies p are left with held 0 and revoked 1 (R311). -/
def revokeLeases (s : State) (p : Nat → Nat → Nat → Nat → Bool) : State :=
  (s.mem.leases.filter (fun k =>
    let h := leaseHolder (memNat s k 8)
    p h.2.1 h.1 h.2.2.1 h.2.2.2)).foldl
    (fun s k => memPut s k 8 (memNat s k 8 % 2 ^ 62 + 2 ^ 62)) s

/-! ### Revocation by holder tag (R359, R360) -/

/-- A holder tag that recovery revokes: a core, a group or a tenant of a package (R359). -/
inductive Tag where
  | core (pkg c : Nat)
  | group (pkg g : Nat)
  | tenant (pkg t : Nat)
deriving DecidableEq, Repr

/-- A holder made of package, core, group and tenant carries a matching tag (R360). -/
def Tag.holds : Tag → Nat → Nat → Nat → Nat → Bool
  | .core p c, hp, hc, _, _ => hp == p && hc == c
  | .group p g, hp, _, hg, _ => hp == p && hg == g
  | .tenant p t, hp, _, _, ht => hp == p && ht == t

/-- The encoding of a holder tag (R359). -/
def Tag.encode : Tag → Nat
  | .core p c => 1 * 2 ^ 28 + p * 2 ^ 10 + c
  | .group p g => 2 * 2 ^ 28 + p * 2 ^ 8 + g
  | .tenant p t => 3 * 2 ^ 28 + p * 2 ^ 12 + t

/-- REVOCATION (R360) on this package's homes: leases and mailbox reservations of a matching holder. -/
def revokeHomes (s : State) (t : Tag) : State := revokeSenders (revokeLeases s t.holds) t.holds

/-- Packages where cores that satisfy p hold reservations, other than this one. -/
def remoteHomes (s : State) (p : Nat → Bool) : List Nat :=
  ((s.cores.filter (fun e => p e.1)).flatMap (fun e => e.2.resv.map (fun r => r.pkg.toNat))).eraseDups.filter
    (fun k => k != ownPkg s)

/-- A revocation notice to each of a list of packages on VC0 (R361, R632). -/
def sendNotices (s : State) (t : Tag) (pkgs : List Nat) (ten : Nat) : State :=
  pkgs.foldl (fun s k =>
    sendPacket (takeTag s (.notice t.encode k)) (mkPacket s 0 false k 0x03 false ten s.net.nextTag t.encode [])) s

/-- Revocation of a core's tag (step 4 of the table Fault recovery): on every home here, and at the packages where the core
holds reservations, whose answers are awaited. -/
def revokeCore (s : State) (c : Nat) : State :=
  let t := Tag.core (ownPkg s) c
  let pkgs := remoteHomes s (fun x => x == c)
  let s1 := sendNotices (revokeHomes s t) t pkgs (coreTenant s c)
  modCore (dropHeld s1 (fun x _ => x == c)) c (fun k => { k with revoking := pkgs })

/-! ### Streams of a stopped group (R400, R436, R472) -/

/-- The group's streams become lost; their storyboards are discarded and no reader of theirs is left (R434, R436, R472). -/
def streamsLost (s : State) (g : Nat) : State :=
  let hit (t : Tracker) : Bool := t.group.toNat == g &&
    (match t.state with
      | .open' => true
      | .running => true
      | .parked => true
      | .pageWait => true
      | .cueWait => true
      | .verifying => true
      | _ => false)
  let ids := (s.serving.trackers.filter (fun e => hit e.2)).map (·.1)
  drainBanks { s with serving := { s.serving with
    trackers := s.serving.trackers.map (fun e =>
      if hit e.2 then (e.1, { e.2 with state := .lost, lagFlag := false, nodes := 0, ticket := 0 }) else e)
    boards := s.serving.boards.filter (fun b => !ids.contains b.1) } }

/-! ### Engines stop (R337, R340, R348) -/

/-- Bytes a DMA command transfers. -/
def DmaCmd.total (d : DmaCmd) : Nat := d.rows * d.rowLen

/-- The mark of a command that stops: the first byte whose answer is awaited; where none is, the transfer was under way and
the mark is a free value from its start to the byte it has come to (R336; log entry 25). -/
def dmaMark (s : State) (d : DmaCmd) : Nat :=
  match d.pend with
  | [] => d.start + freeAt s 0 % (d.next - d.start + 1)
  | l => l.foldl (fun m p => min m p.1) d.total

/-- DMA_COMMAND_STOP (R337): mark and status go to the slot in the continuity area, then to the descriptor. -/
def dmaWriteMark (s : State) (c : Nat) (d : DmaCmd) (mark status : Nat) : State :=
  let rec' := ownRead s (scratchKey c d.off) 48 ++ leBytes 8 mark ++ leBytes 4 status ++ zeros 4
  ownWrite (ownWrite s (contKey c (0x80 + 64 * d.slot)) rec') (scratchKey c (d.off + 0x30)) (leBytes 8 mark ++ leBytes 4 status)

/-- A stopped DMA command of core c with the code that stopped it. -/
def dmaStop (s : State) (c : Nat) (d : DmaCmd) (status : Nat) : State :=
  useFree (dmaWriteMark s c d (dmaMark s d) status) 1

/-- An attention command that named stream i ends: its readers field falls, and a closing tracker without readers becomes
free (R405, R421). -/
def dropReader (s : State) (i : Nat) : State :=
  freeTracker (modTracker s i (fun t => { t with readers := t.readers - 1 })) i

/-- The readers that the core's array commands hold on streams are given back (R405, R434). -/
def dropReaders (s : State) (c : Nat) : State :=
  ((coreOf s c).arrQ.flatMap (fun a => a.streams)).foldl dropReader s

/-- Messages that core c has sent and whose receiver does not count them as arrived yet, or whose answer from another package is
awaited (R340). -/
def sendsInFlight (s : State) (c : Nat) : Nat :=
  let here := s.cores.flatMap (fun e => e.2.boxes.flatMap (fun b =>
    b.2.placed.filter (fun m => m.pkg.toNat == ownPkg s && m.core.toNat == c)))
  let away := s.net.out.filter (fun e => match e.2 with
    | .core k (.send _ _ _ _) => k.toNat == c
    | .core k (.tile t _) => k.toNat == c && (coreOf s c).arrQ.any (fun a => a.tag == t && a.notified)
    | _ => false)
  here.length + away.length

/-- A message mark for each message in flight, up to the four that the area holds. Each is recorded as a whole; that it says so,
and how, lies in a layout that the manual does not give: free bytes (R332, R340; log entry 24). -/
def writeMessageMarks (s : State) (c : Nat) : State :=
  let n := 32 * min 4 (sendsInFlight s c)
  useFree (ownWrite s (contKey c 0x280) (freeBytes s n)) n

/-- A tenant reset aborts the tile-sends of the chain at the head: its status says that a block was not written (R236, R266). -/
def abortSends (s : State) (c : Nat) : State :=
  match (coreOf s c).arrQ.head? with
  | some a =>
    match a.kind with
    | .product d (some _) =>
      if a.sent < a.sends ∨ (a.sends ≠ 0 ∧ a.acks ≠ 0) then
        ownWrite s (scratchKey c (d.chain + 0x18)) (leBytes 4 (if a.status.testBit 18 then a.status else a.status + 2 ^ 18))
      else s
    | _ => s
  | none => s

/-- A member's engines stop at their marks: DMA marks, message marks where a send was in flight, the chain status where a tenant
reset aborts its sends, the array queue emptied (R266, R337, R340, R348). -/
def stopEngines (s : State) (c : Nat) (status : Nat) (gone : Bool) : State :=
  let s1 := (coreOf s c).dmaQ.foldl (fun s d => dmaStop s c d status) s
  let s2 := writeMessageMarks s1 c
  let s3 := if gone then abortSends s2 c else s2
  modCore (dropReaders s3 c) c (fun k => { k with dmaQ := [], arrQ := [], waiting := [], arrived := false })

/-- Every member of a group stops (R348). -/
def stopMembers (s : State) (g status : Nat) : State := (members s g).foldl (fun s c => stopEngines s c status (status == fTenantGone)) s

/-! ### Raising a fault (R348, R349, R361) -/

/-- CORE_FENCE (R349): the core's bit of 0x4001 sets, 0x3012 is logged, its tag is revoked, and pushes from its slice stop
(R522). -/
def fenceCore (s : State) (c : Nat) (src : U16) : State :=
  if (coreOf s c).fenced then s
  else
    let s1 := logEvent (modCore s c (fun k => { k with fenced := true })) 0x3012 src c
    stopSource (revokeAgainst (revokeCore s1 c) c) c

/-- Steps 1 to 4 of the table Fault recovery for a fault of core c of group g, in a kernel with a huddle count. -/
def faultGroupAt (s : State) (c g : Nat) (f : FaultInfo) (kernel huddles : Nat) : State :=
  let s1 := writeFaultRecordAt s c f kernel huddles
  let s2 := stopMembers s1 g f.code
  let s3 := modGroup s2 g (fun k => { k with
    state := .fenced
    lastFault := BitVec.ofNat 16 f.code
    pending := false })
  let s4 := logEvent (streamsLost s3 g) 0x3011 (srcGroup g) f.code
  if fencesCore f.code then fenceCore s4 c (srcGroup g) else s4

/-- The same for a fault of the present kernel. -/
def faultGroup (s : State) (c g : Nat) (f : FaultInfo) : State :=
  faultGroupAt s c g f (groupOf s g).kernel (groupOf s g).huddles

/-- A member whose save or restore failed: fault record, core fence, and the group reads 4; the saves of the others are discarded
and its streams are lost (R354, R355, R436). -/
def memberLost (s : State) (g c code under : Nat) : State :=
  let s := writeFaultRecord s c g
    { code := code, engine := .savePath, tag := 0, detail := under, addr := 0, phys := 0 }
  let s := fenceCore (logEvent s 0x3011 (srcGroup g) code) c (srcGroup g)
  let s := if code = fSaveFailed then logEvent s 0x3013 (srcGroup g) c else s
  streamsLost (modGroup (setMarkState s c 4) g (fun x => { x with
    state := .lost
    lastFault := BitVec.ofNat 16 code
    saving := false
    restoring := false })) g

/-- A fault of core c of group g, which reads 1: during its save the save fails (R354), else the group stops (R348). -/
def groupFault (s : State) (c g : Nat) (f : FaultInfo) : State :=
  if (groupOf s g).saving then memberLost s g c fSaveFailed f.code else faultGroup s c g f

/-- The group with a restore in progress of which a core is a member (R346). -/
def restoringGroup (s : State) (c : Nat) : Option Nat :=
  (busyGroups s).find? (fun g => (groupOf s g).restoring && isMember s g c)

/-- A fault that changes no group state: it is recorded and logged; without a group it is the Gaffer's event (R371; log entry
26). -/
def strayFault (s : State) (c : Nat) (f : FaultInfo) : State :=
  let src := match groupOfCore s c with
    | some g => srcGroup g
    | none => srcGaffer
  let s := logEvent (writeFaultRecord s c ((groupOfCore s c).getD 256) f) 0x3011 src f.code
  if fencesCore f.code then fenceCore s c src else s

/-- FAULT_RAISED (R348, R354, R355): a fault of core c. -/
def raiseFault (s : State) (c : Nat) (f : FaultInfo) : State :=
  match runningGroup s c with
  | some g => groupFault s c g f
  | none => match restoringGroup s c with
    | some g => memberLost s g c fRestoreFailed f.code
    | none => strayFault s c f

/-- A fault of the control processor. -/
def cpFault (s : State) (c : Nat) (code detail addr phys : Nat) : State :=
  raiseFault s c { code := code, engine := .control, tag := 0, detail := detail, addr := addr, phys := phys }

/-- A memory error as the fault of a core's engine, with the address as issued. -/
def memFault (s : State) (c : Nat) (e : Engine) (tag : Nat) (m : MemErr) (addr : Nat) : State :=
  raiseFault s c { code := m.code, engine := e, tag := tag, detail := m.detail, addr := addr, phys := m.phys }

/-- A descriptor fault: the detail is the offset of the first bad field (R227, R350). -/
def descFault (s : State) (c : Nat) (e : Engine) (tag : Nat) (detail : Nat) : State :=
  raiseFault s c { code := fDescriptor, engine := e, tag := tag, detail := detail, addr := 0, phys := 0 }

/-- A fault strikes every running group that satisfies p, at its member of rank 0 (R350; log entry 27). -/
def faultGroups (s : State) (p : Nat → Bool) (code detail : Nat) : State :=
  ((runningGroups s).filter p).foldl (fun s g =>
    match members s g with
    | c :: _ => groupFault s c g { code := code, engine := .control, tag := 0, detail := detail, addr := 0, phys := 0 }
    | [] => s) s

/-! ### Aborting a group (R231, R331, R347, R353) -/

/-- A group's tag is revoked: leases, reservations held by or against the members that it holds, stages of its window; the homes
in other packages hear the kind 1 tags of the members, which the group's tag matches (R353, R360). -/
def revokeGroup (s : State) (g : Nat) (ms : List Nat) : State :=
  let t := Tag.group (ownPkg s) g
  let s1 := ms.foldl (fun s' c =>
    sendNotices s' (Tag.core (ownPkg s) c) (remoteHomes s (fun x => x == c)) (groupTenant s g)) (revokeHomes s t)
  let s2 := dropHeld s1 (fun c _ => ms.contains c)
  discardStages s2 (fun _ h => h.path == .coreWindow (BitVec.ofNat 8 g)) 1

/-- Offset of the slot of rank r in a save segment (R343). -/
def slotOffset (base r : Nat) : Nat := base + r * 0x300000

/-- The save slots of a group whose pre-emption is discarded hold undefined data: free bytes (R347; log entry 111). -/
def spoilSlots (s : State) (g : Nat) : State :=
  let x := groupOf s g
  let seg := if x.saving then some (x.saveSpace, x.saveBase)
    else if x.pending then (saveSegment s (groupTenant s g)).map (fun e => (e.space, e.phys * 2 ^ 21)) else none
  match seg with
  | none => s
  | some (sp, base) => (members s g).foldl (fun s' c =>
      useFree (physWrite s' sp (slotOffset base (rankOf s g c)) (freeBytes s' 0x293000) .engine).1 0x293000) s

/-- A member leaves its group by an abort: mailboxes emptied, translation cache emptied, engines stopped, mark state none.
A DMA command stopped so has no fault code: its status is a free value (log entry 28). -/
def abortMember (s : State) (c : Nat) : State :=
  let s1 := stopEngines s c (freeAt s 0) (tenantResetting s (coreTenant s c))
  let s2 := modCore (emptyBoxes (useFree s1 1) c) c (fun k => { k with
    tcache := []
    snapB := none
    snapLines := []
    closed := false })
  setMarkState s2 c 0

/-- A group aborted: it reads 0; a pending pre-emption, a save or a restore of it ends; its tags are revoked and its streams
lost (R347, R353, R436). A group that reads 2 and is not restoring holds no core (R345). Memory but for save slots stays as it
is (R321). -/
def abortGroup (s : State) (g : Nat) : State :=
  let ms := if holdsCores s g then members s g else []
  let s1 := ms.foldl abortMember (revokeGroup (spoilSlots s g) g ms)
  let s2 := modGroup s1 g (fun k => { k with
    state := .idle
    pending := false
    saving := false
    restoring := false
    savedMail := [] })
  streamsLost s2 g

end Sys2Proof.Machine
end

