-- ==== Sys2Proof/Machine/Control.lean ====
section
/-!
DEFINITION. The control processor (R221 to R224): registers, when a core issues an instruction, and the meanings of the
integer, immediate, branch and jump instructions.
-/
namespace Sys2Proof.Machine

/-! ### Registers -/

/-- Scalar register r of a core; s0 reads zero (R221). -/
def reg (k : Core) (r : Nat) : Nat := if r = 0 then 0 else (tget k.regs r 0).toNat

/-- Scalar register r written modulo 2^64; s0 ignores writes (R221). -/
def setReg (k : Core) (r v : Nat) : Core := if r = 0 then k else { k with regs := tput k.regs r (BitVec.ofNat 64 v) }

/-- The pc moves past one instruction. -/
def pcNext (k : Core) : Core := { k with pc := k.pc + 4 }

/-- A result is written and the pc moves on. -/
def result (s : State) (c d v : Nat) : State := modCore s c (fun k => pcNext (setReg k d v))

/-- A number of w bits as a signed one. -/
def signed (w v : Nat) : Int := if v < 2 ^ (w - 1) then (v : Int) else (v : Int) - 2 ^ w

/-- An integer modulo 2^64. -/
def wrap64 (v : Int) : Nat := (v % 2 ^ 64).toNat

/-! ### Issue -/

/-- A core issues instructions: it is a member of a running group that is not saving, is not fenced, its domain is on, it has
not arrived at the huddle and waits for no answer (R218, R348, R834). -/
def canIssue (s : State) (c : Nat) : Bool :=
  match runningGroup s c with
  | none => false
  | some g => !(groupOf s g).saving && !(coreOf s c).fenced && coreOn s c && !(coreOf s c).arrived &&
      (coreOf s c).waiting == []

/-- The instruction buffer gives this word at the pc; beyond what the buffer holds the command's own word stands
(R230; log entry 29). -/
def fetches (s : State) (c : Nat) (w : U32) : Bool :=
  let k := coreOf s c
  if k.pc.toNat + 4 ≤ k.ibuf.length then fieldAt k.ibuf k.pc.toNat 4 == w.toNat else true

/-- The core issues this word now. -/
def issues (s : State) (c : Nat) (w : U32) : Bool := canIssue s c && fetches s c w

/-- ILLEGAL_INSTRUCTION (R223): the detail is the word's bits [31:16] (R350). -/
def illegal (s : State) (c : Nat) (w : U32) : State := cpFault s c fIllegal (w.toNat / 65536) 0 0

/-- An instruction of a row: an illegal word raises its fault, a word of another row is ill-formed, and a core that does not
issue the word now is left as it is (log entry 1). -/
def coreStep (mn : String) (want : Spelling → Bool) (f : State → State) (c : CoreId) (w : U32) (s : State) :
    Host.Outcome State Fault Refusal :=
  if spell w = .illegal then .next (if issues s c.toNat w then illegal s c.toNat w else s)
  else if want (spell w) then .next (if issues s c.toNat w then f s else s)
  else .refused (.illFormed mn)

/-! ### Integer operations (table Integer functions) -/

/-- Number of set bits of a number of n bits. -/
def popcount : Nat → Nat → Nat
  | 0, _ => 0
  | n + 1, v => v % 2 + popcount n (v / 2)

/-- Leading zeros of a 64-bit number. -/
def leadingZeros (v : Nat) : Nat := if v = 0 then 64 else 63 - log2 v

/-- The result of integer function f on two 64-bit numbers (R223, table Integer functions). -/
def intFn (f a b : Nat) : Nat :=
  match f with
  | 0x0 => (a + b) % 2 ^ 64
  | 0x1 => (a + 2 ^ 64 - b) % 2 ^ 64
  | 0x2 => a &&& b
  | 0x3 => a ||| b
  | 0x4 => a ^^^ b
  | 0x5 => a * 2 ^ (b % 64) % 2 ^ 64
  | 0x6 => a / 2 ^ (b % 64)
  | 0x7 => wrap64 (signed 64 a / 2 ^ (b % 64))
  | 0x8 => a * b % 2 ^ 64
  | 0x9 => a * b / 2 ^ 64
  | 0xA => b2n (decide (signed 64 a < signed 64 b))
  | 0xB => b2n (decide (a < b))
  | 0xC => if signed 64 a ≤ signed 64 b then a else b
  | 0xD => if signed 64 a ≤ signed 64 b then b else a
  | 0xE => leadingZeros a
  | _ => popcount 64 a

/-- s[d] = f(s[a], s[b]). -/
def intOp (c : Nat) (w : U32) (s : State) : State :=
  let k := coreOf s c
  result s c (wD w) (intFn (wFnA w) (reg k (wA w)) (reg k (wB w)))

/-- An integer row: the word spells function f. -/
def intStep (mn : String) (f : Nat) (c : CoreId) (w : U32) (s : State) : Host.Outcome State Fault Refusal :=
  coreStep mn (fun p => p == .integer f) (intOp c.toNat w) c w s

/-- INT_ADD. -/
def execIntAdd (c : CoreId) (w : U32) (s : State) : Host.Outcome State Fault Refusal := intStep "INT_ADD" 0x0 c w s
/-- INT_SUBTRACT. -/
def execIntSubtract (c : CoreId) (w : U32) (s : State) : Host.Outcome State Fault Refusal :=
  intStep "INT_SUBTRACT" 0x1 c w s
/-- INT_AND. -/
def execIntAnd (c : CoreId) (w : U32) (s : State) : Host.Outcome State Fault Refusal := intStep "INT_AND" 0x2 c w s
/-- INT_OR. -/
def execIntOr (c : CoreId) (w : U32) (s : State) : Host.Outcome State Fault Refusal := intStep "INT_OR" 0x3 c w s
/-- INT_EXCLUSIVE_OR. -/
def execIntExclusiveOr (c : CoreId) (w : U32) (s : State) : Host.Outcome State Fault Refusal :=
  intStep "INT_EXCLUSIVE_OR" 0x4 c w s
/-- INT_SHIFT_LEFT. -/
def execIntShiftLeft (c : CoreId) (w : U32) (s : State) : Host.Outcome State Fault Refusal :=
  intStep "INT_SHIFT_LEFT" 0x5 c w s
/-- INT_LOGICAL_RIGHT. -/
def execIntLogicalRight (c : CoreId) (w : U32) (s : State) : Host.Outcome State Fault Refusal :=
  intStep "INT_LOGICAL_RIGHT" 0x6 c w s
/-- INT_ARITHMETIC_RIGHT. -/
def execIntArithmeticRight (c : CoreId) (w : U32) (s : State) : Host.Outcome State Fault Refusal :=
  intStep "INT_ARITHMETIC_RIGHT" 0x7 c w s
/-- INT_PRODUCT_LOW. -/
def execIntProductLow (c : CoreId) (w : U32) (s : State) : Host.Outcome State Fault Refusal :=
  intStep "INT_PRODUCT_LOW" 0x8 c w s
/-- INT_PRODUCT_HIGH_UNSIGNED. -/
def execIntProductHighUnsigned (c : CoreId) (w : U32) (s : State) : Host.Outcome State Fault Refusal :=
  intStep "INT_PRODUCT_HIGH_UNSIGNED" 0x9 c w s
/-- INT_LESS_SIGNED. -/
def execIntLessSigned (c : CoreId) (w : U32) (s : State) : Host.Outcome State Fault Refusal :=
  intStep "INT_LESS_SIGNED" 0xA c w s
/-- INT_LESS_UNSIGNED. -/
def execIntLessUnsigned (c : CoreId) (w : U32) (s : State) : Host.Outcome State Fault Refusal :=
  intStep "INT_LESS_UNSIGNED" 0xB c w s
/-- INT_SIGNED_MINIMUM. -/
def execIntSignedMinimum (c : CoreId) (w : U32) (s : State) : Host.Outcome State Fault Refusal :=
  intStep "INT_SIGNED_MINIMUM" 0xC c w s
/-- INT_SIGNED_MAXIMUM. -/
def execIntSignedMaximum (c : CoreId) (w : U32) (s : State) : Host.Outcome State Fault Refusal :=
  intStep "INT_SIGNED_MAXIMUM" 0xD c w s
/-- INT_LEADING_ZEROS. -/
def execIntLeadingZeros (c : CoreId) (w : U32) (s : State) : Host.Outcome State Fault Refusal :=
  intStep "INT_LEADING_ZEROS" 0xE c w s
/-- INT_SET_BITS. -/
def execIntSetBits (c : CoreId) (w : U32) (s : State) : Host.Outcome State Fault Refusal :=
  intStep "INT_SET_BITS" 0xF c w s

/-! ### Immediates -/

/-- The immediate of format I, sign-extended to 64 bits (R222). -/
def immExt (w : U32) : Nat := wrap64 (signed 15 (wImm w))

/-- The result of class 0x01 function f on s[a] (R223, table Instruction classes). -/
def immFn (f a : Nat) (w : U32) : Nat :=
  match f with
  | 0 => (a + immExt w) % 2 ^ 64
  | 1 => a &&& immExt w
  | 2 => a ||| immExt w
  | _ => (a * 2 ^ 15 % 2 ^ 64) ||| wImm w

/-- s[d] = f(s[a], immediate). -/
def immOp (c : Nat) (w : U32) (s : State) : State := result s c (wD w) (immFn (wFnI w) (reg (coreOf s c) (wA w)) w)

/-- ADD_IMMEDIATE. -/
def execAddImmediate (c : CoreId) (w : U32) (s : State) : Host.Outcome State Fault Refusal :=
  coreStep "ADD_IMMEDIATE" (fun p => p == .immediate 0) (immOp c.toNat w) c w s
/-- AND_IMMEDIATE. -/
def execAndImmediate (c : CoreId) (w : U32) (s : State) : Host.Outcome State Fault Refusal :=
  coreStep "AND_IMMEDIATE" (fun p => p == .immediate 1) (immOp c.toNat w) c w s
/-- OR_IMMEDIATE. -/
def execOrImmediate (c : CoreId) (w : U32) (s : State) : Host.Outcome State Fault Refusal :=
  coreStep "OR_IMMEDIATE" (fun p => p == .immediate 2) (immOp c.toNat w) c w s
/-- SHIFT_OR_IMMEDIATE: d = (s[a] << 15) OR immediate[14:0]. -/
def execShiftOrImmediate (c : CoreId) (w : U32) (s : State) : Host.Outcome State Fault Refusal :=
  coreStep "SHIFT_OR_IMMEDIATE" (fun p => p == .immediate 3) (immOp c.toNat w) c w s

/-! ### Control flow -/

/-- A branch condition on two 64-bit numbers (R223, table Instruction classes). -/
def condHolds (f a b : Nat) : Bool :=
  match f with
  | 0 => a == b
  | 1 => a != b
  | 2 => decide (signed 64 a < signed 64 b)
  | 3 => decide (signed 64 b ≤ signed 64 a)
  | 4 => decide (a < b)
  | _ => decide (b ≤ a)

/-- Branch to pc + 4 × offset if the condition holds; else on to the next instruction. -/
def branchOp (c : Nat) (w : U32) (s : State) : State :=
  modCore s c (fun k =>
    if condHolds (wCond w) (reg k (wD w)) (reg k (wA w)) then
      { k with pc := BitVec.ofNat 64 (wrap64 (k.pc.toNat + 4 * signed 14 (wOff w))) }
    else pcNext k)

/-- d = pc + 4; pc = s[a] + 4 × immediate (log entry 30: the pc is an offset from the code base). -/
def jumpOp (c : Nat) (w : U32) (s : State) : State :=
  modCore s c (fun k =>
    { setReg k (wD w) (k.pc.toNat + 4) with
        pc := BitVec.ofNat 64 (wrap64 (reg k (wA w) + 4 * signed 15 (wImm w))) })

/-- BRANCH. -/
def execBranch (c : CoreId) (w : U32) (s : State) : Host.Outcome State Fault Refusal :=
  coreStep "BRANCH" (fun p => match p with | .branch _ => true | _ => false) (branchOp c.toNat w) c w s
/-- JUMP_AND_LINK. -/
def execJumpAndLink (c : CoreId) (w : U32) (s : State) : Host.Outcome State Fault Refusal :=
  coreStep "JUMP_AND_LINK" (fun p => p == .jump) (jumpOp c.toNat w) c w s

/-! ### System instructions -/

/-- NOP. -/
def execNop (c : CoreId) (w : U32) (s : State) : Host.Outcome State Fault Refusal :=
  coreStep "NOP" (fun p => p == .nop) (fun s => modCore s c.toNat pcNext) c w s

/-- s[d] = beats counted since the group started: a free value that never falls (R224; log entry 2). -/
def beatsOp (c : Nat) (w : U32) (s : State) : State :=
  let v := (coreOf s c).beatsMark + freeAt s 0
  useFree (modCore (result s c (wD w) v) c (fun k => { k with beatsMark := v })) 1

/-- BEATS. -/
def execBeats (c : CoreId) (w : U32) (s : State) : Host.Outcome State Fault Refusal :=
  coreStep "BEATS" (fun p => p == .beats) (beatsOp c.toNat w) c w s

/-- SOFTWARE_FAULT: the FAULT instruction raises the software fault with detail s[a][15:0] (R224, R350). -/
def execSoftwareFault (c : CoreId) (w : U32) (s : State) : Host.Outcome State Fault Refusal :=
  coreStep "SOFTWARE_FAULT" (fun p => p == .fault)
    (fun s => cpFault s c.toNat fSoftware (reg (coreOf s c.toNat) (wA w) % 65536) 0 0) c w s

/-- An engine command of a running group's core that makes no progress for 2^24 beats raises the engine stall fault, and a parity
error in an engine's state the internal check; the detail is the engine (R350). -/
def engineStalled (s : State) (c : Nat) (e : Engine) (tag : Nat) (parity : Bool) : State :=
  let k := coreOf s c
  let outstanding := match e with
    | .arrays => k.arrQ.any (fun a => a.tag.toNat == tag)
    | .dma => k.dmaQ.any (fun d => d.tag.toNat == tag)
    | _ => true
  if (runningGroup s c).isSome && !k.fenced && coreOn s c && (outstanding || parity) then
    raiseFault s c { code := if parity then fInternal else fStall, engine := e, tag := tag, detail := engineCode e, addr := 0, phys := 0 }
  else s

/-- ENGINE_STALL. -/
def execEngineStall (c : CoreId) (e : Engine) (found : EngineFinding) (s : State) : Host.Outcome State Fault Refusal :=
  .next (engineStalled s c.toNat e found.tag.toNat found.parity)

end Sys2Proof.Machine
end

