-- ==== Sys2Proof/Machine/Formats.lean ====
section
/-!
DEFINITION. The operand formats of R188 and their conversions from FP32 (R203, R204, R928), and the counter-based random
numbers of XCG-10 (09_random.md) that stochastic rounding draws.
-/
namespace Sys2Proof.Machine

/-! ### XCG-10 (R373 to R382) -/

/-- A 32-bit word rotated left. -/
def rotl32 (x : U32) (n : Nat) : U32 := x.rotateLeft n

/-- Round r of XCG-10 on lanes x0 to x3 (R375). -/
def xcgRound (k0 k1 : U32) (r : Nat) (x : U32 × U32 × U32 × U32) : U32 × U32 × U32 × U32 :=
  let a := x.1 + k0 + BitVec.ofNat 32 (r * 0x4C6F6574)
  let c := x.2.2.1 + k1 + BitVec.ofNat 32 (r * 0x586F6D65)
  let b := rotl32 x.2.1 9 ^^^ a
  let d := rotl32 x.2.2.2 13 ^^^ c
  (b, c * 0x02010307, d, a * 0x01030205)

/-- The rounds from r on, n of them. -/
def xcgRounds (k0 k1 : U32) : Nat → Nat → U32 × U32 × U32 × U32 → U32 × U32 × U32 × U32
  | 0, _, x => x
  | n + 1, r, x => xcgRounds k0 k1 n (r + 1) (xcgRound k0 k1 r x)

/-- XCG-10: the output words w0 to w3 (R375, R376). -/
def xcg10 (seed stream position : Nat) (purpose : Nat) : U32 × U32 × U32 × U32 :=
  xcgRounds (BitVec.ofNat 32 seed) (BitVec.ofNat 32 (seed / 2 ^ 32) ^^^ BitVec.ofNat 32 (purpose * 0x01000001)) 10 0
    (BitVec.ofNat 32 position, BitVec.ofNat 32 (position / 2 ^ 32), BitVec.ofNat 32 stream, BitVec.ofNat 32 (stream / 2 ^ 32))

/-- The output as one 128-bit number: word j in bits [32j + 31:32j] (R376). -/
def xcgValue (seed stream position purpose : Nat) : Nat :=
  let w := xcg10 seed stream position purpose
  w.1.toNat + w.2.1.toNat * 2 ^ 32 + w.2.2.1.toNat * 2 ^ 64 + w.2.2.2.toNat * 2 ^ 96

/-- The draw of w bits of the element (i, j) (R382). -/
def xcgDraw (seed stream purpose w i j : Nat) : Nat :=
  let n := 128 / w
  xcgValue seed stream (i % 2 ^ 32 * 2 ^ 32 + j / n % 2 ^ 32) purpose / 2 ^ (w * (j % n)) % 2 ^ w

/-! ### Formats -/

/-- The operand formats of R188; FP32 is code 0x06 in stage records (R235). -/
inductive Fmt where
  | bf16 | fp16 | e4m3 | e5m2 | int8 | mxfp4 | fp32
deriving DecidableEq, Repr

/-- The format of a code, FP32 among them (R188, R234). -/
def fmtOf (code : Nat) : Option Fmt :=
  match code with
  | 0 => some .bf16
  | 1 => some .fp16
  | 2 => some .e4m3
  | 3 => some .e5m2
  | 4 => some .int8
  | 5 => some .mxfp4
  | 6 => some .fp32
  | _ => none

/-- Bits of an element. -/
def Fmt.bits : Fmt → Nat
  | .bf16 => 16
  | .fp16 => 16
  | .e4m3 => 8
  | .e5m2 => 8
  | .int8 => 8
  | .mxfp4 => 4
  | .fp32 => 32

/-- Bytes that n elements of a row take; MXFP4 packs two in a byte (R187). -/
def Fmt.bytes (f : Fmt) (n : Nat) : Nat := (n * f.bits + 7) / 8

/-- m of R178: multiply-accumulates of a cell per beat. -/
def Fmt.perCell : Fmt → Nat
  | .bf16 => 1
  | .fp16 => 1
  | .e4m3 => 2
  | .e5m2 => 2
  | .int8 => 2
  | .mxfp4 => 4
  | .fp32 => 1

/-- Precision with the hidden bit, and least normal exponent, of the binary formats (R204). -/
def Fmt.prec : Fmt → Nat
  | .bf16 => 8
  | .fp16 => 11
  | .e4m3 => 4
  | .e5m2 => 3
  | .mxfp4 => 2
  | .fp32 => 24
  | .int8 => 8
def Fmt.emin : Fmt → Int
  | .bf16 => -126
  | .fp16 => -14
  | .e4m3 => -6
  | .e5m2 => -14
  | .mxfp4 => 0
  | .fp32 => -126
  | .int8 => 0

/-- The greatest finite bit pattern without sign; what a greater magnitude, an infinity and a NaN map to (R928). -/
def Fmt.maxCode : Fmt → Nat
  | .bf16 => 0x7F7F
  | .fp16 => 0x7BFF
  | .e4m3 => 0x7E
  | .e5m2 => 0x7B
  | .mxfp4 => 7
  | .fp32 => 0x7F7FFFFF
  | .int8 => 127
def Fmt.overCode : Fmt → Nat
  | .bf16 => 0x7F80
  | .fp16 => 0x7C00
  | .e4m3 => 0x7E
  | .e5m2 => 0x7B
  | .mxfp4 => 7
  | .fp32 => 0x7F800000
  | .int8 => 127
def Fmt.infCode : Fmt → Nat
  | .bf16 => 0x7F80
  | .fp16 => 0x7C00
  | .e4m3 => 0x7E
  | .e5m2 => 0x7C
  | .mxfp4 => 7
  | .fp32 => 0x7F800000
  | .int8 => 127
def Fmt.nanCode : Fmt → Nat
  | .bf16 => 0x7FC0
  | .fp16 => 0x7E00
  | .e4m3 => 0x7F
  | .e5m2 => 0x7F
  | .mxfp4 => 0
  | .fp32 => 0x7FC00000
  | .int8 => 0

/-- The value of an element's bit pattern (R188); two's complement for INT8. -/
def Fmt.decode (f : Fmt) (v : Nat) : Fp :=
  match f with
  | .int8 => if v < 128 then .fin false v 0 else .fin true (256 - v) 0
  | .fp32 => dec32 (BitVec.ofNat 32 v)
  | _ =>
    let neg := v.testBit (f.bits - 1)
    let mag := v % 2 ^ (f.bits - 1)
    let ex := mag / 2 ^ (f.prec - 1)
    let fr := mag % 2 ^ (f.prec - 1)
    if f.maxCode < mag then
      (if mag = f.infCode ∧ f ≠ .e4m3 ∧ f ≠ .mxfp4 then .inf neg else .nan)
    else if ex = 0 then .fin neg fr (f.emin - f.prec + 1)
    else .fin neg (2 ^ (f.prec - 1) + fr) (f.emin - f.prec + ex)

/-- How a conversion to a narrow format rounds: to nearest even, or by a draw of 16 bits (R203, R204). -/
inductive Rounding where
  | even
  | draw (r : Nat)
deriving DecidableEq, Repr

/-- A magnitude in quanta of exponent qe. -/
def Rounding.apply (r : Rounding) (m : Nat) (e qe : Int) : Nat :=
  match r with
  | .even => roundEven m e qe
  | .draw d => roundStochastic m e qe d

/-- The bit pattern of a value rounded and mapped into a format (R203, R204, R928). -/
def Fmt.encode (f : Fmt) (r : Rounding) (x : Fp) : Nat :=
  let sign (neg : Bool) : Nat := if neg then 2 ^ (f.bits - 1) else 0
  match f, x with
  | .int8, .nan => 0
  | .int8, .inf neg => if neg then 0x80 else 0x7F
  | .int8, .fin neg m e =>
    let q := r.apply m e 0
    if neg then (256 - min q 128) % 256 else min q 127
  | _, .nan => f.nanCode
  | _, .inf neg => sign neg + f.infCode
  | _, .fin neg m e =>
    if m = 0 then sign neg
    else
      let qe := quantum f.prec f.emin m e
      let mag := packMag f.prec f.emin (r.apply m e qe) qe
      sign neg + (if f.maxCode < mag then f.overCode else mag)

/-- The FP32 bit pattern of an element: every format widens exactly. -/
def Fmt.widen (f : Fmt) (v : Nat) : F32 := enc32 (f.decode v)

/-- The bit pattern of an FP32 value converted to a format; FP32 itself is exact. -/
def Fmt.narrow (f : Fmt) (r : Rounding) (x : F32) : Nat :=
  match f with
  | .fp32 => x.toNat
  | _ => f.encode r (dec32 x)

/-- The bit pattern of element i of packed bytes: the lower index in the low nibble for MXFP4 (R187). -/
def Fmt.elem (f : Fmt) (l : List Byte) (i : Nat) : Nat :=
  match f with
  | .mxfp4 => (l.getD (i / 2) 0).toNat / 16 ^ (i % 2) % 16
  | _ => fieldAt l (i * (f.bits / 8)) (f.bits / 8)

/-- Bit patterns packed into bytes, an odd last nibble with a zero above it. -/
def packNibbles : List Nat → List Byte
  | [] => []
  | [a] => [BitVec.ofNat 8 (a % 16)]
  | a :: b :: l => BitVec.ofNat 8 (a % 16 + 16 * (b % 16)) :: packNibbles l

/-- The bytes of a list of bit patterns in a format. -/
def Fmt.pack (f : Fmt) (l : List Nat) : List Byte :=
  match f with
  | .mxfp4 => packNibbles l
  | _ => l.flatMap (fun v => leBytes (f.bits / 8) v)

/-- The value of an E8M0 scale byte: 2^(X − 127), and NaN for 0xFF (R188). -/
def scaleFp (x : Nat) : Fp := if x = 255 then .nan else .fin false 1 ((x : Int) - 127)

end Sys2Proof.Machine
end

