-- ==== Sys2Proof/Machine/Vector.lean ====
section
/-!
DEFINITION. The vector engine (R199 to R204, R929) and the random-number unit (R224, R373 to R394): registers of 64 FP32
lanes, accumulator lines, and the meanings of the vector and random-number instructions.
-/
namespace Sys2Proof.Machine

/-- n lanes of a list, with zero lanes where it has fewer. -/
def lanesOf (n : Nat) (l : List F32) : List F32 := l.take n ++ List.replicate (n - l.length) 0

/-- Vector register r: 64 lanes (R199). -/
def vreg (k : Core) (r : Nat) : List F32 := lanesOf 64 (tget k.vregs r [])
/-- Vector register r written. -/
def setVreg (k : Core) (r : Nat) (v : List F32) : Core := { k with vregs := tput k.vregs r v }
/-- Accumulator line n: 16 FP32 values (R185). -/
def accLine (k : Core) (n : Nat) : List F32 := lanesOf 16 (tget k.acc n [])
/-- Accumulator line n written; it counts as written since each half's last copy (R333). -/
def setAccLine (k : Core) (n : Nat) (v : List F32) : Core :=
  { k with
    acc := tput k.acc n v
    dirtyA := if k.dirtyA.contains n then k.dirtyA else n :: k.dirtyA
    dirtyB := if k.dirtyB.contains n then k.dirtyB else n :: k.dirtyB }

/-- Two lists of lanes combined. -/
def lanes2 (f : F32 → F32 → F32) (a b : List F32) : List F32 := (a.zip b).map (fun p => f p.1 p.2)

/-- A core that copies a snapshot makes a command wait that would write a vector register (R334). -/
def copying (s : State) (c : Nat) : Bool := (coreOf s c).snapB.isSome

/-- A command that would write accumulator lines waits while one of them is still to be copied (R334). -/
def copyingLines (s : State) (c line n : Nat) : Bool :=
  copying s c && (coreOf s c).snapLines.any (fun l => decide (line ≤ l ∧ l < line + n))

/-- A vector instruction: f of the core's registers into v[d]; it waits while a snapshot is copied (R334). It is complete when it has
issued, so that the vector engine's queue (R225) never fills (log entry 109). -/
def vecOp (c : Nat) (w : U32) (f : Core → List F32) (s : State) : State :=
  if copying s c then s else modCore s c (fun k => pcNext (setVreg k (wD w) (f k)))

/-- Lane by lane v[d] = v[a] op v[b]. -/
def vecBin (op : F32 → F32 → F32) (c : Nat) (w : U32) (s : State) : State :=
  vecOp c w (fun k => lanes2 op (vreg k (wA w)) (vreg k (wB w))) s

/-- Lane by lane v[d] = f(v[a]). -/
def vecUn (f : F32 → F32) (c : Nat) (w : U32) (s : State) : State := vecOp c w (fun k => (vreg k (wA w)).map f) s

/-- v[a] × v[b] + v[c] with one rounding. -/
def vecFma (c : Nat) (w : U32) (s : State) : State :=
  vecOp c w (fun k => ((vreg k (wA w)).zip ((vreg k (wB w)).zip (vreg k (wC w)))).map
    (fun p => fFma p.1 p.2.1 p.2.2)) s

/-- The word of a compare's lane is a part's own (Config.compareWord; log entry 31). -/
def vecCmp (p : CmpPred) (c : Nat) (w : U32) (s : State) : State :=
  vecBin (fun a b => Config.compareWord (fCompare p a b)) c w s

/-- Lanes selected by v[c] (Config.selects; log entry 31). -/
def vecSel (c : Nat) (w : U32) (s : State) : State :=
  vecOp c w (fun k => ((vreg k (wC w)).zip ((vreg k (wA w)).zip (vreg k (wB w)))).map
    (fun p => if Config.selects p.1 then p.2.1 else p.2.2)) s

/-- A reduction of v[a] into lane 0 of v[d]; its other lanes stay (R224). -/
def vecRed (f : List F32 → F32) (c : Nat) (w : U32) (s : State) : State :=
  vecOp c w (fun k => f (vreg k (wA w)) :: (vreg k (wD w)).drop 1) s

/-- A row of vector arithmetic: its function number is one of 0x00 to 0x0E, which R224 does not give one by one. -/
def vecArith (mn : String) (f : State → State) (c : CoreId) (w : U32) (s : State) : Host.Outcome State Fault Refusal :=
  coreStep mn (fun p => p == .vectorArith) f c w s

/-- VECTOR_ADD. -/
def execVectorAdd (c : CoreId) (w : U32) (s : State) : Host.Outcome State Fault Refusal :=
  vecArith "VECTOR_ADD" (vecBin fAdd c.toNat w) c w s
/-- VECTOR_SUBTRACT. -/
def execVectorSubtract (c : CoreId) (w : U32) (s : State) : Host.Outcome State Fault Refusal :=
  vecArith "VECTOR_SUBTRACT" (vecBin fSub c.toNat w) c w s
/-- VECTOR_MULTIPLY. -/
def execVectorMultiply (c : CoreId) (w : U32) (s : State) : Host.Outcome State Fault Refusal :=
  vecArith "VECTOR_MULTIPLY" (vecBin fMul c.toNat w) c w s
/-- VECTOR_FUSED_MULTIPLY_ADD. -/
def execVectorFusedMultiplyAdd (c : CoreId) (w : U32) (s : State) : Host.Outcome State Fault Refusal :=
  vecArith "VECTOR_FUSED_MULTIPLY_ADD" (vecFma c.toNat w) c w s
/-- VECTOR_MINIMUM. -/
def execVectorMinimum (c : CoreId) (w : U32) (s : State) : Host.Outcome State Fault Refusal :=
  vecArith "VECTOR_MINIMUM" (vecBin fMin c.toNat w) c w s
/-- VECTOR_MAXIMUM. -/
def execVectorMaximum (c : CoreId) (w : U32) (s : State) : Host.Outcome State Fault Refusal :=
  vecArith "VECTOR_MAXIMUM" (vecBin fMax c.toNat w) c w s
/-- VECTOR_COMPARE. -/
def execVectorCompare (c : CoreId) (w : U32) (p : CmpPred) (s : State) : Host.Outcome State Fault Refusal :=
  vecArith "VECTOR_COMPARE" (vecCmp p c.toNat w) c w s
/-- VECTOR_SELECT. -/
def execVectorSelect (c : CoreId) (w : U32) (s : State) : Host.Outcome State Fault Refusal :=
  coreStep "VECTOR_SELECT" (fun p => p == .vectorSelect) (vecSel c.toNat w) c w s

/-- A row of the vector functions 0x10 to 0x17 (R224). -/
def vecFnStep (mn : String) (n : Nat) (f : F32 → F32) (c : CoreId) (w : U32) (s : State) :
    Host.Outcome State Fault Refusal :=
  coreStep mn (fun p => p == .vectorFn n) (vecUn f c.toNat w) c w s

/-- VECTOR_EXP2. -/
def execVectorExp2 (c : CoreId) (w : U32) (s : State) : Host.Outcome State Fault Refusal :=
  vecFnStep "VECTOR_EXP2" 0x10 fExp2 c w s
/-- VECTOR_LOG2. -/
def execVectorLog2 (c : CoreId) (w : U32) (s : State) : Host.Outcome State Fault Refusal :=
  vecFnStep "VECTOR_LOG2" 0x11 fLog2 c w s
/-- VECTOR_RECIPROCAL. -/
def execVectorReciprocal (c : CoreId) (w : U32) (s : State) : Host.Outcome State Fault Refusal :=
  vecFnStep "VECTOR_RECIPROCAL" 0x12 fRecip c w s
/-- VECTOR_RECIPROCAL_SQUARE_ROOT. -/
def execVectorReciprocalSquareRoot (c : CoreId) (w : U32) (s : State) : Host.Outcome State Fault Refusal :=
  vecFnStep "VECTOR_RECIPROCAL_SQUARE_ROOT" 0x13 fRsqrt c w s
/-- VECTOR_SQUARE_ROOT. -/
def execVectorSquareRoot (c : CoreId) (w : U32) (s : State) : Host.Outcome State Fault Refusal :=
  vecFnStep "VECTOR_SQUARE_ROOT" 0x14 fSqrt c w s
/-- VECTOR_EXP. -/
def execVectorExp (c : CoreId) (w : U32) (s : State) : Host.Outcome State Fault Refusal :=
  vecFnStep "VECTOR_EXP" 0x15 fExp c w s
/-- VECTOR_SIGMOID. -/
def execVectorSigmoid (c : CoreId) (w : U32) (s : State) : Host.Outcome State Fault Refusal :=
  vecFnStep "VECTOR_SIGMOID" 0x16 fSigmoid c w s
/-- VECTOR_TANH. -/
def execVectorTanh (c : CoreId) (w : U32) (s : State) : Host.Outcome State Fault Refusal :=
  vecFnStep "VECTOR_TANH" 0x17 fTanh c w s
/-- LANE_SUM: the pairwise tree over lanes 0 to 63 (R202). -/
def execLaneSum (c : CoreId) (w : U32) (s : State) : Host.Outcome State Fault Refusal :=
  coreStep "LANE_SUM" (fun p => p == .vectorReduce 0x20) (vecRed pairTree c.toNat w) c w s
/-- LANE_MAXIMUM (R202, R929). -/
def execLaneMaximum (c : CoreId) (w : U32) (s : State) : Host.Outcome State Fault Refusal :=
  coreStep "LANE_MAXIMUM" (fun p => p == .vectorReduce 0x21) (vecRed rowMax c.toNat w) c w s

/-! ### Loads, stores and softmax -/

/-- Bytes of a scratchpad (R276). -/
def scratchBytes : Nat := 2 ^ 21

/-- Values latched by the group that a core runs in; the defaults for a core of none (R87). -/
def latchedOf (s : State) (c : Nat) : Latched :=
  match runningGroup s c with
  | some g => (groupOf s g).latched
  | none => Latched.reset

/-- How element (i, j) of a stream rounds: by its draw of 16 bits where stochastic rounding is selected and the group's
latched 0x4200+g.04 permits it; else to nearest even (R203, R382, R390). -/
def roundingAt (l : Latched) (selected : Bool) (stream purpose i j : Nat) : Rounding :=
  if selected && l.stochastic then .draw (xcgDraw l.seed.toNat stream purpose 16 i j) else .even

/-- A vector load from accumulator lines s[a] to s[a] + 3, whose lanes are FP32 (R185, R224). -/
def vecLoadAcc (c : Nat) (w : U32) (s : State) : State :=
  let k := coreOf s c
  let n := reg k (wA w)
  if 1024 < n + 4 then descFault s c .vector 0 0
  else modCore s c (fun k => pcNext (setVreg k (wD w) (accLine k n ++ accLine k (n + 1) ++ accLine k (n + 2) ++
    accLine k (n + 3))))

/-- A vector load of 64 elements from scratchpad offset s[a] in the format of c[2:0] (R224, R227). The elements of a load in
MXFP4, whose scales no rule names, are free values (log entry 32). -/
def vecLoadScratch (c : Nat) (w : U32) (f : Fmt) (s : State) : State :=
  let n := reg (coreOf s c) (wA w)
  let len := f.bytes 64
  if scratchBytes < n + len then descFault s c .vector 0 0
  else match scratchRead s c n len with
    | (s', _, some e) => memFault s' c .vector 0 e n
    | (s', l, none) =>
      if f = .mxfp4 then
        useFree (modCore s' c (fun k => pcNext (setVreg k (wD w)
          ((List.range 64).map (fun i => BitVec.ofNat 32 (freeAt s' i)))))) 64
      else modCore s' c (fun k => pcNext (setVreg k (wD w) ((List.range 64).map (fun i => f.widen (f.elem l i)))))

/-- The format of a vector transfer: one of the operand formats; codes 6 and 7 are none of them (R188, R235). -/
def vecFmt (w : U32) : Option Fmt := if wC w % 8 < 6 then fmtOf (wC w % 8) else none

/-- VECTOR_LOAD: function bit [3] names an accumulator line (R224). -/
def vecLoad (c : Nat) (w : U32) (s : State) : State :=
  if copying s c then s
  else if (wFnV w).testBit 3 then vecLoadAcc c w s
  else match vecFmt w with
    | some f => vecLoadScratch c w f s
    | none => descFault s c .vector 0 0

/-- A vector store to accumulator lines s[a] to s[a] + 3. -/
def vecStoreAcc (c : Nat) (w : U32) (s : State) : State :=
  let k := coreOf s c
  let n := reg k (wA w)
  let v := vreg k (wD w)
  if 1024 < n + 4 then descFault s c .vector 0 0
  else modCore s c (fun k => pcNext ((List.range 4).foldl (fun k i => setAccLine k (n + i) ((v.drop (16 * i)).take 16)) k))

/-- A vector store of v[d] to scratchpad offset s[a], rounded as R203 and R204 and mapped as R928 lay down; c[4] selects
stochastic rounding on the stream s[b] and the coordinates of s[b + 1] (R381). A store in MXFP4, which R203 does not name,
writes free bytes (log entry 32). -/
def vecStoreScratch (c : Nat) (w : U32) (f : Fmt) (s : State) : State :=
  let k := coreOf s c
  let n := reg k (wA w)
  let sel := (wC w).testBit 4
  let pos := reg k (wB w + 1)
  let codes := (List.range 64).map (fun i =>
    f.narrow (roundingAt (latchedOf s c) sel (reg k (wB w)) 0x10 (pos / 2 ^ 32) ((pos % 2 ^ 32 + i) % 2 ^ 32))
      ((vreg k (wD w)).getD i 0))
  let bytes := if f = .mxfp4 then freeBytes s 32 else f.pack codes
  if scratchBytes < n + f.bytes 64 then descFault s c .vector 0 0
  else match scratchWrite s c n bytes with
    | (s', some e) => memFault s' c .vector 0 e n
    | (s', none) => useFree (modCore s' c pcNext) (if f = .mxfp4 then 32 else 0)

/-- VECTOR_STORE; a stochastic one with 31 in field b raises the illegal-instruction fault (R381). -/
def vecStore (c : Nat) (w : U32) (s : State) : State :=
  if (wC w).testBit 4 ∧ wB w = 31 then illegal s c w
  else if (wFnV w).testBit 3 then (if copyingLines s c (reg (coreOf s c) (wA w)) 4 then s else vecStoreAcc c w s)
  else match vecFmt w with
    | some f => vecStoreScratch c w f s
    | none => descFault s c .vector 0 0

/-- The rows of a softmax, one after the other (R201): row r of FP32 values at start + 4 × length × r. -/
def softmaxRows : Nat → State → Nat → Nat → Nat → Nat → State × Option MemErr
  | 0, s, _, _, _, _ => (s, none)
  | n + 1, s, c, start, len, out =>
    match scratchRead s c start (4 * len) with
    | (s', _, some e) => (s', some e)
    | (s', l, none) =>
      match scratchWrite s' c out
          (Fmt.fp32.pack ((softmaxRow ((List.range len).map (fun i => Fmt.fp32.widen (Fmt.fp32.elem l i)))).map
            (fun x => x.toNat))) with
      | (s'', some e) => (s'', some e)
      | (s'', none) => softmaxRows n s'' c (start + 4 * len) len (out + 4 * len)

/-- V.SOFTMAX: four U32 at scratchpad offset s[a]: start, row length, row count, output start (R224; log entry 33). -/
def softmaxOp (c : Nat) (w : U32) (s : State) : State :=
  let a := reg (coreOf s c) (wA w)
  if scratchBytes < a + 16 then descFault s c .vector 0 0
  else match scratchRead s c a 16 with
    | (s', _, some e) => memFault s' c .vector 0 e a
    | (s', l, none) =>
      let start := fieldAt l 0 4
      let len := fieldAt l 4 4
      let rows := fieldAt l 8 4
      let out := fieldAt l 12 4
      if scratchBytes < start + 4 * len * rows then descFault s' c .vector 0 0
      else if scratchBytes < out + 4 * len * rows then descFault s' c .vector 0 12
      else match softmaxRows rows s' c start len out with
        | (s'', some e) => memFault s'' c .vector 0 e a
        | (s'', none) => modCore s'' c pcNext

/-- VECTOR_LOAD. -/
def execVectorLoad (c : CoreId) (w : U32) (s : State) : Host.Outcome State Fault Refusal :=
  coreStep "VECTOR_LOAD" (fun p => match p with | .vectorLoadStore _ => true | _ => false) (vecLoad c.toNat w) c w s
/-- VECTOR_STORE. -/
def execVectorStore (c : CoreId) (w : U32) (s : State) : Host.Outcome State Fault Refusal :=
  coreStep "VECTOR_STORE" (fun p => match p with | .vectorLoadStore _ => true | _ => false) (vecStore c.toNat w) c w s
/-- V_SOFTMAX. -/
def execVSoftmax (c : CoreId) (w : U32) (s : State) : Host.Outcome State Fault Refusal :=
  coreStep "V_SOFTMAX" (fun p => p == .softmax) (softmaxOp c.toNat w) c w s

/-! ### Random numbers (R224, R376, R378, R389) -/

/-- A parity error in the random-number unit: fault 0x0801 with engine 5 (R350, R394). -/
def rngParity (s : State) (c : Nat) : State :=
  raiseFault s c { code := fInternal, engine := .random, tag := 0, detail := engineCode .random, addr := 0, phys := 0 }

/-- RNG.GEN: bits [63:0] to s[d], bits [127:64] to s[d + 1]; a d of 0 or 31 is illegal. -/
def rngGenOp (c : Nat) (w : U32) (s : State) : State :=
  let k := coreOf s c
  let v := xcgValue (latchedOf s c).seed.toNat (reg k (wA w)) (reg k (wB w)) (wFnA w / 16)
  if wD w = 0 ∨ wD w = 31 then illegal s c w
  else modCore s c (fun k => pcNext (setReg (setReg k (wD w) (v % 2 ^ 64)) (wD w + 1) (v / 2 ^ 64)))

/-- RNG.VFILL: lanes 0 to 63 are the words of positions s[b] to s[b] + 15 modulo 2^64, word 0 first. -/
def rngVfillOp (c : Nat) (w : U32) (s : State) : State :=
  let word (k : Core) (i : Nat) : F32 :=
    BitVec.ofNat 32 (xcgValue (latchedOf s c).seed.toNat (reg k (wA w)) ((reg k (wB w) + i / 4) % 2 ^ 64) (wFnA w / 16) /
      2 ^ (32 * (i % 4)))
  vecOp c w (fun k => (List.range 64).map (word k)) s

/-- RNG_GEN. -/
def execRngGen (c : CoreId) (w : RngIssue) (s : State) : Host.Outcome State Fault Refusal :=
  coreStep "RNG_GEN" (fun p => p == .rngGen) (fun s => if w.parity then rngParity s c.toNat else rngGenOp c.toNat w.word s) c w.word s
/-- RNG_VFILL. -/
def execRngVfill (c : CoreId) (w : RngIssue) (s : State) : Host.Outcome State Fault Refusal :=
  coreStep "RNG_VFILL" (fun p => p == .rngVfill) (fun s => if w.parity then rngParity s c.toNat else rngVfillOp c.toNat w.word s) c w.word s

end Sys2Proof.Machine
end

