-- ==== Sys2Proof/Machine/Message.lean ====
section
/-!
DEFINITION. Mailboxes and messages (R205 to R213, R685): reservations, sends, receives and arrival.
-/
namespace Sys2Proof.Machine

/-- Mailbox mb of core c. -/
def boxOf (s : State) (c mb : Nat) : Mailbox := tget (coreOf s c).boxes mb Mailbox.reset
/-- Mailbox mb of core c changed. -/
def modBox (s : State) (c mb : Nat) (f : Mailbox → Mailbox) : State :=
  modCore s c (fun k => { k with boxes := tput k.boxes mb (f (tget k.boxes mb Mailbox.reset)) })

/-- Slots of a mailbox in use, of 8 (R205). -/
def Mailbox.used (b : Mailbox) : Nat := b.reserved.length + b.placed.length + b.arrived.length

/-- Why a destination core takes no message or tile: 4 fenced, 2 domain not on, 3 another tenant (R207, R325, table Message
status); the check of the tenant is made for tenants other than 0x000 (R326). -/
def destStatus (s : State) (c t : Nat) : Nat :=
  if (coreOf s c).fenced then 4
  else if coreOn s c = false then 2
  else if t ≠ 0 ∧ coreTenant? s c ≠ some t then 3 else 0

/-- A slot reserved at this package for a sender; the answer's status (R206, R207). A mailbox closed by a save answers as a
full one (R343; log entry 34). -/
def reserveSlot (s : State) (dst mb pkg c : Nat) (g : Option Nat) (t : Nat) : State × Nat :=
  let st := destStatus s dst t
  if st ≠ 0 then (s, st)
  else if (coreOf s dst).closed ∨ 8 ≤ (boxOf s dst mb).used then (s, 1)
  else (modBox s dst mb (fun b => { b with
      reserved := b.reserved ++ [(BitVec.ofNat 13 pkg, BitVec.ofNat 10 c, g.map (BitVec.ofNat 8), BitVec.ofNat 12 t)] }), 0)

/-- The first reservation of a sender in a mailbox. -/
def findSlot (s : State) (dst mb pkg c : Nat) : Option (Pkg × CoreId × Option GroupId × Tenant) :=
  (boxOf s dst mb).reserved.find? (fun r => r.1.toNat == pkg && r.2.1.toNat == c)

/-- A sender's reservation returned at this package. -/
def freeSlot (s : State) (dst mb pkg c : Nat) : State :=
  match findSlot s dst mb pkg c with
  | some r => modBox s dst mb (fun b => { b with reserved := b.reserved.erase r })
  | none => s

/-- The later of two sequences (R209). -/
def seqMax (a b : U32) : U32 := if seqBefore a b then b else a

/-- A message placed in the slot its sender reserved: whole or not at all (R213); the answer's status. The receiver numbers it from
its group's start and knows how far its sender has counted (R209; log entry 35). -/
def placeMsg (s : State) (dst mb : Nat) (m : Msg) : State × Nat :=
  let st := destStatus s dst m.tenant.toNat
  let key := senderKey m.pkg.toNat m.core.toNat mb
  if st ≠ 0 then (s, st)
  else match findSlot s dst mb m.pkg.toNat m.core.toNat with
    | none => (s, 5)
    | some r =>
      let m := { m with num := m.seq - tget (coreOf s dst).seqBase key 0 }
      (modCore (modBox s dst mb (fun b => { b with reserved := b.reserved.erase r, placed := b.placed ++ [m] })) dst
        (fun k => { k with sendSeq := tmod k.sendSeq key 0 (fun v => seqMax v (m.seq + 1)) }), 0)

/-- The 16 bytes of a message header with a sequence (R208). -/
def headerWith (m : Msg) (mb : Nat) (seq : U32) : List Byte :=
  leBytes 2 m.pkg.toNat ++ leBytes 2 m.core.toNat ++ leBytes 2 m.tenant.toNat ++ leBytes 2 m.payload.length ++
    leBytes 2 m.userTag.toNat ++ leBytes 1 mb ++ leBytes 1 (b2n m.crossed) ++ leBytes 4 seq.toNat
/-- The header that a message reaches its receiver with (R208, R209). -/
def msgHeader (m : Msg) (mb : Nat) : List Byte := headerWith m mb m.num
/-- The header of a message packet: its sequence counts all sends of the sender to the mailbox (log entry 35). -/
def wireHeader (m : Msg) (mb : Nat) : List Byte := headerWith m mb m.seq

/-- The sequence of the next message from core c of this package to a mailbox: counted at the receiver when it is of this
package, else at the sender (R209; log entry 35). -/
def nextSeq (s : State) (c pkg dst mb : Nat) : U32 :=
  if pkg = ownPkg s then tget (coreOf s dst).sendSeq (senderKey (ownPkg s) c mb) 0
  else tget s.net.remoteSeq (senderKey pkg dst mb * 1024 + c) 0
/-- A message to a mailbox of another package has been counted. -/
def bumpSeq (s : State) (c pkg dst mb : Nat) : State :=
  modNet s (fun n => { n with remoteSeq := tmod n.remoteSeq (senderKey pkg dst mb * 1024 + c) 0 (fun v => v + 1) })

/-- The reservation that core c holds for a mailbox (R206). -/
def heldResv (s : State) (c pkg dst mb : Nat) : Option Resv :=
  (coreOf s c).resv.find? (fun r => r.pkg.toNat == pkg && r.core.toNat == dst && r.mailbox.toNat == mb)

/-- A reservation of core c is gone. -/
def dropResv (s : State) (c pkg dst mb : Nat) : State :=
  match heldResv s c pkg dst mb with
  | some r => modCore s c (fun k => { k with resv := k.resv.erase r })
  | none => s

/-- A reservation that core c now holds. -/
def addResv (s : State) (c pkg dst mb : Nat) : State :=
  modCore s c (fun k => { k with
    resv := k.resv ++ [{ pkg := BitVec.ofNat 13 pkg, core := BitVec.ofNat 10 dst, mailbox := BitVec.ofNat 4 mb }] })

/-- Group number of the group a core runs in; 0 for none. -/
def groupNum (s : State) (c : Nat) : Nat := (groupOfCore s c).getD 0

/-- The address of a core's scratchpad in another package. -/
def coreAddr (pkg c : Nat) : Nat := pkg * 2 ^ 51 + c * 2 ^ 21

/-- Body of a reserve or unreserve packet: mailbox, and at +0x04 the sender's holder tag (R632, R359). -/
def resvBody (s : State) (c mb : Nat) : List Byte := leBytes 4 mb ++ leBytes 4 (Tag.core (ownPkg s) c).encode

/-- A request whose answer a core's control processor waits for (R340). -/
def coreRequest (s : State) (c vc dst op arg : Nat) (body : List Byte) (k : RemoteKind) : State :=
  modCore (sendRequest s vc dst op (coreTenant s c) arg body (.core (BitVec.ofNat 10 c) k)) c
    (fun x => { x with waiting := s.net.nextTag :: x.waiting })

/-- The message descriptor at scratchpad offset s[a], n bytes of it (R208). -/
def msgDesc (s : State) (c : Nat) (w : U32) (n : Nat) : State × List Byte × Option MemErr :=
  scratchRead s c (reg (coreOf s c) (wD w)) n

/-- Run f on the descriptor's destination (package, core, mailbox) and bytes, or outside for one that is not in space 0x0; a
descriptor beyond the scratchpad or a mailbox above 15 is a descriptor fault (R227). -/
def withDesc (s : State) (c : Nat) (w : U32) (n : Nat) (outside : State → State)
    (f : State → Nat → Nat → Nat → List Byte → State) : State :=
  if scratchBytes < reg (coreOf s c) (wD w) + n then descFault s c .message (wTag w) 0
  else match msgDesc s c w n with
    | (s', _, some e) => memFault s' c .message (wTag w) e (reg (coreOf s c) (wD w))
    | (s', l, none) =>
      if 15 < fieldAt l 8 1 then descFault s' c .message (wTag w) 8
      else
        let a := splitAddr s' (fieldAt l 0 8)
        if a.2.1 ≠ 0 then outside s'
        else f s' a.1 (a.2.2 / 2 ^ 21 % 1024) (fieldAt l 8 1) l

/-- The way of a core's messages to a core of a package (R36, R45). -/
def messageWay (s : State) (c pkg dst : Nat) : Way := if pkg = ownPkg s then wayAcross s c dst else wayOut s c

/-- A message operation over its way: it waits at a stopped reference (R71) and faults where both channels of a pair are out
(R70, R350). -/
def overWay (s : State) (c tag : Nat) (way : Way) (f : State → State) : State :=
  match way with
  | .open' => f s
  | .held => s
  | .lost ch => memFault s c .message tag ⟨fBridgeLost, ch, 0⟩ 0

/-- MSG.RSV (R206, R207): 16 reservations held answer 6. -/
def msgRsv (c : Nat) (w : U32) (s : State) : State :=
  withDesc s c w 9 (fun s => result s c (wA w) 4) (fun s pkg dst mb _ =>
    if 16 ≤ (coreOf s c).resv.length then result s c (wA w) 6
    else overWay s c (wTag w) (messageWay s c pkg dst) (fun s =>
      if pkg = ownPkg s then
        let r := reserveSlot s dst mb (ownPkg s) c (groupOfCore s c) (coreTenant s c)
        result (if r.2 = 0 then addResv r.1 c pkg dst mb else r.1) c (wA w) r.2
      else coreRequest s c 1 pkg 0x12 (coreAddr pkg dst) (resvBody s c mb) (.reserve (wA w) pkg dst mb)))

/-- The message a descriptor asks core c to send. -/
def mkMsg (s : State) (c pkg dst mb userTag : Nat) (payload : List Byte) : Msg :=
  { pkg := BitVec.ofNat 13 (ownPkg s), core := BitVec.ofNat 10 c, tenant := BitVec.ofNat 12 (coreTenant s c),
    userTag := BitVec.ofNat 16 userTag, crossed := pkg != ownPkg s, seq := nextSeq s c pkg dst mb,
    num := nextSeq s c pkg dst mb, payload := payload }

/-- A local message goes to its slot; the reservation is consumed when it is sent (R206, R213). -/
def sendLocal (s : State) (c dst mb : Nat) (m : Msg) : State × Nat :=
  let r := placeMsg s dst mb m
  if r.2 = 0 then (dropResv r.1 c (ownPkg s) dst mb, 0) else r

/-- Global address with its package number resolved, for comparing ranges. -/
def plainAddr (s : State) (a : Nat) : Nat := resolvePkg s (a / 2 ^ 51 % 2 ^ 13) * 2 ^ 51 + a % 2 ^ 51

/-- A DMA command has writes outstanding that may reach a core's scratchpad (R210). -/
def DmaCmd.owes (d : DmaCmd) (s : State) (pkg dst : Nat) : Bool :=
  let lo := plainAddr s d.dst.toNat
  !(d.pend == [] && decide (d.total ≤ d.next)) &&
    decide (lo < coreAddr pkg dst + 2 ^ 21 ∧ coreAddr pkg dst < lo + (d.rows - 1) * d.dstStride + d.rowLen)

/-- The oldest arrived message is copied, header and payload, to scratchpad offset s[a], and its slot is free (R209). -/
def receive (c : Nat) (w : U32) (m : Msg) (s : State) : State :=
  let mb := wTag w % 16
  let off := reg (coreOf s c) (wD w)
  let bytes := msgHeader m mb ++ m.payload
  if scratchBytes < off + bytes.length then descFault s c .message (wTag w) 0
  else match scratchWrite s c off bytes with
    | (s', some e) => memFault s' c .message (wTag w) e off
    | (s', none) => result (modBox s' c mb (fun b => { b with arrived := b.arrived.drop 1 })) c (wA w) 0

/-- MSG.RECV waits while no message has arrived (R209). -/
def msgRecv (c : Nat) (w : U32) (s : State) : State :=
  match (boxOf s c (wTag w % 16)).arrived with
  | [] => s
  | m :: _ => receive c w m s

/-- MSG.POLL answers status 1 at once where no message has arrived (R209). -/
def msgPoll (c : Nat) (w : U32) (s : State) : State :=
  match (boxOf s c (wTag w % 16)).arrived with
  | [] => result s c (wA w) 1
  | m :: _ => receive c w m s

/-- MSG.UNRSV returns a held reservation and writes no status (R206, R224); with none held it does nothing. -/
def msgUnrsv (c : Nat) (w : U32) (s : State) : State :=
  withDesc s c w 9 (fun s => modCore s c pcNext) (fun s pkg dst mb _ =>
    if heldResv s c pkg dst mb = none then modCore s c pcNext
    else overWay s c (wTag w) (messageWay s c pkg dst) (fun s =>
      if pkg = ownPkg s then modCore (freeSlot (dropResv s c pkg dst mb) dst mb (ownPkg s) c) c pcNext
      else coreRequest (dropResv s c pkg dst mb) c 1 pkg 0x13 (coreAddr pkg dst) (resvBody s c mb) .unreserve))

/-- A placed message is the next one of its sender: none of them placed comes before it, and none from another package is still
to come (R211, R685). -/
def arrivesNext (s : State) (dst mb : Nat) (m : Msg) : Bool :=
  let same := (boxOf s dst mb).placed.filter (fun x => x.pkg == m.pkg && x.core == m.core)
  let next := tget (coreOf s dst).recvSeq (senderKey m.pkg.toNat m.core.toNat mb) 0
  !same.any (fun x => seqBefore x.seq m.seq) && (m.pkg.toNat == ownPkg s || !seqBefore next m.seq)

/-- MESSAGE_ARRIVAL (R211, R685): the sender's next message counts as arrived. -/
def messageArrival (s : State) (dst mb pkg c : Nat) : State :=
  let key := senderKey pkg c mb
  match (boxOf s dst mb).placed.find? (fun m => m.pkg.toNat == pkg && m.core.toNat == c && arrivesNext s dst mb m) with
  | none => s
  | some m =>
    modCore (modBox s dst mb (fun b => { b with placed := b.placed.erase m, arrived := b.arrived ++ [m] })) dst
      (fun k => { k with recvSeq := tmod k.recvSeq key 0 (fun v => seqMax v (m.seq + 1)) })

/-- MSG_RSV. -/
def execMsgRsv (c : CoreId) (w : U32) (s : State) : Host.Outcome State Fault Refusal :=
  coreStep "MSG_RSV" (fun p => p == .message 1) (msgRsv c.toNat w) c w s
/-- MSG_RECV. -/
def execMsgRecv (c : CoreId) (w : U32) (s : State) : Host.Outcome State Fault Refusal :=
  coreStep "MSG_RECV" (fun p => p == .message 3) (msgRecv c.toNat w) c w s
/-- MSG_POLL. -/
def execMsgPoll (c : CoreId) (w : U32) (s : State) : Host.Outcome State Fault Refusal :=
  coreStep "MSG_POLL" (fun p => p == .message 4) (msgPoll c.toNat w) c w s
/-- MSG_UNRSV. -/
def execMsgUnrsv (c : CoreId) (w : U32) (s : State) : Host.Outcome State Fault Refusal :=
  coreStep "MSG_UNRSV" (fun p => p == .message 5) (msgUnrsv c.toNat w) c w s
/-- MESSAGE_ARRIVAL. -/
def execMessageArrival (dst : CoreId) (mailbox : BitVec 4) (srcPkg : Pkg) (srcCore : CoreId) (s : State) :
    Host.Outcome State Fault Refusal :=
  .next (messageArrival s dst.toNat mailbox.toNat srcPkg.toNat srcCore.toNat)

end Sys2Proof.Machine
end

