-- ==== Sys2Proof/Machine/Arrays.lean ====
section
/-!
DEFINITION. Matrix products (05_cores_arrays.md R175 to R197): the product descriptor, its checks, and the arithmetic of a
product into accumulator lines, plain and canonical, with the activation prologue of a stage chain (06_fusion.md R238).
-/
namespace Sys2Proof.Machine

/-! ### Work that may end at a memory error -/

/-- Work of an engine over the state that ends early at a memory error. -/
abbrev Act := ExceptT MemErr (StateM State)

/-- Run a piece of work: the state it leaves, and why it ended early. -/
def runAct {α : Type} (a : Act α) (s : State) : State × Except MemErr α :=
  let r := StateT.run (ExceptT.run a) s
  (r.2, r.1)

/-- Read n bytes of core c's scratchpad. -/
def rdScratch (c off n : Nat) : Act (List Byte) :=
  ExceptT.mk (fun s => match scratchRead s c off n with
    | (s', _, some e) => (.error e, s')
    | (s', l, none) => (.ok l, s'))

/-- Write bytes of core c's scratchpad. -/
def wrScratch (c off : Nat) (bs : List Byte) : Act Unit :=
  ExceptT.mk (fun s => match scratchWrite s c off bs with
    | (s', some e) => (.error e, s')
    | (s', none) => (.ok (), s'))

/-- Change the state. -/
def change (f : State → State) : Act Unit := modify f

/-! ### Elements -/

/-- The nibbles of bytes, low nibble first (R187). -/
def nibbles : List Byte → List Nat
  | [] => []
  | b :: l => b.toNat % 16 :: b.toNat / 16 :: nibbles l

/-- The first n elements that bytes hold in a format, as bit patterns. -/
def Fmt.elems (f : Fmt) (l : List Byte) (n : Nat) : List Nat :=
  match f with
  | .mxfp4 => (nibbles l).take n
  | _ => (chunksOf n (f.bits / 8) l).map leNat

/-- Read n elements at a scratchpad offset. -/
def rdElems (c : Nat) (f : Fmt) (off n : Nat) : Act (List Nat) := do
  let l ← rdScratch c off (f.bytes n)
  return f.elems l n

/-- Read n elements at a scratchpad offset, widened to FP32. -/
def rdWide (c : Nat) (f : Fmt) (off n : Nat) : Act (List F32) := do
  let l ← rdElems c f off n
  return l.map f.widen

/-! ### The descriptor (R187, table Array product descriptor) -/

/-- The fields of an array product descriptor. -/
def productOf (l : List Byte) : ProductDesc :=
  { mode := fieldAt l 1 1, actFmt := fieldAt l 2 1, wFmt := fieldAt l 3 1, m := fieldAt l 4 2, n := fieldAt l 6 2,
    k := fieldAt l 8 4, flags := fieldAt l 0xC 2, line := fieldAt l 0xE 2, actAddr := fieldAt l 0x10 4,
    actStride := fieldAt l 0x14 4, wAddr := fieldAt l 0x18 4, wStride := fieldAt l 0x1C 4, actScale := fieldAt l 0x20 4,
    wScale := fieldAt l 0x24 4, actScaleStride := fieldAt l 0x28 2, wScaleStride := fieldAt l 0x2A 2,
    chain := fieldAt l 0x2C 4 }

/-- Formats that a product accepts: FP32 is not one (R188, R235). -/
def operandFmt (code : Nat) : Option Fmt := if code < 6 then fmtOf code else none

/-- Activation and weight formats are equal, or the FP8 pair in either order (R188). -/
def pairOk (a w : Fmt) : Bool := a == w || (a == .e4m3 && w == .e5m2) || (a == .e5m2 && w == .e4m3)

/-- First byte after rows of a number of bytes each at a stride. -/
def rowsEnd (addr rows stride len : Nat) : Nat := addr + (rows - 1) * stride + len

/-- Rows of bytes lie within the scratchpad (R227). -/
def rowsFit (addr rows stride len : Nat) : Bool := decide (rowsEnd addr rows stride len ≤ scratchBytes)

/-- Accumulator lines of one row of n columns (R185). -/
def linesPerRow (n : Nat) : Nat := (n + 15) / 16

/-- The descriptor offset of the first bad field of a product whose activations are read in the format src (R188, R227,
R233); none for a good one. -/
def productBad (d : ProductDesc) (src : Option Fmt) : Option Nat :=
  if 2 < d.mode ∧ d.mode ≠ 0xFF then some 1
  else match operandFmt d.actFmt, operandFmt d.wFmt with
    | none, _ => some 2
    | _, none => some 3
    | some a, some w =>
      if pairOk a w = false then some 3
      else if d.m = 0 ∨ 1024 < d.m then some 4
      else if d.n = 0 ∨ 16384 < d.n then some 6
      else if d.k = 0 ∨ 65536 < d.k then some 8
      else if 1024 < d.line + d.m * linesPerRow d.n then some 0xE
      else if rowsFit d.actAddr d.m d.actStride ((src.getD a).bytes d.k) = false then some 0x10
      else if rowsFit d.wAddr d.k d.wStride (w.bytes d.n) = false then some 0x18
      else if a = .mxfp4 ∧ rowsFit d.actScale d.m d.actScaleStride ((d.k + 31) / 32) = false then some 0x20
      else if a = .mxfp4 ∧ rowsFit d.wScale ((d.k + 31) / 32) d.wScaleStride d.n = false then some 0x24
      else none

/-! ### Modes and tile shapes (R177, R178) -/

/-- The array mode of a product: 0xFF takes that of the kernel record, whose 0xFF takes the latched 0x4200+g.03. -/
def arrayMode (s : State) (c mode : Nat) : Nat :=
  if mode ≠ 0xFF then mode
  else match runningGroup s c with
    | none => 0
    | some g => if (groupOf s g).kernelMode = 0xFF then (groupOf s g).latched.mode else (groupOf s g).kernelMode

/-- K slices of a pass: 1 in wide, 2 in square, 4 in deep mode. -/
def slicesOf (mode : Nat) : Nat := if mode = 0 then 1 else if mode = 1 then 2 else 4
/-- Kt: K elements of a pass (table Tile shapes). -/
def tileK (mode : Nat) (f : Fmt) : Nat := 16 * f.perCell * slicesOf mode
/-- Nt: columns of a pass (table Tile shapes). -/
def tileN (mode : Nat) : Nat := 64 / slicesOf mode

/-! ### Sums (R189 to R195) -/

/-- The exact sum of products of element pairs. -/
def exactDot (l : List (Fp × Fp)) : Fp := l.foldl (fun t p => exAdd t (exMul p.1 p.2)) (.fin false 0 0)

/-- The scale of two E8M0 bytes: 2^(Xa + Xw − 254); 0xFF makes its block NaN (R191). -/
def blockScale (x : Nat × Nat) : Fp :=
  if x.1 = 255 ∨ x.2 = 255 then .nan else .fin false 1 ((x.1 : Int) + x.2 - 254)

/-- Elements that make one term: those of one cell, or a block of 32 in MXFP4 (R190, R191). -/
def termSize (f : Fmt) : Nat := if f = .mxfp4 then 32 else f.perCell

/-- The exact terms of an output element in increasing k; scales are the byte pairs of its blocks in MXFP4. -/
def terms (f : Fmt) (pairs : List (Fp × Fp)) (scales : List (Nat × Nat)) : List Fp :=
  let sums := (chunksOf pairs.length (termSize f) pairs).map exactDot
  if f = .mxfp4 then (sums.zip scales).map (fun p => exMul p.1 (blockScale p.2)) else sums

/-- Terms added to a partial one after the other, each with one rounding (R190). -/
def chainSum (p : F32) (l : List Fp) : F32 := l.foldl (fun p t => enc32 (exAdd (dec32 p) t)) p

/-- An output element without canonical reduction: each pass forms a partial from +0.0, and acc takes acc + p (R190). -/
def plainSum (f : Fmt) (kt : Nat) (acc : F32) (l : List Fp) : F32 :=
  (chunksOf l.length (kt / termSize f) l).foldl (fun acc pass => fAdd acc (chainSum 0 pass)) acc

/-- The canonical total: trees of group sums within blocks of 256, and of block sums (R194). -/
def canonicalTotal (f : Fmt) (l : List Fp) : F32 :=
  let group := if f = .mxfp4 then 1 else 16 / f.perCell
  let perBlock := if f = .mxfp4 then 8 else 16
  let sums := (chunksOf l.length group l).map (chainSum 0)
  pairTree ((chunksOf sums.length perBlock sums).map pairTree)

/-- An output element of a product, from the line's present value or +0.0. -/
def outputElem (f : Fmt) (canonical : Bool) (kt : Nat) (acc : F32) (l : List Fp) : F32 :=
  if canonical then fAdd acc (canonicalTotal f l) else plainSum f kt acc l

/-! ### The prologue (R237, R238) -/

/-- The format that activations are read in: that of stage 0x10, else the activation format (R238). -/
def sourceFmt (d : ProductDesc) (chain : Option Chain) : Option Fmt :=
  match chain.bind (fun h => h.prologue.find? (fun r => r.code == 0x10)) with
  | some r => fmtOf r.fmt
  | none => operandFmt d.actFmt

/-- One prologue stage on row m of the activations. -/
def prologueStage (c m : Nat) (r : StageRec) (row : List F32) : Act (List F32) :=
  match r.code with
  | 0x11 => do
    let v ← rdWide c .fp32 (r.a + 4 * m) 1
    return row.map (fun x => fMul x (v.getD 0 0))
  | 0x12 => do
    let v ← rdWide c ((fmtOf r.fmt).getD .fp32) r.a row.length
    return lanes2 fMul row v
  | _ => return row

/-- Row m of the activations as bit patterns of the activation format, after the prologue (R238, R243, R380). -/
def activationRow (c : Nat) (lat : Latched) (d : ProductDesc) (a src : Fmt) (chain : Option Chain) (m : Nat) :
    Act (List Nat) :=
  match chain with
  | some h =>
    if h.prologue = [] then rdElems c a (d.actAddr + m * d.actStride) d.k
    else do
      let row ← rdWide c src (d.actAddr + m * d.actStride) d.k
      let row ← h.prologue.foldlM (fun row r => prologueStage c m r row) row
      return (row.zip (List.range d.k)).map (fun p =>
        a.narrow (roundingAt lat (h.flags.testBit 0) h.stream 0x11 ((h.rowBase + m) % 2 ^ 32) ((h.kBase + p.2) % 2 ^ 32)) p.1)
  | none => rdElems c a (d.actAddr + m * d.actStride) d.k

/-! ### The passes of a product (R182, R185, R190) -/

/-- The accumulator line and lane of output element (m, n) (R185). -/
def lineOf (d : ProductDesc) (m n : Nat) : Nat := d.line + m * linesPerRow d.n + n / 16

/-- Values of output row m from column n0 on, as the accumulator lines hold them. -/
def accRow (k : Core) (d : ProductDesc) (m n0 n : Nat) : List F32 :=
  (List.range n).map (fun i => (accLine k (lineOf d m (n0 + i))).getD ((n0 + i) % 16) 0)

/-- One output element put into its line. -/
def putElem (k : Core) (d : ProductDesc) (m n : Nat) (v : F32) : Core :=
  setAccLine k (lineOf d m n) ((accLine k (lineOf d m n)).set (n % 16) v)

/-- Values of output row m from column n0 on put into their lines. -/
def putRow (k : Core) (d : ProductDesc) (m n0 : Nat) (v : List F32) : Core :=
  (v.zip (List.range v.length)).foldl (fun k p => putElem k d m (n0 + p.2) p.1) k

/-- The row of outputs of one row of activations. -/
def productRow (d : ProductDesc) (a w : Fmt) (canonical : Bool) (kt : Nat) (old : List F32) (act : List Nat)
    (weights : List (List Nat)) (actScale : List Nat) (wScale : List (List Nat)) : List F32 :=
  (List.range d.n).map (fun n =>
    let pairs := (act.zip weights).map (fun p => (a.decode p.1, w.decode (p.2.getD n 0)))
    let scales := (actScale.zip wScale).map (fun p => (p.1, p.2.getD n 0))
    outputElem a canonical kt (if d.flags.testBit 0 then old.getD n 0 else 0) (terms a pairs scales))

/-- The passes of a product command into the accumulator lines (R182 to R195). -/
def productPasses (c : Nat) (d : ProductDesc) (chain : Option Chain) : Act Unit := do
  let s ← get
  let lat := latchedOf s c
  let a := (operandFmt d.actFmt).getD .bf16
  let w := (operandFmt d.wFmt).getD .bf16
  let src := (sourceFmt d chain).getD a
  let kt := tileK (arrayMode s c d.mode) a
  let canonical := d.flags.testBit 1 || lat.canonical
  let blocks := if a = .mxfp4 then (d.k + 31) / 32 else 0
  let weights ← (List.range d.k).mapM (fun k => rdElems c w (d.wAddr + k * d.wStride) d.n)
  let wScale ← (List.range blocks).mapM (fun j => do
    let l ← rdScratch c (d.wScale + j * d.wScaleStride) d.n
    return l.map (fun b => b.toNat))
  (List.range d.m).forM (fun m => do
    let act ← activationRow c lat d a src chain m
    let xs ← rdScratch c (d.actScale + m * d.actScaleStride) blocks
    change (fun s => modCore s c (fun k =>
      putRow k d m 0 (productRow d a w canonical kt (accRow k d m 0 d.n) act weights (xs.map (fun b => b.toNat)) wScale))))

end Sys2Proof.Machine
end

