-- ==== Sys2Proof/Machine/Chains.lean ====
section
/-!
DEFINITION. Stage chains (06_fusion.md R234 to R269): the chain's layout and checks at ARR.GO, the epilogue stages on a
block of columns, the spill, and tile-sends.
-/
namespace Sys2Proof.Machine

/-- The command at the head of core c's array queue changed. -/
def modHead (s : State) (c : Nat) (f : ArrCmd → ArrCmd) : State :=
  modCore s c (fun k => { k with arrQ := match k.arrQ with | a :: l => f a :: l | [] => [] })

/-! ### Layout (R234) -/

/-- A stage record (table Stage record). -/
def stageOf (l : List Byte) : StageRec :=
  { code := fieldAt l 0 1, fmt := fieldAt l 1 1, option := fieldAt l 2 1, a := fieldAt l 4 4, param := fieldAt l 8 4,
    b := fieldAt l 12 4 }

/-- Records i to i + n − 1 of a chain's bytes. -/
def stagesOf (l : List Byte) (i n : Nat) : List StageRec :=
  (List.range n).map (fun j => stageOf (slice l (0x20 + 16 * (i + j)) 16))

/-- A chain from its header and records (table Stage chain header). -/
def chainOf (l : List Byte) : Chain :=
  { flags := fieldAt l 2 1, rowBase := fieldAt l 4 4, colBase := fieldAt l 8 4, kBase := fieldAt l 0xC 4,
    stream := fieldAt l 0x10 8, prologue := stagesOf l 0 (fieldAt l 0 1),
    epilogue := stagesOf l (fieldAt l 0 1) (fieldAt l 1 1) }

/-- Bytes of a chain whose header's first two bytes are given. -/
def chainLen (pro epi : Nat) : Nat := 0x20 + 16 * (pro + epi)

/-! ### Streams and spill (R249, R250) -/

/-- A stage reads an extra operand stream (R249). -/
def opensStream (r : StageRec) : Bool :=
  match r.code with
  | 0x11 => true
  | 0x12 => true
  | 0x20 => !r.option.testBit 0
  | 0x21 => !r.option.testBit 0
  | 0x22 => true
  | 0x24 => true
  | _ => false

/-- Extra operand streams of a list of stages. -/
def streamCount (l : List StageRec) : Nat := (l.filter opensStream).length

/-- A quantise stage of kind 0 or 1, which needs the whole row (R247). -/
def wholeRow (r : StageRec) : Bool := r.code == 0x25 && r.option % 4 != 2

/-- The first epilogue stage that would open a fourth stream, where n are open before it (R250). -/
def fourthStream : List StageRec → Nat → Nat → Option Nat
  | [], _, _ => none
  | r :: l, i, n => if opensStream r ∧ n = 3 then some i else fourthStream l (i + 1) (if opensStream r then n + 1 else n)

/-- The spill point of a chain (R250). -/
def spillPoint (h : Chain) : Option Nat := fourthStream h.epilogue 0 (streamCount h.prologue)

/-- The number of epilogue stages that run in flight: those before the spill point and before a quantise of kind 0 or 1
(R247, R250). -/
def inFlight (h : Chain) : Nat :=
  min ((spillPoint h).getD h.epilogue.length) ((h.epilogue.takeWhile (fun r => !wholeRow r)).length)

/-- Stages that run in flight, and those of the deferred sweep. -/
def flightStages (h : Chain) : List StageRec := h.epilogue.take (inFlight h)
def sweepStages (h : Chain) : List StageRec := h.epilogue.drop (inFlight h)

/-- Columns of a unit of in-flight work: Nt, or a pair of blocks in deep mode for a quantise of kind 2 (R247, R254). -/
def unitCols (mode : Nat) (h : Chain) : Nat :=
  if tileN mode < 32 ∧ (flightStages h).any (fun r => r.code == 0x25) then 32 else tileN mode

/-- Units of in-flight work of n columns. -/
def unitCount (mode : Nat) (h : Chain) (n : Nat) : Nat := (n + unitCols mode h - 1) / unitCols mode h

/-- Columns of a block of the deferred sweep: Nt, or a pair of blocks for the scale groups of kind 2 (R247, R254). -/
def sweepCols (mode : Nat) (h : Chain) : Nat :=
  if tileN mode < 32 ∧ (sweepStages h).any (fun r => r.code == 0x25 && r.option % 4 == 2) then 32 else tileN mode

/-- Blocks of the deferred sweep over n columns. -/
def sweepCount (mode : Nat) (h : Chain) (n : Nat) : Nat := (n + sweepCols mode h - 1) / sweepCols mode h

/-! ### Checks (R237, R238, R242, R244, R251) -/

/-- A format code that a stage allows, and an option it allows (R237, R242, R244). -/
def stageFormOk (r : StageRec) : Bool :=
  let real := r.fmt == 0 || r.fmt == 1 || r.fmt == 6
  match r.code with
  | 0x10 => real
  | 0x11 => true
  | 0x12 => r.fmt == 0 || r.fmt == 6
  | 0x20 => r.option.testBit 0 || real
  | 0x21 => r.option.testBit 0 || real
  | 0x22 => real
  | 0x23 => decide (r.option ≤ 4)
  | 0x24 => real
  | 0x25 => if r.fmt = 5 then r.option % 4 == 2 else (r.fmt == 2 || r.fmt == 3 || r.fmt == 4) && decide (r.option % 4 ≤ 2)
  | 0x26 => decide (r.fmt ≤ 6 ∧ r.fmt ≠ 5)
  | 0x27 => true
  | _ => false

/-- An output stage: a store or a quantise (R242). -/
def isOutput (r : StageRec) : Bool := r.code == 0x25 || r.code == 0x26

/-- Prologue stages are of the prologue, 0x10 only first (R237, R251). -/
def prologueOk : List StageRec → Bool
  | [] => true
  | r :: l => (r.code == 0x10 || r.code == 0x11 || r.code == 0x12) && l.all (fun x => x.code == 0x11 || x.code == 0x12)

/-- Epilogue stages are of the epilogue; a tile-send has an output stage before it, a quantise only tile-sends after it, and
there are at most two output stages (R242, R251). -/
def epilogueOk : List StageRec → Nat → Bool → Bool
  | [], outs, _ => decide (outs ≤ 2)
  | r :: l, outs, quantised =>
    decide (0x20 ≤ r.code ∧ r.code ≤ 0x27) && (!quantised || r.code == 0x27) && (r.code != 0x27 || outs != 0) &&
      epilogueOk l (if isOutput r then outs + 1 else outs) (quantised || r.code == 0x25)

/-- Activation formats that allow a prologue (R238). -/
def prologueFmt (code : Nat) : Bool := decide (code ≤ 3)

/-! ### Regions (R227, R253) -/

/-- A range of scratchpad bytes: start and end. -/
abbrev Range := Nat × Nat

/-- Two ranges share a byte. -/
def overlaps (x y : Range) : Bool := decide (x.1 < y.2 ∧ y.1 < x.2)

/-- Bytes of the scales that a quantise stage writes (R246). -/
def scaleBytes (r : StageRec) (m n : Nat) : Nat :=
  match r.option % 4 with
  | 0 => 4 * m
  | 1 => m
  | _ => m * ((n + 31) / 32)

/-- The ranges that a stage reads. -/
def readRanges (r : StageRec) (d : ProductDesc) : List Range :=
  let f := (fmtOf r.fmt).getD .fp32
  if opensStream r = false then []
  else match r.code with
    | 0x11 => [(r.a, r.a + 4 * d.m)]
    | 0x12 => [(r.a, r.a + f.bytes d.k)]
    | 0x22 => [(r.a, rowsEnd r.a d.m r.param (f.bytes d.n))]
    | 0x24 => [(r.a, rowsEnd r.a d.m r.param (f.bytes d.n))]
    | _ => [(r.a, r.a + f.bytes d.n)]

/-- The ranges that a stage writes. -/
def writeRanges (r : StageRec) (d : ProductDesc) : List Range :=
  let f := (fmtOf r.fmt).getD .fp32
  match r.code with
  | 0x25 => [(r.a, rowsEnd r.a d.m r.param (f.bytes d.n)), (r.b, r.b + scaleBytes r d.m d.n)]
  | 0x26 => [(r.a, rowsEnd r.a d.m r.param (f.bytes d.n))]
  | _ => []

/-- The product's activation and weight regions, as a prologue reads them. -/
def productRanges (d : ProductDesc) (src : Fmt) : List Range :=
  let w := (operandFmt d.wFmt).getD .bf16
  [(d.actAddr, rowsEnd d.actAddr d.m d.actStride (src.bytes d.k)), (d.wAddr, rowsEnd d.wAddr d.k d.wStride (w.bytes d.n))]

/-- A chain is as R251 to R253 ask. -/
def chainOk (h : Chain) (d : ProductDesc) (src : Fmt) (len : Nat) : Bool :=
  let all := h.prologue ++ h.epilogue
  let reads := all.flatMap (fun r => readRanges r d)
  let writes := all.flatMap (fun r => writeRanges r d)
  decide (h.prologue.length ≤ 3 ∧ h.epilogue.length ≤ 8) && prologueOk h.prologue && epilogueOk h.epilogue 0 false &&
    (h.prologue == [] || prologueFmt d.actFmt) && all.all stageFormOk && decide (streamCount all ≤ 6) &&
    (reads ++ writes).all (fun x => decide (x.2 ≤ scratchBytes)) &&
    writes.all (fun x => (reads ++ productRanges d src ++ [(d.chain, d.chain + len)]).all (fun y => !overlaps x y))

/-! ### Quantisation (R245) -/

/-- The magnitude of an FP32 value. -/
def fAbs (x : F32) : F32 := x &&& 0x7FFFFFFF

/-- The largest magnitude of a group; a NaN makes a NaN (R245, R929). -/
def largestMagnitude (l : List F32) : F32 := l.foldl (fun a x => fMax a (fAbs x)) 0

/-- The largest finite value of a quantise target as FP32, and its largest exponent e (R245). -/
def Fmt.largest : Fmt → F32
  | .e4m3 => 0x43E00000
  | .e5m2 => 0x47600000
  | .int8 => 0x42FE0000
  | _ => 0x40C00000
def Fmt.largestExp : Fmt → Int
  | .e4m3 => 8
  | .e5m2 => 15
  | .int8 => 6
  | _ => 2

/-- floor(log2 a) of a finite non-zero FP32 value. -/
def floorLog2 (a : F32) : Int :=
  match dec32 a with
  | .fin _ m e => (log2 m : Int) + e
  | _ => 0

/-- An FP32 value is Inf or NaN. -/
def notFinite (a : F32) : Bool := decide (0x7F800000 ≤ (fAbs a).toNat)

/-- The FP32 scale of a group (kind 0). -/
def scale32 (f : Fmt) (a : F32) : F32 :=
  if notFinite a then nan32 else if a = 0 then one32 else fMul a (fRecip f.largest)

/-- X of the E8M0 scale of a group with a finite and non-zero (R245). -/
def scaleX (f : Fmt) (a : F32) : Int := max (-127) (min 127 (floorLog2 a - f.largestExp))

/-- The E8M0 scale byte of a group (kinds 1 and 2). -/
def scale8 (f : Fmt) (a : F32) : Nat :=
  if notFinite a then 0xFF else if a = 0 then 0 else (scaleX f a + 127).toNat

/-- The bit pattern of every element of a group whose a is Inf or NaN (table Scale rules). -/
def Fmt.allNan : Fmt → Nat
  | .e4m3 => 0x7F
  | .e5m2 => 0x7F
  | .int8 => 127
  | _ => 0

/-- An element of a group, before its conversion (table Scale rules). -/
def scaledElem (f : Fmt) (kind : Nat) (a x : F32) : F32 :=
  if kind = 0 then fMul x (fRecip (scale32 f a))
  else enc32 (exMul (dec32 x) (.fin false 1 (-(scaleX f a))))

/-- The bit pattern of an element of a group (R245). -/
def quantElem (f : Fmt) (kind : Nat) (r : Rounding) (a x : F32) : Nat :=
  if notFinite a then f.allNan else if a = 0 then 0 else f.narrow r (scaledElem f kind a x)

/-! ### The stages of an epilogue (R237, R241) -/

/-- The function stage (table Epilogue functions). -/
def epilogueFn (option : Nat) (x : F32) : F32 :=
  match option with
  | 0 => if isNan x then nan32 else if x.toNat < 0x80000000 then x else 0
  | 1 =>
    let u := fMul x x
    let u := fMul u x
    let u := fMul u 0x3D372713
    let u := fAdd u x
    let u := fMul u 0x3F4C422A
    fMul (fMul (fAdd (fTanh u) one32) x) 0x3F000000
  | 2 => fMul x (fSigmoid x)
  | 3 => fSigmoid x
  | _ => fTanh x

/-- Bytes before column n0 of a row (n0 is even where two elements share a byte). -/
def colBytes (f : Fmt) (n0 : Nat) : Nat := n0 * f.bits / 8

/-- A vector operand of stages 0x20 and 0x21: its elements n0 on, or the immediate (R237). -/
def vectorOperand (c : Nat) (r : StageRec) (n0 n : Nat) : Act (List F32) :=
  let f := (fmtOf r.fmt).getD .fp32
  if r.option.testBit 0 then return List.replicate n (BitVec.ofNat 32 r.param) else rdWide c f (r.a + colBytes f n0) n

/-- A tile operand of stages 0x22 and 0x24: row m's elements n0 on. -/
def tileOperand (c : Nat) (r : StageRec) (m n0 n : Nat) : Act (List F32) :=
  let f := (fmtOf r.fmt).getD .fp32
  rdWide c f (r.a + m * r.param + colBytes f n0) n

/-- How output element (m, n) of a chain rounds (R243, R380, R383). -/
def chainRounding (lat : Latched) (h : Chain) (selected : Bool) (m n : Nat) : Rounding :=
  roundingAt lat selected h.stream 0x10 ((h.rowBase + m) % 2 ^ 32) ((h.colBase + n) % 2 ^ 32)

/-- A store of row m's elements from column n0 on (R242). -/
def storeRow (c : Nat) (lat : Latched) (h : Chain) (r : StageRec) (m n0 : Nat) (row : List F32) : Act Unit :=
  let f := (fmtOf r.fmt).getD .fp32
  wrScratch c (r.a + m * r.param + colBytes f n0)
    (f.pack ((row.zip (List.range row.length)).map (fun p =>
      f.narrow (chainRounding lat h (r.option.testBit 0) m (n0 + p.2)) p.1)))

/-- The elements of one scale group, with largest magnitude a, of row m from column n0 on. -/
def quantGroup (lat : Latched) (h : Chain) (r : StageRec) (m n0 : Nat) (a : F32) (g : List F32) : List Nat :=
  let f := (fmtOf r.fmt).getD .int8
  (g.zip (List.range g.length)).map (fun p =>
    quantElem f (r.option % 4) (chainRounding lat h (r.option.testBit 2) m (n0 + p.2)) a p.1)

/-- The scale bytes of one group with largest magnitude a. -/
def quantScale (r : StageRec) (a : F32) : List Byte :=
  let f := (fmtOf r.fmt).getD .int8
  if r.option % 4 = 0 then leBytes 4 (scale32 f a).toNat else leBytes 1 (scale8 f a)

/-- Where the scales of row m's groups from column n0 on stand, from the address B (R246). -/
def scaleOff (r : StageRec) (n m n0 : Nat) : Nat :=
  match r.option % 4 with
  | 0 => 4 * m
  | 1 => m
  | _ => m * ((n + 31) / 32) + n0 / 32

/-- A quantise of row m's elements from column n0 on (R244 to R246). Kinds 0 and 1 take the magnitude of the whole row, whose
scale goes with the row's first block. -/
def quantRow (c : Nat) (lat : Latched) (h : Chain) (d : ProductDesc) (r : StageRec) (m n0 : Nat) (whole : F32) (row : List F32) :
    Act Unit := do
  let f := (fmtOf r.fmt).getD .int8
  let groups := if r.option % 4 = 2 then (chunksOf row.length 32 row).map (fun g => (largestMagnitude g, g)) else [(whole, row)]
  let codes := (groups.zip (List.range groups.length)).flatMap (fun p => quantGroup lat h r m (n0 + 32 * p.2) p.1.1 p.1.2)
  wrScratch c (r.a + m * r.param + colBytes f n0) (f.pack codes)
  if r.option % 4 = 2 ∨ n0 = 0 then
    wrScratch c (r.b + scaleOff r d.n m n0) (groups.flatMap (fun g => quantScale r g.1))

/-- An arithmetic stage on row m's elements from column n0 on (table Stages); an output stage or tile-send passes them on. -/
def arithStage (c m n0 : Nat) (row : List F32) (r : StageRec) : Act (List F32) :=
  match r.code with
  | 0x20 => do
    let v ← vectorOperand c r n0 row.length
    return lanes2 fMul row v
  | 0x21 => do
    let v ← vectorOperand c r n0 row.length
    return lanes2 fAdd row v
  | 0x22 => do
    let v ← tileOperand c r m n0 row.length
    return lanes2 fAdd row v
  | 0x23 => return row.map (epilogueFn r.option)
  | 0x24 => do
    let v ← tileOperand c r m n0 row.length
    return lanes2 fMul row v
  | _ => return row

/-- The largest magnitude of row m where the stages before a quantise of kind 0 or 1 hand it on; 0 with no such quantise (R245,
R247). -/
def rowMagnitude (c : Nat) (d : ProductDesc) (stages : List StageRec) (m : Nat) : Act F32 := do
  if stages.any wholeRow then
    let s ← get
    let row ← (stages.takeWhile (fun r => !wholeRow r)).foldlM (arithStage c m 0) (accRow (coreOf s c) d m 0 d.n)
    return largestMagnitude row
  else return 0

/-! ### What tile-sends write (R259) -/

/-- Stage i of an epilogue. -/
def epilogueAt (h : Chain) (i : Nat) : StageRec := h.epilogue.getD i ⟨0, 0, 0, 0, 0, 0⟩

/-- The output stage that a tile-send sends: the latest before it (R259). -/
def sentOutput (h : Chain) (i : Nat) : StageRec :=
  ((h.epilogue.take i).reverse.find? isOutput).getD ⟨0x26, 6, 0, 0, 0, 0⟩

/-- Destination and row stride of a tile-send, its mailbox, and whether it notifies (tables Stage record, Send word). -/
def sendDest (r : StageRec) : Nat := r.a + r.param * 2 ^ 32
def sendStride (r : StageRec) : Nat := r.b % 2 ^ 21
def sendMailbox (r : StageRec) : Nat := r.b / 2 ^ 21 % 16
def sendNotifies (r : StageRec) : Bool := r.b.testBit 25

/-- What a tile-send r of output stage o writes of row m's columns n0 to n0 + n − 1: offsets from the destination and scratchpad
ranges of the source (R259). -/
def sendPieces (d : ProductDesc) (o r : StageRec) (m n0 n : Nat) : List (Int × Nat × Nat) :=
  let f := (fmtOf o.fmt).getD .fp32
  let scale : Nat := match o.option % 4 with
    | 0 => if n0 = 0 then 4 else 0
    | 1 => if n0 = 0 then 1 else 0
    | _ => (n + 31) / 32
  let row : Int × Nat × Nat := (((m * sendStride r + colBytes f n0 : Nat) : Int), o.a + m * o.param + colBytes f n0, f.bytes n)
  let s := scaleOff o d.n m n0
  if (o.code == 0x25) && (scale != 0) then [row, ((o.b : Int) - o.a + (s : Int), o.b + s, scale)] else [row]

/-- A tile-send stage takes what its output stage has just written of row m in block b; the head of the queue keeps it until it
is sent. -/
def takeSend (c : Nat) (h : Chain) (d : ProductDesc) (b m n0 n i : Nat) : Act Unit :=
  (sendPieces d (sentOutput h i) (epilogueAt h i) m n0 n).forM (fun p => do
    let l ← rdScratch c p.2.1 p.2.2
    change (fun s => modHead s c (fun a => { a with ready := a.ready ++ [(b, i, p.1, l)] })))

/-- Epilogue stage i on row m's elements from column n0 on, in block b (table Stages). -/
def epilogueStage (c : Nat) (lat : Latched) (h : Chain) (d : ProductDesc) (b m n0 : Nat) (whole : F32) (row : List F32) (i : Nat) :
    Act (List F32) := do
  let r := epilogueAt h i
  match r.code with
  | 0x25 =>
    quantRow c lat h d r m n0 whole row
    return row
  | 0x26 =>
    storeRow c lat h r m n0 row
    return row
  | 0x27 =>
    takeSend c h d b m n0 row.length i
    return row
  | _ => arithStage c m n0 row r

/-- The n stages from stage i on, on columns n0 to n0 + w − 1 of every row, as block b; the FP32 results go back into the lines where
a sweep follows (R250). -/
def runStages (c : Nat) (h : Chain) (d : ProductDesc) (i n b n0 w : Nat) (back : Bool) : Act Unit :=
  (List.range d.m).forM (fun m => do
    let s ← get
    let whole ← rowMagnitude c d ((h.epilogue.drop i).take n) m
    let row ← ((List.range n).map (fun j => i + j)).foldlM (epilogueStage c (latchedOf s c) h d b m n0 whole)
      (accRow (coreOf s c) d m n0 w)
    if back then change (fun s => modCore s c (fun k => putRow k d m n0 row)))

/-- The in-flight stages on block b (R254). -/
def runFlight (c : Nat) (h : Chain) (d : ProductDesc) (mode b : Nat) : Act Unit :=
  let w := unitCols mode h
  runStages c h d 0 (inFlight h) b (b * w) (min w (d.n - b * w)) (sweepStages h != [])

/-- The deferred sweep, block by block in N order (R250, R254). -/
def runSweep (c : Nat) (h : Chain) (d : ProductDesc) (mode : Nat) : Act Unit :=
  let w := sweepCols mode h
  (List.range (sweepCount mode h d.n)).forM (fun b =>
    runStages c h d (inFlight h) (sweepStages h).length b (b * w) (min w (d.n - b * w)) false)

/-! ### Tile-sends (R259 to R265) -/

/-- The tile-send stages of a chain with their indexes among the epilogue stages. -/
def sendStages (h : Chain) : List Nat :=
  (List.range h.epilogue.length).filter (fun i => (h.epilogue.getD i ⟨0, 0, 0, 0, 0, 0⟩).code == 0x27)

/-- The blocks that tile-sends send, in order: those of in-flight stages block by block, then those of the sweep. -/
def sendOrder (mode : Nat) (h : Chain) (d : ProductDesc) : List (Nat × Nat) :=
  let of (units : Nat) (p : Nat → Bool) := (List.range units).flatMap (fun b => ((sendStages h).filter p).map (fun i => (b, i)))
  of (unitCount mode h d.n) (fun i => decide (i < inFlight h)) ++ of (sweepCount mode h d.n) (fun i => decide (inFlight h ≤ i))

/-- Why a write of n bytes at a destination offset of this package's space 0x0 is refused: a code of the table Message
status (R264). -/
def tileStatus (s : State) (t space off n : Nat) : Nat :=
  if space ≠ 0 ∨ 2 ^ 31 < off + n then 4
  else
    let a := destStatus s (off / 2 ^ 21) t
    if a ≠ 0 then a else destStatus s ((off + n - 1) / 2 ^ 21) t

/-- Global address of a piece (R270). -/
def pieceAddr (dest : Nat) (o : Int) : Nat := wrap64 (dest + o)

end Sys2Proof.Machine
end

