-- ==== Sys2Proof/Machine/Rings.lean ====
section
/-!
DEFINITION. Experience rings (12_reels_changeover.md R510 to R520, R529, R931): the record queue, index requests and grants,
the ring port of a home, and the release index.
-/
namespace Sys2Proof.Machine

/-- Base address and size of ring k (0x7130+k). -/
def ringBase (s : State) (k : Nat) : Nat := valNat s (0x7130 + k) 1 0 0
def ringSize (s : State) (k : Nat) : Nat := valNat s (0x7130 + k) 2 0 0
/-- Home package of ring k (R515). -/
def ringHome (s : State) (k : Nat) : Nat := resolvePkg s (ringBase s k / 2 ^ 51 % 2 ^ 13)
/-- This package is the home of ring k, which is in use. -/
def isHome (s : State) (k : Nat) : Bool := ringSize s k != 0 && ringHome s k == ownPkg s
/-- Key of the first record of a home ring; the head stands 64 bytes below (R514). -/
def ringKey (s : State) (k : Nat) : Nat := memKey 2 (ringBase s k % 2 ^ 47)
/-- Records queued for ring k, oldest first. -/
def queuedFor (s : State) (k : Nat) : List ExpRec := s.reels.queue.filter (fun r => r.ring == k)
/-- Records the queue holds (R517). -/
def queueLimit : Nat := 4096

/-- A feeder asks its ring's home for indices: only for records queued, up to 64, one request at a time (R517). Rings belong
to tenant 0x000 (R527). -/
def ringAsk (s : State) (k : Nat) : State :=
  let n := min 64 (queuedFor s k).length
  if n = 0 ∨ (ringOf s k).asked ≠ 0 ∨ ringSize s k = 0 then s
  else modRing (sendRequest s 2 (ringHome s k) 0x22 0 (ringBase s k) (leBytes 2 n) (.ringAsk k)) k
    (fun r => { r with asked := n })

/-- Every ring with queued records asks. -/
def ringPump (s : State) : State := (List.range 8).foldl ringAsk s

/-- Records join the queue (R510, R517). -/
def queueRecords (s : State) (l : List ExpRec) : State := ringPump (modReels s (fun r => { r with queue := r.queue ++ l }))

/-! ### The home -/

/-- The home ring that a base address names (R515). -/
def homeRing (s : State) (base : Nat) : Option Nat :=
  (List.range 8).find? (fun k => isHome s k && ringBase s k % 2 ^ 47 == base % 2 ^ 47)

/-- A package that feeds a ring is remembered. -/
def noteFeeder (r : RingUse) (pkg : Nat) : RingUse :=
  if r.feeders.contains pkg then r else { r with feeders := r.feeders ++ [pkg] }

/-- A request is granted when the ring has room (R517). -/
def hasRoom (s : State) (k n : Nat) : Bool :=
  let r := ringOf s k
  decide (r.granted + n ≤ r.released + 2 ^ ringSize s k)

/-- Deferred requests of ring k are granted in order while there is room (R517). -/
def grantDeferred : Nat → State → Nat → State
  | 0, s, _ => s
  | f + 1, s, k =>
    match (ringOf s k).deferred with
    | [] => s
    | (pkg, n, tag, _) :: rest =>
      if hasRoom s k n then
        let first := (ringOf s k).granted
        let s := modRing s k (fun r => { r with granted := r.granted + n, deferred := rest })
        grantDeferred f
          (sendPacket s (mkPacket s 2 true pkg 0x2A false 0 tag (first % 2 ^ 64) (leBytes 2 n))) k
      else s

/-- A request joins those deferred, and is granted at once where there is room. -/
def askHome (s : State) (k pkg n tag base : Nat) : State :=
  let s := modRing s k (fun r => { noteFeeder r pkg with deferred := r.deferred ++ [(pkg, n, tag, base)] })
  grantDeferred (ringOf s k).deferred.length s k

/-- The ring port takes the release index that learners stored: not below the last one taken, nor above the write index
(R519). A new one lets deferred requests be granted and is reported to the feeders (R515, R517). A word that cannot be read says
nothing (R291, R295). -/
def takeRelease (s : State) (k : Nat) : State :=
  match ownTry s (ringKey s k - 64 + 8) 8 with
  | (s, none) => s
  | (s, some l) =>
  let v := leNat l
  let r := ringOf s k
  if r.released < v ∧ v ≤ r.written then
    let s := modRing s k (fun r => { r with released := v })
    let s := (r.feeders.filter (fun p => p != ownPkg s)).foldl (fun s p =>
      sendPacket s (mkPacket s 2 false p 0x23 false 0 0 (ringBase s k) (leBytes 8 v))) s
    grantDeferred r.deferred.length s k
  else s

/-- After a write of n bytes at a key, a home ring whose release index it touched takes it (R519). -/
def noticeWrite (s : State) (key n : Nat) : State :=
  (List.range 8).foldl (fun s k =>
    if isHome s k && decide (key < ringKey s k - 64 + 16 ∧ ringKey s k - 64 + 8 < key + n) then takeRelease s k else s) s

/-- The ring slot at home that a 64-byte write of a record names: ring and ring index (R514). -/
def ringSlot (s : State) (space off : Nat) (body : List Byte) : Option (Nat × Nat) :=
  let i := fieldAt body 0x38 8
  if space ≠ 2 ∨ body.length ≠ 64 then none
  else ((List.range 8).find? (fun k =>
    isHome s k && decide (off = ringBase s k % 2 ^ 47 + 64 * (i % 2 ^ ringSize s k) ∧ (ringOf s k).written ≤ i ∧
      i < (ringOf s k).granted))).map (fun k => (k, i))

/-- A record reaches its home's ring port. -/
def recordArrives (s : State) (k i : Nat) (body : List Byte) : State :=
  modRing s k (fun r => { r with arrived := tput r.arrived i body })

/-- The write index passes every granted index whose record has been written (R518). -/
def advanceWritten : Nat → RingUse → RingUse
  | 0, r => r
  | f + 1, r =>
    if tfind r.arrived r.written = some [] then
      advanceWritten f { r with arrived := tdel r.arrived r.written, written := r.written + 1 }
    else r

/-- RING_RECORD_PUBLISH (R518): the lowest record at the port is written whole, and the write index advances with an atomic
add over every index below which all records are written. -/
def publish (s : State) (k : Nat) : State :=
  if isHome s k = false then s
  else match (ringOf s k).arrived.find? (fun e => e.2 != []) with
    | none => s
    | some (i, rec') =>
      let before := (ringOf s k).written
      let s := ownWrite s (ringKey s k + 64 * (i % 2 ^ ringSize s k)) rec'
      let s := modRing s k (fun r => advanceWritten (r.arrived.length + 1) { r with arrived := tput r.arrived i [] })
      let head := ringKey s k - 64
      memPut s head 8 ((memNat s head 8 + ((ringOf s k).written - before)) % 2 ^ 64)

/-- The commit of a home ring zeroes the head and writes the size; requests that waited for it are taken up, those that its former
use deferred among them (R515, R517, R529). -/
def configureRing (s : State) (k : Nat) : State :=
  let old := ringOf s k
  let s := modReels s (fun r => { r with
    unplaced := r.unplaced ++ old.deferred
    rings := tput r.rings k { RingUse.reset with asked := old.asked } })
  if isHome s k then
    let s := ownWrite s (ringKey s k - 64) (zeros 16 ++ [BitVec.ofNat 8 (ringSize s k)] ++ zeros 47)
    let mine := s.reels.unplaced.filter (fun u => u.2.2.2 % 2 ^ 47 == ringBase s k % 2 ^ 47)
    let s := modReels s (fun r => { r with unplaced := r.unplaced.filter (fun u => u.2.2.2 % 2 ^ 47 != ringBase s k % 2 ^ 47) })
    ringPump (mine.foldl (fun s u => askHome s k u.1 u.2.1 u.2.2.1 u.2.2.2) s)
  else ringPump s

/-! ### Commands -/

/-- RING_INDEX_REQUEST (R517): the home grants it or defers it; for a ring that it does not hold configured it waits
(R529). -/
def ringIndexRequest (s : State) (port : Nat) : State :=
  match takePacket s port 0x22 with
  | none => s
  | some (s, p) =>
    match homeRing s p.arg with
    | some k => askHome (takeRelease s k) k p.src (fieldAt p.body 0 2) p.tag p.arg
    | none => modReels s (fun r => { r with unplaced := r.unplaced ++ [(p.src, fieldAt p.body 0 2, p.tag, p.arg)] })

/-- A record with its ring index is sent to its slot at the home (R514, R517). -/
def sendRecord (s : State) (k i : Nat) (r : ExpRec) : State :=
  let body := putAt r.bytes 0x38 (leBytes 8 i)
  sendRequest s 2 (ringHome s k) 0x21 0 ((ringBase s k + 64 * (i % 2 ^ ringSize s k)) % 2 ^ 64) body (.record k i r.bytes)

/-- RING_GRANT (R517): the records that the grant covers are sent in order. -/
def ringGrant (s : State) (port : Nat) : State :=
  match takePacket s port 0x2A with
  | none => s
  | some (s, p) =>
    match takeOutstanding s p.tag with
    | (s, some (.ringAsk k)) =>
      let l := (queuedFor s k).take (fieldAt p.body 0 2)
      let s := modReels s (fun r => { r with queue := l.foldl (fun q x => q.erase x) r.queue })
      let s := modRing s k (fun r => { r with
        asked := 0
        written := if isHome s k then r.written else r.written + l.length })
      ringPump ((l.zip (List.range l.length)).foldl (fun s x => sendRecord s k (p.arg + x.2) x.1) s)
    | (s, _) => s

/-- RELEASE_INDEX_REPORT (R515): a feeding package notes the release index of the home. -/
def releaseReport (s : State) (port : Nat) : State :=
  match takePacket s port 0x23 with
  | none => s
  | some (s, p) =>
    match (List.range 8).find? (fun k => ringSize s k != 0 && ringHome s k == p.src &&
        ringBase s k % 2 ^ 47 == p.arg % 2 ^ 47) with
    | some k => modRing s k (fun r => { r with released := fieldAt p.body 0 8 })
    | none => s

/-- A record did not reach its home: it is sent again at the index granted to it, so that the records of a stream keep their
order (R520, R529); with the ring no longer in use it is queued. -/
def recordReturned (s : State) (k i : Nat) (bytes : List Byte) : State :=
  let r : ExpRec := { ring := k, bytes := bytes }
  if ringSize s k = 0 then modReels s (fun x => { x with queue := r :: x.queue }) else sendRecord s k i r

/-- The records of ring k whose answer is awaited, in the order of their indices, with them. -/
def recordsOut (s : State) (k : Nat) : List (Nat × List Byte) :=
  sortBy (·.1) (s.net.out.filterMap (fun e => match e.2 with
    | .record r i b => if r = k then some (i, b) else none
    | _ => none))

/-- A package's place has been taken by another one: what was asked of it or sent to it for a ring and not answered is queued
again, before what follows (R529). -/
def reQueue (s : State) (k : Nat) : State :=
  let l := (recordsOut s k).map (fun x => ({ ring := k, bytes := x.2 } : ExpRec))
  let s := modNet s (fun n => { n with out := n.out.filter (fun e => match e.2 with
    | .record r _ _ => r != k
    | .ringAsk r => r != k
    | _ => true) })
  modRing (modReels s (fun r => { r with queue := l ++ r.queue })) k (fun r => { r with asked := 0 })

/-- RING_INDEX_REQUEST. -/
def execRingIndexRequest (port : BitVec 5) (s : State) : Host.Outcome State Fault Refusal :=
  .next (ringIndexRequest s port.toNat)
/-- RING_GRANT. -/
def execRingGrant (port : BitVec 5) (s : State) : Host.Outcome State Fault Refusal := .next (ringGrant s port.toNat)
/-- RING_RECORD_PUBLISH. -/
def execRingRecordPublish (ring : BitVec 3) (s : State) : Host.Outcome State Fault Refusal := .next (publish s ring.toNat)
/-- RELEASE_INDEX_REPORT. -/
def execReleaseIndexReport (port : BitVec 5) (s : State) : Host.Outcome State Fault Refusal :=
  .next (releaseReport s port.toNat)

end Sys2Proof.Machine
end

