-- ==== Sys2Proof/Machine/Access.lean ====
section
/-!
DEFINITION. Accesses of a core's engines to this package's memory by global address: translated granule by granule
(08_faults_preemption.md R322 to R331), checked and performed (07_memory_model.md).
-/
namespace Sys2Proof.Machine

/-- Rights (R322, R350): the number that a rights fault's detail names. -/
def rightRead : Nat := 1
def rightWrite : Nat := 2
def rightAtomic : Nat := 3

/-- Bytes of a range that lie in the granule of its first byte (R322). -/
def inGranule (a n : Nat) : Nat := min n (2 ^ 21 - a % 2 ^ 21)

/-- Whether a range of an address lies in this package (R270). -/
def isLocal (s : State) (a : Nat) : Bool := (splitAddr s a).1 == ownPkg s

/-- The edge die whose controller holds a stock offset (R30, R289). -/
def stockEdge (s : State) (off : Nat) : EdgeDie := if stockChannelOf s off < 8 then .e0 else .e1

/-- The worse of two ways. -/
def Way.worse : Way → Way → Way
  | .lost ch, _ => .lost ch
  | _, .lost ch => .lost ch
  | .held, _ => .held
  | .open', w => w

/-- The way of core c's access to n bytes of one granule (02_package_fabric.md R36, R37, R45): to the column of a core or slice,
to the edge dies that hold stock, to the host port on E0, to the links of another package. -/
def placeWay (s : State) (c pkg space off n : Nat) : Way :=
  if pkg ≠ ownPkg s then wayOut s c
  else match space with
    | 0 => wayAcross s c (off / 2 ^ 21 % 1024)
    | 1 => wayAcross s c (off / 2 ^ 25 % 1024)
    | 2 => ((List.range ((off + n - 1) / 1024 + 1 - off / 1024)).map (fun i =>
        wayTo s c (stockEdge s ((off / 1024 + i) * 1024)))).foldl Way.worse .open'
    | 3 => wayTo s c .e0
    | _ => .open'

/-- Both channels of a pair on an access's way are out of service (02_package_fabric.md R70). -/
def wayLost (s : State) (c pkg space off n : Nat) : Option MemErr :=
  match placeWay s c pkg space off n with
  | .lost ch => some ⟨fBridgeLost, ch, 0⟩
  | _ => none

/-- A stopped link reference holds core c's access to n bytes at an address, at most f granules (02_package_fabric.md R71). -/
def accessHeld : Nat → State → Nat → Nat → Nat → Nat → Bool
  | 0, _, _, _, _, _ => false
  | f + 1, s, c, a, n, right =>
    if n = 0 then false
    else
      let m := inGranule a n
      let p := splitAddr s a
      (match translateAt s (coreTenant s c) p.1 p.2.1 p.2.2 right with
      | .ok off => placeWay s c p.1 p.2.1 off m == .held
      | .fail _ => false) || accessHeld f s c (a + m) (n - m) right

/-- A translated read of n bytes of this package, at most f granules: the bytes before what fails, and why. -/
def readLocal : Nat → State → Agent → Nat → Nat → Nat → Nat → State × List Byte × Option MemErr
  | 0, s, _, _, _, _, _ => (s, [], none)
  | f + 1, s, who, c, t, a, n =>
    if n = 0 then (s, [], none)
    else
      let m := inGranule a n
      let p := splitAddr s a
      match translate s c t p.1 p.2.1 p.2.2 rightRead with
      | (s, .fail e) => (s, [], some e)
      | (s, .ok off) =>
        match wayLost s c p.1 p.2.1 off m with
        | some e => (s, [], some e)
        | none =>
        match physRead s p.2.1 off m who with
        | (s, l, some e) => (s, l, some e)
        | (s, l, none) =>
          let r := readLocal f s who c t (a + m) (n - m)
          (r.1, l ++ r.2.1, r.2.2)

/-- A translated write of bytes to this package, at most f granules: how many bytes are written before what fails, and why.
A home ring notices a new release index (R519). -/
def writeLocal : Nat → State → Nat → Nat → Nat → List Byte → State × Nat × Option MemErr
  | 0, s, _, _, _, _ => (s, 0, none)
  | f + 1, s, c, t, a, bs =>
    if bs = [] then (s, 0, none)
    else
      let m := inGranule a bs.length
      let p := splitAddr s a
      match translate s c t p.1 p.2.1 p.2.2 rightWrite with
      | (s, .fail e) => (s, 0, some e)
      | (s, .ok off) =>
        match wayLost s c p.1 p.2.1 off m with
        | some e => (s, 0, some e)
        | none =>
        match physWrite s p.2.1 off (bs.take m) .engine with
        | (s, k, some e) => (s, k, some e)
        | (s, k, none) =>
          let r := writeLocal f (noticeWrite s (memKey p.2.1 off) m) c t (a + m) (bs.drop m)
          (r.1, k + r.2.1, r.2.2)

/-- A read as readLocal makes it, of an agent that has no translation cache. -/
def readAs : Nat → State → Agent → Nat → Nat → Nat → State × List Byte × Option MemErr
  | 0, s, _, _, _, _ => (s, [], none)
  | f + 1, s, who, t, a, n =>
    if n = 0 then (s, [], none)
    else
      let m := inGranule a n
      let p := splitAddr s a
      match translateAt s t p.1 p.2.1 p.2.2 rightRead with
      | .fail e => (s, [], some e)
      | .ok off =>
        match physRead s p.2.1 off m who with
        | (s, l, some e) => (s, l, some e)
        | (s, l, none) =>
          let r := readAs f s who t (a + m) (n - m)
          (r.1, l ++ r.2.1, r.2.2)

/-- A write as writeLocal makes it, of an agent that has no translation cache. -/
def writeAs : Nat → State → Agent → Nat → Nat → List Byte → State × Nat × Option MemErr
  | 0, s, _, _, _, _ => (s, 0, none)
  | f + 1, s, who, t, a, bs =>
    if bs = [] then (s, 0, none)
    else
      let m := inGranule a bs.length
      let p := splitAddr s a
      match translateAt s t p.1 p.2.1 p.2.2 rightWrite with
      | .fail e => (s, 0, some e)
      | .ok off =>
        match physWrite s p.2.1 off (bs.take m) who with
        | (s, k, some e) => (s, k, some e)
        | (s, k, none) =>
          let r := writeAs f (noticeWrite s (memKey p.2.1 off) m) who t (a + m) (bs.drop m)
          (r.1, k + r.2.1, r.2.2)

/-- A bound on the granules that a range of n bytes touches: no granule is touched for no byte. -/
def granules (n : Nat) : Nat := n + 1

/-- A read of core c's engines under its tenant. -/
def coreRead (s : State) (c a n : Nat) : State × List Byte × Option MemErr :=
  readLocal (granules n) s .engine c (coreTenant s c) a n
/-- A load of core c's control processor under its tenant (R282). -/
def coreLoad (s : State) (c a n : Nat) : State × List Byte × Option MemErr :=
  readLocal (granules n) s (if coreTenant s c = 0 then .operatorLoad else .engine) c (coreTenant s c) a n
/-- A write of core c's engines under its tenant. -/
def coreWrite (s : State) (c a : Nat) (bs : List Byte) : State × Nat × Option MemErr :=
  writeLocal (granules bs.length) s c (coreTenant s c) a bs

end Sys2Proof.Machine
end

