-- ==== Sys2Proof/Machine/Serving.lean ====
section
/-!
DEFINITION. Stream commands of the serving unit (10_streams_attention.md R400 to R409, 11_adapters_storyboards.md R454 to
R473, 12_reels_changeover.md R500 to R511): opens, commits with their cue marks and records, storyboards and their
resolution.
-/
namespace Sys2Proof.Machine

/-! ### Stream commands: outcomes -/

/-- The fields of a stream command (table Stream command). -/
def streamCmdOf (l : List Byte) : StreamCmd :=
  { cmd := fieldAt l 1 1, stream := fieldAt l 2 2, count := fieldAt l 4 4, addr := BitVec.ofNat 64 (fieldAt l 8 8),
    user := BitVec.ofNat 64 (fieldAt l 0x10 8), adapter := BitVec.ofNat 16 (fieldAt l 0x18 2), ring := fieldAt l 0x1A 1,
    flags := BitVec.ofNat 8 (fieldAt l 0x1B 1) }

/-- How a stream command ends: with a result, by waiting, by a descriptor fault, or by a memory error at an address. -/
inductive SOut where
  | done (s : State) (status value : Nat)
  | wait
  | bad (s : State) (detail : Nat)
  | mem (s : State) (e : MemErr) (addr : Nat)
deriving DecidableEq, Repr

/-- The group that issues a core's command, and its tenant. -/
def issuer (s : State) (c : Nat) : Nat × Nat :=
  let g := (runningGroup s c).getD 0
  (g, groupTenant s g)

/-- What refuses a command on stream i for its owner (R400, R439): 2 free, 3 another tenant or, unless any group may, another
group. -/
def ownerStatus (s : State) (c i : Nat) (anyGroup : Bool) : Nat :=
  let t := trackerOf s i
  let who := issuer s c
  if t.state = .free then 2
  else if t.tenant.toNat ≠ who.2 then 3
  else if anyGroup = false ∧ t.group.toNat ≠ who.1 then 3 else 0

/-! ### Open (R403, R446, R503, R516) -/

/-- Bytes that a page list must have room for: an entry for each 64 positions up to the bound of bucket 15 (R403). -/
def listRoom (s : State) : Nat := 4 * ((boundOf s 15 + 63) / 64)

/-- The physical granules of n bytes of a page list from an address on, at most f of them, each translated and checked (R323,
R328, R403). -/
def listGranules : Nat → State → Nat → Nat → Nat → Nat → State × List Nat × Option (MemErr × Nat)
  | 0, s, _, _, _, _ => (s, [], none)
  | f + 1, s, c, t, a, n =>
    if n = 0 then (s, [], none)
    else
      let m := inGranule a n
      let p := splitAddr s a
      match translate s c t p.1 p.2.1 p.2.2 rightWrite with
      | (s, .fail e) => (s, [], some (e, a))
      | (s, .ok off) =>
        match physCheck s p.2.1 off m .engine with
        | some e => (s, [], some (e, a))
        | none =>
          let r := listGranules f s c t (a + m) (n - m)
          (r.1, off / 2 ^ 21 :: r.2.1, r.2.2)

/-- The tracker that an open writes (R403). -/
def openTracker (s : State) (c : Nat) (k : StreamCmd) (space : Nat) (granules : List Nat) (reel : Nat) : Tracker :=
  let who := issuer s c
  { Tracker.reset with
    state := .open', bucket := bucketFor s 0, tenant := BitVec.ofNat 12 who.2, group := BitVec.ofNat 8 who.1,
    prompt := k.count, adapter := k.adapter, ring := k.ring, listAddr := k.addr, listSpace := space, listGranules := granules,
    user := k.user, reel := BitVec.ofNat 16 reel }

/-- The open of stream i with its page list in physical granules of a space. -/
def openAt (s : State) (c : Nat) (k : StreamCmd) (i space : Nat) (granules : List Nat) : SOut :=
  match bindCheck s (issuer s c).2 k.adapter.toNat with
  | (s1, _, some e) => .mem s1 e 0
  | (s1, st, none) =>
    if st ≠ 0 then .done s1 st 0
    else
      let r := frontNow s1
      let need := pagesNeeded k.count
      match grantPages (need + 1) (setTracker r.1 i (openTracker s c k space granules r.2)) i need with
      | (s2, some e) => .mem { s2 with serving := s.serving } e k.addr.toNat
      | (s2, none) =>
        let s3 := adapterUse s2 k.adapter.toNat (fun v => v + 1)
        .done (if need ≤ (trackerOf s3 i).pages.length then s3 else enterWait s3 i) 0 i

/-- The stream that an open names: free, or the lowest free one; a tracker in use answers by its owner (R400, R439). -/
def openStream (s : State) (c : Nat) (k : StreamCmd) : Option Nat ⊕ Nat :=
  if k.stream = 0xFFFF then
    match lowestFreeStream s with
    | some i => .inl (some i)
    | none => .inr 1
  else
    let i := k.stream % 16384
    if (trackerOf s i).state = .free then .inl (some i) else .inr (if ownerStatus s c i false = 3 then 3 else 2)

/-- STREAM_OPEN: prompt of P tokens, whose pages cover positions 0 to P + 63; beyond the bound of bucket 15 status 5 (log
entry 38), with no bank in front status 2 (R488). -/
def openCmd (s : State) (c : Nat) (k : StreamCmd) : SOut :=
  let p := splitAddr s k.addr.toNat
  if 7 < k.ring ∨ ringSize s k.ring = 0 then .bad s 0x1A
  else if p.1 ≠ ownPkg s ∨ (p.2.1 ≠ 1 ∧ p.2.1 ≠ 2) then .bad s 8
  else match openStream s c k with
    | .inr st => .done s st 0
    | .inl none => .done s 1 0
    | .inl (some i) =>
      if boundOf s 15 < k.count + 64 then .done s 5 0
      else if frontReel s = none then .done s 2 0
      else match listGranules (granules (listRoom s / 2 ^ 21 + 1)) s c (issuer s c).2 k.addr.toNat (listRoom s) with
        | (s, _, some (e, a)) => .mem s e a
        | (s, l, none) => openAt s c k i p.2.1 l

/-! ### Parent vectors and storyboards (R454 to R473) -/

/-- Depth of node q: parents precede their children. -/
def depthOf (parents : List Nat) : Nat → Nat → Nat
  | 0, _ => 1
  | f + 1, q => if q = 0 then 1 else 1 + depthOf parents f (parents.getD q 0)

/-- Path from the root to node z (R464). -/
def pathTo (parents : List Nat) : Nat → Nat → List Nat
  | 0, _ => [0]
  | f + 1, z => if z = 0 then [0] else pathTo parents f (parents.getD z 0) ++ [z]

/-- Ancestor mask of node q (R457). -/
def ancestors (parents : List Nat) (q : Nat) : List Nat := pathTo parents 64 q

/-- The parent bytes of a vector. -/
def vecParents (v : List Byte) : List Nat := (slice v 0x10 64).map (fun b => b.toNat)

/-- The offset of the first bad field of a parent vector for a stream whose tokens reach base (R455, R459). -/
def vectorBad (v : List Byte) (stream base : Nat) : Option Nat :=
  let n := fieldAt v 0 1
  let ps := vecParents v
  if 64 < n then some 0
  else if fieldAt v 2 2 % 16384 ≠ stream then some 2
  else if fieldAt v 4 4 ≠ base then some 4
  else if n = 0 then none
  else if ps.getD 0 0 ≠ 0xFF then some 0x10
  else match (List.range n).find? (fun q => q != 0 && decide (q ≤ ps.getD q 0)) with
    | some q => some (0x10 + q)
    | none =>
      if fieldAt v 1 1 ≠ ((List.range n).map (depthOf ps n)).foldl max 1 ∨ 16 < fieldAt v 1 1 then some 1 else none

/-! ### Commits (R404, R500 to R511) -/

/-- Flags and follow reel of a commit (R401, R500). -/
def StreamCmd.prompt (k : StreamCmd) : Bool := k.flags.toNat.testBit 0
def StreamCmd.mirror (k : StreamCmd) : Bool := k.flags.toNat.testBit 1
def StreamCmd.yields (k : StreamCmd) : Bool := !k.prompt && !k.mirror

/-- What a commit reads of scratchpad: its commit block and token entries, and its parent vector. -/
structure CommitIn where
  follow : Option Nat
  entries : List Byte
  vector : Option (List Byte)
deriving DecidableEq, Repr

/-- A commit block with its token entries at the command's offset + 0x20, and the parent vector (R454, R459, R500). -/
def commitInput (s : State) (c : Nat) (k : StreamCmd) (off : Nat) : SOut ⊕ (State × CommitIn) :=
  let n := 16 + (if k.yields then 16 * k.count else 0)
  let va := k.addr.toNat
  if scratchBytes < off + 0x20 + n then .inl (.bad s 0x20)
  else if va ≠ 0 ∧ (va % 16 ≠ 0 ∨ scratchBytes < va + 128) then .inl (.bad s 8)
  else match scratchRead s c (off + 0x20) n with
    | (s, _, some e) => .inl (.mem s e (off + 0x20))
    | (s, l, none) =>
      let follow := if (fieldAt l 2 1).testBit 0 then some (fieldAt l 0 2) else none
      if va = 0 then .inr (s, { follow := follow, entries := l.drop 16, vector := none })
      else match scratchRead s c va 128 with
        | (s, _, some e) => .inl (.mem s e va)
        | (s, v, none) => .inr (s, { follow := follow, entries := l.drop 16, vector := some v })

/-- The latched KV policy of the bank that holds a reel (R509). -/
def policyOf (s : State) (r : Nat) : Nat :=
  if s.reels.bankA.reel.toNat = r ∧ s.reels.bankA.state ≠ .filling then s.reels.bankA.policy
  else if s.reels.bankB.reel.toNat = r ∧ s.reels.bankB.state ≠ .filling then s.reels.bankB.policy else 0

/-- How a follow reel stands (R508): taken at once, arriving, or neither. -/
inductive Follow where
  | taken
  | arriving
  | unknown
deriving DecidableEq, Repr

/-- The bank that holds a follow reel decides (R508). -/
def followReel (s : State) (r : Nat) : Follow :=
  let has (k : Bank) (st : BState) : Bool := k.reel.toNat == r && k.state == st
  let some' (st : BState) : Bool := has s.reels.bankA st || has s.reels.bankB st
  if some' .front || some' .draining then .taken else if some' .filling then .arriving else .unknown

/-- An experience record of entry j of a commit (table Experience record); its ring index is written when it is granted. -/
def expRecord (s : State) (t : Tracker) (i : Nat) (entries : List Byte) (j stamped policy : Nat) (rootFlag acceptedFlag
    lastSwitched : Bool) : ExpRec :=
  let e := slice entries (16 * j) 16
  let flags := b2n rootFlag + 2 * b2n acceptedFlag + 4 * b2n lastSwitched + 8 * b2n (policy == 1) +
    16 * b2n ((fieldAt e 0xC 1).testBit 0)
  { ring := t.ring
    bytes := slice e 0 8 ++ leBytes 2 stamped ++ leBytes 2 i ++ leBytes 4 (t.tokens + j) ++ leBytes 8 t.user.toNat ++
      leBytes 2 t.tenant.toNat ++ leBytes 2 t.adapter.toNat ++ leBytes 2 (ownPkg s) ++ leBytes 1 flags ++
      leBytes 1 (min 255 (reelLag s.reels.posted.toNat stamped)) ++ slice e 8 4 ++ zeros 28 }

/-- The records of a commit (R501, R510, R511, R469): stamped with the reel held before it, the root of a resolved storyboard
with the root reel. -/
def commitRecords (s : State) (t : Tracker) (i : Nat) (k : StreamCmd) (entries : List Byte) (board : Option Storyboard)
    (switched : Bool) : List ExpRec :=
  if k.yields then
    (List.range k.count).map (fun j =>
      let last := switched && j + 1 == k.count
      match board with
      | some b =>
        if j = 0 then expRecord s t i entries j b.rootReel.toNat b.rootPolicy true false last
        else expRecord s t i entries j t.reel.toNat (policyOf s t.reel.toNat) false true last
      | none => expRecord s t i entries j t.reel.toNat (policyOf s t.reel.toNat) false false last)
  else []

/-- A storyboard opens on a running stream (R460): its copy is kept, with the reel held before the opening commit's switch. -/
def openBoard (s : State) (i : Nat) (v : List Byte) (rootReel : U16) (rootPolicy : Nat) : State :=
  let n := fieldAt v 0 1
  let b : Storyboard :=
    { n := n, parents := vecParents v, rootReel := rootReel, rootPolicy := rootPolicy, base := fieldAt v 4 4 }
  let s := modTracker s i (fun t => { t with state := .verifying, nodes := n })
  { s with serving := { s.serving with boards := tput s.serving.boards i b } }

/-- A commit applied (R404, R501): tokens, pages, records, the cue mark's switch, and the storyboard it opens. -/
def applyCommit (s : State) (i : Nat) (k : StreamCmd) (x : CommitIn) : SOut :=
  let t := trackerOf s i
  let board := tfind s.serving.boards i
  let l := t.tokens + k.count
  let s1 := modTracker s i (fun t => { t with
    tokens := l, state := .running, promptDone := true, nodes := 0, bucket := bucketFor s l })
  let s2 := { s1 with serving := { s1.serving with boards := tdel s1.serving.boards i } }
  match grantPages (pagesNeeded l + 1) s2 i (pagesNeeded l) with
  | (s3, some e) => .mem { s3 with serving := s.serving } e t.listAddr.toNat
  | (s3, none) =>
    let short := !pagesHeld s3 i
    let front := frontNow s3
    let target := x.follow.getD front.2
    let s4 := if x.follow.isSome then s3 else front.1
    let s5 := modTracker s4 i (fun t => { t with reel := BitVec.ofNat 16 target })
    let lagging := decide (lagLimit < reelLag s.reels.posted.toNat target)
    let s6 := if short then enterWait s5 i
      else if lagging then modTracker s5 i (fun t => { t with state := .cueWait, lagFlag := true })
      else match x.vector with
        | some v => if fieldAt v 0 1 = 0 then s5 else openBoard s5 i v t.reel (policyOf s t.reel.toNat)
        | none => s5
    let s7 := queueRecords s6 (commitRecords s t i k x.entries board (decide (target ≠ t.reel.toNat)))
    .done (drainBanks s7) (if short then 4 else if lagging then 6 else 0) target

/-- Row slot n of segment g of a stream's pages: its global address (R458). -/
def rowAddr (t : Tracker) (v : List Byte) (bases : List Byte) (g slot : Nat) : Nat :=
  let p := t.pages.getD (slot / 64) (0, 0)
  (fieldAt bases (8 * p.1) 8 + p.2 * fieldAt v 0x54 4 + fieldAt v 0x58 4 + g * fieldAt v 0x5C 4 +
    slot % 64 * fieldAt v 0x62 2) % 2 ^ 64

/-- The rows that a resolution moves: from slot and to slot, in increasing k (R464). -/
def moves (base : Nat) (path : List Nat) : List (Nat × Nat) :=
  ((path.zip (List.range path.length)).filter (fun p => p.1 != p.2)).map (fun p => (base + p.1, base + p.2))

/-- The copies of a resolution, through the issuing core's DMA mover (R464); a base in another package is address fault. -/
def moveRows (s : State) (c n : Nat) : List (Nat × Nat) → State × Option (MemErr × Nat)
  | [] => (s, none)
  | (src, dst) :: l =>
    let away (a : Nat) : Option (MemErr × Nat) :=
      if isLocal s a then none else some (⟨fAddress, (splitAddr s a).2.1, 0⟩, a)
    match away src, away dst with
    | some e, _ => (s, some e)
    | none, some e => (s, some e)
    | none, none =>
      match coreRead s c src n with
      | (s, _, some e) => (s, some (e, src))
      | (s, b, none) =>
        match coreWrite s c dst b with
        | (s, _, some e) => (s, some (e, dst))
        | (s, _, none) => moveRows s c n l

/-- The compaction of a resolving commit (R464), and then its commit (R465, R466); an error applies nothing of it (R474). -/
def resolveCommit (s : State) (c i : Nat) (k : StreamCmd) (x : CommitIn) (v : List Byte) (b : Storyboard) : SOut :=
  let t := trackerOf s i
  let path := pathTo b.parents 64 (fieldAt v 8 1)
  let ba := fieldAt v 0x50 4
  if fieldAt v 0x60 2 = 0 ∨ 4096 < fieldAt v 0x60 2 then .bad s 0x60
  else if fieldAt v 0x62 2 < 32 ∨ 512 < fieldAt v 0x62 2 ∨ fieldAt v 0x62 2 % 32 ≠ 0 then .bad s 0x62
  else if scratchBytes < ba + 128 then .bad s 0x50
  else match scratchRead s c ba 128 with
    | (s, _, some e) => .mem s e ba
    | (s, bases, none) =>
      let rows := (moves t.tokens path).flatMap (fun m => (List.range (fieldAt v 0x60 2)).map (fun g =>
        (rowAddr t v bases g m.1, rowAddr t v bases g m.2)))
      match moveRows s c (fieldAt v 0x62 2) rows with
      | (s, some (e, a)) => .mem s e a
      | (s, none) => applyCommit s i k x

/-- A commit's own checks (R404, R459, R460, R463, R500), and then its waits (R464, R508, R517) and its application; compact
is true once the readers of a verifying stream have reached zero. -/
def commitChecked (s : State) (c i : Nat) (k : StreamCmd) (x : CommitIn) (compact : Bool) : SOut :=
  let t := trackerOf s i
  let badVec := x.vector.bind (fun v => vectorBad v i (t.tokens + k.count))
  let full := k.yields && decide (queueLimit < s.reels.queue.length + k.count)
  let resolving := t.state == .verifying
  let fromBoard := match tfind s.serving.boards i, x.vector with
    | some b, some v =>
      let z := fieldAt v 8 1
      if b.n ≤ z then some 8 else if k.count ≠ depthOf b.parents 64 z then some 4 else none
    | _, _ => none
  match badVec, x.follow.map (followReel s) with
  | some d, _ => .bad s d
  | none, some .unknown => .bad s 0x20
  | none, f =>
    if !resolving && x.vector.any (fun v => fieldAt v 8 1 != 0xFF) then .bad s 8
    else if resolving ∧ fromBoard.isSome then .bad s (fromBoard.getD 0)
    else if boundOf s 15 < t.tokens + k.count + 64 then .done s 5 t.reel.toNat
    else if f = some .arriving ∨ full then .wait
    else if resolving then
      (if compact then
        match x.vector, tfind s.serving.boards i with
        | some v, some b => resolveCommit s c i k x v b
        | _, _ => .done s 2 t.reel.toNat
      else .wait)
    else applyCommit s i k x

/-- STREAM_COMMIT: the states that take a commit are open with flag prompt, running without it, and verifying with a parent
vector (R400, R463). -/
def commitCmd (s : State) (c : Nat) (k : StreamCmd) (off : Nat) (compact : Bool) : SOut :=
  let i := k.stream % 16384
  let t := trackerOf s i
  let st := ownerStatus s c i false
  let allowed := match t.state with
    | .open' => k.prompt
    | .running => !k.prompt
    | .verifying => k.addr != 0 && !k.prompt
    | _ => false
  if k.prompt ∧ k.mirror then .bad s 0x1B
  else if k.count = 0 ∨ 2 ^ 20 < k.count ∨ (k.yields ∧ 64 < k.count) then .bad s 4
  else if st ≠ 0 then .done s st (if st = 3 then 0 else t.reel.toNat)
  else if allowed = false then .done s 2 t.reel.toNat
  else if k.prompt ∧ k.count ≠ t.prompt then .bad s 4
  else if compact ∧ t.readers ≠ 0 then .wait
  else match commitInput s c k off with
    | .inl r => r
    | .inr (s, x) => commitChecked s c i k x compact

/-! ### Park, unpark, close, read, roster, adopt -/

/-- STREAM_PARK (R400). -/
def parkCmd (s : State) (c : Nat) (k : StreamCmd) : SOut :=
  let i := k.stream % 16384
  let st := ownerStatus s c i false
  if st ≠ 0 then .done s st 0
  else if (trackerOf s i).state = .running then .done (drainBanks (setTState s i .parked)) 0 0 else .done s 2 0

/-- STREAM_UNPARK (R503). -/
def unparkCmd (s : State) (c : Nat) (k : StreamCmd) : SOut :=
  let i := k.stream % 16384
  let st := ownerStatus s c i false
  if st ≠ 0 then .done s st 0
  else if (trackerOf s i).state ≠ .parked then .done s 2 0
  else
    let r := frontNow s
    let lagging := decide (lagLimit < reelLag s.reels.posted.toNat r.2)
    .done (modTracker r.1 i (fun t => { t with
      reel := BitVec.ofNat 16 r.2, state := if lagging then .cueWait else .running, lagFlag := lagging }))
      (if lagging then 6 else 0) 0

/-- STREAM_CLOSE (R405). -/
def closeCmd (s : State) (c : Nat) (k : StreamCmd) : SOut :=
  let i := k.stream % 16384
  let st := ownerStatus s c i false
  if st ≠ 0 then .done s st 0
  else if (trackerOf s i).state = .closing then .done s 2 0 else .done (closeTracker s i) 0 0

/-- STREAM_READ (R406). -/
def readCmd (s : State) (c : Nat) (k : StreamCmd) : SOut :=
  let i := k.stream % 16384
  let st := ownerStatus s c i true
  if scratchBytes < k.addr.toNat + 64 then .bad s 8
  else if st ≠ 0 then .done s st 0
  else match scratchWrite s c k.addr.toNat (trackerBytes s i) with
    | (s, some e) => .mem s e k.addr.toNat
    | (s, none) => .done s 0 0

/-- The running streams of a group in a bucket, of the tenants that p allows. -/
def rosterAll (s : State) (g bucket : Nat) (p : Nat → Bool) : List Nat :=
  (s.serving.trackers.filter (fun e => e.2.state == .running && e.2.group.toNat == g && e.2.bucket == bucket &&
    p e.2.tenant.toNat)).map (·.1)

/-- The streams of a roster (R407). -/
def rosterOf (s : State) (g bucket count : Nat) : List Nat :=
  (rosterAll s g bucket (fun t => t == groupTenant s g)).take count

/-- STREAM_ROSTER (R407); where a stream that it would list belongs to another tenant than the group's present one, it is refused
(R439; log entry 38). -/
def rosterCmd (s : State) (c : Nat) (k : StreamCmd) : SOut :=
  let who := issuer s c
  let l := rosterOf s who.1 k.ring k.count
  if scratchBytes < k.addr.toNat + 2 * l.length then .bad s 8
  else if rosterAll s who.1 k.ring (fun t => t != who.2) ≠ [] then .done s 3 0
  else match scratchWrite s c k.addr.toNat (l.flatMap (leBytes 2)) with
    | (s, some e) => .mem s e k.addr.toNat
    | (s, none) => .done s 0 l.length

/-- STREAM_ADOPT (R408). -/
def adoptCmd (s : State) (c : Nat) (k : StreamCmd) : SOut :=
  let i := k.stream % 16384
  let st := ownerStatus s c i true
  if st ≠ 0 then .done s st 0
  else if (trackerOf s i).state = .lost then
    .done (modTracker s i (fun t => { t with state := .parked, group := BitVec.ofNat 8 (issuer s c).1 })) 0 0
  else .done s 2 0

/-- A stream command of core c whose descriptor stands at a scratchpad offset (R401, R402). -/
def streamCommand (s : State) (c : Nat) (k : StreamCmd) (off : Nat) (compact : Bool) : SOut :=
  match k.cmd with
  | 1 => openCmd s c k
  | 2 => commitCmd s c k off compact
  | 3 => parkCmd s c k
  | 4 => unparkCmd s c k
  | 5 => closeCmd s c k
  | 6 => readCmd s c k
  | 7 => rosterCmd s c k
  | _ => adoptCmd s c k

end Sys2Proof.Machine
end

