-- ==== Sys2Proof/Machine/Attention.lean ====
section
/-!
DEFINITION. The attention command (10_streams_attention.md R420 to R434, R462): its descriptor and checks, the arithmetic of
page partials and their merge, and its output.
-/
namespace Sys2Proof.Machine

/-! ### The descriptor (R420) -/

/-- The fields of an attention descriptor. -/
def attnOf (l : List Byte) : AttnDesc :=
  { fmt := fieldAt l 1 1, d := fieldAt l 2 2, q := fieldAt l 4 1, g := fieldAt l 5 1, s := fieldAt l 6 2,
    list := fieldAt l 8 4, queries := fieldAt l 0xC 4, output := fieldAt l 0x10 4, stride := fieldAt l 0x14 4,
    bases := fieldAt l 0x18 4, pageStride := fieldAt l 0x1C 4, kOff := fieldAt l 0x20 4, vOff := fieldAt l 0x24 4,
    scale := BitVec.ofNat 32 (fieldAt l 0x28 4), flags := BitVec.ofNat 16 (fieldAt l 0x2C 2), lse := fieldAt l 0x30 4,
    parents := fieldAt l 0x34 4, staging := fieldAt l 0x38 4, firstPage := fieldAt l 0x3C 2, pageCount := fieldAt l 0x3E 2 }

/-- A flag of the descriptor: 0 causal, 1 storyboard mask, 2 canonical, 3 log-sum-exp, 4 partial, 5 FP32 output. -/
def AttnDesc.flag (a : AttnDesc) (i : Nat) : Bool := a.flags.toNat.testBit i
/-- The format of queries, keys and values; MXFP4 and INT8 are none (R420). -/
def AttnDesc.format (a : AttnDesc) : Option Fmt := if a.fmt < 4 then fmtOf a.fmt else none
/-- Rows of the command. -/
def AttnDesc.rows (a : AttnDesc) : Nat := a.s * a.q * a.g
/-- The format of the output: FP32 with flag [5] or [4], else the query format (R420, R427). -/
def AttnDesc.outFmt (a : AttnDesc) (f : Fmt) : Fmt := if a.flag 5 || a.flag 4 then .fp32 else f
/-- Bytes of the log-sum-exp region per row: one F32, two with flag [4]. -/
def AttnDesc.lseSize (a : AttnDesc) : Nat := if a.flag 4 then 8 else if a.flag 3 then 4 else 0

/-- Regions of the command: stream list, queries, bucket bases, log-sum-exp, parent vectors, with their field offsets. -/
def attnRegions (a : AttnDesc) (f : Fmt) : List (Nat × Range) :=
  [(8, (a.list, a.list + 2 * a.s)), (0xC, (a.queries, rowsEnd a.queries a.rows a.stride (f.bytes a.d))),
   (0x18, (a.bases, a.bases + 128)), (0x30, (a.lse, a.lse + a.lseSize * a.rows)),
   (0x34, (a.parents, a.parents + (if a.flag 1 then 128 * a.s else 0)))]
/-- The output region and the staging region (R423). -/
def attnOutput (a : AttnDesc) (f : Fmt) : Range :=
  (a.output, rowsEnd a.output a.rows a.stride ((a.outFmt f).bytes a.d))
def attnStaging (a : AttnDesc) (f : Fmt) : Range := (a.staging, a.staging + 4 * 64 * f.bytes a.d)

/-- A region of no bytes overlaps nothing. -/
def meets (x y : Range) : Bool := decide (x.1 < x.2) && decide (y.1 < y.2) && overlaps x y

/-- The descriptor offset of the first bad field that needs no tracker (R420, R423, R227, R454). -/
def attnBad (a : AttnDesc) : Option Nat :=
  match a.format with
  | none => some 1
  | some f =>
    let regions := attnRegions a f
    let out := attnOutput a f
    let stage := attnStaging a f
    if a.d < 16 ∨ 256 < a.d ∨ a.d % 16 ≠ 0 then some 2
    else if a.q = 0 ∨ 64 < a.q then some 4
    else if a.g = 0 ∨ 16 < a.g ∨ 256 < a.q * a.g then some 5
    else if a.s = 0 ∨ 256 < a.s then some 6
    else if a.flag 1 ∧ (a.parents = 0 ∨ a.parents % 16 ≠ 0) then some 0x34
    else match regions.find? (fun r => decide (scratchBytes < r.2.2)) with
      | some r => some r.1
      | none =>
        if scratchBytes < out.2 ∨ meets out stage ∨ regions.any (fun r => meets out r.2) then some 0x10
        else if scratchBytes < stage.2 ∨ regions.any (fun r => meets stage r.2) then some 0x38 else none

/-! ### Streams of the command (R421, R433, R462) -/

/-- What a command keeps of a listed stream: its ID, L, page list, and the storyboard it verifies. -/
structure AttnStream where
  id : Nat
  tokens : Nat
  pages : List (Nat × Nat)
  board : Option Storyboard
deriving DecidableEq, Repr

/-- Pages that L + Q positions need. -/
def attnNeeded (a : AttnDesc) (l : Nat) : Nat := (l + a.q + 63) / 64

/-- The page list entries that the command processes of a stream. -/
def attnPages (a : AttnDesc) (l : Nat) : List Nat :=
  let n := if a.pageCount = 0xFFFF then attnNeeded a l - a.firstPage else a.pageCount
  (List.range n).map (fun j => a.firstPage + j)

/-- A parent vector differs from the copy that the serving unit keeps (R462). -/
def vectorDiffers (b : Storyboard) (v : List Byte) (i : Nat) : Bool :=
  fieldAt v 0 1 != b.n || vecParents v != b.parents || fieldAt v 2 2 % 16384 != i || fieldAt v 4 4 != b.base

/-- Why stream i, at place j of the list, makes the command fault (R433, R462): the offset of the field concerned. -/
def streamBad (s : State) (c : Nat) (a : AttnDesc) (i : Nat) (v : List Byte) : Option Nat :=
  let t := trackerOf s i
  if t.state = .free ∨ t.state = .closing ∨ t.tenant.toNat ≠ (issuer s c).2 then some 8
  else if t.pages.length < attnNeeded a t.tokens then some 8
  else if t.pages.length < a.firstPage then some 0x3C
  else if a.pageCount ≠ 0xFFFF ∧ t.pages.length < a.firstPage + a.pageCount then some 0x3E
  else if a.flag 1 then
    match t.state, tfind s.serving.boards i with
    | .verifying, some b => if vectorDiffers b v i ∨ a.q < b.n then some 0x34 else none
    | _, _ => some 0x2C
  else none

/-! ### Partials (R424 to R427) -/

/-- A page partial or a merge of them: m, l and a. -/
abbrev Partial := F32 × F32 × List F32

/-- Merge of two partials (R425). -/
def mergePartial (x y : Partial) : Partial :=
  let m := fMax x.1 y.1
  if m = negInf32 then (negInf32, 0, x.2.2.map (fun _ => 0))
  else
    let c := fExp (fSub x.1 m)
    let c' := fExp (fSub y.1 m)
    (m, fAdd (fMul x.2.1 c) (fMul y.2.1 c'), lanes2 (fun a b => fAdd (fMul a c) (fMul b c')) x.2.2 y.2.2)

/-- One level of the pairwise tree of partials, and its levels (R195, R426). -/
def partialLevel : List Partial → List Partial
  | x :: y :: l => mergePartial x y :: partialLevel l
  | l => l
def partialTree : Nat → List Partial → Option Partial
  | _, [] => none
  | _, [x] => some x
  | 0, x :: _ => some x
  | f + 1, l => partialTree f (partialLevel l)

/-- The partials of a row's pages merged: folded in page order, or by the tree with flag [2] (R426). -/
def mergePages (canonical : Bool) (d : Nat) (l : List Partial) : Partial :=
  match l with
  | [] => (negInf32, 0, List.replicate d 0)
  | x :: rest => if canonical then (partialTree l.length l).getD x else rest.foldl mergePartial x

/-- Key at a position is kept for query row q of a stream (R422, R457). -/
def keyKept (a : AttnDesc) (st : AttnStream) (q pos : Nat) : Bool :=
  decide (pos < st.tokens + a.q) && (!a.flag 0 || decide (pos ≤ st.tokens + q)) &&
    (!a.flag 1 || decide (pos < st.tokens) || st.board.any (fun b =>
      decide (q < b.n) && (ancestors b.parents q).contains (pos - st.tokens)))

/-- A product of a row and a column in wide mode (R424, R429). -/
def wideDot (f : Fmt) (canonical : Bool) (pairs : List (Fp × Fp)) : F32 :=
  outputElem f canonical (tileK 0 f) 0 (terms f pairs [])

/-- The partial of one page for one row (R424): the query's elements, the page's keys and values as rows of elements, and
which keys are kept. -/
def pagePartial (f : Fmt) (canonical : Bool) (d : Nat) (scale : F32) (query : List Fp) (keys values : List (List Nat))
    (kept : List Bool) : Partial :=
  let scores := (keys.zip kept).map (fun p =>
    if p.2 then some (fMul (wideDot f canonical (query.zip (p.1.map f.decode))) scale) else none)
  let m := rowMax (scores.filterMap id)
  let ps := scores.map (fun x => x.map (fun v => fExp (fSub v m)))
  let l := pairTree (ps.filterMap id)
  let weights := ps.map (fun x => match x with | some v => f.decode (f.narrow .even v) | none => .fin false 0 0)
  (m, l, (List.range d).map (fun j =>
    wideDot f canonical ((weights.zip values).map (fun p => (p.1, f.decode (p.2.getD j 0))))))

/-! ### Fetching and writing -/

/-- Read this package's memory as the core's engines do; a base in another package is an address fault (R423). -/
def rdGlobal (c a n : Nat) : Act (List Byte) :=
  ExceptT.mk (fun s =>
    if isLocal s a then
      match coreRead s c a n with
      | (s, _, some e) => (.error e, s)
      | (s, l, none) => (.ok l, s)
    else (.error ⟨fAddress, (splitAddr s a).2.1, 0⟩, s))

/-- The 64 rows of keys, or of values, of a page (R420, R423). -/
def fetchBlock (c : Nat) (f : Fmt) (a : AttnDesc) (bases : List Byte) (page : Nat × Nat) (off : Nat) :
    Act (List (List Nat)) := do
  let l ← rdGlobal c ((fieldAt bases (8 * page.1) 8 + page.2 * a.pageStride + off) % 2 ^ 64) (64 * f.bytes a.d)
  return (chunksOf 64 (f.bytes a.d) l).map (fun r => f.elems r a.d)

/-- The output row and log-sum-exp of a merged partial (R427). -/
def writeRow (c : Nat) (f : Fmt) (a : AttnDesc) (row : Nat) (p : Partial) : Act Unit := do
  let o := a.outFmt f
  if a.flag 4 then
    wrScratch c (a.output + row * a.stride) (Fmt.fp32.pack (p.2.2.map (fun x => x.toNat)))
    wrScratch c (a.lse + 8 * row) (leBytes 4 p.1.toNat ++ leBytes 4 p.2.1.toNat)
  else
    let none' := decide (p.2.1 = 0)
    let r := fRecip p.2.1
    wrScratch c (a.output + row * a.stride)
      (o.pack (p.2.2.map (fun x => if none' then 0 else o.narrow .even (fMul x r))))
    if a.flag 3 then
      wrScratch c (a.lse + 4 * row) (leBytes 4 (if none' then negInf32 else fAdd p.1 (fLn p.2.1)).toNat)

/-- The rows of one stream, at place i of the list (R422 to R427). -/
def attnStream (c : Nat) (f : Fmt) (a : AttnDesc) (bases : List Byte) (i : Nat) (st : AttnStream) : Act Unit := do
  let blocks ← (attnPages a st.tokens).mapM (fun e => do
    let page := st.pages.getD e (0, 0)
    let ks ← fetchBlock c f a bases page a.kOff
    let vs ← fetchBlock c f a bases page a.vOff
    return (e, ks, vs))
  (List.range (a.q * a.g)).forM (fun r => do
    let row := i * a.q * a.g + r
    let q ← rdElems c f (a.queries + row * a.stride) a.d
    let parts := blocks.map (fun b =>
      pagePartial f (a.flag 2) a.d a.scale (q.map f.decode) b.2.1 b.2.2
        ((List.range 64).map (fun t => keyKept a st (r / a.g) (64 * b.1 + t))))
    writeRow c f a row (mergePages (a.flag 2) a.d parts))

/-- The streams that a command lists. -/
def attnList (a : AttnDesc) (l : List Byte) : List Nat := (List.range a.s).map (fun i => fieldAt l (2 * i) 2 % 16384)

/-- What the command keeps of a stream (R421). -/
def attnKeep (s : State) (a : AttnDesc) (i : Nat) : AttnStream :=
  let t := trackerOf s i
  { id := i, tokens := t.tokens, pages := t.pages, board := if a.flag 1 then tfind s.serving.boards i else none }

/-- The work of the command once its streams are checked (R423): the staging area is left with bytes that the manual does
not name (log entry 39). -/
def attnRun (c : Nat) (f : Fmt) (a : AttnDesc) (bases : List Byte) (streams : List AttnStream) : Act Unit := do
  (streams.zip (List.range streams.length)).forM (fun p => attnStream c f a bases p.2 p.1)
  let s ← get
  let n := 4 * 64 * f.bytes a.d
  wrScratch c a.staging (freeBytes s n)
  change (fun s => useFree s n)

end Sys2Proof.Machine
end

