-- ==== Sys2Proof/Machine/ArrayQueue.lean ====
section
/-!
DEFINITION. The array queue (R186, R224, R225, R401): ARR.GO with each descriptor kind, the start of the command at its head,
epilogue blocks, sweep and tile-sends of a product, the waits of a commit, and completion.
-/
namespace Sys2Proof.Machine

/-! ### Queue entries -/

/-- The array command at the head of core c's queue. -/
def headCmd (s : State) (c : Nat) : Option ArrCmd := (coreOf s c).arrQ.head?
/-- The head is done and leaves the queue. -/
def dropHead (s : State) (c : Nat) : State := modCore s c (fun k => { k with arrQ := k.arrQ.drop 1 })

/-- A new queue entry. -/
def newCmd (tag off : Nat) (kind : ArrKind) : ArrCmd :=
  { tag := BitVec.ofNat 8 tag, off := off, kind := kind, started := false, block := 0, swept := false, ready := [], sent := 0, sends := 0, acks := 0,
    notified := false, failed := [], streams := [], status := 0 }

/-- A memory error of an array command; a scratchpad word's address as issued is its scratchpad offset. -/
def arrFault (s : State) (c tag : Nat) (e : MemErr) : State := memFault s c .arrays tag e (e.phys % 2 ^ 21)

/-! ### The start of a command -/

/-- Blocks that the tile-sends of a chain send. -/
def sendCount (s : State) (c : Nat) (d : ProductDesc) (chain : Option Chain) : Nat :=
  ((chain.map (fun h => (sendOrder (arrayMode s c d.mode) h d).length))).getD 0

/-- The passes of a product run when it reaches the head; they wait while a line that they write is still to be copied to a
snapshot (R186, R334). -/
def startProduct (s : State) (c : Nat) (a : ArrCmd) (d : ProductDesc) (chain : Option Chain) : State :=
  if copyingLines s c d.line (d.m * linesPerRow d.n) then s
  else match runAct (productPasses c d chain) s with
    | (s, .error e) => arrFault s c a.tag.toNat e
    | (s, .ok _) => modHead s c (fun a => { a with started := true, sends := sendCount s c d chain })

/-- A parent vector as an attention command reads it: n, stream ID, base and parents, and no other field (R462). -/
def attnVector (c a : Nat) : Act (List Byte) := do
  let h ← rdScratch c a 8
  let ps ← rdScratch c (a + 0x10) 64
  return h ++ zeros 8 ++ ps

/-- The stream list, parent vectors and bucket bases of an attention command. -/
def attnInput (c : Nat) (d : AttnDesc) : Act (List Byte × List (List Byte) × List Byte) := do
  let l ← rdScratch c d.list (2 * d.s)
  let vs ← (List.range (if d.flag 1 then d.s else 0)).mapM (fun i => attnVector c (d.parents + 128 * i))
  let b ← rdScratch c d.bases 128
  return (l, vs, b)

/-- An attention command starts: it reads its trackers, takes its readers and computes (R421 to R427, R433). -/
def startAttention (s : State) (c : Nat) (a : ArrCmd) (d : AttnDesc) : State :=
  match runAct (attnInput c d) s with
  | (s, .error e) => arrFault s c a.tag.toNat e
  | (s, .ok (l, vs, bases)) =>
    let ids := attnList d l
    match firstSome (fun p => streamBad s c d p.1 (vs.getD p.2 [])) (ids.zip (List.range ids.length)) with
    | some off => descFault s c .arrays a.tag.toNat off
    | none =>
      let keep := ids.map (attnKeep s d)
      let s := ids.foldl (fun s i => modTracker s i (fun t => { t with readers := t.readers + 1 })) s
      let s := modHead s c (fun a => { a with started := true, streams := ids })
      match runAct (attnRun c ((d.format).getD .bf16) d bases keep) s with
      | (s, .error e) => memFault s c .arrays a.tag.toNat e e.phys
      | (s, .ok _) => s

/-- The result word of a stream command (table Stream command): status and value. -/
def writeResult (s : State) (c : Nat) (a : ArrCmd) (status value : Nat) : State :=
  match scratchWrite s c (a.off + 0x1C) (leBytes 2 status ++ leBytes 2 value) with
  | (s, some e) => arrFault s c a.tag.toNat e
  | (s, none) => dropHead s c

/-- What a stream command's outcome does: a result, a wait at the head, or a fault. -/
def streamOutcome (s : State) (c : Nat) (a : ArrCmd) (o : SOut) : State :=
  match o with
  | .done s st v => writeResult s c a st v
  | .wait => modHead s c (fun a => { a with started := true })
  | .bad s d => descFault s c .arrays a.tag.toNat d
  | .mem s e addr => memFault s c .arrays a.tag.toNat e addr

/-- The head starts; stream commands run whole, and the next head follows (R186, R401). Nothing starts while the core's domain is
not on (R66, R367, R440). -/
def startHeads : Nat → State → Nat → State
  | 0, s, _ => s
  | f + 1, s, c =>
    match headCmd s c with
    | none => s
    | some a =>
      if a.started ∨ coreOn s c = false then s
      else match a.kind with
        | .product d chain => startProduct s c a d chain
        | .attention d => startAttention s c a d
        | .stream k => startHeads f (streamOutcome s c a (streamCommand s c k a.off false)) c

/-- The head of the queue starts, at most four commands deep. -/
def startHead (s : State) (c : Nat) : State := startHeads 5 s c

/-- The head leaves the queue and the next one starts. -/
def finishHead (s : State) (c : Nat) : State := startHead (dropHead s c) c

/-! ### Issue (ARR.GO) -/

/-- A command joins the queue and the pc moves on. -/
def enqueue (s : State) (c tag off : Nat) (kind : ArrKind) : State :=
  startHead (modCore s c (fun k => pcNext { k with arrQ := k.arrQ ++ [newCmd tag off kind] })) c

/-- The chain that a product names, as ARR.GO copies it (R234, R236); a bad count or place is a fault of the field at +0x2C
(R251). -/
def readChain (s : State) (c off : Nat) : State × Option (Except MemErr (Chain × Nat)) :=
  let pro := (cellGet s.mem.cells (scratchKey c off)).toNat
  let epi := (cellGet s.mem.cells (scratchKey c (off + 1))).toNat
  let len := chainLen pro epi
  if 3 < pro ∨ 8 < epi ∨ scratchBytes < off + len then (s, none)
  else match scratchRead s c off len with
    | (s, _, some e) => (s, some (.error e))
    | (s, l, none) => (s, some (.ok (chainOf l, len)))

/-- A product descriptor is checked and queued (R227, R233, R251, R253). -/
def goProduct (s : State) (c tag off : Nat) (l : List Byte) : State :=
  let d := productOf l
  if d.chain = 0 then
    match productBad d none with
    | some b => descFault s c .arrays tag b
    | none => enqueue s c tag off (.product d none)
  else match readChain s c d.chain with
    | (s, none) => descFault s c .arrays tag ((productBad d none).getD 0x2C)
    | (s, some (.error e)) => arrFault s c tag e
    | (s, some (.ok (h, len))) =>
      let src := sourceFmt d (some h)
      match productBad d src with
      | some b => descFault s c .arrays tag b
      | none =>
        if chainOk h d (src.getD .bf16) len then enqueue s c tag off (.product d (some h))
        else descFault s c .arrays tag 0x2C

/-- A descriptor by its operation byte (R401). -/
def goDescriptor (s : State) (c tag off op : Nat) (l : List Byte) : State :=
  match op with
  | 1 => goProduct s c tag off l
  | 2 =>
    match attnBad (attnOf l) with
    | some b => descFault s c .arrays tag b
    | none => enqueue s c tag off (.attention (attnOf l))
  | 3 =>
    let k := streamCmdOf l
    if k.cmd = 0 ∨ 8 < k.cmd then descFault s c .arrays tag 1 else enqueue s c tag off (.stream k)
  | _ => descFault s c .arrays tag 0

/-- Byte i of the descriptor that a word names, as scratchpad holds it. -/
def descByte (s : State) (c : Nat) (w : U32) (i : Nat) : Nat :=
  (cellGet s.mem.cells (scratchKey c (reg (coreOf s c) (wD w) + i))).toNat

/-- ARR.GO: a full queue or a tag still outstanding makes it wait (R224, R225). -/
def arrGo (c : Nat) (w : U32) (s : State) : State :=
  let off := reg (coreOf s c) (wD w)
  let tag := wTag w
  let op := descByte s c w 0
  let len := if op = 3 then 32 else 64
  if 4 ≤ (coreOf s c).arrQ.length ∨ (coreOf s c).arrQ.any (fun a => a.tag.toNat == tag) then s
  else if scratchBytes < off + len then descFault s c .arrays tag 0
  else match scratchRead s c off len with
    | (s, _, some e) => memFault s c .arrays tag e off
    | (s, l, none) => goDescriptor s c tag off op l

/-- An ARR.GO row: the descriptor at s[a] is of the row's kind, or of a kind that R401 lists for none (log entry 1). -/
def arrStep (mn : String) (op cmd : Nat) (c : CoreId) (w : U32) (s : State) : Host.Outcome State Fault Refusal :=
  let o := descByte s c.toNat w 0
  let k := descByte s c.toNat w 1
  let listed := o == 1 || o == 2 || (o == 3 && decide (1 ≤ k ∧ k ≤ 8))
  if spell w = .arrGo ∧ listed ∧ (o ≠ op ∨ (op = 3 ∧ k ≠ cmd)) then .refused (.illFormed mn)
  else coreStep mn (fun p => p == .arrGo) (arrGo c.toNat w) c w s

/-- ARR.WAIT waits until the tagged command has completed (R224, R258). -/
def arrWait (c : Nat) (w : U32) (s : State) : State :=
  if (coreOf s c).arrQ.any (fun a => a.tag.toNat == wTag w) then s else modCore s c pcNext

/-! ### The chain of the product at the head -/

/-- The product with a chain that runs at the head; none runs while the core's domain is not on (R66, R67, R367). -/
def headChain (s : State) (c : Nat) : Option (ArrCmd × ProductDesc × Chain × Nat) :=
  match headCmd s c with
  | some a =>
    match a.kind with
    | .product d (some h) => if a.started && coreOn s c then some (a, d, h, arrayMode s c d.mode) else none
    | _ => none
  | none => none

/-- Units of in-flight work that the command has; none where no stage runs in flight. -/
def flightUnits (d : ProductDesc) (h : Chain) (mode : Nat) : Nat := if flightStages h = [] then 0 else unitCount mode h d.n

/-- EPILOGUE_BLOCK (R254): the in-flight stages of the next block of columns. -/
def epilogueBlock (s : State) (c : Nat) : State :=
  match headChain s c with
  | none => s
  | some (a, d, h, mode) =>
    if flightUnits d h mode ≤ a.block then s
    else
      match runAct (runFlight c h d mode a.block) s with
      | (s, .error e) => arrFault s c a.tag.toNat e
      | (s, .ok _) => modHead s c (fun a => { a with block := a.block + 1 })

/-- Status bits of the sweep: [16] spilled, [17] a quantise of kind 0 or 1 ran in it (table Chain status). -/
def sweepStatus (h : Chain) : Nat :=
  2 ^ 16 * b2n ((spillPoint h).any (fun i => decide (i ≤ inFlight h))) + 2 ^ 17 * b2n ((sweepStages h).any wholeRow)

/-- DEFERRED_SWEEP (R250, R254). -/
def deferredSweep (s : State) (c : Nat) : State :=
  match headChain s c with
  | none => s
  | some (a, d, h, mode) =>
    if a.swept ∨ sweepStages h = [] ∨ a.block < flightUnits d h mode then s
    else match runAct (runSweep c h d mode) s with
      | (s, .error e) => arrFault s c a.tag.toNat e
      | (s, .ok _) => modHead s c (fun a => { a with swept := true, status := a.status + sweepStatus h })

/-- A send that failed: the first one's code and stage stand in the status, and [18] where a block was not written
(table Chain status). -/
def sendFailed (a : ArrCmd) (stage code : Nat) (block : Bool) : ArrCmd :=
  let st := if a.status % 256 = 0 then a.status + code + stage % 16 * 256 else a.status
  { a with
    failed := if a.failed.contains stage then a.failed else stage :: a.failed
    status := if block && !st.testBit 18 then st + 2 ^ 18 else st }

/-- One block of a tile-send into this package (R259, R264): refused as a whole, or written. -/
def sendLocalBlock (c i : Nat) (dest : Nat) (pieces : List (Int × List Byte)) : Act Unit := do
  let s ← get
  let t := coreTenant s c
  let status := ((pieces.map (fun p =>
    let x := splitAddr s (pieceAddr dest p.1)
    tileStatus s t x.2.1 x.2.2 p.2.length)).find? (fun v => v != 0)).getD 0
  if status ≠ 0 then change (fun s => modHead s c (fun a => sendFailed a i status true))
  else pieces.forM (fun p =>
    ExceptT.mk (fun s => match physWrite s 0 (splitAddr s (pieceAddr dest p.1)).2.2 p.2 .engine with
      | (s, _, some e) => (.error e, s)
      | (s, _, none) => (.ok (), s)))

/-- One block of a tile-send to another package: tile writes on VC1, each answered when it is performed (R260, R636). -/
def sendRemoteBlock (c i : Nat) (pkg dest : Nat) (tag : Byte) (pieces : List (Int × List Byte)) : Act Unit :=
  pieces.forM (fun p =>
    change (fun s => modHead
      (sendRequest s 1 pkg 0x11 (coreTenant s c) (pieceAddr dest p.1) p.2 (.core (BitVec.ofNat 10 c) (.tile tag i)))
      c (fun a => { a with acks := a.acks + 1 })))

/-- The pieces that stage i of a chain is to send of block b. -/
def readyPieces (a : ArrCmd) (b i : Nat) : List (Int × List Byte) :=
  (a.ready.filter (fun x => x.1 == b && x.2.1 == i)).map (fun x => x.2.2)

/-- TILE_SEND_BLOCK (R260): the next block of the send order; blocks of a stage that failed are passed over (R264). A block for
another package goes once those before it are answered, so that none follows a refused one (R264; log entry 112), and while the
way to the links is open (R70, R71). -/
def tileSendBlock (s : State) (c : Nat) : State :=
  match headChain s c with
  | none => s
  | some (a, d, h, mode) =>
    let todo := ((sendOrder mode h d).drop a.sent).dropWhile (fun p => a.failed.contains p.2)
    let s := modHead s c (fun a => { a with sent := (sendOrder mode h d).length - todo.length })
    match todo with
    | [] => s
    | (b, i) :: _ =>
      if (i < inFlight h ∧ a.block ≤ b) ∨ (inFlight h ≤ i ∧ a.swept = false) then s
      else
        let r := epilogueAt h i
        let pieces := readyPieces a b i
        let x := splitAddr s (sendDest r)
        let done (s : State) : State := modHead s c (fun a => { a with
          sent := a.sent + 1
          ready := a.ready.filter (fun y => !(y.1 == b && y.2.1 == i)) })
        if x.1 = ownPkg s then
          (match runAct (sendLocalBlock c i (sendDest r) pieces) s with
          | (s, .error e) => arrFault s c a.tag.toNat e
          | (s, .ok _) => done s)
        else if x.2.1 ≠ 0 then done (modHead s c (fun a => sendFailed a i 4 true))
        else if a.acks ≠ 0 then s
        else match wayOut s c with
          | .held => s
          | .lost ch => arrFault s c a.tag.toNat ⟨fBridgeLost, ch, 0⟩
          | .open' => done (runAct (sendRemoteBlock c i x.1 (sendDest r) a.tag pieces) s).1

/-- The answer of a tile write or notify of the head: a status other than 0 fails its stage (R264, R636). -/
def tileAnswer (s : State) (c : Nat) (tag : Byte) (stage status : Nat) : State :=
  match headCmd s c with
  | some a =>
    if a.tag = tag then
      modHead s c (fun a =>
        let a := { a with acks := a.acks - 1 }
        if status = 0 then a else sendFailed a stage status (!a.notified))
    else s
  | none => s

/-! ### Completion (R258, R261, R265) -/

/-- The DMA commands that still write to the receivers of the notify messages, which wait for them (R210). -/
def notifyOwed (s : State) (c : Nat) (h : Chain) : Bool :=
  (sendStages h).any (fun i =>
    let x := splitAddr s (sendDest (epilogueAt h i))
    sendNotifies (epilogueAt h i) && (coreOf s c).dmaQ.any (fun d => d.owes s x.1 (x.2.2 / 2 ^ 21 % 1024)))

/-- The notify message of a tile-send stage, on a reservation that the core holds (R261, R265). -/
def notifyStage (s : State) (c : Nat) (a : ArrCmd) (h : Chain) (i : Nat) : State :=
  let r := epilogueAt h i
  let x := splitAddr s (sendDest r)
  let dst := x.2.2 / 2 ^ 21 % 1024
  let mb := sendMailbox r
  if heldResv s c x.1 dst mb = none then modHead s c (fun a => sendFailed a i 5 false)
  else
    let m := mkMsg s c x.1 dst mb a.tag.toNat []
    if x.1 = ownPkg s then
      let q := sendLocal s c dst mb m
      if q.2 = 0 then q.1 else modHead q.1 c (fun a => sendFailed a i q.2 false)
    else
      let s := sendRequest (dropResv (bumpSeq s c x.1 dst mb) c x.1 dst mb) 1 x.1 0x10 (coreTenant s c) (coreAddr x.1 dst)
        (wireHeader m mb) (.core (BitVec.ofNat 10 c) (.tile a.tag i))
      modHead s c (fun a => { a with acks := a.acks + 1 })

/-- The notify messages of the stages that ask for one and did not fail (R261, R264). -/
def sendNotifies' (s : State) (c : Nat) (a : ArrCmd) (h : Chain) : State :=
  let l := (sendStages h).filter (fun i => sendNotifies (epilogueAt h i) && !a.failed.contains i)
  l.foldl (fun s i => notifyStage s c a h i) (modHead s c (fun a => { a with notified := true }))

/-- The work of the chain at the head is done and answered, its notify messages apart. -/
def chainDone (a : ArrCmd) (d : ProductDesc) (h : Chain) (mode : Nat) : Bool :=
  decide (flightUnits d h mode ≤ a.block) && (a.swept || sweepStages h == []) &&
    ((sendOrder mode h d).drop a.sent).all (fun p => a.failed.contains p.2) && a.acks == 0

/-- The status word of the chain is written when the command completes (R236). -/
def writeChainStatus (s : State) (c : Nat) (a : ArrCmd) (d : ProductDesc) : State :=
  match scratchWrite s c (d.chain + 0x18) (leBytes 4 a.status) with
  | (s, some e) => arrFault s c a.tag.toNat e
  | (s, none) => finishHead s c

/-- ARRAY_COMMAND_COMPLETE (R258): a product without a chain completes after its passes; one with a chain once every stage
is done, every tile write and then every notify message is acknowledged. -/
def arrayComplete (s : State) (c : Nat) : State :=
  match headCmd s c with
  | some a =>
    match a.kind with
    | .product _ none => if a.started && coreOn s c then finishHead s c else s
    | .product d (some h) =>
      if a.started && coreOn s c && chainDone a d h (arrayMode s c d.mode) && (a.notified || !notifyOwed s c h) then
        let s := if a.notified then s else sendNotifies' s c a h
        match headCmd s c with
        | some a => if a.acks = 0 then writeChainStatus s c a d else s
        | none => s
      else s
    | _ => s
  | none => s

/-- ATTENTION_COMPLETE (R421): the readers of the listed trackers fall. -/
def attentionComplete (s : State) (c : Nat) : State :=
  match headCmd s c with
  | some a =>
    match a.kind with
    | .attention _ => if a.started && coreOn s c then finishHead (drainBanks (a.streams.foldl dropReader s)) c else s
    | _ => s
  | none => s

/-! ### The waits of a commit (R464, R508, R517) -/

/-- A commit that waits at the head is tried again. -/
def retryCommit (s : State) (c : Nat) (compact : Bool) (p : StreamCmd → ArrCmd → Bool) : State :=
  match headCmd s c with
  | some a =>
    match a.kind with
    | .stream k =>
      if a.started && coreOn s c && k.cmd == 2 && p k a then
        startHead (streamOutcome s c a (streamCommand s c k a.off compact)) c
      else s
    | _ => s
  | none => s

/-- The stream of a waiting commit is verifying. -/
def isVerifying (s : State) (k : StreamCmd) : Bool := (trackerOf s (k.stream % 16384)).state == .verifying

/-- The commit block of a waiting commit names a follow reel (R500). -/
def followsReel (s : State) (c : Nat) (a : ArrCmd) : Bool :=
  (cellGet s.mem.cells (scratchKey c (a.off + 0x22))).toNat.testBit 0

/-- ARRAY_PRODUCT. -/
def execArrayProduct (c : CoreId) (w : U32) (s : State) : Host.Outcome State Fault Refusal := arrStep "ARRAY_PRODUCT" 1 0 c w s
/-- ATTENTION. -/
def execAttention (c : CoreId) (w : U32) (s : State) : Host.Outcome State Fault Refusal := arrStep "ATTENTION" 2 0 c w s
/-- STREAM_OPEN. -/
def execStreamOpen (c : CoreId) (w : U32) (s : State) : Host.Outcome State Fault Refusal := arrStep "STREAM_OPEN" 3 1 c w s
/-- STREAM_COMMIT. -/
def execStreamCommit (c : CoreId) (w : U32) (s : State) : Host.Outcome State Fault Refusal :=
  arrStep "STREAM_COMMIT" 3 2 c w s
/-- STREAM_PARK. -/
def execStreamPark (c : CoreId) (w : U32) (s : State) : Host.Outcome State Fault Refusal := arrStep "STREAM_PARK" 3 3 c w s
/-- STREAM_UNPARK. -/
def execStreamUnpark (c : CoreId) (w : U32) (s : State) : Host.Outcome State Fault Refusal :=
  arrStep "STREAM_UNPARK" 3 4 c w s
/-- STREAM_CLOSE. -/
def execStreamClose (c : CoreId) (w : U32) (s : State) : Host.Outcome State Fault Refusal := arrStep "STREAM_CLOSE" 3 5 c w s
/-- STREAM_READ. -/
def execStreamRead (c : CoreId) (w : U32) (s : State) : Host.Outcome State Fault Refusal := arrStep "STREAM_READ" 3 6 c w s
/-- STREAM_ROSTER. -/
def execStreamRoster (c : CoreId) (w : U32) (s : State) : Host.Outcome State Fault Refusal :=
  arrStep "STREAM_ROSTER" 3 7 c w s
/-- STREAM_ADOPT. -/
def execStreamAdopt (c : CoreId) (w : U32) (s : State) : Host.Outcome State Fault Refusal := arrStep "STREAM_ADOPT" 3 8 c w s
/-- STORYBOARD_COMPACTION: a resolving commit at the head runs once its stream has no readers (R464). -/
def execStoryboardCompaction (c : CoreId) (s : State) : Host.Outcome State Fault Refusal :=
  .next (retryCommit s c.toNat true (fun k _ => isVerifying s k))
/-- FOLLOW_REEL_WAIT_END: a commit whose follow reel was arriving is tried again (R508). -/
def execFollowReelWaitEnd (c : CoreId) (s : State) : Host.Outcome State Fault Refusal :=
  .next (retryCommit s c.toNat false (fun k a => !isVerifying s k && followsReel s c.toNat a))
/-- RING_QUEUE_WAIT_END: a commit whose records did not fit the queue is tried again (R517). -/
def execRingQueueWaitEnd (c : CoreId) (s : State) : Host.Outcome State Fault Refusal :=
  .next (retryCommit s c.toNat false (fun k _ => !isVerifying s k && k.yields))
/-- ARR_WAIT. -/
def execArrWait (c : CoreId) (w : U32) (s : State) : Host.Outcome State Fault Refusal :=
  coreStep "ARR_WAIT" (fun p => p == .arrWait) (arrWait c.toNat w) c w s
/-- EPILOGUE_BLOCK. -/
def execEpilogueBlock (c : CoreId) (s : State) : Host.Outcome State Fault Refusal := .next (epilogueBlock s c.toNat)
/-- DEFERRED_SWEEP. -/
def execDeferredSweep (c : CoreId) (s : State) : Host.Outcome State Fault Refusal := .next (deferredSweep s c.toNat)
/-- TILE_SEND_BLOCK. -/
def execTileSendBlock (c : CoreId) (s : State) : Host.Outcome State Fault Refusal := .next (tileSendBlock s c.toNat)
/-- ARRAY_COMMAND_COMPLETE. -/
def execArrayCommandComplete (c : CoreId) (s : State) : Host.Outcome State Fault Refusal := .next (arrayComplete s c.toNat)
/-- ATTENTION_COMPLETE. -/
def execAttentionComplete (c : CoreId) (s : State) : Host.Outcome State Fault Refusal := .next (attentionComplete s c.toNat)

end Sys2Proof.Machine
end

