-- ==== Sys2Proof/Machine/Dma.lean ====
section
/-!
DEFINITION. The DMA mover (08_faults_preemption.md R328, R335 to R339, 07_memory_model.md R273, R274): descriptors, the
transfer chunk by chunk, its answers from other packages and from host memory, marks and completion.
-/
namespace Sys2Proof.Machine

/-! ### Host memory as a DMA reaches it (R274) -/

/-- The function that issues a tenant's requests: the physical function for the operator, else the one bound in 0x8010+f. -/
def fnOfTenant (s : State) (t : Nat) : Option Nat :=
  if t = 0 then some 0
  else ((List.range 31).map (· + 1)).find? (fun f => valNat s (0x8010 + f) 0 0 0x8000 == t)

/-- The function of a tenant, where it may issue requests now (R274, R744). -/
def hostFn (s : State) (t : Nat) : Option Nat := (fnOfTenant s t).filter (fun f => (fnOf s f).busMaster)

/-- Space 0x3 refused (R274, R744). -/
def hostErr : MemErr := ⟨fAddress, 3, 0⟩

/-! ### Descriptors -/

/-- A queue entry from a descriptor (table DMA descriptor); the start is the mark where flag [0] is set. -/
def dmaOf (l : List Byte) (tag off slot : Nat) : DmaCmd :=
  { tag := BitVec.ofNat 8 tag, off := off, slot := slot, fill := fieldAt l 0 1 == 2, rows := fieldAt l 4 4,
    src := BitVec.ofNat 64 (fieldAt l 8 8), dst := BitVec.ofNat 64 (fieldAt l 0x10 8), rowLen := fieldAt l 0x18 4,
    srcStride := fieldAt l 0x20 4, dstStride := fieldAt l 0x24 4, pattern := BitVec.ofNat 64 (fieldAt l 0x28 8),
    start := if (fieldAt l 1 1).testBit 0 then fieldAt l 0x30 8 else 0,
    next := if (fieldAt l 1 1).testBit 0 then fieldAt l 0x30 8 else 0, pend := [], came := [] }

/-- The descriptor offset of the first bad field (R227, R335, R338, R339). -/
def dmaBad (s : State) (l : List Byte) (d : DmaCmd) : Option Nat :=
  let src := plainAddr s d.src.toNat
  let dst := plainAddr s d.dst.toNat
  let clash := decide (src < rowsEnd' dst d.dstStride ∧ dst < rowsEnd' src d.srcStride)
  if fieldAt l 0 1 ≠ 1 ∧ fieldAt l 0 1 ≠ 2 then some 0
  else if d.rows = 0 ∨ 2 ^ 20 < d.rows then some 4
  else if d.rowLen = 0 ∨ 2 ^ 24 < d.rowLen then some 0x18
  else if d.fill = false ∧ clash then some 8
  else if ((fieldAt l 1 1).testBit 0 = false ∧ fieldAt l 0x30 8 ≠ 0) ∨ d.total < d.start then some 0x30
  else none
where
  /-- End of the byte range of rows from an address at a stride. -/
  rowsEnd' (a stride : Nat) : Nat := a + (d.rows - 1) * stride + d.rowLen

/-- Address of the byte at a position of the transfer: of the source, of the destination (R335). -/
def DmaCmd.srcAt (d : DmaCmd) (pos : Nat) : Nat :=
  (d.src.toNat + pos / d.rowLen * d.srcStride + pos % d.rowLen) % 2 ^ 64
def DmaCmd.dstAt (d : DmaCmd) (pos : Nat) : Nat :=
  (d.dst.toNat + pos / d.rowLen * d.dstStride + pos % d.rowLen) % 2 ^ 64

/-- Bytes of the next chunk: within the row, within one granule of source and destination, and within one packet (R328,
R632). -/
def DmaCmd.chunk (d : DmaCmd) (pos : Nat) : Nat :=
  let n := inGranule (d.dstAt pos) (min (d.rowLen - pos % d.rowLen) 4096)
  if d.fill then n else inGranule (d.srcAt pos) n

/-- The fill bytes of n positions from one on: the pattern repeats from the row's start (R335). -/
def DmaCmd.fillBytes (d : DmaCmd) (pos n : Nat) : List Byte :=
  (List.range n).map (fun i => BitVec.ofNat 8 (d.pattern.toNat / 256 ^ ((pos % d.rowLen + i) % 8)))

/-! ### One chunk -/

/-- A translated place of a chunk of n bytes: package, space, offset. -/
def dmaPlace (s : State) (c a n right : Nat) : State × Except MemErr (Nat × Nat × Nat) :=
  let p := splitAddr s a
  match translate s c (coreTenant s c) p.1 p.2.1 p.2.2 right with
  | (s, .fail e) => (s, .error e)
  | (s, .ok off) =>
    match wayLost s c p.1 p.2.1 off n with
    | some e => (s, .error e)
    | none => (s, .ok (p.1, p.2.1, off))

/-- A stopped link reference holds a chunk of n bytes (R71). -/
def dmaHeld (s : State) (c : Nat) (d : DmaCmd) (pos n : Nat) : Bool :=
  accessHeld 1 s c (d.dstAt pos) n rightWrite || (!d.fill && accessHeld 1 s c (d.srcAt pos) n rightRead)

/-- The DMA queue entry with a tag changed. -/
def modDma (s : State) (c : Nat) (tag : Byte) (f : DmaCmd → DmaCmd) : State :=
  modCore s c (fun k => { k with dmaQ := k.dmaQ.map (fun d => if d.tag = tag then f d else d) })

/-- A part of a transfer whose answer is awaited. -/
def dmaPend (s : State) (c : Nat) (tag : Byte) (pos n : Nat) : State :=
  modDma s c tag (fun d => { d with pend := d.pend ++ [(pos, n)] })
/-- A part whose answer has come. -/
def dmaPart (s : State) (c : Nat) (tag : Byte) (pos : Nat) : State :=
  modDma s c tag (fun d => { d with pend := d.pend.filter (fun p => p.1 != pos) })

/-- Bytes of a chunk written to its destination: at once in this package and to host memory, by a write packet to another
package, whose answer is awaited (R273, R274, R636). The answer is how many bytes stand there when it fails, why, and the
address as issued. -/
def dmaPut (s : State) (c : Nat) (tag : Byte) (pos a : Nat) (bs : List Byte) : State × Option (Nat × MemErr × Nat) :=
  match dmaPlace s c a bs.length rightWrite with
  | (s, .error e) => (s, some (0, e, a))
  | (s, .ok (pkg, space, off)) =>
    if pkg ≠ ownPkg s then
      if 3 ≤ space then (s, some (0, ⟨fAddress, space, 0⟩, a))
      else (dmaPend (sendRequest s 2 pkg 0x21 (coreTenant s c) (pkg * 2 ^ 51 + memKey space off) bs
        (.core (BitVec.ofNat 10 c) (.dmaWrite tag pos bs.length))) c tag pos bs.length, none)
    else if space = 3 then
      match hostFn s (coreTenant s c) with
      | some f => (emit s (.hostWrite (BitVec.ofNat 5 f) off bs), none)
      | none => (s, some (0, hostErr, a))
    else match physWrite s space off bs .engine with
      | (s, k, some e) => (s, some (k, e, a))
      | (s, _, none) => (noticeWrite s (memKey space off) bs.length, none)

/-- A request to host memory whose completion is awaited (R743). -/
def hostRequest (s : State) (f off n : Nat) (r : HostReq) : State :=
  emit (modHost s (fun h => { h with reads := tput h.reads h.nextReq r, nextReq := h.nextReq + 1 }))
    (.hostRead (BitVec.ofNat 5 f) off n s.host.nextReq)

/-- One chunk of a copy (R335): read here and written on, or asked of another package or of host memory. -/
def dmaCopyChunk (s : State) (c : Nat) (d : DmaCmd) (pos n : Nat) : State × Option (Nat × MemErr × Nat) :=
  match dmaPlace s c (d.srcAt pos) n rightRead with
  | (s, .error e) => (s, some (0, e, d.srcAt pos))
  | (s, .ok (pkg, space, off)) =>
    if pkg ≠ ownPkg s then
      if 3 ≤ space then (s, some (0, ⟨fAddress, space, 0⟩, d.srcAt pos))
      else (dmaPend (sendRequest s 2 pkg 0x20 (coreTenant s c) (pkg * 2 ^ 51 + memKey space off) (leBytes 4 n)
        (.core (BitVec.ofNat 10 c) (.dmaRead d.tag pos n (d.dstAt pos)))) c d.tag pos n, none)
    else if space = 3 then
      match hostFn s (coreTenant s c) with
      | some f => (dmaPend (hostRequest s f off n (.dma (BitVec.ofNat 10 c) d.tag pos n (d.dstAt pos))) c d.tag pos n, none)
      | none => (s, some (0, hostErr, d.srcAt pos))
    else match physRead s space off n .engine with
      | (s, l, none) => dmaPut s c d.tag pos (d.dstAt pos) l
      | (s, l, some e) =>
        match dmaPut s c d.tag pos (d.dstAt pos) l with
        | (s, some x) => (s, some x)
        | (s, none) => (s, some (l.length, e, d.srcAt pos))

/-! ### Stop and completion -/

/-- A DMA command that stops with a fault: its mark and status go to its slot and its descriptor (R337), it leaves the
queue, and the fault is raised. -/
def dmaFail (s : State) (c : Nat) (tag : Byte) (mark : Nat) (e : MemErr) (addr : Nat) : State :=
  match (coreOf s c).dmaQ.find? (fun d => d.tag == tag) with
  | none => s
  | some d =>
    let m := d.pend.foldl (fun m p => min m p.1) mark
    let s := dmaWriteMark s c d m e.code
    memFault (modCore s c (fun k => { k with dmaQ := k.dmaQ.filter (fun x => x.tag != tag) })) c .dma tag.toNat e addr

/-- The chunks of a command from a position on, at most f of them (R335), up to one that a stopped link reference holds (R71). -/
def dmaRun : Nat → State → Nat → DmaCmd → Nat → State
  | 0, s, _, _, _ => s
  | f + 1, s, c, d, pos =>
    let n := d.chunk pos
    if d.total ≤ pos ∨ dmaHeld s c d pos n = true then modDma s c d.tag (fun x => { x with next := pos })
    else
      let r := if d.fill then dmaPut s c d.tag pos (d.dstAt pos) (d.fillBytes pos n) else dmaCopyChunk s c d pos n
      match r with
      | (s, some (k, e, a)) => dmaFail s c d.tag (pos + k) e a
      | (s, none) => dmaRun f s c d (pos + n)

/-- Chunks that a command has at most: each row is cut at granules and packets. -/
def DmaCmd.chunks (d : DmaCmd) : Nat := d.rows * (d.rowLen / 1024 + 8) + 1

/-- The lowest DMA queue slot that no command holds. -/
def freeSlotOf (k : Core) : Nat :=
  ((List.range 8).find? (fun i => !k.dmaQ.any (fun d => d.slot == i))).getD 0

/-- DMA.GO: a full queue or a tag still outstanding makes it wait (R224, R225); the transfer runs as the command is queued
and the command completes by DMA_COMMAND_COMPLETE (log entry 25). -/
def dmaGo (c : Nat) (w : U32) (s : State) : State :=
  let k := coreOf s c
  let off := reg k (wD w)
  let tag := wTag w
  if 8 ≤ k.dmaQ.length ∨ k.dmaQ.any (fun d => d.tag.toNat == tag) then s
  else if scratchBytes < off + 64 then descFault s c .dma tag 0
  else match scratchRead s c off 64 with
    | (s, _, some e) => memFault s c .dma tag e off
    | (s, l, none) =>
      let d := dmaOf l tag off (freeSlotOf k)
      match dmaBad s l d with
      | some b => descFault s c .dma tag b
      | none => dmaRun d.chunks (modCore s c (fun k => pcNext { k with dmaQ := k.dmaQ ++ [d] })) c d d.start

/-- A DMA row: the descriptor at s[a] asks for the row's operation, or for a reserved one (log entry 1). -/
def dmaStep (mn : String) (op : Nat) (c : CoreId) (w : U32) (s : State) : Host.Outcome State Fault Refusal :=
  let o := (cellGet s.mem.cells (scratchKey c.toNat (reg (coreOf s c.toNat) (wD w)))).toNat
  if spell w = .dmaGo ∧ (o = 1 ∨ o = 2) ∧ o ≠ op then .refused (.illFormed mn)
  else coreStep mn (fun p => p == .dmaGo) (dmaGo c.toNat w) c w s

/-- The data of a chunk has come from another package or from host memory: it is written on (R336). While the core's domain is
not on (R66, R367), or its way is held (R71), it waits. -/
def dmaDeliver (s : State) (c : Nat) (tag : Byte) (pos dst : Nat) (bs : List Byte) : State :=
  if (coreOf s c).dmaQ.any (fun d => d.tag == tag && d.pend.any (fun p => p.1 == pos)) then
    if coreOn s c = false ∨ accessHeld 1 s c dst bs.length rightWrite = true then
      modDma s c tag (fun d => { d with came := d.came ++ [(pos, dst, bs)] })
    else match dmaPut (dmaPart s c tag pos) c tag pos dst bs with
    | (s, none) => s
    | (s, some (k, e, a)) => dmaFail s c tag (pos + k) e a
  else s

/-- The command with a tag. -/
def dmaCmd (s : State) (c : Nat) (tag : Byte) : Option DmaCmd := (coreOf s c).dmaQ.find? (fun d => d.tag == tag)

/-- A command that was held goes on: the data that waits is written, then its further chunks run (R66, R71). -/
def dmaGoOn (s : State) (c : Nat) (d : DmaCmd) : State :=
  let s := d.came.foldl (fun s x => dmaDeliver s c d.tag x.1 x.2.1 x.2.2) (modDma s c d.tag (fun d => { d with came := [] }))
  match dmaCmd s c d.tag with
  | some d => if d.next < d.total then dmaRun d.chunks s c d d.next else s
  | none => s

/-- A command all of whose writes have been performed leaves the queue; its status reads 0 (R336). -/
def dmaEnd (s : State) (c : Nat) (d : DmaCmd) : State :=
  let s := modCore s c (fun k => { k with dmaQ := k.dmaQ.filter (fun x => x.tag != d.tag) })
  match scratchWrite s c (d.off + 0x38) (leBytes 4 0) with
  | (s, some e) => memFault s c .dma d.tag.toNat e (d.off + 0x38)
  | (s, none) => s

/-- DMA_COMMAND_COMPLETE (R336), in a domain that is on (R66, R367). -/
def dmaComplete (s : State) (c : Nat) (tag : Byte) : State :=
  if coreOn s c = false then s
  else match dmaCmd s c tag with
  | none => s
  | some d =>
    let s := if d.came = [] ∧ d.total ≤ d.next then s else dmaGoOn s c d
    match dmaCmd s c tag with
    | some d => if d.pend = [] ∧ d.total ≤ d.next then dmaEnd s c d else s
    | none => s

/-- DMA.WAIT waits until the tagged command has completed (R224). -/
def dmaWait (c : Nat) (w : U32) (s : State) : State :=
  if (coreOf s c).dmaQ.any (fun d => d.tag.toNat == wTag w) then s else modCore s c pcNext

/-- DMA_COPY. -/
def execDmaCopy (c : CoreId) (w : U32) (s : State) : Host.Outcome State Fault Refusal := dmaStep "DMA_COPY" 1 c w s
/-- DMA_FILL. -/
def execDmaFill (c : CoreId) (w : U32) (s : State) : Host.Outcome State Fault Refusal := dmaStep "DMA_FILL" 2 c w s
/-- DMA_WAIT. -/
def execDmaWait (c : CoreId) (w : U32) (s : State) : Host.Outcome State Fault Refusal :=
  coreStep "DMA_WAIT" (fun p => p == .dmaWait) (dmaWait c.toNat w) c w s
/-- DMA_COMMAND_COMPLETE. -/
def execDmaCommandComplete (c : CoreId) (tag : Byte) (s : State) : Host.Outcome State Fault Refusal :=
  .next (dmaComplete s c.toNat tag)

end Sys2Proof.Machine
end

