-- ==== Sys2Proof/Machine/Domains.lean ====
section
/-!
DEFINITION. Compute domains (19_power_health.md R827 to R838, 07_memory_model.md R314): requests, drains, header staging,
forced retention, and the pre-emption that a domain going off requires (08_faults_preemption.md R341).
-/
namespace Sys2Proof.Machine

/-- The conditions of a pre-emption request (R341, R347). -/
def preemptAllowed (s : State) (g : Nat) : Bool :=
  (groupOf s g).state == .running &&
    (match saveSegment s (groupTenant s g) with
    | some e => decide ((members s g).length * 0x300000 ≤ e.len * 2 ^ 21)
    | none => false)

/-- An accepted pre-emption request stays pending (R342). -/
def preemptGroup (s : State) (g : Nat) : State :=
  modGroup s g (fun k => { k with request := 2, pending := !k.saving })

/-! ### States -/

/-- Code of a power state (0x2010+d.02). -/
def PState.code : PState → Nat
  | .on => 0
  | .retention => 1
  | .off => 2
  | .staging => 3

/-- The cores of domain d (R827). -/
def domainCores (d : Nat) : List Nat :=
  (List.range 16).flatMap (fun r => (List.range 4).map (fun c => 512 * (d / 8) + 32 * r + 4 * (d % 8) + c))

/-- A domain takes a state; event 0x1023 carries it. -/
def setDomState (s : State) (d : Nat) (st : PState) : State :=
  logEvent (modDom s d (fun k => { k with state := st })) 0x1023 (srcDomain d) st.code

/-- A comparator of the field die of domain d has tripped and not cleared (R836). -/
def dieTripped (s : State) (d : Nat) : Bool := if d / 8 = 0 then s.power.dieDroop.1 else s.power.dieDroop.2

/-- A forced-retention cause stands for domain d (R836). -/
def domCause (s : State) (d : Nat) : Bool :=
  let k := domOf s d
  k.hot || k.droop || (k.state == .off && dieTripped s d)

/-- Groups with a member in domain d whose state satisfies p. -/
def domGroups (s : State) (d : Nat) (p : Group → Bool) : List Nat :=
  (busyGroups s).filter (fun g => p (groupOf s g) && (members s g).any (fun c => domainOf c == d))

/-- Groups that hold domain d on: those that read 1, or that a resume is bringing back. -/
def holdingOn (s : State) (d : Nat) : List Nat := domGroups s d (fun x => x.state == .running || x.restoring)

/-- A domain goes off: what its cores hold is lost (R828, R830); a fence stays (R349). -/
def goOff (s : State) (d : Nat) : State :=
  let s := (domainCores d).foldl (fun s c =>
    modCore (emptyBoxes s c) c (fun k => { Core.reset with fenced := k.fenced, revoking := k.revoking })) s
  setDomState (modDom s d (fun k => { k with drain := none })) d .off

/-- Domains that stage (R829: at most two). -/
def stagingCount (s : State) : Nat := (s.power.domains.filter (fun e => e.2.state == .staging)).length

/-- A domain begins to stage, where fewer than two do. -/
def startStaging (s : State) (d : Nat) : State :=
  if 2 ≤ stagingCount s then s
  else setDomState (modDom s d (fun k => { k with fromOff := k.state == .off, stage := 0 })) d .staging

/-- The Gaffer's pre-emption requests for the running groups of a domain that is to go off (R341, R832). -/
def preemptDomain (s : State) (d : Nat) : State :=
  (holdingOn s d).foldl (fun s g =>
    let x := groupOf s g
    if x.pending || x.saving || !preemptAllowed s g then s else preemptGroup s g) s

/-- What domain d does next by the table Domain transitions, from its request, its causes and its groups. -/
def settleDomain (s : State) (d : Nat) : State :=
  let k := domOf s d
  let busy := holdingOn s d
  let free := busy == [] && domGroups s d (fun x => x.state == .fenced) == []
  match k.state with
  | .staging => s
  | .on =>
    if k.drain.isSome || k.request == 0 then s
    else if k.request = 1 then modDom s d (fun k => { k with drain := some .retention })
    else if free then modDom s d (fun k => { k with drain := some .off })
    else preemptDomain s d
  | .retention =>
    if k.request = 1 then s
    else if k.request = 0 then (if domCause s d then s else startStaging s d)
    else if free then goOff s d
    else if busy ≠ [] ∧ domCause s d = false then startStaging s d
    else s
  | .off => if k.request = 0 ∧ domCause s d = false then startStaging s d else s

/-- Every domain in turn, while VCORE_F is on. -/
def settleDomains (s : State) : State := if (regOf s 0).on then (List.range 16).foldl settleDomain s else s

/-- FORCED_RETENTION (R836, table Domain transitions): a domain that is on goes to retention, one that stages to the state
it stages from; the request stays. -/
def forceRetention (s : State) (d : Nat) : State :=
  let k := domOf s d
  match k.state with
  | .on => setDomState (modDom s d (fun k => { k with drain := none })) d .retention
  | .staging => setDomState s d (if k.fromOff then .off else .retention)
  | _ => s

/-! ### Requests (R831 to R833) -/

/-- Domains that are staging or requested on and not on, other than d. -/
def comingOn (s : State) (d : Nat) : Nat :=
  (s.power.domains.filter (fun e => e.1 != d && (e.2.state == .staging || (e.2.request == 0 && e.2.state != .on)))).length

/-- The pre-check of R831 with what the VCORE_F regulator answers; it counts 85 A for the domain itself. -/
def preCheckOk (s : State) (d : Nat) (p : PreCheck) : Bool :=
  p.faultBit == some false &&
    (match p.ioutMa with
    | some i => decide (i + 85000 * (comingOn s d + 1) ≤ 1350000)
    | none => false)

/-- The abort code of a power state request v for domain d; 0 accepts it. -/
def powerRequestCheck (s : State) (d v : Nat) (p : PreCheck) : Nat :=
  let k := domOf s d
  match v with
  | 0 =>
    if k.state = .off ∨ k.state = .retention then
      (if s.power.hold then 0x000C else if preCheckOk s d p then 0 else 0x0008)
    else 0
  | 1 => if k.state = .off then 0x0008 else 0
  | _ =>
    if domGroups s d (fun x => x.state == .fenced) ≠ [] ∨
        (domGroups s d (fun x => x.state == .running)).any (fun g => !preemptAllowed s g && !(groupOf s g).saving) = true then
      0x0005
    else 0

/-- An accepted power state request (R828, R833). -/
def powerRequest (s : State) (d v : Nat) : State := settleDomains (modDom s d (fun k => { k with request := v }))

/-! ### Commands -/

/-- DOMAIN_DRAIN_COMPLETE (R314): the domain switches to the state it drains toward, unless a group has begun to hold it. -/
def drainComplete (s : State) (d : Nat) : State :=
  match (domOf s d).drain with
  | none => s
  | some .off =>
    if holdingOn s d = [] ∧ domGroups s d (fun x => x.state == .fenced) = [] then settleDomains (goOff s d)
    else settleDomains (modDom s d (fun k => { k with drain := none }))
  | some _ => settleDomains (setDomState (modDom s d (fun k => { k with drain := none })) d .retention)

/-- HEADER_STAGE (R829). -/
def headerStage (s : State) (d : Nat) : State :=
  if (domOf s d).state = .staging ∧ (domOf s d).stage < 8 then modDom s d (fun k => { k with stage := k.stage + 1 }) else s

/-- DOMAIN_STAGING_COMPLETE (R828): after stage 8; from off the domain's scratchpads are wiped (R279). -/
def stagingComplete (s : State) (d : Nat) : State :=
  let k := domOf s d
  if k.state = .staging ∧ k.stage = 8 then
    let s := if k.fromOff then (domainCores d).foldl (fun s c => wipe s (scratchKey c 0) (2 ^ 21)) s else s
    settleDomains (setDomState (modDom s d (fun k => { k with stage := 0 })) d .on)
  else s

/-- The Gaffer's response to a comparator's trip (R66, R837). -/
def droopRespond (s : State) (site : DroopSite) (mv : Nat) : State :=
  match site with
  | .domain d =>
    let d := d.toNat
    let k := domOf s d
    if k.state = .on ∨ k.state = .staging then
      let second := s.log.ms.toNat / 1000
      let s := modPower s (fun p => { p with
        dieDroop := if d / 8 = 0 then (true, p.dieDroop.2) else (p.dieDroop.1, true) })
      let s := modDom s d (fun k => { k with droop := true })
      let s := if k.droopLogged = some second then s
        else logEvent (modDom s d (fun k => { k with droopLogged := some second })) 0x2012 (srcDomain d) 0
      let s := forceRetention s d
      let s := if mv < 600 then logEvent s 0x4001 srcGaffer mv else s
      settleDomains s
    else s
  | .spine die seg =>
    let s := modPower s (fun p => { p with
      dieDroop := if die = .d0 then (true, p.dieDroop.2) else (p.dieDroop.1, true)
      spineHeld := if p.spineHeld.contains (die, seg) then p.spineHeld else (die, seg) :: p.spineHeld })
    let s := logEvent s 0x2012 srcGaffer 0
    if mv < 600 then logEvent s 0x4001 srcGaffer mv else s

/-- A domain's comparator, or a spine segment's, trips (R66, R837). While the Gaffer restarts the handshakes are held, and it answers
once its firmware runs (R874). -/
def droopTrip (s : State) (site : DroopSite) (mv : Nat) : State :=
  if s.gaffer.warm = true ∧ s.gaffer.running = false then
    modPower s (fun p => { p with
      heldTrips := (site, mv) :: p.heldTrips
      spineHeld := match site with
        | .spine die seg => if p.spineHeld.contains (die, seg) then p.spineHeld else (die, seg) :: p.spineHeld
        | .domain _ => p.spineHeld })
  else droopRespond s site mv

/-- The restarted Gaffer answers the trips that came meanwhile, oldest first (R874). -/
def answerTrips (s : State) : State :=
  s.power.heldTrips.foldr (fun e s => droopRespond s e.1 e.2) (modPower s (fun p => { p with heldTrips := [] }))

/-- DROOP_CAUSE_CLEAR (R836): the droop causes of a field die clear, and its domains stage to their requested states. -/
def droopClear (s : State) (die : FieldDie) : State :=
  let hi := if die = .d0 then 0 else 1
  let s := modPower s (fun p => { p with
    dieDroop := if die = .d0 then (false, p.dieDroop.2) else (p.dieDroop.1, false)
    spineHeld := p.spineHeld.filter (fun x => x.1 != die)
    domains := p.domains.map (fun e => if e.1 / 8 = hi then (e.1, { e.2 with droop := false }) else e) })
  settleDomains s

/-- A domain's hottest sensor reads t tenths of °C: the temperature cause arises above 105 °C and clears at or below 100 °C
(R836, R838). -/
def domTemp (s : State) (d : Nat) (t : Int) : State :=
  let k := domOf s d
  let s := modDom s d (fun k => { k with tenths := t })
  if 1050 < t ∧ k.hot = false then
    forceRetention (logEvent (modDom s d (fun k => { k with hot := true })) 0x4002 (srcDomain d) t.toNat) d
  else if t ≤ 1000 ∧ k.hot then modDom s d (fun k => { k with hot := false })
  else s

/-- DOMAIN_DRAIN_COMPLETE. -/
def execDomainDrainComplete (d : DomainId) (s : State) : Host.Outcome State Fault Refusal := .next (drainComplete s d.toNat)
/-- HEADER_STAGE. -/
def execHeaderStage (d : DomainId) (s : State) : Host.Outcome State Fault Refusal := .next (headerStage s d.toNat)
/-- DOMAIN_STAGING_COMPLETE. -/
def execDomainStagingComplete (d : DomainId) (s : State) : Host.Outcome State Fault Refusal :=
  .next (stagingComplete s d.toNat)
/-- DROOP_TRIP. -/
def execDroopTrip (site : DroopSite) (senseMv : Nat) (s : State) : Host.Outcome State Fault Refusal :=
  .next (droopTrip s site senseMv)
/-- DROOP_CAUSE_CLEAR. -/
def execDroopCauseClear (die : FieldDie) (s : State) : Host.Outcome State Fault Refusal := .next (droopClear s die)

end Sys2Proof.Machine
end

