-- ==== Sys2Proof/Machine/Groups.lean ====
section
/-!
DEFINITION. Core groups (05_cores_arrays.md R214 to R220, 08_faults_preemption.md R333 to R356, 13_learning.md R540): start,
huddles, snapshots, pre-emption and resume, abort requests.
-/
namespace Sys2Proof.Machine

/-! ### Kernels -/

/-- Address of the shot list (0x4100+g.03). -/
def shotAddr (s : State) (g : Nat) : Nat := valNat s (0x4100 + g) 3 0 0

/-- n bytes of a group's plan, read as the group's tenant (R216); a plan in another package, or in host memory, is not
read. -/
def planRead (s : State) (g a n : Nat) : State × List Byte × Option MemErr :=
  if isLocal s a then readAs (granules n) s .engine (groupTenant s g) a n else (s, [], some ⟨fAddress, a / 2 ^ 47 % 16, 0⟩)

/-- A shot list header (table Shot list header). -/
def headerOf (l : List Byte) : ShotHeader :=
  { members := fieldAt l 6 2, kernels := fieldAt l 8 4, flags := BitVec.ofNat 32 (fieldAt l 0xC 4),
    codeBase := BitVec.ofNat 64 (fieldAt l 0x10 8), argBase := BitVec.ofNat 64 (fieldAt l 0x18 8) }

/-- Values of the kernel entry registers s1 to s6 (R217). -/
def entryRegs (rank arg count kernel core pkg : Nat) : Tbl U64 :=
  [(1, BitVec.ofNat 64 rank), (2, BitVec.ofNat 64 arg), (3, BitVec.ofNat 64 count), (4, BitVec.ofNat 64 kernel),
    (5, BitVec.ofNat 64 core), (6, BitVec.ofNat 64 pkg)]

/-- A member enters a kernel (R217). -/
def enterKernel (s : State) (g entry arg kernel count : Nat) (c : Nat) : State :=
  modCore s c (fun k => { k with
    pc := BitVec.ofNat 64 entry
    regs := entryRegs (rankOf s g c) arg count kernel c (ownPkg s)
    arrived := false
    waiting := [] })

/-- Every member enters kernel k with the values of its record (R217). A record that cannot be read is a fault of the member
of rank 0 (log entry 40). -/
def beginKernel (s : State) (g k : Nat) : State :=
  let a := (shotAddr s g + 64 + 32 * k) % 2 ^ 64
  let first := (members s g).headD 0
  match planRead s g a 32 with
  | (s, _, some e) => memFault s first .control 0 e a
  | (s, l, none) =>
    let s := modGroup s g (fun x => { x with kernel := k, kernelMode := fieldAt l 0xC 1, kernelFlags := fieldAt l 0xD 1 })
    let arg := ((groupOf s g).header.argBase.toNat + fieldAt l 4 4) % 2 ^ 64
    (members s g).foldl (fun s c => enterKernel s g (fieldAt l 0 4) arg k (members s g).length c) s

/-! ### Latching and the step block -/

/-- HUDDLE_LATCH (R87): the group takes the committed huddle-class values; a learner the lateness window (R542), a generator
the bounds and pool sizes (R413). -/
def huddleLatch (s : State) (g : Nat) : State :=
  let i := 0x4200 + g
  let s := modGroup s g (fun k => { k with
    latched :=
      { canonical := valNat s i 1 0 0 == 1, seed := BitVec.ofNat 64 (valNat s i 2 0 0), mode := valNat s i 3 0 0,
        stochastic := valNat s i 4 0 0 == 1,
        lateness := if groupRole s g = 2 then valNat s 0x7200 0 0 1 else k.latched.lateness }
    latchedCount := commitCount s i
    servingCount := if groupRole s g = 1 then (commitCount s 0x6010, commitCount s 0x6020) else k.servingCount })
  serveLatch s

/-- The 256 bytes of a step block (table Step block). -/
def stepBlock (k : Group) : List Byte :=
  leBytes 1 k.latched.lateness ++ leBytes 1 (b2n k.latched.canonical) ++ leBytes 1 (b2n k.latched.stochastic) ++
    leBytes 1 k.latched.mode ++ zeros 4 ++ leBytes 8 k.latched.seed.toNat ++ leBytes 8 k.huddles ++ leBytes 4 k.kernel ++
    zeros 228

/-- STEP_BLOCK_WRITE (R540): in each member of a group of role 2. -/
def writeStepBlocks (s : State) (g : Nat) : State :=
  if groupRole s g = 2 then
    (members s g).foldl (fun s c => ownWrite s (scratchKey c 0x1FFF00) (stepBlock (groupOf s g))) s
  else s

/-! ### Snapshots (R333, R334) -/

/-- Valid bit of a half in the mark header; huddle count and following kernel of a half (R332). -/
def halfValid (s : State) (c : Nat) (b : Bool) : Bool := (memNat s (contKey c 7) 1).testBit (b2n b)
def setHalfValid (s : State) (c : Nat) (b v : Bool) : State :=
  memPut s (contKey c 7) 1 (withBit (memNat s (contKey c 7) 1) (b2n b) v)
def halfCount (s : State) (c : Nat) (b : Bool) : Nat := memNat s (contKey c (8 + 8 * b2n b)) 8
def halfKernel (s : State) (c : Nat) (b : Bool) : Nat := memNat s (contKey c (0x18 + 4 * b2n b)) 4
/-- Key of a snapshot half of a core. -/
def halfKey (c : Nat) (b : Bool) : Nat := contKey c (if b then 0x16000 else 0x4000)

/-- The half of the newest valid snapshot. -/
def newestHalf (s : State) (c : Nat) : Option Bool :=
  match halfValid s c false, halfValid s c true with
  | false, false => none
  | true, false => some false
  | false, true => some true
  | true, true => some (decide (halfCount s c false < halfCount s c true))

/-- Bytes of the vector registers, and of an accumulator line. -/
def vregBytes (k : Core) : List Byte :=
  (List.range 32).flatMap (fun r => (vreg k r).flatMap (fun x => leBytes 4 x.toNat))
def lineBytes (k : Core) (n : Nat) : List Byte := (accLine k n).flatMap (fun x => leBytes 4 x.toNat)

/-- FP32 values of bytes. -/
def wordsOf (l : List Byte) (n : Nat) : List U32 := (List.range n).map (fun i => BitVec.ofNat 32 (fieldAt l (4 * i) 4))

/-- Lines written since a half was last written, replaced. -/
def Core.setDirty (k : Core) (b : Bool) (l : List Nat) : Core := if b then { k with dirtyB := l } else { k with dirtyA := l }
def Core.dirty (k : Core) (b : Bool) : List Nat := if b then k.dirtyB else k.dirtyA

/-- A member's copy starts into the half that does not hold the newest valid snapshot, with the lines written since that half was
last written; its valid bit clears (R333). It belongs to the closing kernel and its huddle count (R356). -/
def startCopy (s : State) (c : Nat) (closing : Nat × Nat) : State :=
  let b := match newestHalf s c with
    | some b => !b
    | none => false
  modCore (setHalfValid s c b false) c (fun k =>
    ({ k with snapB := some b, snapLines := k.dirty b, snapOf := closing }).setDirty b [])

/-- The copy is complete: vector registers, the lines that it takes, huddle count, kernel index and the valid bit (R333). -/
def completeCopy (s : State) (c : Nat) : State :=
  match (coreOf s c).snapB with
  | none => s
  | some b =>
    let k := coreOf s c
    let g := groupOf s (memNat s (contKey c 0x20) 1)
    let s1 := ownWrite s (halfKey c b) (vregBytes k)
    let s2 := k.snapLines.foldl (fun s n => ownWrite s (halfKey c b + 0x2000 + 64 * n) (lineBytes k n)) s1
    let s3 := memPut (memPut s2 (contKey c (8 + 8 * b2n b)) 8 g.huddles) (contKey c (0x18 + 4 * b2n b)) 4 g.kernel
    modCore (setHalfValid s3 c b true) c (fun k => { k with snapB := none, snapLines := [] })

/-- A copy ends without its half: what it was to take stays to be copied (R356). -/
def dropCopy (s : State) (c : Nat) : State :=
  modCore s c (fun k => match k.snapB with
    | some b => ({ k with snapB := none, snapLines := [] }).setDirty b (k.snapLines ++ (k.dirty b).filter (fun n => !k.snapLines.contains n))
    | none => k)

/-- A fault of the kernel that a copy closes, raised by the copy: its group stops, also where that kernel was the list's last
and the group has become idle (R356; log entry 113). -/
def closingFault (s : State) (c : Nat) (f : FaultInfo) : State :=
  let g := memNat s (contKey c 0x20) 1
  let of := (coreOf s c).snapOf
  let x := groupOf s g
  if isMember s g c ∧ x.saving = false ∧
      (x.state = .running ∨ (x.state = .idle ∧ runningGroup s c = none ∧ restoringGroup s c = none)) then
    faultGroupAt s c g f of.1 of.2
  else raiseFault s c f

/-- SNAPSHOT_COPY_COMPLETE (R333, R334, R356): array commands that waited for the copy go on; a fault during the copy leaves
the half invalid and is a fault of the closing kernel. -/
def snapshotDone (s : State) (c : Nat) (fault : Option SaveFault) : State :=
  if (coreOf s c).snapB = none then s
  else match fault with
    | none => startHead (completeCopy s c) c
    | some f =>
      closingFault (dropCopy s c) c
        { code := pathCode f.fault, engine := .savePath, tag := 0, detail := f.detail.toNat, addr := 0, phys := 0 }

/-! ### Start and continuation -/

/-- The instruction buffer is filled at a start or resume with what the code region reads as, up to 32 KiB (R230; log
entry 29). -/
def fillBuffer (s : State) (g c : Nat) : State :=
  let r := planRead s g (groupOf s g).header.codeBase.toNat 32768
  modCore r.1 c (fun k => { k with ibuf := r.2.1 })

/-- A member starts or resumes: empty translation cache, engines empty, a mark header (R331, R332). -/
def armMember (s : State) (g c slot : Nat) : State :=
  let s := fillBuffer s g c
  let s := modCore s c (fun k => { k with
    tcache := []
    arrQ := []
    dmaQ := []
    snapB := none
    snapLines := []
    closed := false
    arrived := false
    waiting := [] })
  writeMarkHeader s c g slot

/-- The group is at kernel k of its list, running, with a huddle count. -/
def atKernel (s : State) (g k huddles : Nat) : State :=
  modGroup s g (fun x => { x with
    state := .running
    kernel := k
    huddles := huddles
    pending := false
    saving := false
    restoring := false
    savedMail := [] })

/-- The group runs from kernel k, with its huddle count: huddle-class values latched, the step block written (R346, R540). -/
def runFrom (s : State) (g k huddles : Nat) : State :=
  beginKernel (writeStepBlocks (huddleLatch (atKernel s g k huddles) g) g) g k

/-- The group enters kernel k again with the values that its last huddle latched (R87, R351, R391, R563). -/
def reenterFrom (s : State) (g k huddles : Nat) : State :=
  beginKernel (writeStepBlocks (atKernel s g k huddles) g) g k

/-- A member of a group started from idle: the sequences of messages to it, and the beat count, begin again; messages that its
mailboxes hold stay (R208, R209, R224, R231). -/
def freshMember (s : State) (g c : Nat) : State :=
  modCore (armMember s g c 0) c (fun k => { k with seqBase := k.sendSeq, beatsMark := 0 })

/-- A core of another group that is not idle and holds its cores, or a fenced core, among the members (R214, R345; log
entry 41). -/
def membersTaken (s : State) (g : Nat) : Bool :=
  (members s g).any (fun c => (coreOf s c).fenced) ||
    (busyGroups s).any (fun h => h != g && holdsCores s h && (members s g).any (fun c => isMember s h c))

/-- Abort codes of the dictionary (R141). -/
def abNotAllowed : Nat := 0x0008
def abNotReady : Nat := 0x000E

/-- The conditions of a start (R153, R216, R316, R875), with the header read. -/
def startCheck (s : State) (g : Nat) : Nat ⊕ ShotHeader :=
  let a := shotAddr s g
  if (groupOf s g).state ≠ .idle then .inl abNotAllowed
  else if ready s 4 = false ∨ (a / 2 ^ 47 % 16 = 2 ∧ ready s 7 = false) then .inl abNotReady
  else if membersTaken s g then .inl abNotAllowed
  else match planRead s g a 64 with
    | (_, _, some _) => .inl abNotAllowed
    | (_, l, none) =>
      let h := headerOf l
      if slice l 0 4 ≠ [0x53, 0x48, 0x4F, 0x54] ∨ fieldAt l 4 2 ≠ 1 ∨ h.members ≠ (members s g).length ∨ h.members = 0 ∨
          h.kernels = 0 ∨ (h.flags.toNat.testBit 1 = true ∧ valNat s (0x4200 + g) 1 0 0 = 0) then .inl abNotAllowed
      else .inr h

/-- GROUP_START (R216, R217): kernel 0 of the shot list, huddle count 0. -/
def startGroup (s : State) (g : Nat) (h : ShotHeader) : State :=
  let s := modGroup s g (fun k => { k with header := h, request := 1 })
  runFrom ((members s g).foldl (fun s c => freshMember s g c) s) g 0 0

/-! ### Huddles (R218 to R220) -/

/-- Every command the core has issued has completed. -/
def quietCore (s : State) (c : Nat) : Bool :=
  (coreOf s c).arrQ == [] && (coreOf s c).dmaQ == [] && (coreOf s c).waiting == []

/-- HUD (R218): the member arrives once its commands have completed. -/
def hudOp (c : Nat) (s : State) : State :=
  if quietCore s c then modCore s c (fun k => { k with arrived := true }) else s

/-- HUD.LOCAL (R224). -/
def hudLocalOp (c : Nat) (s : State) : State := if quietCore s c then modCore s c pcNext else s

/-- PREEMPTION_TAKEN (R343): mailboxes close; reservations held by or against each member and its leases are revoked. -/
def takeMember (s : State) (c : Nat) : State :=
  let t := Tag.core (ownPkg s) c
  let s := sendNotices (revokeHomes s t) t (remoteHomes s (fun x => x == c)) (coreTenant s c)
  modCore (revokeAgainst (dropHeld s (fun x _ => x == c)) c) c (fun k => { k with closed := true })

/-- A pending pre-emption is taken when the tenant has its save segment (R342, R343); the group is to go on at kernel k, past its
list where the taking huddle ended that. -/
def takePreemption (s : State) (g k : Nat) : State :=
  match saveSegment s (groupTenant s g) with
  | none => modGroup s g (fun k => { k with pending := false })
  | some e =>
    let s := (members s g).foldl takeMember s
    modGroup s g (fun x => { x with
      pending := false
      saving := true
      savedMembers := (members s g).length
      savedKernel := k
      saveSpace := e.space
      saveBase := e.phys * 2 ^ 21 })

/-- The kernel after k: kernel 0 after the last (R219, R220). -/
def nextKernel (x : Group) : Nat × Bool :=
  let last := x.kernelFlags.testBit 0 || decide (x.header.kernels ≤ x.kernel + 1)
  (if last then 0 else x.kernel + 1, last)

/-- The list of a group has ended: the group becomes idle (R219). -/
def endList (s : State) (g : Nat) : State :=
  let s := (members s g).foldl (fun s c => modCore s c (fun k => { k with arrived := false })) s
  serveLatch (modGroup s g (fun k => { k with state := .idle, pending := false, restoring := false, savedMail := [] }))

/-- The release of a huddle (R219, R220, R333, R540). A pending pre-emption is taken at the first huddle that allows it, the
list's last among them (R342; log entry 113). -/
def releaseHuddle (s : State) (g : Nat) : State :=
  let x := groupOf s g
  let n := nextKernel x
  let ended := n.2 && !x.header.flags.toNat.testBit 0
  let s := (members s g).foldl completeCopy s
  let s := modGroup (huddleLatch s g) g (fun k => { k with huddles := (k.huddles + 1) % 2 ^ 64, kernel := n.1 })
  let s := modTq s (groupTenant s g) (fun q => { q with kernels := (q.kernels + 1) % 2 ^ 64 })
  let s := writeStepBlocks ((members s g).foldl (fun s c => startCopy s c (x.kernel, x.huddles)) s) g
  let s := if x.kernelFlags.testBit 1 && x.pending then takePreemption s g (if ended then x.header.kernels else n.1) else s
  if (groupOf s g).saving then s
  else if ended then endList s g
  else beginKernel s g n.1

/-- HUDDLE_RELEASE (R218, R228): every member of the running group has arrived, in domains that are on (R66, R367). -/
def huddleRelease (s : State) (g : Nat) : State :=
  let x := groupOf s g
  if x.state = .running ∧ x.saving = false ∧
      (members s g).all (fun c => (coreOf s c).arrived && !(coreOf s c).fenced && coreOn s c) = true then releaseHuddle s g
  else s

/-! ### Pre-emption (R341 to R345, R354) -/

/-- A run of writes to a slot; the first that fails ends it. -/
def writeParts (s : State) (space : Nat) : List (Nat × List Byte) → State × Option MemErr
  | [] => (s, none)
  | (off, bs) :: l =>
    match physWrite s space off bs .engine with
    | (s, _, some e) => (s, some e)
    | (s, _, none) => writeParts s space l

/-- One member's slot is written (table Save slot): control state and mailbox store in layouts that the manual does not give
(free bytes; log entry 24), registers and lines of the newest snapshot, the scratchpad. -/
def saveMember (s : State) (g c : Nat) : State × Option MemErr :=
  let x := groupOf s g
  let off := slotOffset x.saveBase (rankOf s g c)
  let k := coreOf s c
  let s := modGroup s g (fun x => { x with
    savedMail := x.savedMail ++ [{ boxes := k.boxes, sendSeq := k.sendSeq, recvSeq := k.recvSeq, seqBase := k.seqBase }] })
  match scratchRead s c 0 scratchBytes with
  | (s, _, some e) => (s, some e)
  | (s, pad, none) =>
    let lines := (List.range 1024).flatMap (lineBytes k)
    let parts := [(off, freeBytes s 4096), (off + 0x1000, vregBytes k), (off + 0x3000, lines),
      (off + 0x13000, (freeBytes (useFree s 4096) 524288)), (off + 0x93000, pad)]
    writeParts (useFree s 528384) x.saveSpace parts

/-- Every member's slot is written in turn; the underlying codes of those that failed, with their cores. -/
def saveAll (s : State) (g : Nat) : List Nat → State × List (Nat × Nat)
  | [] => (s, [])
  | c :: l =>
    match saveMember s g c with
    | (s, some e) => let r := saveAll s g l; (r.1, (c, e.code) :: r.2)
    | (s, none) => saveAll s g l

/-- A saved member is free of the group (R343, R345). -/
def releaseMember (s : State) (g c : Nat) : State :=
  let x := groupOf s g
  let slot := ownPkg s * 2 ^ 51 + memKey x.saveSpace (slotOffset x.saveBase (rankOf s g c))
  let s := ownWrite (setMarkState s c 3) (contKey c 0x28) (leBytes 8 slot)
  modCore s c (fun k => { k with boxes := [], sendSeq := [], recvSeq := [], seqBase := [], closed := false, arrived := false })

/-- PREEMPT_SAVE_COMPLETE (R343, R354): the group reads 2; after a fault it reads 4 and the saves are discarded. A member
whose domain is not on holds the save (R830). -/
def saveComplete (s : State) (g : Nat) (fault : Option SaveFault) : State :=
  let ms := members s g
  if (groupOf s g).saving = false ∨ ms.all (coreOn s) = false then s
  else
    let s := ms.foldl completeCopy s
    let f := match fault with
      | some f => if ms.contains f.core.toNat then [(f.core.toNat, pathCode f.fault)] else []
      | none => []
    let r := saveAll s g (ms.filter (fun c => !f.any (fun x => x.1 == c)))
    match f ++ r.2 with
    | [] => modGroup (ms.foldl (fun s c => releaseMember s g c) r.1) g (fun x => { x with state := .preempted, saving := false })
    | l => l.foldl (fun s x => memberLost s g x.1 fSaveFailed x.2) r.1

/-! ### Resume (R346, R351, R355) -/

/-- The mark header of a core names the group. -/
def markOf (s : State) (g c : Nat) : Bool := memNat s (contKey c 0x20) 1 == g

/-- Smallest newest-valid huddle count among the members; none when a member has no valid half (R351). -/
def resumeCount (s : State) (g : Nat) : Option Nat :=
  (members s g).foldl (fun a c =>
    match a, newestHalf s c with
    | some h, some b => if markOf s g c then some (min h (halfCount s c b)) else none
    | _, _ => none) (some (2 ^ 64))

/-- The half of a member that was written at huddle count h. -/
def halfAt (s : State) (c h : Nat) : Option Bool :=
  [false, true].find? (fun b => halfValid s c b && halfCount s c b == h)

/-- The conditions of a resume request (R346, R351); true in the second place where the group's context is lost. -/
def resumeCheck (s : State) (g : Nat) : Nat × Bool :=
  let x := groupOf s g
  let ms := members s g
  if x.restoring then (abNotAllowed, false)
  else match x.state with
    | .preempted => if ms.length ≠ x.savedMembers ∨ membersTaken s g then (abNotAllowed, false) else (0, false)
    | .fenced =>
      if ms.any (fun c => (coreOf s c).fenced) ∨ membersTaken s g then (abNotAllowed, false)
      else match resumeCount s g with
        | some h => if ms.all (fun c => (halfAt s c h).isSome) then (0, false) else (abNotAllowed, true)
        | none => (abNotAllowed, true)
    | _ => (abNotAllowed, false)

/-- A resume request is accepted: the restore runs (R346, R351). -/
def resumeGroup (s : State) (g : Nat) : State := modGroup s g (fun k => { k with request := 3, restoring := true })

/-- Vector registers and accumulator lines of a core from bytes. -/
def loadCore (s : State) (c : Nat) (v lines : List Byte) : State :=
  modCore s c (fun k => { k with
    vregs := (List.range 32).map (fun r => (r, wordsOf (slice v (256 * r) 256) 64))
    acc := (List.range 1024).map (fun n => (n, wordsOf (slice lines (64 * n) 64) 16))
    dirtyA := List.range 1024
    dirtyB := List.range 1024 })

/-- Slot r is written into the member of rank r (R346). -/
def restoreMember (s : State) (g c : Nat) : State × Option MemErr :=
  let x := groupOf s g
  let r := rankOf s g c
  let off := slotOffset x.saveBase r
  match physRead s x.saveSpace (off + 0x1000) 0x12000 .engine with
  | (s, _, some e) => (s, some e)
  | (s, l, none) =>
    match physRead s x.saveSpace (off + 0x93000) scratchBytes .engine with
    | (s, _, some e) => (s, some e)
    | (s, pad, none) =>
      match scratchWrite (loadCore s c (l.take 0x2000) (l.drop 0x2000)) c 0 pad with
      | (s, some e) => (s, some e)
      | (s, none) =>
        let m := x.savedMail.getD r { boxes := [], sendSeq := [], recvSeq := [], seqBase := [] }
        (modCore (armMember s g c 0) c (fun k => { k with
          boxes := m.boxes
          sendSeq := m.sendSeq
          recvSeq := m.recvSeq
          seqBase := m.seqBase }), none)

/-- The half written at huddle count h is restored; it stays valid and the other does not (R351; log entry 42). -/
def restoreHalf (s : State) (g c h : Nat) : State × Option MemErr :=
  match halfAt s c h with
  | none => (s, none)
  | some b =>
    match eccRead s (halfKey c b) 0x12000 with
    | (s, _, some w) => (s, some ⟨fUncorrectable, 1, globalOf s w⟩)
    | (s, l, none) =>
      let kernel := halfKernel s c b
      let s := armMember (loadCore s c (l.take 0x2000) (l.drop 0x2000)) g c 0
      let s := memPut (memPut s (contKey c (8 + 8 * b2n b)) 8 h) (contKey c (0x18 + 4 * b2n b)) 4 kernel
      (modCore (setHalfValid s c b true) c (fun k => k.setDirty b []), none)

/-- Members restored in turn; the underlying codes of those that failed, with their cores. -/
def restoreAll (f : State → Nat → State × Option MemErr) (s : State) : List Nat → State × List (Nat × Nat)
  | [] => (s, [])
  | c :: l =>
    match f s c with
    | (s, some e) => let r := restoreAll f s l; (r.1, (c, e.code) :: r.2)
    | (s, none) => restoreAll f s l

/-- RESUME_RESTORE_COMPLETE (R346, R351, R355): the group goes on; a fault fences the member on which it arose and the group
reads 4. -/
def restoreComplete (s : State) (g : Nat) (fault : Option SaveFault) : State :=
  let x := groupOf s g
  let ms := members s g
  if x.restoring = false ∨ ms.all (coreOn s) = false then s
  else
    let f := match fault with
      | some f => if ms.contains f.core.toNat then [(f.core.toNat, pathCode f.fault)] else []
      | none => []
    let h := (resumeCount s g).getD 0
    let k := match ms with
      | c :: _ => ((halfAt s c h).map (halfKernel s c)).getD 0
      | [] => 0
    let one (s : State) (c : Nat) : State × Option MemErr :=
      if x.state = .preempted then restoreMember s g c else restoreHalf s g c h
    let r := restoreAll one s (ms.filter (fun c => !f.any (fun y => y.1 == c)))
    match f ++ r.2 with
    | [] =>
      if x.state = .preempted then
        (if x.header.kernels ≤ x.savedKernel then endList (huddleLatch r.1 g) g else runFrom r.1 g x.savedKernel x.huddles)
      else reenterFrom r.1 g k h
    | l => l.foldl (fun s y => memberLost s g y.1 fRestoreFailed y.2) r.1

/-! ### Group control (0x4300+g) -/

/-- An abort request (R347, R353), once step 4 of the table Fault recovery has ended (R361). -/
def abortAllowed (s : State) (g : Nat) : Bool :=
  (groupOf s g).state != .idle && (members s g).all (fun c => (coreOf s c).revoking == [])

/-- A group control request's code in the dictionary, and the state after it (R153, R341, R346, R347, R353). A resume of a
group that holds no valid half at the huddle leaves it at 4 (R351). -/
def groupControl (s : State) (g v : Nat) : State × Nat :=
  match v with
  | 0 => (s, 0x0007)
  | 1 =>
    match startCheck s g with
    | .inl e => (s, e)
    | .inr h => (startGroup s g h, 0)
  | 2 => if preemptAllowed s g then (preemptGroup s g, 0) else (s, abNotAllowed)
  | 3 =>
    if (members s g).any (fun c => (coreOf s c).revoking != []) then (s, abNotAllowed)
    else match resumeCheck s g with
      | (0, _) => (resumeGroup s g, 0)
      | (e, lost) =>
        if lost then
          ((members s g).foldl (fun s c => setMarkState s c 4) (modGroup s g (fun k => { k with state := .lost })), e)
        else (s, e)
  | 4 =>
    if abortAllowed s g then (serveLatch (modGroup (abortGroup s g) g (fun k => { k with request := 4 })), 0)
    else (s, abNotAllowed)
  | _ => (s, abNotAllowed)

/-- A request at 0x4300+g, and what follows from it for domains that wait for the group (R832). -/
def groupRequest (s : State) (g v : Nat) : State × Nat :=
  let r := groupControl s g v
  (settleDomains r.1, r.2)

/-! ### Commands -/

/-- HUD. -/
def execHud (c : CoreId) (w : U32) (s : State) : Host.Outcome State Fault Refusal :=
  coreStep "HUD" (fun p => p == .hud) (hudOp c.toNat) c w s
/-- HUD_LOCAL. -/
def execHudLocal (c : CoreId) (w : U32) (s : State) : Host.Outcome State Fault Refusal :=
  coreStep "HUD_LOCAL" (fun p => p == .hudLocal) (hudLocalOp c.toNat) c w s
/-- HUDDLE_RELEASE. -/
def execHuddleRelease (g : GroupId) (s : State) : Host.Outcome State Fault Refusal := .next (settleDomains (huddleRelease s g.toNat))
/-- SNAPSHOT_COPY_COMPLETE. -/
def execSnapshotCopyComplete (c : CoreId) (fault : Option SaveFault) (s : State) : Host.Outcome State Fault Refusal :=
  .next (snapshotDone s c.toNat fault)
/-- PREEMPT_SAVE_COMPLETE. -/
def execPreemptSaveComplete (g : GroupId) (fault : Option SaveFault) (s : State) : Host.Outcome State Fault Refusal :=
  .next (settleDomains (saveComplete s g.toNat fault))
/-- RESUME_RESTORE_COMPLETE. -/
def execResumeRestoreComplete (g : GroupId) (fault : Option SaveFault) (s : State) : Host.Outcome State Fault Refusal :=
  .next (settleDomains (restoreComplete s g.toNat fault))

end Sys2Proof.Machine
end

