-- ==== Sys2Proof/Machine/Links.lean ====
section
/-!
DEFINITION. Pass links (15_pass_links.md): flits and their sequences, credits and arbitration, mode words and kickoff, pauses,
recovery, fouls, and the quads' synthesisers and rail targets.
-/
namespace Sys2Proof.Machine

/-! ### Flits (R624, R625) -/

/-- Flit types. -/
def ftPacket : Nat := 0
def ftNull : Nat := 1
def ftReplay : Nat := 2
def ftFoul : Nat := 3
def ftControl : Nat := 4

/-- The CRC of a flit's 256 bytes: over +0x00 to +0x0B and +0x10 to +0xFF (R624, R625). -/
def flitCrc (l : List Byte) : Nat := crc32c (slice l 0 12 ++ slice l 16 240)
/-- A received flit has its length and a valid CRC. -/
def flitOk (l : List Byte) : Bool := l.length == 256 && fieldAt l 12 4 == flitCrc l

/-- The fields of a flit (table Flit header). -/
def flitOf (l : List Byte) : Flit :=
  let ch := fieldAt l 0 1
  let ty := fieldAt l 1 1
  let cr := fieldAt l 0xA 2
  { vc := ch % 4, response := ch.testBit 2, first := ch.testBit 3, last := ch.testBit 4, ftype := ty % 16,
    ackValid := ty.testBit 4, hops := ty / 32, dst := fieldAt l 2 2 % 2 ^ 13, src := fieldAt l 4 2 % 2 ^ 13,
    seq := BitVec.ofNat 16 (fieldAt l 6 2), ack := BitVec.ofNat 16 (fieldAt l 8 2), crPool := cr % 8,
    crCount := cr / 16 % 256, payload := l.drop 16 }

/-- A flit with nothing to say. -/
def blankFlit : Flit :=
  { vc := 0, response := false, first := false, last := false, ftype := ftNull, ackValid := false, hops := 0, dst := 0, src := 0,
    seq := 0, ack := 0, crPool := 0, crCount := 0, payload := zeros 240 }

/-- Buffer of a pool in flits (table Virtual channels). -/
def poolSize (p : Nat) : Nat :=
  match p with
  | 0 => 16
  | 1 => 64
  | 2 => 32
  | 3 => 128
  | 4 => 64
  | _ => 64

/-- Pool of a flit. -/
def Flit.pool (f : Flit) : Nat := poolOf f.vc f.response

/-- The 16-byte packet header and the body (R632). -/
def packetBytes (p : Packet) : List Byte :=
  leBytes 1 p.op ++ leBytes 1 (b2n p.wantsAnswer) ++ leBytes 2 p.tenant ++ leBytes 2 p.body.length ++ leBytes 2 p.tag ++
    leBytes 8 p.arg ++ p.body

/-- The flits of a packet (R632, R633). -/
def packetFlits (p : Packet) : List Flit :=
  let bytes := if p.vc = 3 then p.body else packetBytes p
  let n := max 1 ((bytes.length + 239) / 240)
  (List.range n).map (fun i =>
    { blankFlit with
      vc := p.vc, response := p.response, first := i == 0, last := i + 1 == n, ftype := ftPacket, hops := p.hops, dst := p.dst,
      src := p.src, payload := fit 240 (slice bytes (240 * i) 240) })

/-- The packet that the flits of a pool spell, oldest first (R632, R633). -/
def packetOf (l : List Flit) : Packet :=
  let f := l.headD blankFlit
  let b := l.flatMap (fun x => x.payload)
  if f.vc = 3 then
    { vc := 3, response := false, dst := f.dst, src := f.src, hops := f.hops, op := 0, wantsAnswer := false, tenant := 0,
      tag := 0, arg := 0, body := b }
  else
    { vc := f.vc, response := f.response, dst := f.dst, src := f.src, hops := f.hops, op := fieldAt b 0 1,
      wantsAnswer := (fieldAt b 1 1).testBit 0, tenant := fieldAt b 2 2 % 4096, tag := fieldAt b 6 2, arg := fieldAt b 8 8,
      body := slice b 16 (fieldAt b 4 2) }

/-! ### Link states (R623) -/

/-- Code of a link state. -/
def LState.code : LState → Nat
  | .disabled => 0
  | .down => 1
  | .holding => 2
  | .offering => 3
  | .training => 4
  | .awaitingTune => 5
  | .up => 6
  | .paused => 7
  | .recovery => 8
  | .failedToTune => 9
  | .kickoffFailed => 10

/-- A link is usable in states up and paused (R670). -/
def usable (s : State) (n : Nat) : Bool := (linkOf s n).state == .up || (linkOf s n).state == .paused

/-- A link takes a state. -/
def setLState (s : State) (n : Nat) (st : LState) : State := modLink s n (fun l => { l with state := st })

/-- Links of a quad. -/
def quadLinks (q : Nat) : List Nat := (List.range 4).map (fun i => 4 * q + i)
/-- Quad of a link. -/
def quadOfLink (n : Nat) : Nat := n / 4

/-- Presence of the module of link n (R788). -/
def present (s : State) (n : Nat) : Bool := s.i2c.present.toNat.testBit n

/-! ### Sending (R626 to R630, R638, R639) -/

/-- The pool whose credits a flit returns, with how many, up to 255 (R624). -/
def takeOwed (l : Link) : Nat × Nat × Link :=
  match l.owed.find? (fun e => e.2 != 0) with
  | none => (0, 0, l)
  | some (p, k) =>
    let n := min k 255
    (p, n, { l with owed := tput l.owed p (k - n), taken := tput l.taken p (tget l.taken p 0 - n) })

/-- A flit leaves on link n with the ack and a credit return (R629, R638). -/
def emitFlit (s : State) (n : Nat) (f : Flit) : State :=
  let l := linkOf s n
  let c := takeOwed l
  emit (modLink s n (fun _ => c.2.2)) (.flit n { f with ackValid := l.rxAny, ack := l.rxSeq - 1, crPool := c.1, crCount := c.2.1 })

/-- Null flits carry what is owed (R626). -/
def sendNulls : Nat → State → Nat → State
  | 0, s, _ => s
  | f + 1, s, n => if (linkOf s n).owed.any (fun e => e.2 != 0) then sendNulls f (emitFlit s n blankFlit) n else s

/-- The first flit queued on a pool, where the pool holds a credit. -/
def queuedOn (l : Link) (p : Nat) : Option TxFlit :=
  if tget l.spent p 0 < poolSize p then l.txq.find? (fun t => t.flit.pool == p) else none

/-- The flit that the next slot sends, and what VC3 is then due (R498, R639). -/
def pickFlit (l : Link) (share : Nat) : Option (TxFlit × Nat) :=
  let pair (a b : Option TxFlit) : Option TxFlit := if l.vc1First then a <|> b else b <|> a
  match queuedOn l 0 with
  | some t => some (t, l.shareDue)
  | none =>
    match queuedOn l 5, pair (queuedOn l 2) (queuedOn l 4) <|> pair (queuedOn l 1) (queuedOn l 3) with
    | some a, some b => if 100 ≤ l.shareDue + share then some (a, l.shareDue + share - 100) else some (b, l.shareDue + share)
    | some a, none => some (a, l.shareDue)
    | none, some b => some (b, l.shareDue)
    | none, none => none

/-- A sequenced flit is sent for the first time (R627, R638). -/
def sendFlit (s : State) (n : Nat) (t : TxFlit) (due : Nat) : State :=
  let l := linkOf s n
  let f := { t.flit with seq := l.txSeq }
  let s := emitFlit s n f
  modLink s n (fun l => { l with
    txSeq := l.txSeq + 1
    unacked := l.unacked ++ [{ t with flit := f }]
    txq := l.txq.erase t
    spent := tmod l.spent f.pool 0 (fun v => v + 1)
    shareDue := due
    vc1First := if f.vc = 1 then false else if f.vc = 2 then true else l.vc1First
    flitsSent := (l.flitsSent + 1) % 2 ^ 64 })

/-- The slots of an up link send what the queue, the window of 512 and the credits allow (R627, R639, R640). -/
def pumpLoop : Nat → State → Nat → State
  | 0, s, _ => s
  | f + 1, s, n =>
    let l := linkOf s n
    if l.state ≠ .up ∨ 512 ≤ l.unacked.length then s
    else match pickFlit l s.reels.share with
      | some (t, due) => pumpLoop f (sendFlit s n t due) n
      | none => s

/-- The link sends what it can; the slot after is a null flit (R639). -/
def pump (s : State) (n : Nat) : State :=
  let s := pumpLoop ((linkOf s n).txq.length + 1) s n
  if (linkOf s n).state = .up then modLink (sendNulls 8 s n) n (fun l => { l with vc1First := true }) else s

/-- A packet's flits join the link's queue and go out as they can. -/
def queuePacket (s : State) (n : Nat) (p : Packet) : State :=
  pump (modLink s n (fun l => { l with
    txq := l.txq ++ (packetFlits p).map (fun f => { flit := f, packet := some p }) })) n

/-- Room for a packet in the link's queue of 512 flits (R640). -/
def hasQueue (s : State) (n : Nat) (p : Packet) : Bool :=
  decide ((linkOf s n).txq.length + (linkOf s n).unacked.length + (packetFlits p).length ≤ 512)

/-- Unacknowledged flits from the k-th on are resent in order; each counts (R630, R631). -/
def resend (s : State) (n k : Nat) : State :=
  ((linkOf s n).unacked.drop k).foldl (fun s t =>
    modLink (emitFlit s n t.flit) n (fun l => { l with replays := (l.replays + 1) % 2 ^ 64 })) s

/-! ### Quads (R641 to R646, R655 to R658) -/

/-- Board rail of a quad: VSERDES_A of E0 or of E1 (R800). -/
def quadRail (q : Nat) : Nat := 3 + q / 2
/-- The voltage that a quad stands at (R820): a rail that settled between its two values (R939) counts as the nearer. -/
def quadMv (s : State) (q : Nat) : Nat :=
  if 925 ≤ (regOf s (quadRail q)).stable ∧ (quadOf s q).regulate = false then 950 else 900

/-- A link counts for its quad at 224 Gb/s (R655). -/
def at224 (l : Link) : Bool :=
  (l.state == .training || l.state == .up || l.state == .paused || l.state == .recovery) &&
    (match l.mode with
    | some c => c.mode == 3
    | none => false)

/-- The target of a quad from its links (R655). -/
def targetOf (s : State) (q : Nat) : Nat := if (quadLinks q).any (fun n => at224 (linkOf s n)) then 950 else 900

/-- A step of a quad is permitted (R656). -/
def stepPermitted (s : State) (q : Nat) : Bool :=
  !s.power.hold && (quadLinks q).all (fun n => (linkOf s n).state != .recovery)

/-- The target of a quad is recomputed, and a step that it requires waits in its turn; not while a step of it runs, nor while
the tuning after the step does (R655, R657, R658, R813; log entry 46). -/
def retarget (s : State) (q : Nat) : State :=
  if (quadOf s q).stepping ∨ (quadOf s q).synth = .tuning then s
  else
    let t := targetOf s q
    let s := modQuad s q (fun k => { k with target := t })
    modPower s (fun p => { p with
      waiting :=
      if t = quadMv s q ∨ (regOf s (quadRail q)).on = false then p.waiting.filter (fun x => x.toNat != q)
      else if p.waiting.any (fun x => x.toNat == q) then p.waiting else p.waiting ++ [BitVec.ofNat 2 q] })

/-- Up links of a quad pause with a limit in µs, four control flits sent on each (R647). -/
def pauseQuad (s : State) (q : Nat) (cause : PauseCause) (limit : Nat) : State :=
  (quadLinks q).foldl (fun s n =>
    if (linkOf s n).state = .up then
      modLink (emit s (.control n 1 limit)) n (fun l => { l with state := .paused, pause := some cause })
    else if (linkOf s n).state = .paused ∧ (linkOf s n).pause ≠ some .partner then
      modLink s n (fun l => { l with pause := some cause })
    else s) s

/-- The synthesiser of a quad starts to tune: up links pause, training ones wait (R641, R642). -/
def startTune (s : State) (q : Nat) : State :=
  let s := pauseQuad (modQuad s q (fun k => { k with synth := .tuning })) q .tuning 5200
  (quadLinks q).foldl (fun s n => if (linkOf s n).state = .training then setLState s n .awaitingTune else s) s

/-- A paused link goes on (R648). -/
def resumeLink (s : State) (n : Nat) : State := pump (modLink s n (fun l => { l with state := .up, pause := none })) n

/-! ### Mode words (R617, R618) -/

/-- Lane modes, widths and FEC that link n offers (R618). -/
def offered (s : State) (n : Nat) : Nat × Nat × Nat :=
  let m := valNat s (0x5100 + n) 1 0 0x0F
  let q := quadOfLink n
  (if (quadOf s q).target = 900 ∧ stepPermitted s q = false then withBit m 3 false else m,
    valNat s (0x5100 + n) 2 0 0x0F, valNat s (0x5100 + n) 3 0 0x03)

/-- A mode word of this side (table Mode word), with its CRC-8. -/
def modeWord (s : State) (n kind : Nat) (c : Cand) (hint : Nat) : U64 :=
  let o := offered s n
  let v := kind + o.1 * 2 ^ 4 + o.2.1 * 2 ^ 8 + o.2.2 * 2 ^ 12 + idNumber s * 2 ^ 16 + n * 2 ^ 29 + c.mode * 2 ^ 33 +
    c.width * 2 ^ 35 + b2n c.deep * 2 ^ 37 + hint * 2 ^ 48
  BitVec.ofNat 64 (v + crc8 (leBytes 7 v) * 2 ^ 56)

/-- No candidate. -/
def noCand : Cand := { mode := 0, width := 0, deep := false }

/-- Offer words on lane 0 (kickoff step 1). -/
def sendOffers (s : State) (n : Nat) : State := emit s (.modeWord n (modeWord s n 1 noCand 0) false)
/-- Choice words naming the present candidate (kickoff step 2). -/
def sendChoice (s : State) (n : Nat) : State :=
  emit s (.modeWord n (modeWord s n 2 ((linkOf s n).cands.headD noCand) 0) false)

/-- Kickoff from step 1 (R620). -/
def startKickoff (s : State) (n : Nat) : State :=
  let s := modLink s n (fun l => { l with
    state := .offering, mode := none, cands := [], confirming := false, confirmSeen := false, hinted := false, pause := none })
  retarget (sendOffers s n) (quadOfLink n)

/-- The candidates of two offers in order: lane mode from the highest, width from the widest (R619). -/
def candidates (a b : Nat × Nat × Nat) : List Cand :=
  let m := a.1 &&& b.1
  let w := a.2.1 &&& b.2.1
  let f := a.2.2 &&& b.2.2
  if f = 0 then []
  else [3, 2, 1, 0].flatMap (fun i => if m.testBit i then
    [3, 2, 1, 0].flatMap (fun j => if w.testBit j then
      [{ mode := i, width := j, deep := if f.testBit 1 && i == 3 then true else !f.testBit 0 }] else []) else [])

/-! ### Fouls (R649 to R651) -/

/-- Milliseconds of the Gaffer's clock. -/
def nowMs (s : State) : Nat := s.log.ms.toNat

/-- At most 16 events of a kind per link per second: whether one more may be logged, and the count kept. -/
def eventBudget (s : State) (c : Nat × Nat) : Bool × (Nat × Nat) :=
  let sec := nowMs s / 1000
  if c.1 = sec then (decide (c.2 < 16), (sec, c.2 + 1)) else (true, (sec, 1))

/-- FOUL_SENT (R650): event 0x2031, and a foul flit on VC0 while the link stays up. -/
def foul (s : State) (n code seq detail : Nat) (copy : List Byte) : State :=
  let l := linkOf s n
  let b := eventBudget s l.sentLog
  let s := modLink s n (fun l => { l with sentLog := b.2 })
  let s := if b.1 then logEvent s 0x2031 (srcLink n) code else s
  if usable s n = false ∨ tfind l.foulMs code = some (nowMs s) then s
  else
    let pay := fit 240 (leBytes 2 code ++ leBytes 2 seq ++ leBytes 4 detail ++ zeros 8 ++ fit 16 copy)
    let f := { blankFlit with ftype := ftFoul, first := true, last := true, src := ownPkg s, payload := pay }
    pump (modLink s n (fun l => { l with
      foulMs := tput l.foulMs code (nowMs s)
      txq := l.txq ++ [{ flit := f, packet := none }] })) n

/-! ### Flits that a link gives back (R643, R654, R676) -/

/-- Packets whose first flit is among flits of one pool. -/
def firstsOf (l : List TxFlit) : List Packet := l.filterMap (fun t => if t.flit.first then t.packet else none)

/-- Packets of a pool that the link has begun to send, and those it has not. -/
def splitPool (l : Link) (p : Nat) : List Packet × List Packet :=
  let u := l.unacked.filter (fun t => t.flit.pool == p)
  let q := l.txq.filter (fun t => t.flit.pool == p)
  let lead := (u ++ q).takeWhile (fun t => !t.flit.first)
  ((lead.head?.bind (·.packet)).toList ++ firstsOf u, firstsOf q)

/-- The undeliverable answer to a packet (R675, table Packet operations): on VC1 for VC1, else on VC2; for a reel frame the
argument names the frame and its destination (log entry 45). One undeliverable packet is not answered with another. -/
def undeliverable (s : State) (p : Packet) (reason : Nat) : State :=
  if p.op = 0x2F then s
  else
    let arg := if p.vc = 3 then frameName p.body + p.dst * 2 ^ 39 else p.arg
    sendPacket s (mkPacket s (if p.vc = 1 then 1 else 2) true p.src 0x2F false p.tenant p.tag arg (leBytes 1 reason))

/-- Every flit of a link goes back: packets not begun to the crossbar, the others answered with the reason; credits, sequences
and partly received packets are gone, and packets that came by the link return no credit any more (R643, R654, R676). -/
def returnFlits (s : State) (n reason : Nat) : State :=
  let l := linkOf s n
  let parts := (List.range 6).map (splitPool l)
  let s := modLink s n (fun l => { l with
    unacked := [], txq := [], spent := [], owed := [], taken := [], part := [], skip := [], txSeq := 0, rxSeq := 0, rxAny := false,
    asked := false })
  let s := modNet s (fun k => { k with
    inbox := k.inbox.map (fun x => if x.1 = n then (16, x.2) else x)
    xbar := k.xbar.map (fun h => if h.fromLink = some n then { h with fromLink := none } else h) ++
      parts.flatMap (fun p => p.2.map (fun x =>
        { packet := { x with hops := x.hops - 1 }, fromLink := none, reason := reason })) })
  (parts.flatMap (fun p => p.1)).foldl (fun s p => undeliverable s p reason) s

/-- The link leaves up, paused or recovery for good: its flits go back and event 0x1031 tells why. -/
def linkDown (s : State) (n : Nat) (st : LState) (reason : Nat) : State :=
  let s := logEvent (returnFlits s n 2) 0x1031 (srcLink n) reason
  let s := modLink s n (fun l => { l with
    state := st, mode := none, pause := none, recovering := false, cands := [],
    confirming := false, confirmSeen := false })
  retarget s (quadOfLink n)

/-! ### Kickoff events (R620 to R622, R653, R659) -/

/-- Signal and presence stand on lane 0 of a link that is down: holding before bit [4] of 0x1021, offering after it. -/
def signalDetect (s : State) (n : Nat) : State :=
  if (linkOf s n).state = .down ∧ present s n then
    let s := modLink s n (fun l => { l with signal := true })
    if ready s 4 then startKickoff s n else setLState s n .holding
  else s

/-- An attempt failed: the next candidate, or kickoff failed (R621). -/
def attemptFailed (s : State) (n : Nat) : State :=
  let rest := (linkOf s n).cands.drop 1
  let s := modLink s n (fun l => { l with
    cands := rest, mode := none, confirming := false, confirmSeen := false,
    state := if rest = [] then .kickoffFailed else .offering })
  let s := retarget s (quadOfLink n)
  if rest = [] then s else sendChoice s n

/-- A link comes up (R620 step 5, R627, R638, R653): every credit pool full and sequences from 0, unless it resumes after a
recovery, when replay goes on. -/
def comeUp (s : State) (n : Nat) : State :=
  let l := linkOf s n
  let c := l.mode.getD noCand
  let s := if l.recovering then s
    else modLink s n (fun l => { l with
      txSeq := 0, rxSeq := 0, rxAny := false, spent := [], owed := [], taken := [], part := [], skip := [], shareDue := 0 })
  let s := modLink s n (fun l => { l with
    state := .up, recovering := false, confirming := false, confirmSeen := false, asked := false, pause := none })
  let s := logEvent s 0x1030 (srcLink n) (c.mode + 2 ^ c.width * 256 + b2n c.deep * 65536)
  pump (resend s n 0) n

/-- What a received mode word carries. -/
def mwKind (w : Nat) : Nat := w % 16
def mwOffer (w : Nat) : Nat × Nat × Nat := (w / 2 ^ 4 % 16, w / 2 ^ 8 % 16, w / 2 ^ 12 % 4)
def mwPartner (w : Nat) : Nat × Nat := (w / 2 ^ 16 % 2 ^ 13, w / 2 ^ 29 % 16)
def mwChoice (w : Nat) : Cand := { mode := w / 2 ^ 33 % 4, width := w / 2 ^ 35 % 4, deep := w.testBit 37 }
/-- A mode word's CRC-8 is valid (R617). -/
def mwOk (w : Nat) : Bool := crc8 (leBytes 7 w) == w / 2 ^ 56

/-- A received offer (R620, foul 0x0203): the partner is recorded and the first candidate chosen. A holding link answers with
hold words of hint 50 (R659). -/
def onOffer (s : State) (n w : Nat) : State :=
  let l := linkOf s n
  match l.state with
  | .holding => emit s (.modeWord n (modeWord s n 4 noCand 50) false)
  | .offering =>
    let s := if l.recovering ∧ l.partner ≠ mwPartner w then
        modLink (returnFlits (foul s n 0x0203 0 0 (leBytes 8 w)) n 2) n (fun l => { l with recovering := false })
      else s
    let cs := candidates (offered s n) (mwOffer w)
    let s := modLink s n (fun l => { l with partner := mwPartner w, cands := cs, hinted := false })
    if cs = [] then setLState s n .kickoffFailed else sendChoice s n
  | _ => s

/-- A received choice (R620 step 3, foul 0x0201): the lanes switch to the candidate and train, after the quad's step and its
tuning where they are needed. -/
def onChoice (s : State) (n w : Nat) : State :=
  let l := linkOf s n
  match l.state, l.cands with
  | .offering, c :: _ =>
    if mwChoice w = c then
      let s := modLink s n (fun l => { l with
        mode := some c, confirming := false, confirmSeen := false,
        state := if (quadOf s (quadOfLink n)).synth = .tuning then .awaitingTune
          else if (quadOf s (quadOfLink n)).synth = .failed then .failedToTune else .training })
      retarget s (quadOfLink n)
    else startKickoff (foul s n 0x0201 0 0 (leBytes 8 w)) n
  | _, _ => s

/-- A received confirm (R620 step 4). -/
def onConfirm (s : State) (n : Nat) : State :=
  let l := linkOf s n
  if l.state = .training then (if l.confirming then comeUp s n else modLink s n (fun l => { l with confirmSeen := true })) else s

/-- A received hold word delays the next offer (R659). -/
def onHold (s : State) (n : Nat) : State :=
  if (linkOf s n).state = .offering then modLink s n (fun l => { l with hinted := true, cands := [] }) else s

/-- A foul of the partner takes an up link to recovery, with kickoff from step 1 and the replay buffer kept (table Link
transitions, fouls 0x010A and 0x0202); no foul flit goes out (R650). -/
def foulRecovery (s : State) (n code seq detail : Nat) (copy : List Byte) : State :=
  let s := foul (setLState s n .recovery) n code seq detail copy
  if present s n then startKickoff (modLink s n (fun l => { l with recovering := true })) n else s

/-- A mode word on an up link is a foul, and the link goes to recovery (foul 0x0202). -/
def modeWordUp (s : State) (n w : Nat) : State := foulRecovery s n 0x0202 0 0 (leBytes 8 w)

/-- A received mode word of a row's kind: one with a bad CRC counts for nothing; one of a reserved kind is a foul and ignored
(R617, foul 0x0204). -/
def modeStep (mn : String) (kind : Nat) (f : State → State) (n : LinkId) (w : U64) (s : State) :
    Host.Outcome State Fault Refusal :=
  let v := w.toNat
  let k := mwKind v
  if mwOk v = false then .next s
  else if (linkOf s n.toNat).state = .up then .next (modeWordUp s n.toNat v)
  else if k = 0 ∨ 4 < k then .next (foul s n.toNat 0x0204 0 0 (leBytes 8 v))
  else if k = kind then .next (f s)
  else .refused (.illFormed mn)

/-- EQUALISATION_TRAINING_COMPLETE (R620 step 4): confirm words on every lane; a candidate at 224 Gb/s trains once its quad
stands at 950 mV. -/
def trainingDone (s : State) (n : Nat) : State :=
  let l := linkOf s n
  let c := l.mode.getD noCand
  if l.state = .training ∧ (quadOf s (quadOfLink n)).stepping = false ∧ (c.mode = 3 → quadMv s (quadOfLink n) = 950) then
    let s := modLink (emit s (.modeWord n (modeWord s n 3 c 0) true)) n (fun l => { l with confirming := true })
    if l.confirmSeen then comeUp s n else s
  else s

/-! ### Reception (R628, R629, R638) -/

/-- Sequence of the oldest unacknowledged flit; the next to send where none is. -/
def baseSeq (l : Link) : U16 := l.txSeq - BitVec.ofNat 16 l.unacked.length

/-- An ack frees every flit up to and including its sequence (R629); one outside the window is foul 0x0103. -/
def takeAck (s : State) (n : Nat) (f : Flit) (copy : List Byte) : State :=
  let l := linkOf s n
  let k := (f.ack - baseSeq l + 1).toNat
  if f.ackValid = false then s
  else if l.unacked.length < k then foul s n 0x0103 f.seq.toNat f.ack.toNat copy
  else modLink s n (fun l => { l with unacked := l.unacked.drop k })

/-- A credit return (R638); beyond what is spent, or on a reserved pool, it is foul 0x0105 and ignored. -/
def takeCredit (s : State) (n : Nat) (f : Flit) (copy : List Byte) : State :=
  if f.crCount = 0 then s
  else if 5 < f.crPool ∨ tget (linkOf s n).spent f.crPool 0 < f.crCount then foul s n 0x0105 f.seq.toNat f.crPool copy
  else modLink s n (fun l => { l with spent := tmod l.spent f.crPool 0 (fun v => v - f.crCount) })

/-- One replay request for the next expected sequence (R628); a paused link sends null flits only (R648). -/
def askReplay (s : State) (n : Nat) : State :=
  if (linkOf s n).asked ∨ (linkOf s n).state ≠ .up then s
  else emit (modLink s n (fun l => { l with asked := true })) (.askReplay n (linkOf s n).rxSeq)

/-- A flit on an up or paused link: an invalid CRC is counted and asks for a replay (R628, R631); a valid one ends a partner's
pause (R648) and brings its ack and credits; the ack of a replay request is none. -/
def receiveFlit (s : State) (n : Nat) (bytes : List Byte) : State × Option Flit :=
  if usable s n = false then (s, none)
  else if flitOk bytes = false then
    (askReplay (modLink s n (fun l => { l with crcErrors := (l.crcErrors + 1) % 2 ^ 64 })) n, none)
  else
    let f := flitOf bytes
    let s := if (linkOf s n).pause = some .partner ∧ f.ftype ≠ ftControl then resumeLink s n else s
    let s := if f.ftype = ftReplay then s else takeAck s n f (bytes.take 16)
    (pump (takeCredit s n f (bytes.take 16)) n, some f)

/-- A sequenced flit is accepted when its sequence is the next expected one; an earlier one is discarded, a later one asks for
a replay (R628). -/
def acceptFlit (s : State) (n : Nat) (f : Flit) : State × Bool :=
  let l := linkOf s n
  if f.seq = l.rxSeq then
    (modLink s n (fun l => { l with rxSeq := l.rxSeq + 1, rxAny := true, asked := false, flitsRecv := (l.flitsRecv + 1) % 2 ^ 64 }),
      true)
  else if (l.rxSeq - f.seq).toNat < 2 ^ 15 then (s, false)
  else (askReplay s n, false)

/-- A null flit answers with the ack at once. -/
def ackNow (s : State) (n : Nat) : State := if (linkOf s n).state = .up then emitFlit (pump s n) n blankFlit else s

/-! ### Packets from flits (R632 to R638) -/

/-- Whether a packet operation's body is well formed (table Packet operations, foul 0x0108). -/
def bodyOk (p : Packet) : Bool :=
  let n := p.body.length
  match p.op with
  | 0x10 => decide (16 ≤ n)
  | 0x12 => n == 8 && decide (fieldAt p.body 0 1 < 16)
  | 0x13 => n == 8 && decide (fieldAt p.body 0 1 < 16)
  | 0x18 => n == 1
  | 0x20 => n == 4 && decide (1 ≤ fieldAt p.body 0 4 ∧ fieldAt p.body 0 4 ≤ 4096)
  | 0x22 => n == 2 && decide (1 ≤ fieldAt p.body 0 2 ∧ fieldAt p.body 0 2 ≤ 64)
  | 0x23 => n == 8
  | 0x2A => n == 2
  | 0x2B => n == 1
  | 0x2F => n == 1
  | 0x11 => true
  | 0x21 => true
  | 0x28 => true
  | _ => n == 0

/-- The packet operations (table Packet operations). -/
def knownOps : List Nat :=
  [0x01, 0x02, 0x03, 0x04, 0x10, 0x11, 0x12, 0x13, 0x18, 0x20, 0x21, 0x22, 0x23, 0x24, 0x25, 0x28, 0x29, 0x2A, 0x2B, 0x2F]

/-- The foul of a whole packet, where it breaks a rule (table Foul codes). -/
def packetFoul (s : State) (p : Packet) (len : Nat) : Option Nat :=
  if p.vc = 3 then (if 1 ≤ fieldAt p.body 0 1 ∧ fieldAt p.body 0 1 ≤ 6 then none else some 0x010B)
  else if knownOps.contains p.op = false ∨ (opPools p.op).contains (poolOf p.vc p.response) = false then some 0x0107
  else if 4096 < len ∨ bodyOk p = false then some 0x0108
  else if p.dst ≠ ownPkg s ∧ 7 ≤ p.hops then some 0x0109
  else none

/-- A whole packet is kept for this package, or given to the crossbar; one of a tenant whose reset runs here is discarded
(R363), as one for another package is at a package that has no number (R691). -/
def packetIn (s : State) (n : Nat) (p : Packet) : State :=
  let pool := poolOf p.vc p.response
  let k := if p.vc = 3 then 1 else flitsOf p.body.length
  if (p.vc = 1 ∨ p.vc = 2) ∧ tenantResetting s p.tenant then freeBuffer s n pool k
  else if p.dst = ownPkg s then modNet s (fun x => { x with inbox := x.inbox ++ [(n, p)] })
  else if idNumber s = 0x1FFF ∧ p.vc ≠ 0 then freeBuffer s n pool k
  else modNet s (fun x => { x with xbar := x.xbar ++ [{ packet := p, fromLink := some n }] })

/-- Flits of a pool are discarded with a foul, and their buffers freed; where the packet's last flit is still to come, the rest
of the packet goes with them without another foul (log entry 119). -/
def dropFlits (s : State) (n pool k code detail : Nat) (f : Flit) (copy : List Byte) : State :=
  let s := modLink s n (fun l => { l with
    part := tput l.part pool []
    skip := if f.last then l.skip.filter (fun p => p != pool) else if l.skip.contains pool then l.skip else l.skip ++ [pool] })
  foul (freeBuffer s n pool k) n code f.seq.toNat detail copy

/-- The flits of one pool with a new one: framing, and the packet once its last flit is there (R632, R634, R635). -/
def joinPacket (s : State) (n : Nat) (f : Flit) (copy : List Byte) : State :=
  let pool := f.pool
  let part := tget (linkOf s n).part pool []
  let l := part ++ [f]
  let need := if f.vc = 3 then 1 else flitsOf (min 4096 (fieldAt ((l.headD f).payload) 4 2))
  let head := l.headD f
  if (f.first = true ↔ part ≠ []) ∨ head.dst ≠ f.dst ∨ head.src ≠ f.src ∨ (f.last = true ∧ l.length < need) ∨
      (f.last = false ∧ need ≤ l.length) then dropFlits s n pool l.length 0x0106 0 f copy
  else if f.last then
    let p := packetOf l
    let s := modLink s n (fun k => { k with part := tput k.part pool [] })
    let len := if f.vc = 3 then 0 else fieldAt head.payload 4 2
    match packetFoul s p len with
    | some c => dropFlits s n pool l.length c 0 f copy
    | none => packetIn s n p
  else modLink s n (fun k => { k with part := tput k.part pool l })

/-- The content of an accepted packet flit (table Foul codes). -/
def packetFlit (s : State) (n : Nat) (f : Flit) (copy : List Byte) : State :=
  let pool := f.pool
  if f.response ∧ (f.vc = 0 ∨ f.vc = 3) then foul s n 0x0102 f.seq.toNat 0 copy
  else if poolSize pool ≤ tget (linkOf s n).taken pool 0 then
    dropFlits s n pool (tget (linkOf s n).part pool []).length 0x0104 pool f copy
  else
    let s := modLink s n (fun l => { l with taken := tmod l.taken pool 0 (fun v => v + 1) })
    if (linkOf s n).skip.contains pool ∧ f.first = false then
      freeBuffer (if f.last then modLink s n (fun l => { l with skip := l.skip.filter (fun p => p != pool) }) else s) n pool 1
    else joinPacket (modLink s n (fun l => { l with skip := l.skip.filter (fun p => p != pool) })) n f copy

/-! ### Commands of flits -/

/-- A received flit under the row of its type; a flit of another row's type is ill-formed. -/
def flitStep (mn : String) (ty : Nat) (f : State → Flit → State) (n : LinkId) (bytes : List Byte) (s : State) :
    Host.Outcome State Fault Refusal :=
  let t := (flitOf bytes).ftype
  if flitOk bytes ∧ t ≠ ty ∧ (t < 5 ∨ ty ≠ ftPacket) then .refused (.illFormed mn)
  else match receiveFlit s n.toNat bytes with
    | (s, none) => .next s
    | (s, some x) =>
      if 5 ≤ t then .next (foul s n.toNat 0x0101 x.seq.toNat t (bytes.take 16)) else .next (f s x)

/-- A received foul flit (R651). -/
def foulReceived (s : State) (n : Nat) (f : Flit) : State :=
  let l := linkOf s n
  let b := eventBudget s l.recvLog
  let code := fieldAt f.payload 0 2
  let s := modLink s n (fun l => { l with
    fouls := (l.fouls + 1) % 2 ^ 32, lastFoul := BitVec.ofNat 16 code, recvLog := b.2,
    owed := tmod l.owed 0 0 (fun v => v + 1), taken := tmod l.taken 0 0 (fun v => v + 1) })
  if b.1 then logEvent s 0x2030 (srcLink n) code else s

/-- A replay request resends from the sequence it names; outside the window it is foul 0x010A and an up link goes to recovery
(R630). -/
def replayAsked (s : State) (n : Nat) (f : Flit) (copy : List Byte) : State :=
  let l := linkOf s n
  let k := (f.ack - baseSeq l).toNat
  if l.unacked.length < k then
    if l.state = .up then foulRecovery s n 0x010A f.seq.toNat f.ack.toNat copy else foul s n 0x010A f.seq.toNat f.ack.toNat copy
  else if l.state = .up then resend s n k
  else s

/-- A received link control flit (R647, R648): a pause, or the partner's down with reason 3. -/
def controlFlit (s : State) (n want : Nat) (f : Flit) : State :=
  let code := fieldAt f.payload 0 1
  if code ≠ want then s
  else if code = 1 then
    (if (linkOf s n).state = .up then modLink s n (fun l => { l with state := .paused, pause := some .partner }) else s)
  else linkDown s n .down 3

/-- A control row: the code of the other row is ill-formed; a reserved code does nothing. -/
def controlStep (mn : String) (want : Nat) (n : LinkId) (bytes : List Byte) (s : State) : Host.Outcome State Fault Refusal :=
  if flitOk bytes ∧ (flitOf bytes).ftype = ftControl ∧ fieldAt (bytes.drop 16) 0 1 = 3 - want then .refused (.illFormed mn)
  else flitStep mn ftControl (fun s f => controlFlit s n.toNat want f) n bytes s

/-! ### Losses and returns (R652 to R654, R661) -/

/-- An up or paused link loses its signal or its presence; loss of signal does not count during a pause (R652). -/
def linkLost (s : State) (n : Nat) (presence : Bool) : State :=
  let l := linkOf s n
  if l.state = .up ∨ (l.state = .paused ∧ presence) then
    logEvent (modLink s n (fun l => { l with state := .recovery, signal := false, pause := none })) 0x1031 (srcLink n) (b2n presence)
  else s

/-- Signal and presence return in recovery: kickoff from step 1 with the replay buffer kept (R653). -/
def signalReturn (s : State) (n : Nat) : State :=
  if (linkOf s n).state = .recovery ∧ present s n then
    startKickoff (modLink s n (fun l => { l with signal := true, recovering := true })) n
  else s

/-- RECOVERY_EXPIRY (R654). -/
def recoveryExpiry (s : State) (n : Nat) : State := if (linkOf s n).state = .recovery then linkDown s n .down 4 else s

/-- LINK_DISABLE (R623): a down control flit first where the link is up. -/
def disableLink (s : State) (n : Nat) : State :=
  let l := linkOf s n
  if l.state = .up ∨ l.state = .paused ∨ l.state = .recovery then
    linkDown (if l.state = .up then emit s (.control n 2 0) else s) n .disabled 2
  else
    retarget (modLink s n (fun l => { l with
      state := .disabled, mode := none, cands := [], recovering := false, confirming := false,
      confirmSeen := false })) (quadOfLink n)

/-- LINK_ENABLE (R623). -/
def enableLink (s : State) (n : Nat) : State := if (linkOf s n).state = .disabled then setLState s n .down else s

/-! ### Synthesisers (R642 to R646) -/

/-- SYNTHESISER_LOCKED: paused links go on, links awaiting it train, failed links offer. -/
def synthLocked (s : State) (q : Nat) : State :=
  if (quadOf s q).synth = .tuning then
    retarget ((quadLinks q).foldl (fun s n =>
      match (linkOf s n).state with
      | .awaitingTune => setLState s n .training
      | .failedToTune => startKickoff s n
      | .paused => if (linkOf s n).pause = some .partner then s else resumeLink s n
      | _ => s) (modQuad s q (fun k => { k with synth := .locked }))) q
  else s

/-- SYNTHESISER_TUNE_TIMEOUT (R643): every link that is not disabled fails to tune, with its event and its flits returned. -/
def tuneTimeout (s : State) (q : Nat) : State :=
  if (quadOf s q).synth = .tuning then
    let s := (quadLinks q).foldl (fun s n =>
      if (linkOf s n).state = .disabled then s
      else
        let s := logEvent (returnFlits s n 1) 0x3020 (srcLink n) 0
        modLink s n (fun l => { l with state := .failedToTune, mode := none, pause := none, recovering := false, cands := [] }))
      (modQuad s q (fun k => { k with synth := .failed }))
    retarget s q
  else s

/-- SYNTHESISER_RETRY (R645). -/
def tuneRetry (s : State) (q : Nat) : State :=
  if (quadOf s q).synth = .failed then modQuad s q (fun k => { k with synth := .tuning }) else s

/-- QUAD_RECALIBRATION (R646): more than 8 °C from the last calibration. -/
def recalibrate (s : State) (q : Nat) (t : Int) : State :=
  let k := quadOf s q
  if k.synth = .locked ∧ (t - k.calTenths).natAbs > 80 then
    modQuad s q (fun k => { k with synth := .recalibrating, calTenths := t })
  else s

/-- RECALIBRATION_DEADLINE (R646): a pause of at most 20 µs finishes it. -/
def recalDeadline (s : State) (q : Nat) : State :=
  if (quadOf s q).synth = .recalibrating then pauseQuad s q .recalibration 20 else s

/-- RECALIBRATION_COMPLETE (R646): event 0x1032 with the microseconds paused. -/
def recalDone (s : State) (q us : Nat) : State :=
  if (quadOf s q).synth = .recalibrating then
    let forced := (quadLinks q).any (fun n => (linkOf s n).pause == some .recalibration)
    let s := logEvent (modQuad s q (fun k => { k with synth := .locked, recals := (k.recals + 1) % 2 ^ 32 })) 0x1032 srcGaffer
      (if forced then us else 0)
    (quadLinks q).foldl (fun s n => if (linkOf s n).pause = some .recalibration then resumeLink s n else s) s
  else s

/-! ### Commands -/

/-- MODE_WORD_OFFER. -/
def execModeWordOffer (n : LinkId) (w : U64) (s : State) : Host.Outcome State Fault Refusal :=
  modeStep "MODE_WORD_OFFER" 1 (fun s => onOffer s n.toNat w.toNat) n w s
/-- MODE_WORD_CHOICE. -/
def execModeWordChoice (n : LinkId) (w : U64) (s : State) : Host.Outcome State Fault Refusal :=
  modeStep "MODE_WORD_CHOICE" 2 (fun s => onChoice s n.toNat w.toNat) n w s
/-- MODE_WORD_CONFIRM. -/
def execModeWordConfirm (n : LinkId) (w : U64) (s : State) : Host.Outcome State Fault Refusal :=
  modeStep "MODE_WORD_CONFIRM" 3 (fun s => onConfirm s n.toNat) n w s
/-- MODE_WORD_HOLD. -/
def execModeWordHold (n : LinkId) (w : U64) (s : State) : Host.Outcome State Fault Refusal :=
  modeStep "MODE_WORD_HOLD" 4 (fun s => onHold s n.toNat) n w s
/-- HOLD_HINT_EXPIRY. -/
def execHoldHintExpiry (n : LinkId) (s : State) : Host.Outcome State Fault Refusal :=
  .next (if (linkOf s n.toNat).state = .offering ∧ (linkOf s n.toNat).hinted then
    sendOffers (modLink s n.toNat (fun l => { l with hinted := false })) n.toNat else s)
/-- KICKOFF_CONFIRM_TIMEOUT. -/
def execKickoffConfirmTimeout (n : LinkId) (s : State) : Host.Outcome State Fault Refusal :=
  .next (if (linkOf s n.toNat).state = .training then attemptFailed s n.toNat else s)
/-- KICKOFF_RETRY. -/
def execKickoffRetry (n : LinkId) (s : State) : Host.Outcome State Fault Refusal :=
  .next (if (linkOf s n.toNat).state = .kickoffFailed then startKickoff s n.toNat else s)
/-- LINK_SIGNAL_DETECT. -/
def execLinkSignalDetect (n : LinkId) (s : State) : Host.Outcome State Fault Refusal := .next (signalDetect s n.toNat)
/-- EQUALISATION_TRAINING_COMPLETE. -/
def execEqualisationTrainingComplete (n : LinkId) (s : State) : Host.Outcome State Fault Refusal :=
  .next (trainingDone s n.toNat)
/-- PACKET_FLIT. -/
def execPacketFlit (n : LinkId) (flit : List Byte) (s : State) : Host.Outcome State Fault Refusal :=
  flitStep "PACKET_FLIT" ftPacket (fun s f =>
    match acceptFlit s n.toNat f with
    | (s, true) => ackNow (packetFlit s n.toNat f (flit.take 16)) n.toNat
    | (s, false) => s) n flit s
/-- NULL_FLIT. -/
def execNullFlit (n : LinkId) (flit : List Byte) (s : State) : Host.Outcome State Fault Refusal :=
  flitStep "NULL_FLIT" ftNull (fun s _ => s) n flit s
/-- REPLAY_REQUEST. -/
def execReplayRequest (n : LinkId) (flit : List Byte) (s : State) : Host.Outcome State Fault Refusal :=
  flitStep "REPLAY_REQUEST" ftReplay (fun s f => replayAsked s n.toNat f (flit.take 16)) n flit s
/-- REPLAY_TIMEOUT. -/
def execReplayTimeout (n : LinkId) (s : State) : Host.Outcome State Fault Refusal :=
  .next (if (linkOf s n.toNat).state = .up then resend s n.toNat 0 else s)
/-- FOUL_FLIT. -/
def execFoulFlit (n : LinkId) (flit : List Byte) (s : State) : Host.Outcome State Fault Refusal :=
  flitStep "FOUL_FLIT" ftFoul (fun s f =>
    match acceptFlit s n.toNat f with
    | (s, true) => ackNow (foulReceived s n.toNat f) n.toNat
    | (s, false) => s) n flit s
/-- LINK_CONTROL_PAUSE. -/
def execLinkControlPause (n : LinkId) (flit : List Byte) (s : State) : Host.Outcome State Fault Refusal :=
  controlStep "LINK_CONTROL_PAUSE" 1 n flit s
/-- LINK_CONTROL_DOWN. -/
def execLinkControlDown (n : LinkId) (flit : List Byte) (s : State) : Host.Outcome State Fault Refusal :=
  controlStep "LINK_CONTROL_DOWN" 2 n flit s
/-- PAUSE_END. -/
def execPauseEnd (n : LinkId) (s : State) : Host.Outcome State Fault Refusal :=
  .next (if (linkOf s n.toNat).pause = some .partner then resumeLink s n.toNat else s)
/-- LOSS_OF_SIGNAL. -/
def execLossOfSignal (n : LinkId) (presence : Bool) (s : State) : Host.Outcome State Fault Refusal :=
  .next (linkLost s n.toNat presence)
/-- SIGNAL_RETURN. -/
def execSignalReturn (n : LinkId) (s : State) : Host.Outcome State Fault Refusal := .next (signalReturn s n.toNat)
/-- RECOVERY_EXPIRY. -/
def execRecoveryExpiry (n : LinkId) (s : State) : Host.Outcome State Fault Refusal := .next (recoveryExpiry s n.toNat)
/-- SYNTHESISER_LOCKED. -/
def execSynthesiserLocked (q : QuadId) (s : State) : Host.Outcome State Fault Refusal := .next (synthLocked s q.toNat)
/-- SYNTHESISER_TUNE_TIMEOUT. -/
def execSynthesiserTuneTimeout (q : QuadId) (s : State) : Host.Outcome State Fault Refusal := .next (tuneTimeout s q.toNat)
/-- SYNTHESISER_RETRY. -/
def execSynthesiserRetry (q : QuadId) (s : State) : Host.Outcome State Fault Refusal := .next (tuneRetry s q.toNat)
/-- QUAD_RECALIBRATION. -/
def execQuadRecalibration (q : QuadId) (tenths : Int) (s : State) : Host.Outcome State Fault Refusal :=
  .next (recalibrate s q.toNat tenths)
/-- RECALIBRATION_DEADLINE. -/
def execRecalibrationDeadline (q : QuadId) (s : State) : Host.Outcome State Fault Refusal := .next (recalDeadline s q.toNat)
/-- RECALIBRATION_COMPLETE. -/
def execRecalibrationComplete (q : QuadId) (pausedUs : Nat) (s : State) : Host.Outcome State Fault Refusal :=
  .next (recalDone s q.toNat pausedUs)

end Sys2Proof.Machine
end

