-- ==== Sys2Proof/Machine/Power.lean ====
section
/-!
DEFINITION. Power (19_power_health.md R800 to R826, 18_field_ports.md R779 to R792): setpoint transitions and their chain, quad
rail steps, the governor, measurement windows, the PMBus and module bus with their recovery, and voltage hold.
-/
namespace Sys2Proof.Machine

/-! ### The PMBus and its transactions -/

/-- Rail number r of the table Rails. -/
def railOf : Nat → Rail
  | 0 => .vcoreF
  | 1 => .vvault
  | 2 => .vedge
  | 3 => .vserdesA0
  | 4 => .vserdesA1
  | 5 => .vserdesH
  | 6 => .vddqS
  | _ => .vio

/-- Number of a rail. -/
def railNum : Rail → Nat
  | .vcoreF => 0
  | .vvault => 1
  | .vedge => 2
  | .vserdesA0 => 3
  | .vserdesA1 => 4
  | .vserdesH => 5
  | .vddqS => 6
  | .vio => 7

/-- PMBus command codes (table PMBus commands). -/
def pmPage : Nat := 0x00
def pmOperation : Nat := 0x01
def pmClearFaults : Nat := 0x03
def pmVoutMode : Nat := 0x20
def pmVoutCommand : Nat := 0x21
def pmTransitionRate : Nat := 0x27
def pmStatusWord : Nat := 0x79
def pmStatusVout : Nat := 0x7A
def pmStatusIout : Nat := 0x7B
def pmStatusTemperature : Nat := 0x7D
def pmReadVout : Nat := 0x8B
def pmReadIout : Nat := 0x8C
def pmRevision : Nat := 0x98

/-- The holder tags that 0x9030.02 shows: kind 6 the Gaffer, kind 8 the board management controller (R784, R785). -/
def holderGaffer : U32 := 0x60000000
def holderBoard : U32 := 0x80000000

/-- The Gaffer owns the PMBus and nothing stands in the way of a command (R784, R785, R791). -/
def busReady (s : State) : Bool :=
  s.i2c.pm == .idle && !s.i2c.lent && !s.i2c.failed && !s.power.hold && s.i2c.holder == holderGaffer

/-- A transition whose VOUT_COMMAND is on the bus. -/
def transacting (s : State) : Bool :=
  match s.power.trans with
  | some t => t.command && !t.stopSeen && !t.lost
  | none => false

/-- Rail number of a transition. -/
def transRail : TransKind → Nat
  | .vcore _ => 0
  | .quad q => quadRail q.toNat

/-- The VOUT_COMMAND of a transition goes on the bus: forward, or returning. -/
def emitVout (s : State) (t : Transition) : State :=
  emit s (.pmbus (railOf (transRail t.kind)) pmVoutCommand (if t.returning then t.fromMv else t.toMv))

/-- A transition with its command starts (R812). -/
def startTrans (s : State) (t : Transition) : State :=
  let s := modPower s (fun p => { p with trans := some t })
  if t.command then emitVout s t else s

/-- The effective VCORE_F setpoint: the lower of the committed 0x2000 and the governor's cap. -/
def effective (s : State) : Nat := min (valNat s 0x2000 0 0 750) s.power.cap

/-- PMB_REQ_N is granted when the conditions of R784 allow. -/
def tryLend (s : State) : State :=
  if s.pins.pmbReq ∧ s.power.trans.isNone ∧ busReady s then
    emit (modI2c s (fun k => { k with lent := true, holder := holderBoard })) (.pmbGnt true)
  else s

/-- A waiting VSERDES_A step that is permitted (R656). -/
def stepReady (s : State) : Bool := s.power.waiting.any (fun q => stepPermitted s q.toNat)

/-- The chain takes its next transition of at most 50 mV, unless a transition runs or a VSERDES_A step waits (R811, R813). -/
def pumpPower (s : State) : State :=
  let st := (regOf s 0).stable
  let e := effective s
  let s :=
    if s.power.chain = true ∧ s.power.trans.isNone ∧ (regOf s 0).on = true then
      (if st = e then modPower s (fun p => { p with chain := false, committed := false, second := false })
      else if busReady s = true ∧ stepReady s = false then
        startTrans s
          { kind := .vcore s.power.committed, fromMv := st, toMv := if st < e then min e (st + 50) else max e (st - 50),
            command := true, stopSeen := false, returning := false, lost := false }
      else s)
    else s
  tryLend s

/-- The chain runs toward the effective setpoint again, for a commit of 0x2000 or for a change of the cap (R815, R816). -/
def runChain (s : State) (commit : Bool) : State :=
  let inTrans := match s.power.trans with
    | some t => transRail t.kind == 0
    | none => false
  pumpPower (modPower s (fun p => { p with
    chain := true, committed := commit, retry := false, second := false, again := inTrans }))

/-- VCORE_F_SETPOINT_COMMIT (R814 to R816). -/
def setpointCommitted (s : State) : State := runChain s true

/-! ### Ends of transitions (R812 to R818, R821, R939) -/

/-- Links of a quad that train for 224 Gb/s fail their attempt (R621). -/
def failFastAttempts (s : State) (q : Nat) : State :=
  (quadLinks q).foldl (fun s n =>
    let l := linkOf s n
    if (l.state = .training ∨ l.state = .awaitingTune) ∧ (l.mode.getD noCand).mode = 3 then attemptFailed s n else s) s

/-- A VCORE_F transition counts as reverted at mv: its event, and the chain stops, to run once more 100 ms later, unless a
commit or a cap change came meanwhile (R814 to R816). -/
def vcoreReverted (s : State) (commit : Bool) (mv : Nat) : State :=
  let s := modReg s 0 (fun r => { r with stable := mv })
  let s := modPower s (fun p => { p with trans := none })
  let s := if commit then logEvent s 0x2010 srcGaffer mv else s
  let s := modPower s (fun p => if p.again then { p with again := false }
    else { p with chain := false, retry := !p.second, second := false })
  pumpPower s

/-- The step of quad q ends, and its synthesiser tunes again (R641, R657). -/
def stepOver (s : State) (q : Nat) : State :=
  pumpPower (startTune (modQuad s q (fun k => { k with stepping := false })) q)

/-- The other quad of an edge die. -/
def otherQuad (q : Nat) : Nat := if q % 2 = 0 then q + 1 else q - 1

/-- A quad step reverts with its rail at mv (R814, R621): the quad stands where it stood. -/
def quadReverted (s : State) (q fromMv mv : Nat) : State :=
  let s := modReg s (quadRail q) (fun r => { r with stable := mv })
  let s := modPower s (fun p => { p with trans := none })
  let s := modQuad s q (fun k => { k with regulate := decide (fromMv < 925 ∧ 925 ≤ mv) })
  let s := modQuad s (otherQuad q) (fun k => { k with regulate := k.regulate && decide (925 ≤ mv) })
  stepOver (failFastAttempts (logEvent s 0x2010 srcGaffer mv) q) q

/-- A transition counts as reverted with its rail at mv. -/
def revertedAt (s : State) (t : Transition) (mv : Nat) : State :=
  match t.kind with
  | .vcore c => vcoreReverted s c mv
  | .quad q => quadReverted s q.toNat (if (quadOf s q.toNat).target = 950 then 900 else 950) mv

/-- TRANSITION_COMPLETE (R811, R812, R814, R821). -/
def transitionComplete (s : State) : State :=
  match s.power.trans with
  | none => s
  | some t =>
    if t.stopSeen = false ∨ t.returning ∨ t.lost then s
    else
      let s := modReg s (transRail t.kind) (fun r => { r with stable := t.toMv })
      let s := modPower s (fun p => { p with trans := none })
      match t.kind with
      | .vcore _ =>
        let s := modPower s (fun p => { p with again := false })
        let s := if s.power.committed ∧ t.toMv = effective s ∧ t.toMv = valNat s 0x2000 0 0 750 then
            logEvent (modPower s (fun p => { p with committed := false })) 0x1020 srcGaffer t.toMv
          else s
        pumpPower s
      | .quad q =>
        let q := q.toNat
        let k := quadOf s q
        let s := modQuad s q (fun x => { x with regulate := decide (k.target = 900 ∧ 925 ≤ t.toMv) })
        let s := if t.toMv < 925 then modQuad s (otherQuad q) (fun x => { x with regulate := false }) else s
        stepOver (logEvent s 0x1021 srcGaffer (q + k.target * 2 ^ 16)) q

/-- TRANSITION_DEADLINE (R812): the returning command goes out; a step without a command puts its series regulator back. -/
def transitionDeadline (s : State) : State :=
  match s.power.trans with
  | none => s
  | some t =>
    if t.stopSeen = false ∨ t.returning ∨ t.lost then s
    else
      let t' := { t with returning := true, stopSeen := !t.command }
      let s := modPower s (fun p => { p with trans := some t' })
      if t.command then emitVout s t' else s

/-- TRANSITION_REVERTED (R812, R814). -/
def transitionReverted (s : State) : State :=
  match s.power.trans with
  | none => s
  | some t => if t.returning ∧ t.stopSeen ∧ t.lost = false then revertedAt s t t.fromMv else s

/-- The rail is taken as stable where it settled: a failed returning command counts as a reversion (R939); on a stuck bus the
rail has that value and no more (R818). -/
def settled (s : State) (mv : Nat) : State :=
  match s.power.trans with
  | none => s
  | some t =>
    if t.lost = false then s
    else if s.i2c.pm = .stuck then
      let s := modReg s (transRail t.kind) (fun r => { r with stable := mv })
      let s := modPower s (fun p => { p with trans := none, again := false })
      match t.kind with
      | .vcore _ => s
      | .quad q =>
        let q := q.toNat
        let s := modQuad s q (fun k => { k with regulate := decide (k.target = 900 ∧ 925 ≤ mv) })
        stepOver s q
    else revertedAt s t mv

/-- CHAIN_RETRY (R815). -/
def chainRetry (s : State) : State :=
  if s.power.retry then pumpPower (modPower s (fun p => { p with retry := false, second := true, chain := true })) else s

/-- QUAD_RAIL_STEP (R813, R821, R657): the first waiting step of a quad starts. -/
def quadStep (s : State) (q : Nat) : State :=
  let k := quadOf s q
  let first := (s.power.waiting.find? (fun x => stepPermitted s x.toNat)).map (fun x => x.toNat)
  let up := decide (k.target = 950)
  let rail := quadRail q
  let high := decide (925 ≤ (regOf s rail).stable)
  let o := otherQuad q
  if first = some q ∧ s.power.trans.isNone ∧ busReady s = true ∧ k.synth ≠ .tuning then
    let s := pauseQuad (modQuad s q (fun k => { k with stepping := true })) q .step 5200
    let s := modPower s (fun p => { p with waiting := p.waiting.filter (fun x => x.toNat != q) })
    let t : Transition :=
      { kind := .quad (BitVec.ofNat 2 q), fromMv := (regOf s rail).stable, toMv := 950, command := true, stopSeen := false,
        returning := false, lost := false }
    if up then
      let s := if (quadOf s o).target = 900 then modQuad s o (fun k => { k with regulate := true }) else s
      startTrans s (if high then { t with command := false, stopSeen := true, toMv := (regOf s rail).stable } else t)
    else if quadMv s o = 950 then
      startTrans (modQuad s q (fun k => { k with regulate := true }))
        { t with command := false, stopSeen := true, toMv := (regOf s rail).stable }
    else startTrans s { t with toMv := 900 }
  else s

/-! ### Stuck-bus recovery and voltage hold (R789 to R792) -/

/-- PAGE 0 and a read of VOUT_MODE for each regulator after a recovery (table PMBus commands, R792). -/
def afterRecovery (s : State) : State :=
  (List.range 8).foldl (fun s r => emit (emit s (.pmbus (railOf r) pmPage 0)) (.pmbus (railOf r) pmVoutMode 0)) s

/-- The PMBus port sends a failed transaction's command again (R783). -/
def resendVout (s : State) : State :=
  match s.power.trans with
  | some t => if transacting s then emitVout s t else s
  | none => s

/-- A recovery of the PMBus starts. -/
def startRecovery (s : State) (c : RecoveryCause) : State :=
  modI2c s (fun k => { k with pm := .recovering, pmRounds := 0, pmPulses := 0, pmCause := c })

/-- What the restarted Gaffer commands first (R851): each VSERDES_A rail to the value its quads require, and VCORE_F along its
chain from the value read back; a quad whose step the reset cut short tunes again. -/
def restoreRails (s : State) : State :=
  let s := [0, 1].foldl (fun s e =>
    if (regOf s (3 + e)).on then
      let mv := if (quadOf s (2 * e)).target = 950 ∨ (quadOf s (2 * e + 1)).target = 950 then 950 else 900
      emit (modReg s (3 + e) (fun r => { r with stable := mv })) (.pmbus (railOf (3 + e)) pmVoutCommand mv)
    else s) s
  let s := (List.range 4).foldl (fun s q =>
    let s := modQuad s q (fun k => { k with regulate := decide (k.target = 900 ∧ 925 ≤ (regOf s (quadRail q)).stable) })
    if (quadOf s q).stepping then startTune (modQuad s q (fun k => { k with stepping := false })) q else s) s
  modPower s (fun p => { p with chain := true })

/-- The PMBus is recovered: ownership, the end of voltage hold where R792 allows it, and what waited. -/
def pmRecovered (s : State) : State :=
  let k := s.i2c
  let ends := s.power.hold && (k.pmCause == .request || k.pmCause == .gafferReset)
  let s := modI2c s (fun k => { k with pm := .idle, pmRounds := 0, pmPulses := 0 })
  let s := if s.power.hold = true ∧ ends = false then s else modI2c s (fun k => { k with holder := holderGaffer })
  let s := if k.pmCause = .request then clearVal s 0x2051 0 0 else s
  let s := afterRecovery s
  let s := if ends then logEvent (modPower s (fun p => { p with hold := false })) 0x1071 (srcField 2) 0 else s
  let s := if k.pmCause = .gafferReset then restoreRails s else s
  let s := if k.failed then
      resendVout (modI2c s (fun k => { k with failed := false, retries := k.retries + 1 }))
    else s
  pumpPower s

/-- The PMBus is stuck (R789, R790): ownership is revoked and voltage hold begins. A command before its STOP leaves its
regulator at the last stable value (R817); after one, the regulator completes its ramp alone (R818). -/
def pmStuck (s : State) : State :=
  let wasOut := transacting s
  let cause := s.i2c.pmCause
  let s := modI2c s (fun k => { k with
    pm := .stuck, holder := 0, failed := false, retries := 0, pmRounds := 0, pmPulses := 0 })
  let s := if cause = .request then clearVal s 0x2051 0 0 else s
  let s := modPower s (fun p => { p with hold := true })
  let s := logEvent s 0x4010 (srcField 2) 3
  match s.power.trans with
  | none => s
  | some t =>
    if t.lost ∨ t.command = false then s
    else if wasOut ∧ t.returning = false then revertedAt s t t.fromMv
    else modPower s (fun p => { p with trans := some { t with lost := true } })

/-- One round of the table I2C recovery: pulses so far, whether the bus is free at once, after this round, or not. -/
def roundPulses (r : I2cRound) : Nat := min 9 r.pulses.toNat

/-- A round of the PMBus recovery. -/
def pmRound (s : State) (r : I2cRound) : State :=
  if r.sdaHighAtStart ∧ s.i2c.pmRounds = 0 then pmRecovered s
  else
    let total := s.i2c.pmPulses + roundPulses r
    if r.sdaHighAfter then pmRecovered (logEvent s 0x1070 (srcField 2) total)
    else if 3 ≤ s.i2c.pmRounds + 1 then pmStuck s
    else modI2c s (fun k => { k with pmRounds := k.pmRounds + 1, pmPulses := total })

/-- A round of the module bus's recovery. -/
def modRound (s : State) (r : I2cRound) : State :=
  if r.sdaHighAtStart ∧ s.i2c.modRounds = 0 then modI2c s (fun k => { k with mod := .idle })
  else
    let total := s.i2c.modPulses + roundPulses r
    if r.sdaHighAfter then
      modI2c (logEvent s 0x1070 (srcField 3) total) (fun k => { k with mod := .idle, modRounds := 0, modPulses := 0 })
    else if 3 ≤ s.i2c.modRounds + 1 then
      modI2c (logEvent s 0x3031 (srcField 3) 3) (fun k => { k with mod := .stuck, modRounds := 0, modPulses := 0 })
    else modI2c s (fun k => { k with modRounds := k.modRounds + 1, modPulses := total })

/-- I2C_RECOVERY (R789): the first round; an idle controller that finds SDA low before a transaction begins a recovery. -/
def i2cFirst (s : State) (bus : I2cBus) (r : I2cRound) : State :=
  match bus with
  | .pmbus =>
    match s.i2c.pm with
    | .stuck => s
    | .idle => if s.i2c.lent then s else pmRound (startRecovery s .beforeTransaction) r
    | .recovering => if s.i2c.pmRounds = 0 then pmRound s r else s
  | .module =>
    match s.i2c.mod with
    | .stuck => s
    | .idle => modRound (modI2c s (fun k => { k with mod := .recovering, modRounds := 0, modPulses := 0 })) r
    | .recovering => if s.i2c.modRounds = 0 then modRound s r else s

/-- I2C_RECOVERY_ROUND_WAIT (R789): the next round, 1 ms after one that failed. -/
def i2cNext (s : State) (bus : I2cBus) (r : I2cRound) : State :=
  match bus with
  | .pmbus => if s.i2c.pm = .recovering ∧ s.i2c.pmRounds ≠ 0 then pmRound s r else s
  | .module => if s.i2c.mod = .recovering ∧ s.i2c.modRounds ≠ 0 then modRound s r else s

/-- MODULE_BUS_RETRY (R790). -/
def moduleRetry (s : State) (r : I2cRound) : State :=
  if s.i2c.mod = .stuck then
    modRound (modI2c s (fun k => { k with mod := .recovering, modRounds := 0, modPulses := 0 })) r
  else s

/-- 0x2051 is written true: one new PMBus recovery (R789, R792). While the bus is lent it waits until the bus is taken back. -/
def holdRecovery (s : State) : State :=
  if s.i2c.lent then s
  else if s.i2c.pm = .recovering then modI2c s (fun k => { k with pmCause := if k.pmCause = .gafferReset then .gafferReset else .request })
  else startRecovery s .request

/-- PMBUS_TRANSACTION_END (R783, R812, R817, R939). -/
def transactionEnd (s : State) (o : BusOutcome) : State :=
  match s.power.trans with
  | none => s
  | some t =>
    if transacting s = false ∨ s.i2c.failed = true ∨ s.i2c.pm ≠ .idle then s
    else if o = .stop then
      modI2c (modPower s (fun p => { p with trans := some { t with stopSeen := true } })) (fun k => { k with retries := 0 })
    else if s.i2c.retries < 3 then modI2c s (fun k => { k with failed := true })
    else
      let s := modI2c s (fun k => { k with retries := 0 })
      if t.returning then modPower s (fun p => { p with trans := some { t with lost := true } }) else revertedAt s t t.fromMv

/-- PMBUS_RETRY (R783): SDA low before the retry starts the recovery first. -/
def pmbusRetry (s : State) (sdaHigh : Bool) : State :=
  if s.i2c.failed = true ∧ s.i2c.pm = .idle then
    (if sdaHigh then resendVout (modI2c s (fun k => { k with failed := false, retries := k.retries + 1 }))
    else startRecovery s .retry)
  else s

/-- BUS_LEND (R784, R798): PMB_REQ_N is asserted; it is granted now or once the conditions allow. -/
def busLend (s : State) : State := tryLend (modPins s (fun p => { p with pmbReq := true }))

/-- BUS_TAKE_BACK (R785). -/
def busTakeBack (s : State) (sdaHigh : Bool) : State :=
  let s := modPins s (fun p => { p with pmbReq := false })
  if s.i2c.lent then
    let s := emit (modI2c s (fun k => { k with lent := false, holder := if sdaHigh then holderGaffer else k.holder })) (.pmbGnt false)
    if valNat s 0x2051 0 0 0 = 1 then startRecovery s .request
    else if sdaHigh then pumpPower s
    else startRecovery s .beforeTransaction
  else s

/-- Outputs driven one after the other. -/
def emitAll (s : State) (l : List Output) : State := l.foldl emit s

/-- What a read of STATUS_WORD leads to on the bus (table PMBus commands): the status reads that its bits call for (bits [15], [14] and
[2], PRESUMED of the PMBus family, log entry 58), then CLEAR_FAULTS. -/
def statusReads (r : Rail) (status : U16) : List Output :=
  .pmbus r pmStatusWord 0 ::
    ([(15, pmStatusVout), (14, pmStatusIout), (2, pmStatusTemperature)].filter (fun e => status.toNat.testBit e.1)).map
      (fun e => .pmbus r e.2 0) ++ [.pmbus r pmClearFaults 0]

/-- PMBUS_POLL (R782): the regulators' telemetry, unless a command goes first. -/
def pmbusPoll (s : State) (l : List RegulatorReading) : State :=
  if busReady s = true ∧ transacting s = false then
    (List.range 8).foldl (fun s r =>
      match l[r]? with
      | some x =>
        emitAll (modReg s r (fun k => { k with vout := x.voutMv, iout := x.ioutMa, status := x.status }))
          (.pmbus (railOf r) pmReadVout 0 :: .pmbus (railOf r) pmReadIout 0 :: statusReads (railOf r) x.status)
      | none => s) s
  else s

/-- PMBUS_ALERT (R782): the Alert Response Address is read, then the responder's status. -/
def pmbusAlert (s : State) (r : Rail) (status : U16) : State :=
  if busReady s then
    emitAll (modReg s (railNum r) (fun k => { k with status := status })) (.alertResponse :: statusReads r status)
  else s

/-! ### Modules (R787, R788, R797) -/

/-- MODULE_INSERTED. -/
def moduleInserted (s : State) (n : Nat) : State :=
  if present s n then s
  else logEvent (modI2c s (fun k => { k with present := BitVec.ofNat 16 (withBit k.present.toNat n true) })) 0x1033 (srcLink n) 0

/-- MODULE_REMOVED: presence and record go, and the link loses its presence (R652, R788, R797). -/
def moduleRemoved (s : State) (n : Nat) : State :=
  if present s n then
    let s := modI2c s (fun k => { k with
      present := BitVec.ofNat 16 (withBit k.present.toNat n false), modules := tdel k.modules n })
    linkLost (logEvent s 0x1034 (srcLink n) 0) n true
  else s

/-- Addresses of the module bus (R786): the multiplexer of a link, and a module. -/
def muxAddr (n : Nat) : Nat := 0x70 + n / 8
def moduleAddr : Nat := 0x50

/-- What a read of link n's module drives on the module bus (R786, R787, table Module record): its channel is selected, lower memory
bytes 0 to 63, page 00h bytes 129 to 160 and page 11h bytes 128 to 159 are read, each page chosen by the page-select byte 127
(OIF CMIS; log entry 115), and the channel is deselected. -/
def moduleTraffic (n : Nat) : List Output :=
  [.moduleWrite (muxAddr n) [BitVec.ofNat 8 (1 <<< (n % 8))], .moduleFetch moduleAddr 0 64,
    .moduleWrite moduleAddr [127, 0x00], .moduleFetch moduleAddr 129 32,
    .moduleWrite moduleAddr [127, 0x11], .moduleFetch moduleAddr 128 32, .moduleWrite (muxAddr n) [0x00]]

/-- MODULE_READ (R787): the 128 bytes of the record, from a module that is present on a bus that is idle. -/
def moduleRead (s : State) (n : Nat) (l : List Byte) : State :=
  if present s n ∧ s.i2c.mod = .idle then
    emitAll (modI2c s (fun k => { k with modules := tput k.modules n (fit 128 l) })) (moduleTraffic n)
  else s

/-! ### Measurement and the governor (R807 to R810, R823 to R826) -/

/-- Tenths of a degree as the FP32 value in °C, rounded to nearest (R190). -/
def fTenths (t : Int) : F32 :=
  let n := t.natAbs * 2 ^ 40
  enc32 (stickyFp (decide (t < 0)) (n / 10) (n % 10 == 0) (-40))

/-- The thermal alarm level 0x2021; its default is 100.0. -/
def alarmLevel (s : State) : F32 := BitVec.ofNat 32 (valNat s 0x2021 0 0 0x42C80000)

/-- The hottest sensor of the package (0x2020), with event 0x2011 when it rises above the alarm level (table of 0x2021). -/
def junctionRead (s : State) (t : Int) : State :=
  let above := exLess (dec32 (alarmLevel s)) (dec32 (fTenths t))
  let was := s.power.aboveAlarm
  let s := modPower s (fun p => { p with junction := t, aboveAlarm := above })
  if above ∧ was = false then logEvent s 0x2011 srcGaffer t.toNat else s

/-- Temperatures of the domains and of the package. -/
def temperatures (s : State) (dom : List Int) (pkg : Int) : State :=
  let s := (List.range 16).foldl (fun s d =>
    match dom[d]? with
    | some t => domTemp s d t
    | none => s) s
  settleDomains (junctionRead s pkg)

/-- A domain's window (R55, R808, R809, R854): current, energy with its remainder, and the beat rate while it is on. -/
def domainWindow (s : State) (d ma beats mv : Nat) : State :=
  modDom s d (fun k =>
    let e := k.energyRem + ma * mv
    { k with
      currentMa := ma
      energy := (k.energy + e / 1000000) % 2 ^ 64
      energyRem := e % 1000000
      beatRate := if k.state = .on then beats else k.beatRate })

/-- Mean VCORE_F current of the last ten windows above, or below, a limit in mA. -/
def meanAbove (l : List Nat) (ma : Nat) : Bool := decide (ma * l.length < l.sum)
def meanBelow (l : List Nat) (ma : Nat) : Bool := decide (l.sum < ma * l.length)

/-- The governor at the end of a window (table Governor, R824 to R826). -/
def governor (s : State) : State :=
  let p := s.power
  let lim := valNat s 0x2003 0 0 1250
  let excess := decide (1000 * lim < p.packageMw) || meanAbove p.currents 1350000 || decide (1030 < p.junction)
  let good := decide (p.packageMw < 970 * lim) && meanBelow p.currents 1300000 && decide (p.junction < 1000)
  let busy := match p.trans with
    | some t => t.kind == .vcore false
    | none => false
  let n := if good then p.goodWindows + 1 else 0
  let cap := if busy then p.cap
    else if excess then max 620 (p.cap - 10)
    else if 10 ≤ n then min 880 (p.cap + 10)
    else p.cap
  let before := effective s
  let s := modPower s (fun p => { p with cap := cap, goodWindows := if busy = false ∧ 10 ≤ n then 0 else n })
  if cap = p.cap then s else runChain s (p.committed && effective s == before)

/-- MS_WINDOW_END: the readings of the window, package power, temperatures and the governor. -/
def windowEnd (s : State) (r : WindowReadings) : State :=
  let s := { s with log := { s.log with ms := s.log.ms + 1 } }
  let s := (List.range 16).foldl (fun s d => domainWindow s d (r.domainMa.getD d 0) (r.ringBeats.getD d 0) r.vcoreMv) s
  let s := (List.range 4).foldl (fun s q => modQuad s q (fun k => { k with measured := r.quadMv.getD q 0 })) s
  let core := (r.domainMa.take 16).sum + (r.spineMa.take 2).sum
  let other := ((List.range 7).map (fun i => (regOf s (i + 1)).vout * (regOf s (i + 1)).iout)).sum
  let s := modPower s (fun p =>
    let o := if p.hold then p.otherUw else other
    { p with
      vcoreMv := r.vcoreMv, railMv := r.railMv.take 6, spineMa := r.spineMa.take 2, otherUw := o,
      currents := (core :: p.currents).take 10
      packageMw := Config.roundPower (r.vcoreMv * core + o) })
  governor (temperatures s r.domainTenths r.packageTenths)

/-! ### Commands -/

/-- SENSE_SAMPLE (R807, R836). -/
def execSenseSample (r : SenseReadings) (s : State) : Host.Outcome State Fault Refusal :=
  .next (temperatures s r.domainTenths r.packageTenths)
/-- MS_WINDOW_END. -/
def execMsWindowEnd (r : WindowReadings) (s : State) : Host.Outcome State Fault Refusal := .next (windowEnd s r)
/-- QUAD_RAIL_STEP. -/
def execQuadRailStep (q : QuadId) (s : State) : Host.Outcome State Fault Refusal := .next (quadStep s q.toNat)
/-- PMBUS_POLL. -/
def execPmbusPoll (l : List RegulatorReading) (s : State) : Host.Outcome State Fault Refusal := .next (pmbusPoll s l)
/-- PMBUS_ALERT. -/
def execPmbusAlert (r : Rail) (status : U16) (s : State) : Host.Outcome State Fault Refusal := .next (pmbusAlert s r status)
/-- PMBUS_RETRY. -/
def execPmbusRetry (sdaHigh : Bool) (s : State) : Host.Outcome State Fault Refusal := .next (pmbusRetry s sdaHigh)
/-- PMBUS_TRANSACTION_END. -/
def execPmbusTransactionEnd (o : BusOutcome) (s : State) : Host.Outcome State Fault Refusal := .next (transactionEnd s o)
/-- BUS_LEND. -/
def execBusLend (s : State) : Host.Outcome State Fault Refusal := .next (busLend s)
/-- BUS_TAKE_BACK. -/
def execBusTakeBack (sdaHigh : Bool) (s : State) : Host.Outcome State Fault Refusal := .next (busTakeBack s sdaHigh)
/-- I2C_RECOVERY. -/
def execI2cRecovery (b : I2cBus) (r : I2cRound) (s : State) : Host.Outcome State Fault Refusal := .next (i2cFirst s b r)
/-- I2C_RECOVERY_ROUND_WAIT. -/
def execI2cRecoveryRoundWait (b : I2cBus) (r : I2cRound) (s : State) : Host.Outcome State Fault Refusal :=
  .next (i2cNext s b r)
/-- MODULE_BUS_RETRY. -/
def execModuleBusRetry (r : I2cRound) (s : State) : Host.Outcome State Fault Refusal := .next (moduleRetry s r)
/-- MODULE_INSERTED. -/
def execModuleInserted (n : LinkId) (s : State) : Host.Outcome State Fault Refusal := .next (moduleInserted s n.toNat)
/-- MODULE_REMOVED. -/
def execModuleRemoved (n : LinkId) (s : State) : Host.Outcome State Fault Refusal := .next (moduleRemoved s n.toNat)
/-- MODULE_READ. -/
def execModuleRead (n : LinkId) (bytes : List Byte) (s : State) : Host.Outcome State Fault Refusal :=
  .next (moduleRead s n.toNat bytes)
/-- TRANSITION_COMPLETE. -/
def execTransitionComplete (s : State) : Host.Outcome State Fault Refusal := .next (transitionComplete s)
/-- TRANSITION_DEADLINE. -/
def execTransitionDeadline (s : State) : Host.Outcome State Fault Refusal := .next (transitionDeadline s)
/-- TRANSITION_REVERTED. -/
def execTransitionReverted (s : State) : Host.Outcome State Fault Refusal := .next (transitionReverted s)
/-- RETURNING_COMMAND_SETTLE. -/
def execReturningCommandSettle (mv : Nat) (s : State) : Host.Outcome State Fault Refusal := .next (settled s mv)
/-- CHAIN_RETRY. -/
def execChainRetry (s : State) : Host.Outcome State Fault Refusal := .next (chainRetry s)

end Sys2Proof.Machine
end

