-- ==== Sys2Proof/Machine/Ageing.lean ====
section
/-!
DEFINITION. Ageing and wear (19_power_health.md R839 to R849, R856): canary drift, vault retention margin, flash wear, the ageing
store and the predicted end of life.
-/
namespace Sys2Proof.Machine

/-! ### Canary rings (R840) -/

/-- 100 × r₀ of a domain at a mean of 0x2001 in mV, in parts per 2^32: interpolated for XL6-L, the baseline at 750 mV for
XL6-S. -/
def canaryRef (d mv : Nat) : Nat :=
  let b := Config.canaryBaseline d
  if Config.longLife then
    (if mv ≤ 650 then 100 * b 650
    else if mv ≤ 750 then b 650 * (750 - mv) + b 750 * (mv - 650)
    else if mv ≤ 850 then b 750 * (850 - mv) + b 850 * (mv - 750)
    else 100 * b 850)
  else 100 * b 750

/-- The drift in ppm, rounded toward zero; a reference or a count of zero gives none that the manual states. -/
def canaryDrift (s : State) (d stressed twin : Nat) : Int :=
  let den := stressed * canaryRef d s.power.vcoreMv
  if den = 0 then (freeAt s 0 : Int)
  else ((twin * 2 ^ 32 * 100 : Int) - (den : Int)) * 1000000 |>.tdiv (den : Int)

/-- CANARY_MEASURE: a domain that is not on keeps its last value. -/
def canaryMeasure (s : State) (d stressed twin : Nat) : State :=
  if (domOf s d).state = .on then useFree (modDom s d (fun k => { k with drift := canaryDrift s d stressed twin })) 1 else s

/-- The worst drift over the domains. -/
def worstDrift (s : State) : Int := (List.range 16).foldl (fun m d => max m (domOf s d).drift) ((domOf s 0).drift)

/-! ### Vault retention (R842, R843) -/

/-- Retention margin of a slice in percent from its normalised time in µs. -/
def retentionMargin (t : Nat) : Nat :=
  if t ≤ 2000 then 0
  else 100 * (t - 2000) / t + (if 100 * (t - 2000) % t ≠ 0 ∧ Config.marginUp t = true then 1 else 0)

/-- VAULT_RETENTION_MEASURE: the lowest margin, and event 0x2014 below 30 %. -/
def retentionMeasure (s : State) (times : List Nat) : State :=
  match (times.map retentionMargin).min? with
  | none => s
  | some m =>
    let s := modAgeing s (fun a => { a with margin := m, day := a.day + 1 })
    if m < 30 ∧ s.ageing.loggedDay ≠ some s.ageing.day then
      logEvent (modAgeing s (fun a => { a with loggedDay := some a.day })) 0x2014 srcGaffer m
    else s

/-! ### Flash wear (R844) -/

/-- One erase of a 64 KiB block of the boot flash. -/
def countErase (s : State) (block : Nat) : State :=
  modAgeing s (fun a => { a with erases := tmod a.erases block 0 (fun n => n + 1) })

/-- Highest erase count among the journal's blocks, 0x2060.06: what start-up took from the ageing store, and the most erased
block since (log entry 54). -/
def journalErases (s : State) : Nat :=
  s.ageing.maxBase + s.ageing.erases.foldl (fun m e => if 512 ≤ e.1 ∧ e.1 < 640 then max m e.2 else m) 0

/-- Total of all erases, 0x2060.07. -/
def totalErases (s : State) : Nat := s.ageing.totalBase + (s.ageing.erases.map (·.2)).sum

/-! ### The ageing store (R845, R846, R856) -/

/-- Flash block of ring position block i (R845). -/
def ageBlock (i : Nat) : Nat :=
  match i % 4 with
  | 0 => 0xFE
  | 1 => 0xFF
  | 2 => 0x1FE
  | _ => 0x1FF

/-- Flash offset of a position of the ring. -/
def ageOffset (pos : Nat) : Nat := ageBlock (pos / 1024) * 65536 + pos % 1024 * 64

/-- The block after that of a position, at its first slot. -/
def nextAgeBlock (pos : Nat) : Nat := (pos / 1024 + 1) % 4 * 1024

/-- A block of the ring is erased. -/
def eraseAgeBlock (s : State) (pos : Nat) : State :=
  let b := ageBlock (pos / 1024)
  countErase (modAgeing s (fun a => { a with store := a.store.filter (fun r => r.offset / 65536 != b) })) b

/-- The record that is to be appended, at a position. -/
def ageRecord (s : State) (pos : Nat) : AgeRec :=
  { offset := ageOffset pos, seq := s.ageing.seq, hours := s.ageing.hours, weighted := s.ageing.weighted,
    worstDrift := worstDrift s, margin := s.ageing.margin, journalMax := journalErases s, eol := s.ageing.eol,
    eraseTotal := totalErases s }

/-- The 64 bytes of an ageing record (table Ageing record). -/
def ageBytes (r : AgeRec) : List Byte :=
  let b := [0x41, 0x47, 0x45, 0x44] ++ leBytes 4 r.seq ++ leBytes 4 r.hours ++ leBytes 4 r.weighted ++
    leBytes 4 (r.worstDrift % 2 ^ 32).toNat ++ leBytes 1 r.margin ++ List.replicate 3 0xFF ++ leBytes 4 r.journalMax ++
    leBytes 4 r.eol ++ leBytes 8 r.eraseTotal ++ List.replicate 20 0xFF
  b ++ leBytes 4 (crc32 b)

/-- The record stands at a position; the next free one follows, and a block that is full has the next one erased when it is
written. -/
def ageWritten (s : State) (pos : Nat) : State :=
  modAgeing s (fun a => { a with store := a.store ++ [ageRecord s pos], seq := a.seq + 1, pos := (pos + 1) % 4096 })

/-! ### Predicted end of life (R848, R849) -/

/-- The record that rates are taken from: 2,000 operating hours ago, or the oldest from 1,000 hours onward. -/
def rateBase (s : State) : Option AgeRec :=
  let h := s.ageing.hours
  let l := s.ageing.store.filter (fun r => r.hours < h)
  match (l.filter (fun r => r.hours + 2000 ≤ h)).getLast? with
  | some r => some r
  | none => if 1000 ≤ h then l.head? else none

/-- A term: H plus what is left over the rate; none where the rate is not positive. -/
def lifeTerm (h left rise hours : Int) : List Int := if rise ≤ 0 ∨ hours ≤ 0 then [] else [h + (left * hours).fdiv rise]

/-- The terms of the table End-of-life terms, in whole hours. -/
def lifeTerms (s : State) : List Int :=
  let h : Int := s.ageing.hours
  let rated := if s.ageing.hours = 0 then [(ratedLife : Int)]
    else lifeTerm h (100 * ratedLife - s.ageing.weighted) s.ageing.weighted h
  let rates := match rateBase s with
    | none => []
    | some r =>
      let dh := h - r.hours
      lifeTerm h (50000 - worstDrift s) (worstDrift s - r.worstDrift) dh ++
        lifeTerm h (20000 - journalErases s) (journalErases s - r.journalMax) dh ++
        lifeTerm h ((s.ageing.margin : Int) - 20) ((r.margin : Int) - s.ageing.margin) dh
  rated ++ rates

/-- 0x2060.03: before the first operating hour the rated life (R25, R848), then what the last record set. -/
def predictedLife (s : State) : Nat := if s.ageing.hours = 0 then ratedLife else s.ageing.eol

/-- The prediction after a record, with event 0x2013 where it has fallen enough. -/
def predict (s : State) : State :=
  match (lifeTerms s).min? with
  | none => s
  | some v =>
    let e := v.toNat
    let s := modAgeing s (fun a => { a with eol := e })
    let low := match s.ageing.loggedEol with
      | some o => decide (100 * e ≤ 99 * o)
      | none => decide (e < ratedLife)
    if low then logEvent (modAgeing s (fun a => { a with loggedEol := some e })) 0x2013 srcGaffer e else s

/-- AGEING_RECORD (R846, R847, R856): one more operating hour; its record at the next free offset, or after a failure in the
next block in two attempts; a record that fails there too is skipped with event 0x2003. -/
def ageingRecord (s : State) (tenths : Int) (mv : Nat) (ok : List Bool) : State :=
  let s := modAgeing s (fun a => { a with
    eol := predictedLife s, hours := (a.hours + 1) % 2 ^ 32, weighted := (a.weighted + Config.hourWeight tenths mv) % 2 ^ 32 })
  if s.flash.writable = false then s
  else
    let pos := s.ageing.pos
    let s := if pos % 1024 = 0 ∧ s.ageing.store ≠ [] then eraseAgeBlock s pos else s
    if ok.getD 0 true then predict (ageWritten s pos)
    else
      let next := nextAgeBlock pos
      let s := eraseAgeBlock s next
      if ok.getD 1 true ∨ ok.getD 2 true then predict (ageWritten s next)
      else
        let after := nextAgeBlock next
        logEvent (modAgeing s (fun a => { a with pos := after })) 0x2003 (srcField 4) (ageOffset next)

/-! ### Commands -/

/-- CANARY_MEASURE. -/
def execCanaryMeasure (d : DomainId) (stressed twin : Nat) (s : State) : Host.Outcome State Fault Refusal :=
  .next (canaryMeasure s d.toNat stressed twin)
/-- VAULT_RETENTION_MEASURE. -/
def execVaultRetentionMeasure (times : List Nat) (s : State) : Host.Outcome State Fault Refusal :=
  .next (retentionMeasure s times)
/-- AGEING_RECORD. -/
def execAgeingRecord (meanTenths : Int) (meanMv : Nat) (writeOk : List Bool) (s : State) : Host.Outcome State Fault Refusal :=
  .next (ageingRecord s meanTenths meanMv writeOk)

end Sys2Proof.Machine
end

