-- ==== Sys2Proof/Machine/Atomics.lean ====
section
/-!
DEFINITION. Atomics and leases (07_memory_model.md R302 to R311, R320): one operation at the home of an address, and the
meanings of the class 0x0E instructions.
-/
namespace Sys2Proof.Machine

/-- The new value of an atomic on w bits: function, old value, s[b] and s[d] on entry (table Atomic operations). -/
def atomicFn (f w old b d : Nat) : Nat :=
  match f with
  | 0x1 => b
  | 0x2 => if old = b then d else old
  | 0x3 => (old + b) % 2 ^ w
  | 0x4 => old &&& b
  | 0x5 => old ||| b
  | 0x6 => old ^^^ b
  | 0x7 => if signed w old ≤ signed w b then old else b
  | 0x8 => if signed w old ≤ signed w b then b else old
  | 0x9 => min old b
  | 0xA => max old b
  | 0xB => (fAdd (BitVec.ofNat 32 old) (BitVec.ofNat 32 b)).toNat
  | _ => old

/-- The low 43 bits of a lease word that name core c as its holder (R308). -/
def leaseTag (s : State) (c : Nat) : Nat :=
  c + ownPkg s * 2 ^ 10 + groupNum s c * 2 ^ 23 + coreTenant s c * 2 ^ 31

/-- LEASE_TAKE at the home: the word after it, whether the list grows, and what it returns (R308, R310). -/
def leaseTake (s : State) (c key old : Nat) : Nat × Bool × Nat :=
  let h := leaseHome s key
  if old.testBit 63 then (old, false, old)
  else if h.2 ≤ leasesAt s h.1 ∧ s.mem.leases.contains key = false then (old, false, 2 ^ 64 - 1)
  else (2 ^ 63 + old / 2 ^ 62 % 2 * 2 ^ 62 + leaseTag s c, true, old)

/-- LEASE_RELEASE by the holder named in the word writes zero (R309), also where the lease has been revoked (R311). -/
def leaseRelease (s : State) (c old : Nat) : Nat :=
  if old % 2 ^ 43 = leaseTag s c then 0 else old

/-- The value an atomic leaves in the word, whether the word joins the lease list, and the value it returns. -/
def atomicAt (s : State) (c key f w old b d : Nat) : Nat × Bool × Nat :=
  if f = 0xC then leaseTake s c key old
  else if f = 0xD then (leaseRelease s c old, false, old)
  else (atomicFn f w old b d, false, old)

/-- The checks of an atomic before its home: alignment, package, space (R304; log entry 43). -/
def atomicCheck (s : State) (addr n : Nat) : Option (Nat × Nat) :=
  let p := splitAddr s addr
  if addr % n ≠ 0 then some (fAlignment, n)
  else if p.1 ≠ ownPkg s then some (fCrossAtomic, p.1)
  else if 3 ≤ p.2.1 then some (fAddress, p.2.1) else none

/-- The operation at the home (R304 to R310): the word is read, changed and written in one access. -/
def atomicHome (s : State) (c key f n b d : Nat) : State × (Nat ⊕ Nat) :=
  match eccRead s key n with
  | (s, _, some w) => (s, .inr w)
  | (s, l, none) =>
    let old := leNat l
    let r := atomicAt s c key f (8 * n) old (b % 2 ^ (8 * n)) (d % 2 ^ (8 * n))
    let s := if r.1 = old then s else noticeWrite (memPut s key n r.1) key n
    let s := if r.2.1 && !s.mem.leases.contains key then modMem s (fun m => { m with leases := key :: m.leases }) else s
    (s, .inl r.2.2)

/-- An atomic of core c: checks, translation with the atomic right, the home, and the old value to s[d] (R302 to R306,
R320, R324). -/
def atomicOp (f n c : Nat) (w : U32) (s : State) : State :=
  let k := coreOf s c
  let addr := reg k (wA w)
  match atomicCheck s addr n with
  | some e => cpFault s c e.1 e.2 addr 0
  | none =>
    let p := splitAddr s addr
    if accessHeld (granules n) s c addr n rightAtomic then s
    else match translate s c (coreTenant s c) p.1 p.2.1 p.2.2 rightAtomic with
    | (s, .fail e) => memFault s c .control 0 e addr
    | (s, .ok off) =>
      match wayLost s c p.1 p.2.1 off n with
      | some e => memFault s c .control 0 e addr
      | none =>
      match physRead s p.2.1 off n .engine with
      | (s, _, some e) => memFault s c .control 0 e addr
      | (s, _, none) =>
        match atomicHome s c (memKey p.2.1 off) f n (reg k (wB w)) (reg k (wD w)) with
        | (s, .inr w) => memFault s c .control 0 ⟨fUncorrectable, p.2.1, globalOf s w⟩ addr
        | (s, .inl v) => result s c (wD w) v

/-- A row of the table Atomic operations, in either width that the word gives. -/
def atomicStep (mn : String) (f : Nat) (c : CoreId) (w : U32) (s : State) : Host.Outcome State Fault Refusal :=
  coreStep mn (fun p => p == .atomic f 4 || p == .atomic f 8)
    (atomicOp f (match spell w with | .atomic _ n => n | _ => 4) c.toNat w) c w s

/-- ATOMIC_READ. -/
def execAtomicRead (c : CoreId) (w : U32) (s : State) : Host.Outcome State Fault Refusal := atomicStep "ATOMIC_READ" 0x0 c w s
/-- ATOMIC_SWAP. -/
def execAtomicSwap (c : CoreId) (w : U32) (s : State) : Host.Outcome State Fault Refusal := atomicStep "ATOMIC_SWAP" 0x1 c w s
/-- COMPARE_AND_SWAP. -/
def execCompareAndSwap (c : CoreId) (w : U32) (s : State) : Host.Outcome State Fault Refusal :=
  atomicStep "COMPARE_AND_SWAP" 0x2 c w s
/-- ATOMIC_ADD. -/
def execAtomicAdd (c : CoreId) (w : U32) (s : State) : Host.Outcome State Fault Refusal := atomicStep "ATOMIC_ADD" 0x3 c w s
/-- ATOMIC_AND. -/
def execAtomicAnd (c : CoreId) (w : U32) (s : State) : Host.Outcome State Fault Refusal := atomicStep "ATOMIC_AND" 0x4 c w s
/-- ATOMIC_OR. -/
def execAtomicOr (c : CoreId) (w : U32) (s : State) : Host.Outcome State Fault Refusal := atomicStep "ATOMIC_OR" 0x5 c w s
/-- ATOMIC_EXCLUSIVE_OR. -/
def execAtomicExclusiveOr (c : CoreId) (w : U32) (s : State) : Host.Outcome State Fault Refusal :=
  atomicStep "ATOMIC_EXCLUSIVE_OR" 0x6 c w s
/-- ATOMIC_SIGNED_MINIMUM. -/
def execAtomicSignedMinimum (c : CoreId) (w : U32) (s : State) : Host.Outcome State Fault Refusal :=
  atomicStep "ATOMIC_SIGNED_MINIMUM" 0x7 c w s
/-- ATOMIC_SIGNED_MAXIMUM. -/
def execAtomicSignedMaximum (c : CoreId) (w : U32) (s : State) : Host.Outcome State Fault Refusal :=
  atomicStep "ATOMIC_SIGNED_MAXIMUM" 0x8 c w s
/-- ATOMIC_UNSIGNED_MINIMUM. -/
def execAtomicUnsignedMinimum (c : CoreId) (w : U32) (s : State) : Host.Outcome State Fault Refusal :=
  atomicStep "ATOMIC_UNSIGNED_MINIMUM" 0x9 c w s
/-- ATOMIC_UNSIGNED_MAXIMUM. -/
def execAtomicUnsignedMaximum (c : CoreId) (w : U32) (s : State) : Host.Outcome State Fault Refusal :=
  atomicStep "ATOMIC_UNSIGNED_MAXIMUM" 0xA c w s
/-- ATOMIC_FP32_ADD. -/
def execAtomicFp32Add (c : CoreId) (w : U32) (s : State) : Host.Outcome State Fault Refusal :=
  atomicStep "ATOMIC_FP32_ADD" 0xB c w s
/-- LEASE_TAKE. -/
def execLeaseTake (c : CoreId) (w : U32) (s : State) : Host.Outcome State Fault Refusal := atomicStep "LEASE_TAKE" 0xC c w s
/-- LEASE_RELEASE. -/
def execLeaseRelease (c : CoreId) (w : U32) (s : State) : Host.Outcome State Fault Refusal := atomicStep "LEASE_RELEASE" 0xD c w s

end Sys2Proof.Machine
end

