-- ==== Sys2Proof/Machine/Fabric.lean ====
section
/-!
DEFINITION. The fabric's own events (02_package_fabric.md R36 to R39, R45 to R48, R54, R63, R66 to R74): bridge channels, mesh flits,
refresh; the scrub of a slice and a stock channel that fails (07_memory_model.md R286, R295).
-/
namespace Sys2Proof.Machine

/-! ### Flits in the fabric -/

/-- Flits of a flow that have been sent (R47). -/
def sentOf (s : State) (f : FabricFlit) : Nat :=
  ((s.fabric.sent.find? (fun e => e.1 == f.src && e.2.1 == f.dst && e.2.2.1 == f.response)).map (·.2.2.2)).getD 0

/-- A flit leaves its source: the next of its flow. -/
def noteSent (s : State) (f : FabricFlit) : State :=
  modFabric s (fun k => { k with
    sent := (f.src, f.dst, f.response, f.seq + 1) ::
      k.sent.filter (fun e => !(e.1 == f.src && e.2.1 == f.dst && e.2.2.1 == f.response)) })

/-- Every flit that the fabric holds: on the mesh and in the lanes of the bridges. -/
def inFabric (s : State) : List FabricFlit :=
  s.fabric.transit.map (·.2) ++ s.fabric.channels.flatMap (fun e => e.2.flits)

/-- An older flit of the same flow is still on its way (R47). -/
def overtakes (s : State) (f : FabricFlit) : Bool := (inFabric s).any (fun g => sameFlow g f && decide (g.seq < f.seq))

/-- A flit has reached its end: it is delivered once. -/
def deliverFlit (s : State) (f : FabricFlit) : State := modFabric s (fun k => { k with delivered := f :: k.delivered })

/-- A flit is on its way to a router. -/
def towardRouter (s : State) (c : Nat) (f : FabricFlit) : State :=
  modFabric s (fun k => { k with transit := k.transit ++ [(BitVec.ofNat 10 c, f)] })

/-- A flit has left the mesh link on which it came. -/
def leaveRouter (s : State) (c : CoreId) (f : FabricFlit) : State :=
  modFabric s (fun k => { k with transit := k.transit.erase (c, f) })

/-- A flit has crossed channel ch of bridge b: it goes on from the router there, or has reached the edge die (R34, R35). -/
def crossed (s : State) (b ch lane : Nat) (f : FabricFlit) : State :=
  match exitRouter b ch lane with
  | some c => towardRouter s c f
  | none => deliverFlit s f

/-- A flit waits at the sending endpoint of a channel, behind those of its lane. -/
def keepFlit (s : State) (b ch lane : Nat) (f : FabricFlit) : State :=
  if ((chanOf s (b * 32 + ch)).lane lane).flits.contains f then s
  else modLane s (b * 32 + ch) lane (fun l => l.push b f)

/-! ### Bridge channels -/

/-- The resends after which a channel leaves service (R69). -/
def resendLimit : Nat := 16

/-- Both channels of a pair are out (R70): the flit's group faults at its core, and nothing is rerouted further. -/
def pairLost (s : State) (ch : Nat) (f : FabricFlit) : State :=
  match flitOwner f with
  | some c => match runningGroup s c.toNat with
    | some g => faultGroup s c.toNat g
        { code := fBridgeLost, engine := .control, tag := 0, detail := ch, addr := 0, phys := 0 }
    | none => s
  | none => s

/-- A flit that enters the fabric from an edge die is the next of its flow; one that a core sent is in its lane (R47). -/
def entersHere (s : State) (f : FabricFlit) : Bool :=
  match f.src with
  | .edge _ _ => f.seq == sentOf s f && !(inFabric s).contains f
  | .core _ => false

/-- A flit on channel u of bridge b, the one that its traffic uses (R39, R71): the oldest of its lane crosses when its CRC holds
and is resent when not; another is kept until its turn, as is every one while the clocked end or the spine at an end stands still,
and one for an edge die while an older one of its flow is under way (R47). -/
def flitOn (s : State) (b u lane : Nat) (f : FabricFlit) (ok : Bool) : State :=
  let i := b * 32 + u
  let k := (chanOf s i).lane lane
  let stands := clockStopped s b || (bridgeRouters b u).any (spineHeldAt s) || (exitRouter b u lane == none && overtakes s f)
  if stands ∨ (k.flits ≠ [] ∧ k.flits.head? ≠ some f) then keepFlit s b u lane f
  else if ok then
    crossed (modLane s i lane (fun l => if l.flits = [] then { l with fails := 0 } else l.pop)) b u lane f
  else modLane (keepFlit s b u lane f) i lane (fun l => { l with fails := l.fails + 1 })

/-- BRIDGE_FLIT_ARRIVAL (R36 to R39, R70, R71, R74): a flit reaches the receiving endpoint of channel ch of bridge b, where its
way leads over that bridge and it is in the lane or enters there. A flit given to a channel that is out goes to the pair's. -/
def flitAt (s : State) (b ch : Nat) (f : FabricFlit) (ok : Bool) : State :=
  match flitCrossing f b with
  | none => s
  | some (h, lane) =>
    let news := entersHere s f
    let here (u : Nat) : Bool := news || ((chanOf s (b * 32 + u)).lane lane).flits.contains f
    if flitRouted f = false ∨ fabricUp s = false then s
    else match useChannel s b h with
      | none => if (ch = h ∨ ch = h ^^^ 1) ∧ here h then pairLost s h f else s
      | some u =>
        if here u = false then s
        else
          let s := if news then noteSent s f else s
          if ch = u then flitOn s b u lane f ok
          else if ch = h then keepFlit s b u lane f
          else s

/-- Whether traffic of a core needs channel ch of bridge b or its pair (R36, R70; log entry 44). -/
def needsPair (b ch c : Nat) : Bool :=
  if b = 1 then columnOf c / 2 == ch / 2 else columnOf c / 4 == ch / 2

/-- The lanes of channel j take the flits of another channel behind their own (R70; log entry 105). -/
def takeLanes (s : State) (b j : Nat) (k : Channel) : State :=
  (List.range 4).foldl (fun s l => (k.lane l).flits.foldl (fun s f => keepFlit s b j l f) s) s

/-- Some lane's flits have failed their CRC on 16 consecutive resends, after the transmission that failed first (R69). -/
def Channel.failed (k : Channel) : Bool := k.lanes.any (fun e => decide (resendLimit < e.2.fails))

/-- BRIDGE_CHANNEL_OUT_OF_SERVICE (R69, R70): after 16 resends the channel's traffic moves to the paired channel, its kept flits
behind those that the pair keeps. With both out every running group that needs the pair faults, and the flits stay with their
sending endpoint, which R39 has keep them until they are acknowledged. Where kept flits go is the model's choice (log entry
105). -/
def channelOut (s : State) (b ch : Nat) : State :=
  let i := b * 32 + ch
  let k := chanOf s i
  if bridgeChannels b ≤ ch ∨ k.out ∨ k.failed = false then s
  else
    let j := ch ^^^ 1
    let lost := (chanOf s (b * 32 + j)).out
    let s := logEvent (modChan s i (fun k => if lost then { k with out := true } else { Channel.reset with out := true }))
      0x3010 (srcBridge b) (b * 256 + ch)
    if lost then faultGroups s (fun g => (members s g).any (needsPair b ch)) fBridgeLost ch
    else takeLanes s b j k

/-- BRIDGE_STALL (R72): each running group with flits that wait on the channel faults. -/
def bridgeStall (s : State) (b ch : Nat) : State :=
  let k := chanOf s (b * 32 + ch)
  if k.flits = [] ∨ k.out then s
  else faultGroups s (fun g => k.flits.any (fun f => match flitOwner f with
    | some c => isMember s g c.toNat
    | none => false)) fBridgeStall ch

/-- A die's link reference stops or runs (R71). -/
def setRef (s : State) (e : EdgeDie) (v : Bool) : State :=
  modFabric s (fun k => { k with refStopped := match e with
    | .e0 => (v, k.refStopped.2)
    | .e1 => (k.refStopped.1, v) })

/-- The flits of a lane cross, in order. -/
def passLane (s : State) (b ch lane : Nat) : State :=
  let l := ((chanOf s (b * 32 + ch)).lane lane).flits
  if l = [] then s
  else l.foldl (fun s f => crossed s b ch lane f) (modLane s (b * 32 + ch) lane (fun _ => Lane.reset))

/-- LINK_REFERENCE_RETURN (R71): the clocked end passes the held flits again, in order; none was discarded. A channel that is out
of service passes none. -/
def refReturn (s : State) (e : EdgeDie) : State :=
  let b := edgeBridge e
  if clockStopped s b then
    (List.range 16).foldl (fun s ch =>
      if (chanOf s (b * 32 + ch)).out then s else (List.range 4).foldl (fun s l => passLane s b ch l) s) (setRef s e false)
  else s

/-! ### The mesh -/

/-- A flit goes on from a router by its next hop (R45, R70); at its own core it is delivered. -/
def moveFlit (s : State) (at' : Nat) (f : FabricFlit) : State :=
  match nextHop s f at' with
  | .arrive => deliverFlit s f
  | .router c => towardRouter s c f
  | .bridge b ch => keepFlit s b ch ((flitCrossing f b).map (·.2) |>.getD 0) f
  | .lost _ ch => pairLost s ch f

/-- Words of a flit that SECDED corrects (R48). -/
def correctedWords (found : List EccFinding) : Nat := (found.filter (· == .corrected)).length

/-- MESH_FLIT_ARRIVAL (R45 to R48, R66, R74): a flit reaches a router, its source's or the next one of its way. Each of its eight
64-bit words is checked: a single-bit error is corrected and counted, an uncorrectable one is a fault of the core whose traffic it
is and the flit is not delivered; the record's engine, tag and address, which no rule gives, are 0 (log entry 106). Then the flit
goes on, or is delivered once no older flit of its class between the same ends is under way. -/
def meshFlit (s : State) (at' : CoreId) (f : FabricFlit) (found : List EccFinding) : State :=
  let news := f.src == .core at' && f.seq == sentOf s f && !(inFabric s).contains f
  if flitRouted f = false ∨ fabricUp s = false ∨ spineHeldAt s at'.toNat ∨
      (news = false ∧ s.fabric.transit.contains (at', f) = false) then s
  else if nextHop s f at'.toNat = .arrive ∧ overtakes s f then s
  else
    let s := leaveRouter (if news then noteSent s f else s) at' f
    let s := modFabric s (fun k => { k with meshCorrected := k.meshCorrected + correctedWords found })
    if found.contains .uncorrectable then
      match flitOwner f with
      | some c => raiseFault s c.toNat { code := fMesh, engine := .control, tag := 0, detail := 0, addr := 0, phys := 0 }
      | none => s
    else moveFlit s at'.toNat f

/-! ### Refresh, scrub, stock -/

/-- VVAULT is within its range: its regulator is on (R73). -/
def vaultPowered (s : State) : Bool := (regOf s 1).on

/-- REFRESH_TIMEBASE_CALIBRATION (R54). -/
def calibrate (s : State) (die : FieldDie) : State :=
  if s.gaffer.running && vaultPowered s then
    modFabric s (fun k => { k with calibrations := match die with
      | .d0 => (k.calibrations.1 + 1, k.calibrations.2)
      | .d1 => (k.calibrations.1, k.calibrations.2 + 1) })
  else s

/-- VAULT_REFRESH (R63, R64, R73, R285): a refresh changes no stored value. -/
def refresh (s : State) : State :=
  if vaultPowered s then modFabric s (fun k => { k with refreshes := k.refreshes + 1 }) else s

/-- Step boundaries in tenths of °C and the periods between them (table Vault refresh periods). -/
def refreshSteps : List Int := [850, 900, 950, 1000]
def refreshPeriods : List Nat := [2000, 1414, 1000, 707, 500]

/-- The period for a hottest sensor of t tenths from the period in force (R63): a longer one only once the sensor has fallen
2 °C below the boundary. -/
def nextPeriod (now : Nat) (t : Int) : Nat :=
  let i := (refreshPeriods.findIdx? (fun p => p == now)).getD 0
  let up := (refreshSteps.filter (fun b => decide (b < t))).length
  let down := (refreshSteps.filter (fun b => decide (b - 20 < t))).length
  refreshPeriods.getD (if i < up then up else min i down) now

/-- Refresh period of a vault die in force. -/
def periodOf (s : State) (die : FieldDie) : Nat := if die = .d0 then s.fabric.periods.1 else s.fabric.periods.2

/-- REFRESH_PERIOD_CHANGE (R63): event 0x1022 with the die and the period. -/
def periodChange (s : State) (die : FieldDie) (t : Int) : State :=
  let p := nextPeriod (periodOf s die) t
  if p = periodOf s die ∨ vaultPowered s = false then s
  else
    let s := modFabric s (fun k => { k with periods := if die = .d0 then (p, k.periods.2) else (k.periods.1, p) })
    logEvent s 0x1022 srcGaffer (p * 65536 + (if die = .d0 then 0 else 1))

/-- VAULT_SCRUB (R286): corrected words are written back; each uncorrectable word is recorded as R283 does. -/
def scrub (s : State) (c : Nat) : State :=
  if vaultPowered s then
    (badIn s (sliceKey c 0) (2 ^ 25)).foldl (fun s e =>
      if e.2 then eccNote s e.1 true else mendWord (eccNote s e.1 false) e.1)
      (modFabric s (fun k => { k with scrubs := k.scrubs + 1 }))
  else s

/-- STOCK_CHANNEL_FAILURE (R295): the channel reads 3 and stays in the interleave. -/
def stockFailure (s : State) (ch : Nat) : State :=
  if (stockOf s ch).state = 2 then
    modMem s (fun m => { m with stock := tput m.stock ch { stockOf s ch with state := 3, failedInService := true } })
  else s

/-! ### Commands -/

/-- BRIDGE_FLIT_ARRIVAL. -/
def execBridgeFlitArrival (b : BridgeId) (ch : BitVec 5) (flit : FabricFlit) (crc : U16) (s : State) :
    Host.Outcome State Fault Refusal := .next (flitAt s (bridgeNum b) ch.toNat flit (crc == Config.bridgeCrc flit.data))
/-- BRIDGE_CHANNEL_OUT_OF_SERVICE. -/
def execBridgeChannelOutOfService (b : BridgeId) (ch : BitVec 5) (s : State) : Host.Outcome State Fault Refusal :=
  .next (channelOut s (bridgeNum b) ch.toNat)
/-- BRIDGE_STALL. -/
def execBridgeStall (e : EdgeDie) (ch : BitVec 4) (s : State) : Host.Outcome State Fault Refusal :=
  .next (bridgeStall s (edgeBridge e) ch.toNat)
/-- LINK_REFERENCE_STOP. -/
def execLinkReferenceStop (e : EdgeDie) (s : State) : Host.Outcome State Fault Refusal := .next (setRef s e true)
/-- LINK_REFERENCE_RETURN. -/
def execLinkReferenceReturn (e : EdgeDie) (s : State) : Host.Outcome State Fault Refusal := .next (refReturn s e)
/-- MESH_FLIT_ARRIVAL. -/
def execMeshFlitArrival (hop : RouterFlit) (found : List EccFinding) (s : State) : Host.Outcome State Fault Refusal :=
  .next (meshFlit s hop.router hop.flit found)
/-- REFRESH_TIMEBASE_CALIBRATION. -/
def execRefreshTimebaseCalibration (die : FieldDie) (s : State) : Host.Outcome State Fault Refusal := .next (calibrate s die)
/-- VAULT_REFRESH. -/
def execVaultRefresh (_slice : CoreId) (_bank : BitVec 4) (s : State) : Host.Outcome State Fault Refusal := .next (refresh s)
/-- REFRESH_PERIOD_CHANGE. -/
def execRefreshPeriodChange (die : FieldDie) (hottestTenths : Int) (s : State) : Host.Outcome State Fault Refusal :=
  .next (periodChange s die hottestTenths)
/-- VAULT_SCRUB. -/
def execVaultScrub (slice : CoreId) (s : State) : Host.Outcome State Fault Refusal := .next (scrub s slice.toNat)
/-- STOCK_CHANNEL_FAILURE. -/
def execStockChannelFailure (ch : ChannelId) (s : State) : Host.Outcome State Fault Refusal := .next (stockFailure s ch.toNat)

end Sys2Proof.Machine
end

