-- ==== Sys2Proof/Machine/Journal.lean ====
section
/-!
DEFINITION. The journal of persistent values (03_dictionary.md R116 to R131, R140, R936 to R938): where a record is placed, what
a failed program does, compaction, format and replay.
-/
namespace Sys2Proof.Machine

/-! ### Layout (R117, R119, R120) -/

/-- Bytes of one half (R117). -/
def halfSize : Nat := 0x400000
/-- Bytes of an erase block (R117). -/
def blockSize : Nat := 0x10000
/-- Flash offset of half A, of half B (R117). -/
def halfBase (b : Bool) : Nat := if b then 0x2400000 else 0x2000000
/-- Bytes of the half header, and of the compaction commit record with its 8-byte value (R119, R120, R936). -/
def headerLen : Nat := 64
def commitLen : Nat := 48

/-- Length of a record of n value bytes (R120). -/
def recLen (n : Nat) : Nat := 32 + roundUp n 16

/-- Length of a record (R120). -/
def JournalRec.len (r : JournalRec) : Nat := recLen r.value.length

/-- Kinds of a record (R120). -/
def kEntry : Byte := 0xD1
def kCommit : Byte := 0xC0

/-- The bytes of a record that its CRC-32 covers (R120): reserved bits are 1, padding is 0xFF. -/
def JournalRec.body (r : JournalRec) : List Byte :=
  [r.kind, r.type] ++ leBytes 2 r.index.toNat ++ [r.sub, if r.tombstone then 0xFF else 0xFE] ++
    leBytes 2 (0xF000 + r.tenant.toNat) ++ leBytes 4 r.seq ++ leBytes 2 r.value.length ++ [0xFF, 0xFF] ++
    r.value ++ List.replicate (roundUp r.value.length 16 - r.value.length) 0xFF

/-- The bytes of a record in flash (R120). -/
def JournalRec.bytes (r : JournalRec) : List Byte :=
  r.body ++ leBytes 4 r.crc.toNat ++ leBytes 4 r.sealWord.toNat ++ List.replicate 8 0xFF

/-- The record with the CRC-32 over its earlier bytes (R120). -/
def JournalRec.withCrc (r : JournalRec) : JournalRec := { r with crc := BitVec.ofNat 32 (crc32 r.body) }

/-- The record with its seal programmed, or still erased (R120). -/
def JournalRec.withSeal (r : JournalRec) (ok : Bool) : JournalRec := { r with sealWord := if ok then 0 else 0xFFFFFFFF }

/-- A record is sealed (R120). -/
def JournalRec.sealed (r : JournalRec) : Bool := r.sealWord == 0

/-- A record counts (R124): it is sealed and its CRC is right. -/
def JournalRec.good (r : JournalRec) : Bool := r.sealed && r.crc == BitVec.ofNat 32 (crc32 r.body)

/-- The first 12 bytes of a half header: magic, format 0x0001, reserved, generation (R119). -/
def headerStart (gen : U32) : List Byte := [0x58, 0x4C, 0x4A, 0x4E, 1, 0, 0xFF, 0xFF] ++ leBytes 4 gen.toNat

/-- The half header of a generation (R119). -/
def headerBytes (gen : U32) : List Byte :=
  headerStart gen ++ leBytes 4 (crc32 (headerStart gen)) ++ List.replicate 48 0xFF

/-- The generation of a half whose header is valid: magic, format and CRC-32 (R119). -/
def Half.generation (h : Half) : Option U32 :=
  if h.header.take 4 = [0x58, 0x4C, 0x4A, 0x4E] ∧ fieldAt h.header 4 2 = 1 ∧ fieldAt h.header 12 4 = crc32 (h.header.take 12) then
    some (BitVec.ofNat 32 (fieldAt h.header 8 4))
  else none

/-- A half's compaction commit record is sealed (R122, R124). -/
def Half.committed (h : Half) : Bool := (h.commit.map (fun r => r.kind == kCommit && r.good)).getD false

/-- The blocks that bits of an 8-byte value name (R936). -/
def bitBlocks (v : List Byte) : List (BitVec 6) :=
  (List.finRange 64).filterMap (fun i => if (leNat v).testBit i.val then some (BitVec.ofFin i) else none)

/-- The skipped blocks that a half's compaction commit record names (R936). -/
def Half.skipped (h : Half) : List (BitVec 6) := (h.commit.map (fun r => bitBlocks r.value)).getD []

/-- Half A or half B. -/
def halfOf (j : Journal) (b : Bool) : Half := if b then j.halfB else j.halfA

/-- Half A or half B replaced. -/
def setHalf (s : State) (b : Bool) (h : Half) : State :=
  modJournal s (fun j => if b then { j with halfB := h } else { j with halfA := h })

/-- The authoritative half. -/
def authHalf (s : State) : Half := halfOf s.dict.journal s.dict.journal.authB

/-- Bytes of records in a half, 0x1040.03 (R125, R150): its entry records. The spec does not say whether the compaction commit
record counts; the model leaves it out, as R129 does for 0x1040.04 and as the worked example of 03_dictionary.md does
(DESIGN CHOICE, log entry 107). -/
def Half.fill (h : Half) : Nat := (h.recs.map JournalRec.len).sum

/-- The first of some blocks of a half that bytes a to a + n − 1 touch (R936). -/
def skippedIn (l : List (BitVec 6)) (a n : Nat) : Option (BitVec 6) :=
  l.find? (fun b => decide (a / blockSize ≤ b.toNat ∧ b.toNat ≤ (a + n - 1) / blockSize))

/-- Where n bytes fit at or after the offset a of a half: past every skipped block (R936), or nowhere when the half is full. -/
def placeAt (h : List (BitVec 6)) (n : Nat) : Nat → Nat → Option Nat
  | 0, _ => none
  | k + 1, a =>
    if halfSize < a + n then none
    else match skippedIn h a n with
      | some b => placeAt h n k ((b.toNat + 1) * blockSize)
      | none => some a

/-- Where n bytes fit at or after the offset a. -/
def place (skip : List (BitVec 6)) (n a : Nat) : Option Nat := placeAt skip n 65 a

/-! ### The latest values (R126, R129, R937) -/

/-- The running image defines what a record names (R937). -/
def JournalRec.known (r : JournalRec) : Bool := (desc r.index.toNat r.sub.toNat).isSome

/-- Two records name the same value. -/
def JournalRec.same (r q : JournalRec) : Bool := r.index == q.index && r.sub == q.sub && r.tenant == q.tenant

/-- The value that an entry or record journals at its default (R121). -/
def defaultJournal (i sub : Nat) : List Byte :=
  if isRecord i then (persistFields i).flatMap (fun f => f.2.dflt) else defaultOf i sub

/-- Of records newest first, the first of each value. -/
def newestOf : List JournalRec → List JournalRec → List JournalRec
  | [], acc => acc
  | r :: l, acc => if acc.any r.same then newestOf l acc else newestOf l (r :: acc)

/-- A compaction copies the record: a value away from its default, or one that the image does not define (R126, R937). -/
def JournalRec.copied (r : JournalRec) : Bool :=
  !r.known || (!r.tombstone && r.value != defaultJournal r.index.toNat r.sub.toNat)

/-- The records that a compaction of a half would copy, oldest first (R126, R937). -/
def compacted (l : List JournalRec) : List JournalRec :=
  (newestOf (l.filter (·.good)).reverse []).filter JournalRec.copied

/-- Compacted size of records, 0x1040.04 (R129). -/
def compactedSize (l : List JournalRec) : Nat := ((compacted l).map JournalRec.len).sum

/-- The limit of R129: 2 MiB. -/
def compactedLimit : Nat := 0x200000

/-! ### Appending (R116, R120, R129, R130) -/

/-- A record of a value, not yet placed. -/
def newRecord (s : State) (i sub ten : Nat) (tomb : Bool) (v : List Byte) : JournalRec :=
  JournalRec.withCrc {
    offset := 0, kind := kEntry, type := BitVec.ofNat 8 (if isRecord i then tRec else ((desc i sub).map (·.ty)).getD 0),
    index := BitVec.ofNat 16 i, sub := BitVec.ofNat 8 (if isRecord i then 0 else sub), tombstone := tomb,
    tenant := BitVec.ofNat 12 ten, seq := s.dict.journal.seq, value := v,
    crc := 0, sealWord := 0xFFFFFFFF }

/-- The record placed in the authoritative half, or the code 0x000D: the journal cannot be written (R123, R140, R776), its
compacted size would pass 2 MiB (R129), or the half is full (R130). -/
def beginRecord (s : State) (r : JournalRec) : Option (State × JournalRec) :=
  let h := authHalf s
  if s.dict.journal.unwritable ∨ s.flash.writable = false ∨ h.generation = none then none
  else if compactedLimit < compactedSize (h.recs ++ [r.withSeal true]) then none
  else (place h.skipped r.len h.next).map (fun a =>
    (modJournal (setHalf s s.dict.journal.authB { h with next := a + r.len }) (fun j => { j with seq := j.seq + 1, failedBlocks := 0 }),
      { r with offset := halfBase s.dict.journal.authB + a }))

/-- A record joins the records of the authoritative half, sealed or left behind unsealed (R124). -/
def keepRecord (s : State) (r : JournalRec) (ok : Bool) : State :=
  let h := authHalf s
  setHalf s s.dict.journal.authB { h with recs := h.recs ++ [r.withSeal ok] }

/-- Bytes at which compaction starts: 75 % of a half (R125). -/
def compactAt : Nat := 0x300000

/-- Compaction starts once the records reach 3 MiB (R125, R126 step 1); one that was abandoned waits for its retry (R938). -/
def compactionTrigger (s : State) : State :=
  let j := s.dict.journal
  if compactAt ≤ (authHalf s).fill ∧ j.compacting = false ∧ j.abandoned = 0 ∧ j.unwritable = false then
    logEvent (modJournal s (fun j => { j with compacting := true })) 0x1010 srcGaffer
      ((((authHalf s).generation.map BitVec.toNat).getD 0) + 1)
  else s

/-- A record written and sealed with no commit waiting on it (R139, R881). -/
def journalNow (s : State) (r : JournalRec) : State :=
  match beginRecord s r with
  | some (s, r) => compactionTrigger (keepRecord s r true)
  | none => s

/-- The journal becomes unwritable; 0x3001 names the last attempt (R140, R938). -/
def journalDead (s : State) (off : Nat) : State :=
  logEvent (modJournal s (fun j => { j with unwritable := true })) 0x3001 (srcField 4) off

/-- Blocks that a record may fail in before the journal is unwritable (R140). -/
def sealTries : Nat := 4

/-- The start of the erase block after the one that holds the failing page of n bytes at a (R140); a block outside those bytes
names the nearest that they touch. -/
def afterFailure (a n : Nat) (page : BitVec 6) : Nat :=
  (max (a / blockSize) (min ((a + n - 1) / blockSize) page.toNat) + 1) * blockSize

/-- The record being written fails (R140): 0x2002; it is left behind unsealed and rewritten from the block after the one that
holds the failing page; none when the journal gives up. -/
def recordFailed (s : State) (r : JournalRec) (page : BitVec 6) : State × Option JournalRec :=
  let s := modJournal (logEvent (keepRecord s r false) 0x2002 (srcField 4) r.offset)
    (fun j => { j with failedBlocks := j.failedBlocks + 1 })
  if sealTries ≤ s.dict.journal.failedBlocks then (journalDead s r.offset, none)
  else
    let b := s.dict.journal.authB
    let h := authHalf s
    match place h.skipped r.len (afterFailure (r.offset - halfBase b) r.len page) with
    | some a => (setHalf s b { h with next := a + r.len }, some { r with offset := halfBase b + a })
    | none => (s, none)

/-- A reset cuts off the record being written: it stays unsealed and its commit is lost (R124, R138, R799). -/
def cutAwaiting (s : State) : State :=
  match s.dict.awaiting with
  | some w => modDict (keepRecord s w.rec' false) (fun d => { d with awaiting := none })
  | none => s

/-! ### Compaction and format (R123, R126, R140, R936, R938) -/

/-- How the writing of a half went: its contents, the flash offsets of the records left behind by a failed program (R140), and
whether everything was written, did not fit, or a record found no seal in four blocks. -/
inductive CopyEnd where
  | ok | full | dead
deriving DecidableEq, Repr
structure Copied where
  half : Half
  failed : List Nat
  ended : CopyEnd
deriving DecidableEq, Repr

/-- One record written at or after the offset a of a half, within k blocks: a block of fails that it touches fails its program,
and it is rewritten from the block after (R140). -/
def copyOne (b : Bool) (skip fails : List (BitVec 6)) (r : JournalRec) : Nat → Nat → Copied → Copied
  | 0, _, c => { c with ended := .dead }
  | k + 1, a, c =>
    match place skip r.len a with
    | none => { c with ended := .full }
    | some a =>
      let r := { r with offset := halfBase b + a }
      let next := a + r.len
      match skippedIn fails a r.len with
      | some p => copyOne b skip fails r k (afterFailure a r.len p)
          { c with half := { c.half with recs := c.half.recs ++ [r.withSeal false], next := next }, failed := c.failed ++ [r.offset] }
      | none =>
        if r.kind = kCommit then { c with half := { c.half with commit := some (r.withSeal true), next := next } }
        else { c with half := { c.half with recs := c.half.recs ++ [r.withSeal true], next := next } }

/-- Records written one after another into a half (R126, R140). -/
def copyRecords (b : Bool) (skip fails : List (BitVec 6)) : List JournalRec → Copied → Copied
  | [], c => c
  | r :: l, c =>
    let c := copyOne b skip fails r sealTries c.half.next c
    if c.ended = .ok then copyRecords b skip fails l c else c

/-- The compaction commit record: its value names the skipped blocks (R936); R120 gives its type, index, subindex and tenant no
value, and the model leaves them erased (DESIGN CHOICE, log entry 107). -/
def commitRecord (seq : Nat) (skip : List (BitVec 6)) : JournalRec :=
  JournalRec.withCrc {
    offset := 0, kind := kCommit, type := 0xFF, index := 0xFFFF, sub := 0xFF, tombstone := true, tenant := 0xFFF,
    seq := seq, value := leBytes 8 ((skip.map (fun x => 2 ^ x.toNat)).sum), crc := 0, sealWord := 0xFFFFFFFF }

/-- The blocks above 0 whose erase fails, once each (R938 covers block 0). -/
def skipsOf (o : HalfOutcome) : List (BitVec 6) := (o.failedBlocks.filter (fun x => x != 0)).eraseDups

/-- Every block of a half is erased and counted (R844); a failed one logs 0x2002 (R140). -/
def eraseHalf (s : State) (b : Bool) (o : HalfOutcome) : State :=
  let s := (List.range 64).foldl (fun s i => countErase s (halfBase b / blockSize + i)) s
  (skipsOf o).foldl
    (fun s x => logEvent s 0x2002 (srcField 4) (halfBase b + x.toNat * blockSize)) s

/-- A half written with a header of a generation, records and a sealed compaction commit record (R123, R126). -/
def writtenHalf (b : Bool) (gen : U32) (seq : Nat) (o : HalfOutcome) (l : List JournalRec) : Copied :=
  copyRecords b (skipsOf o) o.failedPrograms (l ++ [commitRecord seq (skipsOf o)])
    { half := { header := headerBytes gen, commit := none, recs := [], next := headerLen }, failed := [], ended := .ok }

/-- The records left behind are logged with 0x2002 (R140), and the commit record takes its sequence number (R120). -/
def noteCopied (s : State) (c : Copied) : State :=
  c.failed.foldl (fun s a => logEvent s 0x2002 (srcField 4) a) (modJournal s (fun j => { j with seq := j.seq + 1 }))

/-- Block 0 of a half fails: 0x2002 (R938). -/
def block0Failed (s : State) (b : Bool) : State :=
  logEvent (countErase s (halfBase b / blockSize)) 0x2002 (srcField 4) (halfBase b)

/-- A compaction is abandoned; the fourth in a row makes the journal unwritable (R938). -/
def abandonCompaction (s : State) (b : Bool) : State :=
  let s := modJournal s (fun j => { j with compacting := false, abandoned := j.abandoned + 1 })
  if 4 ≤ s.dict.journal.abandoned then journalDead s (halfBase b) else s

/-- The record being written moves into the half that is authoritative now (R126 step 6). -/
def moveAwaiting (s : State) : State :=
  match s.dict.awaiting with
  | none => s
  | some w =>
    let b := s.dict.journal.authB
    let h := authHalf s
    match place h.skipped w.rec'.len h.next with
    | some a => modDict (setHalf s b { h with next := a + w.rec'.len })
        (fun d => { d with awaiting := some { w with rec' := { w.rec' with offset := halfBase b + a } } })
    | none => s

/-- Steps 2 to 6 of the table Journal compaction. Until the commit record is sealed the old half stays authoritative (R127): so
it does when a record finds no seal within four blocks (R140), or when the copied records do not fit beside the blocks skipped in
the other half, of which the spec says nothing: the compaction then counts as abandoned, without event 0x2002 (DESIGN CHOICE, log
entry 107). -/
def compact (s : State) (o : HalfOutcome) : State :=
  let b := !s.dict.journal.authB
  let gen := ((authHalf s).generation.getD 0) + 1
  if o.block0Ok = false then abandonCompaction (block0Failed s b) b
  else
    let c := writtenHalf b gen s.dict.journal.seq o (compacted (authHalf s).recs)
    let s := noteCopied (setHalf (eraseHalf s b o) b c.half) c
    match c.ended with
    | .full => abandonCompaction s b
    | .dead => journalDead (modJournal s (fun j => { j with compacting := false })) (halfBase b + c.half.next)
    | .ok =>
      moveAwaiting (logEvent (modJournal s (fun j => { j with authB := b, compacting := false, abandoned := 0 }))
        0x1011 srcGaffer gen.toNat)

/-- JOURNAL_COMPACTION, once its trigger has started it (R126). -/
def journalCompaction (s : State) (o : HalfOutcome) : State := if s.dict.journal.compacting then compact s o else s

/-- COMPACTION_RETRY, while the trigger still holds (R938). -/
def compactionRetry (s : State) (o : HalfOutcome) : State :=
  let j := s.dict.journal
  if j.abandoned = 0 ∨ j.unwritable ∨ j.compacting ∨ (authHalf s).fill < compactAt then s
  else compact (logEvent (modJournal s (fun j => { j with compacting := true })) 0x1010 srcGaffer
    ((((authHalf s).generation.map BitVec.toNat).getD 0) + 1)) o

/-- A half formatted with generation 1 and taken as authoritative (R123). -/
def formatHalf (s : State) (b : Bool) (o : HalfOutcome) : State :=
  let c := writtenHalf b 1 s.dict.journal.seq o []
  let s := noteCopied (modJournal (setHalf (eraseHalf s b o) b c.half) (fun j => { j with authB := b })) c
  if c.ended = .ok then logEvent s 0x1011 srcGaffer 1 else journalDead s (halfBase b + c.half.next)

/-- The format of R123 on half A, and on half B where block 0 of half A fails (R938). -/
def formatJournal (s : State) (oa ob : HalfOutcome) : State :=
  if oa.block0Ok then formatHalf s false oa
  else
    let s := block0Failed s false
    if ob.block0Ok then formatHalf s true ob else journalDead (block0Failed s true) (halfBase true)

/-! ### Replay (R122, R124, R936, R937) -/

/-- A half can be authoritative: a valid header and a sealed compaction commit record (R122). -/
def Half.qualifies (h : Half) : Bool := h.generation.isSome && h.committed

/-- The highest sequence of a half's sealed records, its commit record among them (R122). -/
def Half.topSeq (h : Half) : Nat := (((h.commit.toList ++ h.recs).filter (·.good)).map (·.seq)).foldl max 0

/-- Which half is authoritative (R122): the higher generation, then the higher sequence, then half A. -/
def chooseHalf (j : Journal) : Option Bool :=
  match j.halfA.qualifies, j.halfB.qualifies with
  | false, false => none
  | true, false => some false
  | false, true => some true
  | true, true =>
    let a := (j.halfA.generation.map BitVec.toNat).getD 0
    let b := (j.halfB.generation.map BitVec.toNat).getD 0
    some (decide (a < b) || (a == b && decide (j.halfA.topSeq < j.halfB.topSeq)))

/-- The persistent fields that a record's value holds in full, with their values (R121, R937). -/
def splitFields : List (Nat × Desc) → List Byte → List (Nat × List Byte)
  | [], _ => []
  | f :: fs, v =>
    if v.length < f.2.dflt.length then []
    else (f.1, v.take f.2.dflt.length) :: splitFields fs (v.drop f.2.dflt.length)

/-- One record applied to the values of the entries that p admits (R122, R937). -/
def applyRecord (p : Nat → Nat → Bool) (vals : Tbl (List Byte)) (r : JournalRec) : Tbl (List Byte) :=
  let i := r.index.toNat
  let ten := r.tenant.toNat
  if r.known = false then vals
  else if isRecord i then
    let fs := (persistFields i).filter (fun f => p i f.1)
    let vals := fs.foldl (fun t f => tdel t (dictKey i f.1 ten)) vals
    if r.tombstone then vals
    else (splitFields (persistFields i) r.value).foldl
      (fun t f => if p i f.1 then tput t (dictKey i f.1 ten) f.2 else t) vals
  else if p i r.sub.toNat = false then vals
  else if r.tombstone then tdel vals (dictKey i r.sub.toNat ten)
  else tput vals (dictKey i r.sub.toNat ten) r.value

/-- A record stands in a block that its half skips (R936). -/
def inSkipped (h : Half) (b : Bool) (r : JournalRec) : Bool := (skippedIn h.skipped (r.offset - halfBase b) r.len).isSome

/-- Appending resumes after the last record, or at the block after it where it is unsealed (R124). -/
def resumeAt (h : Half) (b : Bool) : Nat :=
  match h.recs.getLast? with
  | some r => if r.sealed then h.next else ((r.offset - halfBase b + r.len - 1) / blockSize + 1) * blockSize
  | none => h.next

/-- The journal replayed into the entries that p admits (R122, R124): every record that is unsealed or fails its CRC logs
0x2001. -/
def replay (s : State) (b : Bool) (p : Nat → Nat → Bool) : State :=
  let h := halfOf s.dict.journal b
  let s := modJournal s (fun j => { j with authB := b, seq := max j.halfA.topSeq j.halfB.topSeq + 1 })
  let s := setHalf s b { h with next := resumeAt h b }
  let s := (h.recs.filter (fun r => !r.good && !inSkipped h b r)).foldl (fun s r => logEvent s 0x2001 srcGaffer r.offset) s
  let good := h.recs.filter (fun r => r.good && r.kind == kEntry && !inSkipped h b r)
  modDict s (fun d => { d with vals := good.foldl (applyRecord p) d.vals })

/-- Both halves hold nothing (R139, R881). -/
def eraseJournal (s : State) : State :=
  let s := (List.range 128).foldl (fun s i => countErase s (512 + i)) s
  modJournal s (fun j => { j with halfA := Half.blank, halfB := Half.blank, compacting := false, abandoned := 0 })

/-- Accesses by paths that p names are gone with their path: those that wait are dropped, and the one being journalled is left
unsealed (R135). -/
def dropAccesses (s : State) (p : DictPath → Bool) : State :=
  let s := match s.dict.awaiting with
    | some w => if p w.effect.holder.path then cutAwaiting s else s
    | none => s
  modDict s (fun d => { d with queued := d.queued.filter (fun x => !p x.2.1.path) })

/-! ### Commands -/

/-- JOURNAL_COMPACTION (R126). -/
def execJournalCompaction (h : HalfOutcome) (s : State) : Host.Outcome State Fault Refusal := .next (journalCompaction s h)
/-- COMPACTION_RETRY (R938). -/
def execCompactionRetry (h : HalfOutcome) (s : State) : Host.Outcome State Fault Refusal := .next (compactionRetry s h)

end Sys2Proof.Machine
end

