-- ==== Sys2Proof/Machine/Routing.lean ====
section
/-!
DEFINITION. The crossbar (16_frame.md R663 to R683, R691 to R695): the route table, the routing rule, bench substitution, and
the forwarding of packets.
-/
namespace Sys2Proof.Machine

/-- Where a package of a frame sits (R663): the grid (row, column), or the bench. -/
inductive Place where
  | grid (r c : Nat)
  | bench (b : Nat)
  | nowhere
deriving DecidableEq, Repr

/-- Place of a package number. -/
def placeOf (pkg : Nat) : Place :=
  let slot := pkg % 128
  if slot < 64 then .grid (slot / 8) (slot % 8) else if slot < 72 then .bench (slot - 64) else .nowhere

/-- Link along a row from column c to column c', along a column from row r to row r', between benches b and b' (R664). -/
def rowLink (c c' : Nat) : Nat := (c' + 8 - c) % 8 - 1
def colLink (r r' : Nat) : Nat := (r' + 8 - r) % 8 + 6
def benchLink (b b' : Nat) : Nat := (b' + 8 - b) % 8 + 7

/-- The lowest of 0 to 7 outside a list that f takes over a usable link (R671); only this package's links are known to it (log
entry 117). -/
def lowestVia (s : State) (avoid : List Nat) (f : Nat → Nat) : Option Nat :=
  ((List.range 8).find? (fun i => !avoid.contains i && usable s (f i))).map f

/-- Primary and alternate links from a place to another of the same frame (table Routing rule). -/
def ruleLinks (s : State) (a d : Place) : Option Nat × Option Nat :=
  match a, d with
  | .grid ra ca, .grid rd cd =>
    if ra = rd ∧ ca = cd then (none, none)
    else if ra = rd then (some (rowLink ca cd), lowestVia s [ca, cd] (rowLink ca))
    else if ca = cd then (some (colLink ra rd), lowestVia s [ra, rd] (colLink ra))
    else (some (rowLink ca cd), some (colLink ra rd))
  | .grid ra ca, .bench b =>
    if ca = b then (some 14, lowestVia s [ra] (colLink ra)) else (some (rowLink ca b), some 14)
  | .bench b, .grid rd cd =>
    (some rd, some (if cd = b then benchLink b ((b + 1) % 8) else benchLink b cd))
  | .bench b, .bench b' => if b = b' then (none, none) else (some (benchLink b b'), some 0)
  | _, _ => (none, none)

/-- Where a flit goes next. -/
inductive Route where
  | link (n : Nat)
  | hold
  | none
deriving DecidableEq, Repr

/-- Primary before alternate; a link in recovery holds the flit (R672). -/
def chooseLink (s : State) (p : Option Nat × Option Nat) : Route :=
  let try' (o : Option Nat) (rest : Route) : Route :=
    match o with
    | Option.none => rest
    | some n => if usable s n then .link n else if (linkOf s n).state = .recovery then .hold else rest
  try' p.1 (try' p.2 .none)

/-- Route entry of a package number (R666): its link when it is valid. -/
def routeEntry (s : State) (d : Nat) : Option Nat :=
  let b := ((valOf s 0x5000 0 0 []).getD d 0).toNat
  if b.testBit 4 then some (b % 16) else none

/-- A valid entry whose link is usable. -/
def usableEntry (s : State) (d : Nat) : Option Nat := (routeEntry s d).filter (fun n => usable s n)

/-- The links to a destination slot number under the substitution in force (R677). -/
def substLinks (s : State) (d : Nat) : Nat × (Option Nat × Option Nat) :=
  let a := placeOf (idNumber s)
  let plain := (d, ruleLinks s a (placeOf d))
  match substitution s with
  | some (slot, bench) =>
    if d % 128 = slot then
      let d' := d / 128 * 128 + bench
      match a, placeOf slot with
      | .grid ra _, .grid rs _ => if ra = rs then (d', (some 14, lowestVia s [ra] (colLink ra))) else (d', ruleLinks s a (placeOf d'))
      | _, _ => (d', ruleLinks s a (placeOf d'))
    else plain
  | none => plain

/-- The route to a destination (R668, R669, R672). -/
def routeTo (s : State) (d : Nat) : Route :=
  let f := d / 128
  if f = idNumber s / 128 then
    let x := substLinks s d
    match usableEntry s x.1 with
    | some n => .link n
    | none => chooseLink s x.2
  else
    match firstSome (usableEntry s) [d, f * 128 + 127, f * 128 + 126] with
    | some n => .link n
    | none => .none

/-- The route of a packet: none beyond seven hops (R674), nor for VC1 to VC3 on a package without a number (R691). -/
def packetRoute (s : State) (p : Packet) : Route :=
  if 6 ≤ p.hops ∨ (idNumber s = 0x1FFF ∧ p.vc ≠ 0) then .none else routeTo s p.dst

/-- Flits of a packet. -/
def Packet.flits (p : Packet) : Nat := if p.vc = 3 then 1 else flitsOf p.body.length

/-- A packet that came by a link of one edge die leaves by one of the other only while transit over the field dies passes (R30,
R38, R70, R71). -/
def mayCross (s : State) (h : Held) (n : Nat) : Bool :=
  match h.fromLink with
  | some m => m / 8 == n / 8 || transitPasses s
  | none => true

/-- What becomes of a held packet now: it is answered undeliverable, goes out on a link with room, or stays. -/
def canLeave (s : State) (h : Held) : Bool :=
  match packetRoute s h.packet with
  | .none => true
  | .hold => false
  | .link n => hasQueue s n h.packet && mayCross s h n

/-- FLIT_FORWARD (R670 to R675): the oldest packet that is not held leaves the crossbar. -/
def flitForward (s : State) : State :=
  match s.net.xbar.find? (canLeave s) with
  | none => s
  | some h =>
    let p := h.packet
    let s := modNet s (fun x => { x with xbar := x.xbar.erase h })
    let s := match h.fromLink with
      | some n => freeBuffer s n (poolOf p.vc p.response) p.flits
      | none => s
    match packetRoute s p with
    | .link n => queuePacket s n { p with hops := p.hops + 1 }
    | _ => undeliverable s p h.reason

/-- FLIT_FORWARD. -/
def execFlitForward (s : State) : Host.Outcome State Fault Refusal := .next (flitForward s)

end Sys2Proof.Machine
end

