-- ==== Sys2Proof/Machine/HostQueue.lean ====
section
/-!
DEFINITION. The host port (17_host_port.md): the PCIe link and its functions, doorbells and queues, fetched commands, copies,
completions and their interrupts, BAR4, function and port resets, and requests to host memory.
-/
namespace Sys2Proof.Machine

/-! ### Functions and queue pairs (R708, R709) -/

/-- The virtual function bound to a tenant (0x8010+f). -/
def boundVf (s : State) (t : Nat) : Option Nat :=
  ((List.range 31).map (· + 1)).find? (fun f => valNat s (0x8010 + f) 0 0 0x8000 == t)

/-- The function that reaches a tenant's queue pair: the VF bound to it, else the PF. -/
def queueFn (s : State) (t : Nat) : Nat := (boundVf s t).getD 0

/-- 0x8100 of a tenant: bases, depth, vector, enable. -/
def subBase (s : State) (t : Nat) : Nat := valNat s 0x8100 1 t 0
def compBase (s : State) (t : Nat) : Nat := valNat s 0x8100 2 t 0
def queueSize (s : State) (t : Nat) : Nat := 2 ^ valNat s 0x8100 3 t 6
def queueVector (s : State) (t : Nat) : Nat := valNat s 0x8100 4 t 0
def queueOn (s : State) (t : Nat) : Bool := valNat s 0x8100 5 t 0 == 1

/-- The tenant whose queue pair a doorbell page reaches. -/
def pageTenant (s : State) : DoorbellPage → Option Nat
  | .pf t => some t.toNat
  | .vf f =>
    let v := valNat s (0x8010 + f.toNat) 0 0 0x8000
    if v < 4096 then some v else none

/-- A queue error with its cause, sticky until the next enable (table Queue status). -/
def queueError (s : State) (t cause : Nat) : State :=
  modTq s t (fun q => if q.error then q else { q with error := true, cause := cause })

/-- A doorbell acts on the tenant of its page; a disabled queue ignores it (R715), and a PF page of a bound tenant takes cause
5 (R713). -/
def doorbell (s : State) (page : DoorbellPage) (f : State → Nat → State) : State :=
  match pageTenant s page with
  | none => s
  | some t =>
    if queueOn s t = false then s
    else match page with
      | .pf _ => if (boundVf s t).isSome then modTq s t (fun q => { q with wrongFunction := true }) else f s t
      | .vf _ => f s t

/-- How far an index moves forward in a queue of n entries. -/
def ahead (n a b : Nat) : Nat := (b + n - a % n) % n

/-- SUBMISSION_TAIL_DOORBELL (R713). -/
def tailWrite (s : State) (v t : Nat) : State :=
  let n := queueSize s t
  let q := tqOf s t
  if n ≤ v then queueError s t 1
  else if n - 1 - ahead n q.subHead q.subTail < ahead n q.subTail v then queueError s t 2
  else modTq s t (fun q => { q with subTail := v })

/-- COMPLETION_HEAD_DOORBELL (R713). -/
def headWrite (s : State) (v t : Nat) : State :=
  let n := queueSize s t
  let q := tqOf s t
  if n ≤ v ∨ ahead n q.compHead q.compTail < ahead n q.compHead v then queueError s t 6
  else modTq s t (fun q => { q with compHead := v })

/-- A queue pair is enabled: heads, tails, error and phase restart (R712). -/
def queueEnabled (s : State) (t : Nat) : State :=
  let s := modHost s (fun h => { h with reads := h.reads.filter (fun e => e.2 != .entry (BitVec.ofNat 12 t)) })
  modTq s t (fun q => { q with
    subHead := 0, subTail := 0, compHead := 0, compTail := 0, phase := true, error := false, cause := 0,
    wrongFunction := false, fetching := 0 })

/-- A queue pair is disabled: fetching stops at once (R736). -/
def queueDisabled (s : State) (t : Nat) : State :=
  modTq (modHost s (fun h => { h with reads := h.reads.filter (fun e => e.2 != .entry (BitVec.ofNat 12 t)) })) t
    (fun q => { q with fetching := 0 })

/-- 0x8100.05 of a tenant is cleared by the Loeth itself (R737, R741, R742). -/
def clearQueue (s : State) (t : Nat) : State := queueDisabled (setVal s 0x8100 5 t [0]) t

/-! ### Commands -/

/-- The fields of a submission entry (table Submission entry). -/
def entryOf (l : List Byte) : Entry :=
  { opcode := fieldAt l 0 1, flags := fieldAt l 1 1, cid := fieldAt l 2 2, dataAddr := fieldAt l 8 8, dataLen := fieldAt l 0x10 4,
    body := fit 64 (slice l 0x40 64),
    reservedSet := decide (4 ≤ fieldAt l 1 1) || fieldAt l 4 4 != 0 || (slice l 0x14 44).any (fun b => b != 0) }

/-- A completion with a status and nothing else. -/
def plainDone (status : Nat) : Completion := { status := status, result := 0, length := 0, second := 0, inline := [] }

/-- A command of a tenant changed. -/
def modCmd (s : State) (t i : Nat) (f : HostCmd → HostCmd) : State :=
  modTq s t (fun q => { q with cmds := q.cmds.map (fun c => if c.index = i then f c else c) })

/-- A command has finished with a completion that waits to be posted; a finished one stays as it is. -/
def finishCmd (s : State) (t i : Nat) (x : Completion) : State :=
  modCmd s t i (fun c =>
    match c.state with
    | .finished _ => c
    | _ => { c with state := .finished x })

/-- A command has started and does not finish at once. -/
def runCmd (s : State) (t i : Nat) : State := modCmd s t i (fun c => { c with state := .running })

/-- The command of a queue pair that starts next, where it has an opcode: commands start in index order, a fenced one only
once no earlier one is outstanding (R726, R727). -/
def nextCmd (s : State) (t op : Nat) : Option HostCmd :=
  match (tqOf s t).cmds.find? (fun c => c.state == .fetched) with
  | some c =>
    if c.entry.opcode = op ∧ (c.entry.flags.testBit 0 = true → (tqOf s t).cmds.head? = some c) then some c else none
  | none => none

/-- A fetched entry joins the commands; a reserved opcode or a reserved bit finishes it as malformed (R718, R719). -/
def takeEntry (s : State) (t : Nat) (l : List Byte) : State :=
  let e := entryOf l
  let q := tqOf s t
  let bad := e.reservedSet || e.opcode == 0 || decide (5 < e.opcode)
  modTq s t (fun k => { k with
    cmds := k.cmds ++ [{ index := q.subHead, entry := e, state := if bad then .finished (plainDone 2) else .fetched, discard := false }]
    subHead := (q.subHead + 1) % queueSize s t
    fetching := 0 })

/-- SUBMISSION_FETCH (R714, R716): the next entry is asked of host memory, one at a time. -/
def submissionFetch (s : State) (t : Nat) : State :=
  let q := tqOf s t
  let f := queueFn s t
  if queueOn s t = true ∧ q.error = false ∧ q.fetching = 0 ∧ q.subHead ≠ q.subTail ∧ (fnOf s f).busMaster = true then
    modTq (hostRequest s f (subBase s t + 128 * q.subHead) 128 (.entry (BitVec.ofNat 12 t))) t (fun k => { k with fetching := 1 })
  else s

/-! ### Copies (R722) -/

/-- What host memory holds from an address on, up to n bytes: the bytes before one whose read fails. -/
def hostBytes (h : HostBytes) : Nat → Nat → List Byte
  | _, 0 => []
  | a, n + 1 =>
    match h.find? (fun e => e.1 == a) with
    | some e => e.2 :: hostBytes h (a + 1) n
    | none => []

/-- Completion status of a copy that met a memory error on the Loeth side (table Completion status; log entry 50). -/
def copyStatus (e : MemErr) : Nat :=
  if e.code = 0x0204 ∨ e.code = 0x0205 then 6
  else if e.code = 0x0401 then 7
  else if e.code = 0x0206 then (if e.detail = 3 then 1 else 6)
  else 2

/-- A copy's outcome with the bytes performed in order. -/
def copyDone (status n : Nat) : Completion := { plainDone status with length := n }

/-- Host to Loeth: the bytes that host memory gives are written in order. -/
def copyIn (s : State) (t a n : Nat) (src : List Byte) : State × Completion :=
  match writeAs (granules n) s .engine t a src with
  | (s, k, some e) => (s, copyDone (copyStatus e) k)
  | (s, k, none) => (s, copyDone (if src.length < n then 5 else 0) k)

/-- Loeth to host. -/
def copyOut (s : State) (f t a n host : Nat) : State × Completion :=
  match readAs (granules n) s .engine t a n with
  | (s, l, some e) => (if l = [] then s else emit s (.hostWrite (BitVec.ofNat 5 f) host l), copyDone (copyStatus e) l.length)
  | (s, l, none) => (emit s (.hostWrite (BitVec.ofNat 5 f) host l), copyDone 0 l.length)

/-- A copy as its entry asks for it (table Copy body, R722, R735). -/
def copyRun (s : State) (t : Nat) (e : Entry) (h : HostBytes) : State × Completion :=
  let dir := fieldAt e.body 0 1
  let a := fieldAt e.body 8 8
  let p := splitAddr s a
  let f := queueFn s t
  if 1 < dir ∨ (slice e.body 1 7).any (fun b => b != 0) ∨ (slice e.body 0x10 48).any (fun b => b != 0) ∨ e.dataLen = 0 ∨
      2 ^ 26 < e.dataLen ∨ p.1 ≠ ownPkg s ∨ 2 < p.2.1 then (s, plainDone 2)
  else if p.2.1 = 2 ∧ ready s 7 = false then (s, plainDone 1)
  else if (fnOf s f).busMaster = false then (s, plainDone 5)
  else if dir = 0 then copyIn s t a e.dataLen (hostBytes h e.dataAddr e.dataLen)
  else copyOut s f t a e.dataLen e.dataAddr

/-- HOST_COPY. -/
def hostCopy (s : State) (t : Nat) (h : HostBytes) : State :=
  match nextCmd s t 3 with
  | none => s
  | some c =>
    let r := copyRun s t c.entry h
    finishCmd r.1 t c.index r.2

/-- HOST_NO_OPERATION: its body is zero. -/
def hostNop (s : State) (t : Nat) : State :=
  match nextCmd s t 5 with
  | none => s
  | some c => finishCmd s t c.index (plainDone (if c.entry.body.any (fun b => b != 0) then 2 else 0))

/-- GROUP_WAIT_COMPLETE (R724): the state of the group is an event of the table for the request. -/
def groupWait (s : State) (t i : Nat) : State :=
  match (tqOf s t).cmds.find? (fun c => c.index == i && c.state == .running && c.entry.opcode == 2) with
  | none => s
  | some c =>
    let g := fieldAt c.entry.body 0 1
    let r := fieldAt c.entry.body 1 1
    let k := groupOf s g
    let code := match k.state with
      | .running => if (r = 1 ∨ r = 3) ∧ k.restoring = false then some (0, 1) else none
      | .preempted => if r = 2 then some (0, 2) else none
      | .lost => some (9, 4)
      | .fenced => some (0xB, 3)
      | .idle => if k.request = 4 then some (8, 0) else none
    match code with
    | none => s
    | some (st, gs) =>
      finishCmd s t i { plainDone st with result := gs * 2 ^ 16, second := k.lastFault.toNat }

/-! ### Completions (R717, R719, R727 to R730) -/

/-- The 32 bytes of a completion entry. -/
def completionBytes (c : HostCmd) (x : Completion) (head : Nat) (phase : Bool) : List Byte :=
  leBytes 2 c.entry.cid ++ leBytes 2 head ++ leBytes 2 x.status ++ leBytes 1 (b2n phase) ++ [0] ++ leBytes 4 x.result ++
    leBytes 4 x.length ++ leBytes 4 x.second ++ fit 12 x.inline

/-- The completion of a finished command. -/
def HostCmd.completion (c : HostCmd) : Option Completion :=
  match c.state with
  | .finished x => some x
  | _ => none

/-- A finished command that may be posted: dictionary accesses in index order (R727). -/
def postable : List HostCmd → Bool → Option HostCmd
  | [], _ => none
  | c :: rest, dict =>
    let isDict := c.entry.opcode == 1
    if c.completion.isSome && !(isDict && dict) then some c else postable rest (dict || isDict)

/-- A command leaves its queue pair. -/
def dropCmd (s : State) (t : Nat) (c : HostCmd) : State := modTq s t (fun q => { q with cmds := q.cmds.erase c })

/-- COMPLETION_POST: the entry, then its MSI-X message; a failed write is cause 4 and leaves the completion waiting. -/
def completionPost (s : State) (t : Nat) (ok : Bool) : State :=
  let q := tqOf s t
  match q.cmds.find? (fun c => c.discard && c.completion.isSome) with
  | some c => dropCmd s t c
  | none =>
    match postable q.cmds false with
    | none => s
    | some c =>
      let n := queueSize s t
      let f := queueFn s t
      if (q.compTail + 1) % n = q.compHead then s
      else if ok = false ∨ (fnOf s f).busMaster = false then queueError s t 4
      else
        let l := completionBytes c (c.completion.getD (plainDone 0)) q.subHead q.phase
        let s := emit s (.hostWrite (BitVec.ofNat 5 f) (compBase s t + 32 * q.compTail) l)
        let s := modTq (dropCmd s t c) t (fun k => { k with
          compTail := (k.compTail + 1) % n
          phase := if (k.compTail + 1) % n = 0 then !k.phase else k.phase
          completions := (k.completions + 1) % 2 ^ 64 })
        if c.entry.flags.testBit 1 then s else raiseVector s (queueVector s t)

/-! ### Resets of functions and of the port (R737, R738, R742) -/

/-- A queue pair's commands run to their ends, and their completions are discarded. -/
def discardCmds (s : State) (t : Nat) : State :=
  modTq (clearQueue s t) t (fun q => { q with cmds := q.cmds.map (fun c => { c with discard := true }) })

/-- The queue pairs reached through a function. -/
def fnTenants (s : State) (f : Nat) : List Nat :=
  if f = 0 then (s.host.tenants.map (·.1)).filter (fun t => queueFn s t == 0)
  else (pageTenant s (.vf (BitVec.ofNat 5 f))).toList

/-- FUNCTION_LEVEL_RESET. -/
def functionReset (s : State) (f : Nat) : State :=
  let s := (fnTenants s f).foldl discardCmds s
  let s := discardStages s (fun _ h => h.path == .window (BitVec.ofNat 5 f)) 1
  let s := dropAccesses s (fun p => p == .window (BitVec.ofNat 5 f))
  modHost s (fun h => { h with fns := tdel h.fns f, windows := tdel h.windows f })

/-- The whole host port restarts (R742): queues disabled, completions discarded, functions and windows as after reset. The
windows of space 0x4 are no part of it. -/
def portReset (s : State) : State :=
  let s := (s.host.tenants.map (·.1)).foldl discardCmds s
  let s := dropAccesses s (fun p => match p with
    | .window _ => true
    | _ => false)
  modHost s (fun h => { h with
    rate := 0, width := 0, flitMode := false, vfEnable := false, numVfs := 0, fns := [],
    windows := h.windows.filter (fun e => decide (256 ≤ e.1)) })

/-- PCIE_LINK_UP (R696, R697): Flit mode where both ends have it, and always at 64 GT/s. -/
def linkUp (s : State) (rate width : Byte) (flit : Bool) : State :=
  logEvent (modHost s (fun h => { h with rate := rate, width := width, flitMode := flit || rate == 6 })) 0x1041 srcGaffer rate.toNat

/-! ### Configuration and MSI-X (R698 to R701, R729, R733, R738, R745) -/

/-- Entries of a function whose mask and pending bit let a message go (R729). -/
def flushMsix (s : State) (f : Nat) : State :=
  ((fnOf s f).msix.filter (fun e => e.2.pendingBit && !e.2.masked)).foldl (fun s e => sendMsix s f e.1) s

/-- A function carries a capability (R699, R700, table Capabilities present). -/
def hasCapability (f : Nat) (k : PcieCap) : Bool :=
  match k with
  | .powerManagement => true
  | .pciExpress => true
  | .msix => true
  | .advancedErrors => f == 0
  | .alternativeRouting => f == 0
  | .virtualization => f == 0
  | .accessControl => f == 0
  | .serialNumber => f == 0
  | .secondary => f == 0
  | .dataLinkFeature => f == 0
  | .physical16 => f == 0
  | .physical32 => f == 0
  | .physical64 => f == 0
  | .laneMargining => f == 0
  | _ => false

/-- What sizing a BAR finds, as the number of its address bits, 0 for none (table Base address registers). -/
def barBits (s : State) (f n : Nat) : Nat :=
  match n with
  | 0 => 16
  | 2 => if f = 0 then 24 else 12
  | 4 => if f = 0 ∧ s.host.bar4 = true then 36 else 0
  | _ => 0

/-- The low 64 bits of the serial number (R698): its first eight characters, in the byte order of R19 (log entry 116). -/
def serialLow : Nat := leNat ((List.range 8).map Config.serialByte)

/-- A function's register as a configuration read finds it. -/
def configRead (s : State) (f : Nat) (r : ConfigReg) : Nat :=
  let k := fnOf s f
  match r with
  | .vendorDevice => Config.vendorId.toNat + (if f = 0 then 0x4C06 else 0x4C07) * 65536
  | .classCode => 0x120000
  | .command => 2 * b2n k.memSpace + 4 * b2n k.busMaster
  | .vfEnable => b2n s.host.vfEnable
  | .numVfs => s.host.numVfs
  | .powerState => if k.d3hot then 3 else 0
  | .msixControl => (if f = 0 then 2047 else 63) + b2n k.fnMask * 2 ^ 14 + b2n k.msixEnable * 2 ^ 15
  | .completionTimeout => k.timeout
  | .capability c => b2n (hasCapability f c)
  | .serialNumber hi => if f = 0 then (if hi then serialLow / 2 ^ 32 else serialLow % 2 ^ 32) else 0
  | .barSize n => barBits s f n.toNat
  | .totalVfs => if f = 0 then 31 else 0
  | .firstVfOffset => b2n (f == 0)
  | .vfStride => b2n (f == 0)
  | .maxPayload => 512
  | .maxReadRequest => 4096
  | .functionReset => 1
  | .tagBits => 10
  | .timeoutRanges => 0xF
  | .aspm => 0
  | .other => freeAt s 0

/-- VF Enable written: clearing it resets every VF (R737). -/
def writeVfEnable (s : State) (v : Bool) : State :=
  let was := s.host.vfEnable
  let s := modHost s (fun h => { h with vfEnable := v })
  if was = true ∧ v = false then ((List.range 31).map (· + 1)).foldl functionReset s else s

/-- The power state written: D3hot to D0 acts as a Function Level Reset (R738). -/
def writePowerState (s : State) (f v : Nat) : State :=
  if v % 4 = 3 then modFn s f (fun k => { k with d3hot := true })
  else if v % 4 = 0 ∧ (fnOf s f).d3hot then functionReset s f
  else s

/-- A configuration write. -/
def configWrite (s : State) (f : Nat) (r : ConfigReg) (v : Nat) : State :=
  match r with
  | .command => modFn s f (fun k => { k with memSpace := v.testBit 1, busMaster := v.testBit 2 })
  | .vfEnable => if f = 0 then writeVfEnable s (v.testBit 0) else s
  | .numVfs => if f = 0 ∧ s.host.vfEnable = false ∧ v ≤ 31 then modHost s (fun h => { h with numVfs := v }) else s
  | .powerState => writePowerState s f v
  | .msixControl => flushMsix (modFn s f (fun k => { k with msixEnable := v.testBit 15, fnMask := v.testBit 14 })) f
  | .completionTimeout => modFn s f (fun k => { k with timeout := v % 16 })
  | _ => s

/-- CONFIGURATION_REQUEST: Retry Status until 200 ms after PWR_OK. -/
def configRequest (s : State) (f : Nat) (r : ConfigReg) (w : Option U32) : State :=
  if s.host.retryStatus then emit s (.pcieConfig none)
  else match w with
    | some v => configWrite s f r v.toNat
    | none => useFree (emit s (.pcieConfig (some (BitVec.ofNat 32 (configRead s f r))))) (if r = .other then 1 else 0)

/-- MSI_X_TABLE_WRITE: one dword of an entry; an unmasked one with its pending bit set sends its message (R729). -/
def msixWrite (s : State) (f e d : Nat) (v : U32) : State :=
  if (if f = 0 then 2048 else 64) ≤ e then s
  else
    let x := tget (fnOf s f).msix e MsixEntry.reset
    let y := match d with
      | 0 => { x with addr := BitVec.ofNat 64 (x.addr.toNat / 2 ^ 32 * 2 ^ 32 + v.toNat) }
      | 1 => { x with addr := BitVec.ofNat 64 (x.addr.toNat % 2 ^ 32 + v.toNat * 2 ^ 32) }
      | 2 => { x with data := v }
      | _ => { x with masked := v.toNat.testBit 0 }
    let s := modFn s f (fun k => { k with msix := tput k.msix e y })
    if y.pendingBit = true ∧ y.masked = false then sendMsix s f e else s

/-! ### BAR4 (R702, R704) -/

/-- BAR4 reaches these bytes of stock. -/
def bar4Ok (s : State) (off n : Nat) : Bool :=
  s.host.bar4 && ready s 7 && decide (off + n ≤ 2 ^ 36 ∧ off + n ≤ capacityGiB s * 2 ^ 30)

/-- BAR4_READ. -/
def bar4Read (s : State) (off n : Nat) : State :=
  if bar4Ok s off n = false then emit s (.pcieRead none false)
  else match physRead s 2 off n .engine with
    | (s, l, none) => emit s (.pcieRead (some l) false)
    | (s, l, some _) => useFree (emit s (.pcieRead (some (l ++ freeBytes s (n - l.length))) true)) (n - l.length)

/-- BAR4_WRITE. -/
def bar4Write (s : State) (off : Nat) (l : List Byte) : State :=
  if bar4Ok s off l.length then
    let r := physWrite s 2 off l .engine
    noticeWrite r.1 (memKey 2 off) r.2.1
  else s

/-! ### Requests to host memory (R743 to R745) -/

/-- A request has ended: an entry is taken or its queue takes cause 3; a DMA's bytes are written on or it stops with fault
0x0201, detail 3. -/
def hostReadEnd (s : State) (req : Nat) (d : Option (List Byte)) : State :=
  match tfind s.host.reads req with
  | none => s
  | some r =>
    let s := modHost s (fun h => { h with reads := tdel h.reads req })
    match r, d with
    | .entry t, some l => takeEntry s t.toNat (fit 128 l)
    | .entry t, none => queueError (modTq s t.toNat (fun q => { q with fetching := 0 })) t.toNat 3
    | .dma c tag pos n dst, some l => dmaDeliver s c.toNat tag pos dst (fit n l)
    | .dma c tag pos _ _, none =>
      dmaFail s c.toNat tag pos hostErr (((dmaCmd s c.toNat tag).map (fun d => d.srcAt pos)).getD 0)

/-- HOST_READ_COMPLETION. -/
def hostReadCompletion (s : State) (req : Nat) (r : HostReadResult) : State :=
  hostReadEnd s req (match r with
    | .data l => some l
    | _ => none)

/-! ### Commands of the table -/

/-- PCIE_LINK_UP. -/
def execPcieLinkUp (rate width : Byte) (bothFlit : Bool) (s : State) : Host.Outcome State Fault Refusal :=
  .next (linkUp s rate width bothFlit)
/-- CONFIGURATION_REQUEST. -/
def execConfigurationRequest (f : FnId) (reg : ConfigReg) (write : Option U32) (s : State) : Host.Outcome State Fault Refusal :=
  .next (configRequest s f.toNat reg write)
/-- SUBMISSION_TAIL_DOORBELL. -/
def execSubmissionTailDoorbell (page : DoorbellPage) (v : U32) (s : State) : Host.Outcome State Fault Refusal :=
  .next (doorbell s page (fun s t => tailWrite s v.toNat t))
/-- COMPLETION_HEAD_DOORBELL. -/
def execCompletionHeadDoorbell (page : DoorbellPage) (v : U32) (s : State) : Host.Outcome State Fault Refusal :=
  .next (doorbell s page (fun s t => headWrite s v.toNat t))
/-- SUBMISSION_FETCH. -/
def execSubmissionFetch (t : Tenant) (s : State) : Host.Outcome State Fault Refusal := .next (submissionFetch s t.toNat)
/-- HOST_COPY. -/
def execHostCopy (t : Tenant) (h : HostBytes) (s : State) : Host.Outcome State Fault Refusal := .next (hostCopy s t.toNat h)
/-- HOST_NO_OPERATION. -/
def execHostNoOperation (t : Tenant) (s : State) : Host.Outcome State Fault Refusal := .next (hostNop s t.toNat)
/-- GROUP_WAIT_COMPLETE. -/
def execGroupWaitComplete (t : Tenant) (slot : U16) (s : State) : Host.Outcome State Fault Refusal :=
  .next (groupWait s t.toNat slot.toNat)
/-- COMPLETION_POST. -/
def execCompletionPost (t : Tenant) (writeOk : Bool) (s : State) : Host.Outcome State Fault Refusal :=
  .next (completionPost s t.toNat writeOk)
/-- BAR4_READ. -/
def execBar4Read (off : U64) (len : U16) (s : State) : Host.Outcome State Fault Refusal := .next (bar4Read s off.toNat len.toNat)
/-- BAR4_WRITE. -/
def execBar4Write (off : U64) (bytes : List Byte) (s : State) : Host.Outcome State Fault Refusal :=
  .next (bar4Write s off.toNat bytes)
/-- FUNCTION_LEVEL_RESET. -/
def execFunctionLevelReset (f : FnId) (s : State) : Host.Outcome State Fault Refusal := .next (functionReset s f.toNat)
/-- HOST_PORT_RESET. -/
def execHostPortReset (_cause : HostResetCause) (s : State) : Host.Outcome State Fault Refusal := .next (portReset s)
/-- MSI_X_TABLE_WRITE. -/
def execMsiXTableWrite (f : FnId) (entry : U16) (dword : BitVec 2) (value : U32) (s : State) : Host.Outcome State Fault Refusal :=
  .next (msixWrite s f.toNat entry.toNat dword.toNat value)
/-- HOST_READ_COMPLETION. -/
def execHostReadCompletion (req : Nat) (r : HostReadResult) (s : State) : Host.Outcome State Fault Refusal :=
  .next (hostReadCompletion s req r)
/-- COMPLETION_TIMEOUT. -/
def execCompletionTimeout (req : Nat) (s : State) : Host.Outcome State Fault Refusal := .next (hostReadEnd s req none)

end Sys2Proof.Machine
end

