-- ==== Sys2Proof/Machine/Slates.lean ====
section
/-!
DEFINITION. The slate engine (14_slates.md): takes, drains, restores, shard loads and the release of dailies, the keeper's
claims, and the host command that starts an operation.
-/
namespace Sys2Proof.Machine

/-! ### Operations in progress (R568 to R570) -/

/-- The slots of the operations that run. -/
inductive SlateSlot where
  | take | drain | restore | release
deriving DecidableEq, Repr

/-- The operation in a slot. -/
def slateOp (s : State) : SlateSlot → Option SlateOp
  | .take => s.slate.take
  | .drain => s.slate.drain
  | .restore => s.slate.restore
  | .release => s.slate.release

/-- A slot's operation replaced. -/
def setSlate (s : State) (k : SlateSlot) (o : Option SlateOp) : State :=
  modSlate s (fun e => match k with
    | .take => { e with take := o }
    | .drain => { e with drain := o }
    | .restore => { e with restore := o }
    | .release => { e with release := o })

/-- The slot of an operation code (table Slate operations). -/
def slotOf (op : Nat) : Option SlateSlot :=
  match op with
  | 1 => some .take
  | 2 => some .drain
  | 3 => some .restore
  | 4 => some .restore
  | 5 => some .restore
  | 6 => some .release
  | _ => none

/-- Any slate operation runs: the engine is active for 0x7210 (R568). -/
def slateActive (s : State) : Bool :=
  s.slate.take.isSome || s.slate.drain.isSome || s.slate.restore.isSome || s.slate.release.isSome

/-- A shard load runs. -/
def shardRuns (s : State) : Bool := (s.slate.restore.map (fun o => o.cmd.op == 5)).getD false

/-- The slate word takes a state and a status (table Slate word); a package whose shard header names none has no word. -/
def writeWord (s : State) (step state status : Nat) : State :=
  if s.slate.word = 0 then s
  else memPut s (memKey 2 (splitAddr s s.slate.word.toNat).2.2) 8 (step % 2 ^ 48 + state * 2 ^ 48 + status * 2 ^ 56)

/-- A slate operation ends with a status: its slot is free, the command that started it finishes (R570, R725), and a take
shows it in the slate word (R580, R582). -/
def endSlate (s : State) (k : SlateSlot) (status : Nat) : State :=
  match slateOp s k with
  | none => s
  | some o =>
    let s := setSlate s k none
    let s := if k = .take then writeWord s o.cmd.step (if status = 0 then 4 else 5) status else s
    match o.origin with
    | .host i => finishCmd s 0 i { plainDone (if status = 0 then 0 else 0xA) with result := status }
    | .word => s

/-- A slate operation ends because host memory was not reached (table Completion status). -/
def endSlateHost (s : State) (k : SlateSlot) : State :=
  match slateOp s k with
  | none => s
  | some o =>
    match o.origin with
    | .host i => finishCmd (setSlate s k none) 0 i (plainDone 5)
    | .word => setSlate s k none

/-- Groups of the package read 1 or 2 (R592, R604). -/
def groupsHeld (s : State) : Bool := s.groups.any (fun e => e.2.state == .running || e.2.state == .preempted)

/-- The fields of a slate command (table Slate command). -/
def slateCmdOf (l : List Byte) : SlateCmd :=
  { op := fieldAt l 0 1, pkg := fieldAt l 2 2 % 2 ^ 13, step := fieldAt l 8 8, addr := BitVec.ofNat 64 (fieldAt l 0x10 8),
    length := BitVec.ofNat 64 (fieldAt l 0x18 8) }

/-- Reserved fields of a slate command are zero: the package too but for a drain, a restore from dailies and a release
(table Slate command). -/
def slateCmdOk (l : List Byte) : Bool :=
  let op := fieldAt l 0 1
  fieldAt l 1 1 == 0 && fieldAt l 4 4 == 0 && (slice l 0x20 32).all (fun b => b == 0) &&
    (if op = 2 ∨ op = 3 ∨ op = 6 then decide (fieldAt l 2 2 < 2 ^ 13) else fieldAt l 2 2 == 0)

/-- Why an operation cannot start: its slate status; 0 where it starts (table Slate status, R592, R604). -/
def slateRefusal (s : State) (c : SlateCmd) : Nat :=
  if ready s 7 = false then 1
  else match slotOf c.op with
    | none => 8
    | some k =>
      if (slateOp s k).isSome ∨ shardRuns s ∨ (c.op = 5 ∧ slateActive s) then 2
      else if (c.op = 3 ∨ c.op = 4 ∨ c.op = 5) ∧ groupsHeld s then 9
      else 0

/-- An operation that starts, with its number. -/
def newOp (c : SlateCmd) (o : SlateOrigin) (id : Nat) : SlateOp :=
  { cmd := c, origin := o, id := id, phase := .requested, gen := 0, acks := 0, buf := [], mark := 0, template := [], reels := [] }

/-- A take that starts shows state 2 in the slate word (R580 step 1). -/
def startSlate (s : State) (c : SlateCmd) (o : SlateOrigin) : State :=
  match slotOf c.op with
  | none => s
  | some k =>
    let s := setSlate (modSlate s (fun e => { e with ops := e.ops + 1 })) k (some (newOp c o s.slate.ops))
    if k = .take then writeWord s c.step 2 0 else s

/-- HOST_SLATE_OPERATION (R569, R725, R735): only on queue pair 0x000. -/
def hostSlate (s : State) (t : Nat) : State :=
  match nextCmd s t 4 with
  | none => s
  | some c =>
    if t ≠ 0 then finishCmd s t c.index (plainDone 3)
    else
      let k := slateCmdOf c.entry.body
      let st := if ready s 7 = true ∧ slateCmdOk c.entry.body = false then 8 else slateRefusal s k
      if st = 0 then startSlate (runCmd s t c.index) k (.host c.index)
      else finishCmd s t c.index { plainDone 0xA with result := st }

/-- SLATE_WORD_SAMPLE (R577, R578, R612): a word that reads 1 starts a take; its template's address follows the word. A word that
cannot be read requests nothing, and an uncorrectable template address fails the take (R608; log entry 114). -/
def wordSample (s : State) : State :=
  if s.slate.word = 0 then s
  else
    let k := memKey 2 (splitAddr s s.slate.word.toNat).2.2
    match ownTry s k 8 with
    | (s, none) => s
    | (s, some b) =>
      let w := leNat b
      if w / 2 ^ 48 % 256 ≠ 1 ∨ s.slate.take.isSome then s
      else match ownTry s (k + 8) 8 with
        | (s, none) => writeWord s (w % 2 ^ 48) 5 10
        | (s, some a) =>
          let c : SlateCmd := { op := 1, pkg := 0, step := w % 2 ^ 48, addr := BitVec.ofNat 64 (leNat a), length := 0 }
          match slateRefusal s c with
          | 0 => startSlate s c .word
          | st => writeWord s c.step 5 st

/-! ### Manifests (R571, R572, R575) -/

/-- An extent entry. -/
structure Extent where
  source : Nat
  element : Nat
  count : Nat
  tensor : Nat
  content : Nat
  code : Nat
  reserved : Nat
  data : Nat
deriving DecidableEq, Repr

/-- Extent entry i of bytes that start with a manifest header. -/
def extentOf (l : List Byte) (i : Nat) : Extent :=
  let o := 128 + 32 * i
  { source := fieldAt l o 8, element := fieldAt l (o + 8) 8, count := fieldAt l (o + 0x10) 4, tensor := fieldAt l (o + 0x14) 4,
    content := fieldAt l (o + 0x18) 1, code := fieldAt l (o + 0x19) 1, reserved := fieldAt l (o + 0x1A) 2,
    data := fieldAt l (o + 0x1C) 4 }

/-- The 32 bytes of an extent entry. -/
def extentBytes (e : Extent) : List Byte :=
  leBytes 8 e.source ++ leBytes 8 e.element ++ leBytes 4 e.count ++ leBytes 4 e.tensor ++ leBytes 1 e.content ++
    leBytes 1 e.code ++ leBytes 2 e.reserved ++ leBytes 4 e.data

/-- Bytes of an element of a content (table Extent entry). -/
def elementSize (content : Nat) : Nat :=
  match content with
  | 0 => 2
  | 1 => 2
  | 2 => 4
  | _ => 1

/-- Stored bytes of an extent (R572). -/
def storedSize (e : Extent) : Nat :=
  match e.code with
  | 0 => e.count * elementSize e.content
  | 1 => e.count * 2
  | 2 => e.count * 2
  | _ => roundUp e.count 64 + (e.count + 31) / 32

/-- The fields of an extent that R571 and R575 allow: a content, a narrowing of optimizer state alone, a count, nothing reserved. -/
def extentFieldsOk (e : Extent) : Bool :=
  e.content < 4 && e.code < 4 && (e.code == 0 || e.content == 2) && decide (1 ≤ e.count) && e.reserved == 0

/-- Extents that R571 and R575 allow, their sources in this package's vault or stock. -/
def extentOk (s : State) (e : Extent) : Bool :=
  let p := splitAddr s e.source
  extentFieldsOk e && p.1 == ownPkg s && (p.2.1 == 1 || p.2.1 == 2)

/-- Extents of a template with the fields that the engine fills in: the reserved one, and the data offsets, each from a 64-byte
boundary (R572, R579). -/
def placeExtents : List Extent → Nat → List Extent
  | [], _ => []
  | e :: l, off => { e with reserved := 0, data := off / 64 } :: placeExtents l (off + roundUp (storedSize e) 64)

/-- Bytes of data that a list of extents takes from its start. -/
def extentsSize : List Extent → Nat
  | [] => 0
  | e :: l => roundUp (storedSize e) 64 + extentsSize l

/-- FP16 of R575: a finite value beyond the range saturates to 65,504. -/
def narrowHalf (x : F32) : Nat :=
  let v := Fmt.fp16.narrow .even x
  if v % 2 ^ 15 = 0x7C00 ∧ notFinite x = false then v - 1 else v

/-- The FP32 values of source bytes. -/
def wideWords (l : List Byte) : List F32 := (List.range (l.length / 4)).map (fun i => BitVec.ofNat 32 (fieldAt l (4 * i) 4))

/-- Source bytes as an extent stores them (table Narrowed formats). -/
def narrowBytes (code : Nat) (l : List Byte) : List Byte :=
  let v := wideWords l
  match code with
  | 0 => l
  | 1 => v.flatMap (fun x => leBytes 2 (Fmt.bf16.narrow .even x))
  | 2 => v.flatMap (fun x => leBytes 2 (narrowHalf x))
  | _ =>
    let g := chunksOf v.length 32 v
    let e := g.flatMap (fun x => x.map (fun y => BitVec.ofNat 8 (quantElem .e4m3 2 .even (largestMagnitude x) y)))
    fit (roundUp e.length 64) e ++ g.map (fun x => BitVec.ofNat 8 (scale8 .e4m3 (largestMagnitude x)))

/-- Element i of an extent's stored bytes, as the bytes a restore writes (table Narrowed formats). -/
def widenElem (e : Extent) (l : List Byte) (i : Nat) : List Byte :=
  match e.code with
  | 0 => slice l (i * elementSize e.content) (elementSize e.content)
  | 1 => leBytes 4 (Fmt.bf16.widen (fieldAt l (2 * i) 2)).toNat
  | 2 => leBytes 4 (Fmt.fp16.widen (fieldAt l (2 * i) 2)).toNat
  | _ =>
    leBytes 4 (enc32 (exMul (Fmt.e4m3.decode (fieldAt l i 1)) (scaleFp (fieldAt l (roundUp e.count 64 + i / 32) 1)))).toNat

/-- An extent's stored bytes, widened whole. -/
def widenBytes (e : Extent) (l : List Byte) : List Byte := (List.range e.count).flatMap (widenElem e l)

/-- The extents that a manifest's header counts. -/
def manifestExtents (l : List Byte) : List Extent := (List.range (fieldAt l 0x1E 2)).map (extentOf l)

/-- A manifest header's fixed fields: magic, format and count (R571). -/
def headerOk (l : List Byte) : Bool :=
  slice l 0 4 == [0x53, 0x4C, 0x41, 0x54] && fieldAt l 4 2 == 1 && decide (1 ≤ fieldAt l 0x1E 2 ∧ fieldAt l 0x1E 2 ≤ 4096)

/-- Reserved fields of a manifest header are zero (table Manifest header). -/
def headerReserved (l : List Byte) : Bool :=
  decide (fieldAt l 7 1 < 16 ∧ fieldAt l 0x10 2 < 2 ^ 13 ∧ fieldAt l 0x16 2 < 2 ^ 13) &&
    (slice l 0x29 7).all (fun b => b == 0) && (slice l 0x40 64).all (fun b => b == 0)

/-- Newest of a list of reels. -/
def newestReel : List Nat → Option Nat
  | [] => none
  | r :: l => match newestReel l with
    | some q => some (if newer q r then q else r)
    | none => some r

/-- The reel of the newest seal word that reads 3 (R573). -/
def pushedReel (s : State) : Option Nat :=
  newestReel ((s.reels.sources.filter (fun c => sealState s c.toNat == 3)).map (fun c => sealReel s c.toNat))

/-- The reel of the bank that is draining. -/
def drainingReel (s : State) : Option Nat :=
  if s.reels.bankA.state = .draining then some s.reels.bankA.reel.toNat
  else if s.reels.bankB.state = .draining then some s.reels.bankB.reel.toNat else none

/-- The manifest header that the engine fills in from a template (R579, R573). -/
def fillHeader (s : State) (tpl : List Byte) (step : Nat) (l : List Extent) : List Byte :=
  let g := fieldAt tpl 0x28 1
  let k := (groupOf s g).latched
  let flags := b2n (frontReel s).isSome * 2 + b2n (drainingReel s).isSome * 4 + b2n k.canonical * 8
  [0x53, 0x4C, 0x41, 0x54] ++ leBytes 2 1 ++ leBytes 1 0 ++ leBytes 1 flags ++ leBytes 8 step ++ leBytes 2 (ownPkg s) ++
    slice tpl 0x12 6 ++ leBytes 2 ((frontReel s).getD 0) ++ leBytes 2 ((drainingReel s).getD 0) ++
    leBytes 2 ((pushedReel s).getD 0) ++ leBytes 2 l.length ++ leBytes 8 k.seed.toNat ++ leBytes 1 g ++ zeros 7 ++
    leBytes 8 ((l.map storedSize).sum) ++ slice tpl 0x38 8 ++ zeros 64

/-! ### The keeper (R583 to R586) -/

/-- Lent bytes of this package (0x7210.02) and its keeper (0x7210.01). -/
def lentSize (s : State) : Nat := valNat s 0x7210 2 0 0
def keeperPkg (s : State) : Nat := valNat s 0x7210 1 0 0x1FFF

/-- Stock capacity and lent bytes of a keeper: known of this package, free of another (R583; log entry 51). -/
def keeperCapacity (s : State) (k : Nat) : Nat :=
  (if k = ownPkg s then capacityGiB s else (Config.keeperCapacity k).toNat) * 2 ^ 30
def keeperLent (s : State) (k : Nat) : Nat := if k = ownPkg s then lentSize s else (Config.keeperLent k).toNat * 2 ^ 21

/-- Stock offset of generation g at a keeper, and the size of one (R583). -/
def genBase (s : State) (k g : Nat) : Nat := keeperCapacity s k - keeperLent s k + g * (keeperLent s k / 2)
def genSize (s : State) (k : Nat) : Nat := keeperLent s k / 2

/-- The header of a generation in this package's lent region. -/
def genHeader (s : State) (g : Nat) : List Byte := ownRead s (memKey 2 (genBase s (ownPkg s) g)) 128

/-- A generation is complete and holds a step. -/
def genHolds (l : List Byte) (step : Nat) : Bool := headerOk l && fieldAt l 6 1 == 1 && fieldAt l 8 8 == step

/-- The generation a take writes, by the headers of the two (R585): the one that is not the newest complete. -/
def targetGen (a b : List Byte) : Nat :=
  let done (l : List Byte) : Bool := headerOk l && fieldAt l 6 1 == 1
  if done a = true ∧ (done b = false ∨ fieldAt b 8 8 ≤ fieldAt a 8 8) then 1 else 0

/-- The kind 9 holder tag of a source (R359). -/
def slateTag (p : Nat) : Nat := 9 * 2 ^ 28 + p

/-- KEEPER_CLAIM (R584, R586): the first source holds the region; another, or one after a revocation, is refused. -/
def keeperClaim (s : State) (port : Nat) : State :=
  match takePacket s port 0x25 with
  | none => s
  | some (s, p) =>
    let src := p.arg % 2 ^ 13
    let grant := lentSize s != 0 && !s.slate.revoked && (s.slate.keeperOf == none || s.slate.keeperOf == some src)
    answer (if grant then modSlate s (fun e => { e with keeperOf := some src }) else s) p 0x2B p.arg
      (leBytes 1 (if grant then 0 else 11))

/-- A keeper claim of a take is granted or refused: CLAIM_STATUS (R580 step 1, R584). -/
def claimStatus (s : State) (port : Nat) : State :=
  match takePacket s port 0x2B with
  | none => s
  | some (s, p) =>
    match takeOutstanding s p.tag, s.slate.take with
    | (s, some (.slate id _)), some o =>
      if o.phase ≠ .claiming ∨ id ≠ o.id then s
      else if fieldAt p.body 0 1 = 0 then
        setSlate (modSlate s (fun e => { e with claimed := some p.src })) .take (some { o with phase := .requested })
      else endSlate s .take 11
    | (s, _), _ => s

/-- DRAIN_NOTICE (R590). -/
def drainNotice (s : State) (port : Nat) : State :=
  match takePacket s port 0x24 with
  | none => s
  | some (s, p) => modSlate s (fun e => { e with lastDrained := p.arg })

/-! ### Takes (R577 to R582) -/

/-- The slate status of an access that fails: 10 for an uncorrectable word, 8 for an address that does not exist (log entry
114). -/
def slateStatus (e : MemErr) : Nat := if e.code = 0x0401 then 10 else 8

/-- Bytes of this package, read by the engine without translation, or the status where they are not read. -/
def slateRead (s : State) (a n : Nat) : State × Except Nat (List Byte) :=
  match readAs (granules n) s .slate 0 a n with
  | (s, l, none) => (s, .ok l)
  | (s, _, some e) => (s, .error (slateStatus e))

/-- What follows a read of the engine: with the status where the bytes are not read, else with the bytes. -/
def onBytes {α : Type} (r : State × Except Nat (List Byte)) (bad : State → Nat → α) (good : State → List Byte → α) : α :=
  match r with
  | (s, .error e) => bad s e
  | (s, .ok l) => good s l

/-- Bytes of this package written by the engine without translation, or the status where they are not written. -/
def slateWrite (s : State) (a : Nat) (b : List Byte) : State × Option Nat :=
  match writeAs (granules b.length) s .slate 0 a b with
  | (s, _, none) => (s, none)
  | (s, _, some e) => (s, some (slateStatus e))

/-- The operation of a slot goes on. -/
def modOp (s : State) (k : SlateSlot) (f : SlateOp → SlateOp) : State :=
  match slateOp s k with
  | some o => setSlate s k (some (f o))
  | none => s

/-- A request of a slot's operation to another package, whose answer it awaits. -/
def slateAsk (s : State) (k : SlateSlot) (dst op arg : Nat) (body : List Byte) (o : Nat → Outstanding) : State :=
  match slateOp s k with
  | some x => modOp (sendRequest s 2 dst op 0 arg body (o x.id)) k (fun x => { x with acks := x.acks + 1 })
  | none => s

/-- Bytes written to a keeper's stock in packets of at most 4,096 bytes; each answer is awaited. -/
def slateSend (s : State) (k off : Nat) (l : List Byte) : State :=
  let c := chunksOf l.length 4096 l
  (c.zip (List.range c.length)).foldl (fun s x =>
    slateAsk s .take k 0x21 (k * 2 ^ 51 + memKey 2 (off + 4096 * x.2)) x.1 (fun id => .slate id x.1.length)) s

/-- Ranges of a keeper's stock are asked for in reads of at most 4,096 bytes (R632). -/
def slateWant (s : State) (q : SlateSlot) (k off n : Nat) : State :=
  (List.range ((n + 4095) / 4096)).foldl (fun s i =>
    let o := off + 4096 * i
    slateAsk s q k 0x20 (k * 2 ^ 51 + memKey 2 o) (leBytes 4 (min 4096 (n - 4096 * i))) (fun id => .slateRead id o)) s

/-- What has been read of a range. -/
def slateGot (o : SlateOp) (off n : Nat) : List Byte :=
  fit n ((List.range ((n + 4095) / 4096)).flatMap (fun i => tget o.buf (off + 4096 * i) []))

/-- The extents are read in order, narrowed and sent (R580 step 3). -/
def sendExtents (s : State) (k base : Nat) : List Extent → State × Nat
  | [] => (s, 0)
  | e :: l =>
    match slateRead s e.source (e.count * elementSize e.content) with
    | (s, .error st) => (s, st)
    | (s, .ok b) => sendExtents (slateSend s k (base + 2 ^ 20 + 64 * e.data) (narrowBytes e.code b)) k base l

/-- The extents of a template, with their data offsets (R579). -/
def templateExtents (l : List Byte) : List Extent := placeExtents (manifestExtents l) 0

/-- A take's template: a manifest in the package's own stock, or a status (R579). -/
def takeTemplate (s : State) (o : SlateOp) : State × Except Nat (List Byte) :=
  let a := o.cmd.addr.toNat
  let p := splitAddr s a
  if p.1 ≠ ownPkg s ∨ p.2.1 ≠ 2 then (s, .error 8)
  else match slateRead s a 128 with
    | (s, .error e) => (s, .error e)
    | (s, .ok h) =>
      let n := fieldAt h 0x1E 2
      if n = 0 ∨ 4096 < n then (s, .error 8)
      else match slateRead s a (128 + 32 * n) with
        | (s, .error e) => (s, .error e)
        | (s, .ok l) => if (templateExtents l).all (extentOk s) then (s, .ok l) else (s, .error 8)

/-- The keeper is asked for its region (R580 step 1, R584). -/
def sendClaim (s : State) (k : Nat) (o : SlateOp) : State :=
  setSlate (sendRequest s 2 k 0x25 0 (slateTag (ownPkg s)) [] (.slate o.id 0)) .take (some { o with phase := .claiming })

/-- The template is read and checked against the keeper's generations; the headers of both are asked for (R580 step 2, R585). -/
def takeChoose (s : State) (k : Nat) (o : SlateOp) : State :=
  match takeTemplate s o with
  | (s, .error e) => endSlate s .take e
  | (s, .ok l) =>
    if genSize s k < 2 ^ 20 + extentsSize (templateExtents l) then endSlate s .take 4
    else
      let s := modOp s .take (fun o => { o with phase := .choosing, template := l })
      slateWant (slateWant s .take k (genBase s k 0) 128) .take k (genBase s k 1) 128

/-- The target generation is chosen, and state 0 written into its header (R580 step 2, R585). -/
def takeOpen (s : State) (k : Nat) (o : SlateOp) : State :=
  let g := targetGen (slateGot o (genBase s k 0) 128) (slateGot o (genBase s k 1) 128)
  slateSend (modOp s .take (fun o => { o with phase := .opening, gen := g })) k (genBase s k g + 6) [0]

/-- Steps 3 and 4 of a take: every source byte is read and sent, then the slate word shows state 3. -/
def takeData (s : State) (k : Nat) (o : SlateOp) : State :=
  let s := modOp s .take (fun o => { o with phase := .writing })
  match sendExtents s k (genBase s k o.gen) (templateExtents o.template) with
  | (s, 0) => writeWord s o.cmd.step 3 0
  | (s, st) => endSlate s .take st

/-- The reels that a manifest records (R573). -/
def recordedReels (s : State) : List Nat := (frontReel s).toList ++ (drainingReel s).toList ++ (pushedReel s).toList

/-- Step 5 of a take: every data write has been performed, and the manifest is written with state 0. -/
def takeManifest (s : State) (k : Nat) (o : SlateOp) : State :=
  let x := templateExtents o.template
  slateSend (modOp s .take (fun o => { o with phase := .manifest, reels := recordedReels s })) k (genBase s k o.gen)
    (fillHeader s o.template o.cmd.step x ++ x.flatMap extentBytes)

/-- The end of step 5: state 1, written last. -/
def takeClose (s : State) (k : Nat) (o : SlateOp) : State :=
  slateSend (modOp s .take (fun o => { o with phase := .closing })) k (genBase s k o.gen + 6) [1]

/-- Step 6 of a take: 0x7211.03 takes the newest of the reels that the manifest records; with none it stays (R573; log entry
114). -/
def takeEnd (s : State) (o : SlateOp) : State :=
  endSlate (modSlate s (fun e => { e with
    lastStep := o.cmd.step, lastReel := BitVec.ofNat 16 ((newestReel o.reels).getD e.lastReel.toNat) })) .take 0

/-- SLATE_TAKE: the take goes on as far as the answers it awaits allow (R580). -/
def slateTake (s : State) : State :=
  match s.slate.take with
  | none => s
  | some o =>
    let k := keeperPkg s
    if o.acks ≠ 0 then s
    else match o.phase with
      | .requested =>
        if k = 0x1FFF then endSlate s .take 5
        else if s.slate.claimed ≠ some k then sendClaim s k o
        else takeChoose s k o
      | .choosing => takeOpen s k o
      | .opening => takeData s k o
      | .writing => takeManifest s k o
      | .manifest => takeClose s k o
      | .closing => takeEnd s o
      | _ => s

/-- The slots whose operations have requests at other packages. -/
def askingSlot (s : State) (id : Nat) : Option SlateSlot :=
  [SlateSlot.take, .restore].find? (fun k => (slateOp s k).map (·.id) == some id)

/-- A write of n bytes of a take has been performed at the keeper; of a take that has ended, nothing follows. The mark counts the
bytes of data (R580 step 3). -/
def slateAck (s : State) (id n : Nat) : State :=
  match askingSlot s id with
  | some k => modOp s k (fun o => { o with acks := o.acks - 1, mark := o.mark + if o.phase = .writing then n else 0 })
  | none => s

/-- A read of an operation has come. -/
def slateData (s : State) (id off : Nat) (l : List Byte) : State :=
  match askingSlot s id with
  | some k => modOp s k (fun o => { o with acks := o.acks - 1, buf := tput o.buf off l })
  | none => s

/-- A request to the keeper came back: what waits for it fails, with status 10 where a word there is uncorrectable, else with 5,
for the keeper is not reached (R607; log entry 114). -/
def slateUnreachable (s : State) (id reason : Nat) : State :=
  match askingSlot s id with
  | some k => endSlate s k (if reason = 0x60 then 10 else 5)
  | none => s

/-! ### Drains (R587 to R591) -/

/-- Global address of an offset in this package's stock. -/
def stockAddr (s : State) (off : Nat) : Nat := globalOf s (memKey 2 off)

/-- A generation's header holds a step of a source complete. -/
def genHoldsOf (l : List Byte) (src step : Nat) : Bool := genHolds l step && fieldAt l 0x10 2 % 2 ^ 13 == src

/-- The generation of this package's lent region that holds a step of a source. -/
def heldGen (s : State) (src step : Nat) : Option Nat := [0, 1].find? (fun g => genHoldsOf (genHeader s g) src step)

/-- Both headers of the lent region are read: status 10 where one cannot be (R608). -/
def checkHeaders (s : State) : State × Option Nat :=
  onBytes (slateRead s (stockAddr s (genBase s (ownPkg s) 0)) 128) (fun s e => (s, some e)) (fun s _ =>
    onBytes (slateRead s (stockAddr s (genBase s (ownPkg s) 1)) 128) (fun s e => (s, some e)) (fun s _ => (s, none)))

/-- The generation that a drain in progress copies: a write into it waits (R580 step 2). -/
def drainingGen (s : State) : Option Nat :=
  match s.slate.drain with
  | some o => if s.slate.keeperOf = some (resolvePkg s o.cmd.pkg) then heldGen s (resolvePkg s o.cmd.pkg) o.cmd.step else none
  | none => none

/-- A write of n bytes at a stock offset meets the generation being drained. -/
def drainHolds (s : State) (off n : Nat) : Bool :=
  match drainingGen s with
  | some g =>
    let b := genBase s (ownPkg s) g
    decide (off < b + genSize s (ownPkg s) ∧ b < off + n)
  | none => false

/-- A drain that stops short: its host image shows state 0 (R590). -/
def stopDrain (s : State) (host st : Nat) : State := endSlate (emit s (.hostWrite 0 (host + 6) [0])) .drain st

/-- The drain of a generation (R587, R588, R590): the data, then the manifest, its state last. -/
def drainGen (s : State) (o : SlateOp) (src g : Nat) : State :=
  let h := genHeader s g
  let base := genBase s (ownPkg s) g
  let host := o.cmd.addr.toNat
  let marked := (fieldAt h 7 1).testBit 0 || fieldAt h 0x16 2 % 2 ^ 13 != fieldAt h 0x10 2 % 2 ^ 13
  onBytes (slateRead s (stockAddr s base) (2 ^ 20)) (fun s e => endSlate s .drain e) (fun s m =>
    let n := if marked then 0 else extentsSize (manifestExtents m)
    if o.cmd.length.toNat < 2 ^ 20 + n then endSlate s .drain 4
    else if (fnOf s 0).busMaster = false then endSlateHost s .drain
    else
      onBytes (slateRead s (stockAddr s (base + 2 ^ 20)) n) (fun s e => stopDrain s host e) (fun s l =>
        let m := putAt (putAt m 6 [0]) 7 [BitVec.ofNat 8 (withBit (fieldAt h 7 1) 0 marked)]
        let s := if n = 0 then s else emit s (.hostWrite 0 (host + 2 ^ 20) l)
        let s := emit (emit s (.hostWrite 0 host m)) (.hostWrite 0 (host + 6) [1])
        let s := logEvent s 0x1062 srcGaffer (o.cmd.step % 2 ^ 32)
        let s := sendPacket s (mkPacket s 2 false src 0x24 false 0 0 o.cmd.step [])
        endSlate s .drain 0))

/-- SLATE_DRAIN. -/
def slateDrain (s : State) : State :=
  match s.slate.drain with
  | none => s
  | some o =>
    let src := resolvePkg s o.cmd.pkg
    if s.slate.keeperOf ≠ some src then endSlate s .drain 6
    else match checkHeaders s with
      | (s, some e) => endSlate s .drain e
      | (s, none) =>
        match heldGen s src o.cmd.step with
        | none => endSlate s .drain 3
        | some g => drainGen s o src g

/-! ### Restores (R592 to R596) -/

/-- The restoring package is the one a header names, or stands in for it (R592, R601). -/
def ownImage (s : State) (pkg : Nat) : Bool :=
  pkg == idNumber s ||
    (match substitution s with
    | some (slot, _) => pkg == idNumber s / 128 * 128 + slot
    | none => false)

/-- The operation in the restore slot goes to a phase. -/
def restorePhase (s : State) (p : SlatePhase) (g : Nat) : State := modOp s .restore (fun o => { o with phase := p, gen := g })

/-- Widened extents written to their sources' addresses; a status where one fails. -/
def writeExtents (s : State) (o : SlateOp) (base : Nat) : List Extent → State × Nat
  | [] => (s, 0)
  | e :: l =>
    let b := widenBytes e (slateGot o (base + 2 ^ 20 + 64 * e.data) (storedSize e))
    match slateWrite s e.source b with
    | (s, some st) => (s, st)
    | (s, none) => writeExtents s o base l

/-- The lent region of this package becomes free (R586). -/
def freeLent (s : State) : State := modSlate s (fun e => { e with keeperOf := none, revoked := false })

/-- A claim of a keeper's region ends. -/
def endClaim (s : State) (k : Nat) : State :=
  modSlate s (fun e => { e with claimed := if e.claimed = some k then none else e.claimed })

/-- A restore has ended: the lent region it came from becomes free, which only a keeper that is this package shows here, and a
claim of it ends (R586; log entry 51). -/
def restoreEnd (s : State) (k : Nat) : State :=
  endSlate (endClaim (if k = ownPkg s then freeLent s else s) k) .restore 0

/-- RESTORE_FROM_DAILIES: headers, extents and data are read from the keeper, then written. -/
def restoreDailies (s : State) : State :=
  match s.slate.restore with
  | none => s
  | some o =>
    let k := resolvePkg s o.cmd.pkg
    if o.cmd.op ≠ 3 ∨ o.acks ≠ 0 then s
    else match o.phase with
      | .requested =>
        slateWant (slateWant (restorePhase s .headers 0) .restore k (genBase s k 0) 128) .restore k (genBase s k 1) 128
      | .headers =>
        match [0, 1].find? (fun g => genHolds (slateGot o (genBase s k g) 128) o.cmd.step) with
        | none => endSlate s .restore 3
        | some g =>
          let h := slateGot o (genBase s k g) 128
          if headerReserved h = false then endSlate s .restore 8
          else if ownImage s (fieldAt h 0x10 2 % 2 ^ 13) = false then endSlate s .restore 6
          else slateWant (restorePhase s .extents g) .restore k (genBase s k g) (128 + 32 * fieldAt h 0x1E 2)
      | .extents =>
        let base := genBase s k o.gen
        let n := fieldAt (slateGot o base 128) 0x1E 2
        let l := manifestExtents (slateGot o base (128 + 32 * n))
        if l.all (extentOk s) then
          l.foldl (fun s e => slateWant s .restore k (base + 2 ^ 20 + 64 * e.data) (storedSize e)) (restorePhase s .data o.gen)
        else endSlate s .restore 8
      | .data =>
        let base := genBase s k o.gen
        let n := fieldAt (slateGot o base 128) 0x1E 2
        match writeExtents s o base (manifestExtents (slateGot o base (128 + 32 * n))) with
        | (s, 0) => restoreEnd s k
        | (s, st) => endSlate s .restore st
      | _ => s

/-- An entry of a restore list (R593). -/
structure RestoreItem where
  image : Nat
  element : Nat
  count : Nat
  tensor : Nat
  dest : Nat
deriving DecidableEq, Repr

/-- The entries of a restore list. -/
def restoreItems (l : List Byte) (n : Nat) : List RestoreItem :=
  (List.range n).map (fun i =>
    let o := 32 * i
    { image := fieldAt l o 8, element := fieldAt l (o + 8) 8, count := fieldAt l (o + 0x10) 4, tensor := fieldAt l (o + 0x14) 4,
      dest := fieldAt l (o + 0x18) 8 })

/-- Why an item cannot be restored: the host was not reached, or a slate status. -/
inductive ItemFault where
  | host
  | status (v : Nat)
deriving DecidableEq, Repr

/-- The extents of an item's image that hold its tensor, where the image is complete, well formed and no alias (R570, R571, R575,
R593). -/
def itemExtents (h : HostBytes) (x : RestoreItem) : Except ItemFault (List Extent) :=
  let hd := hostBytes h x.image 128
  if hd.length < 128 then .error .host
  else if headerOk hd = false ∨ headerReserved hd = false then .error (.status 8)
  else if fieldAt hd 6 1 ≠ 1 then .error (.status 3)
  else if (fieldAt hd 7 1).testBit 0 then .error (.status 7)
  else
    let n := 128 + 32 * fieldAt hd 0x1E 2
    let l := hostBytes h x.image n
    if l.length < n then .error .host
    else if (manifestExtents l).all extentFieldsOk then .ok ((manifestExtents l).filter (fun e => e.tensor == x.tensor))
    else .error (.status 8)

/-- Every element of an item lies in some extent (R594). -/
def itemCovered (x : RestoreItem) (l : List Extent) : Bool :=
  (List.range x.count).all (fun i => l.any (fun e => decide (e.element ≤ x.element + i ∧ x.element + i < e.element + e.count)))

/-- Every item of a list is checked before any byte is written (R594). -/
def itemsOk (h : HostBytes) : List RestoreItem → Except ItemFault Unit
  | [] => .ok ()
  | x :: l =>
    match itemExtents h x with
    | .error e => .error e
    | .ok ex => if itemCovered x ex then itemsOk h l else .error (.status 7)

/-- The elements of an item that one extent covers are written, widened, to the item's destination. -/
def restoreExtent (s : State) (h : HostBytes) (x : RestoreItem) (e : Extent) : State × Option ItemFault :=
  let lo := max x.element e.element
  let hi := min (x.element + x.count) (e.element + e.count)
  if hi ≤ lo then (s, none)
  else
    let n := storedSize e
    let l := hostBytes h (x.image + 2 ^ 20 + 64 * e.data) n
    if l.length < n then (s, some .host)
    else
      let b := (List.range (hi - lo)).flatMap (fun i => widenElem e l (lo + i - e.element))
      let dst := x.dest + (lo - x.element) * elementSize e.content
      let r := slateWrite s dst b
      (r.1, r.2.map ItemFault.status)

/-- The extents of one item, in entry order. -/
def restoreItem (s : State) (h : HostBytes) (x : RestoreItem) : List Extent → State × Option ItemFault
  | [] => (s, none)
  | e :: l =>
    match restoreExtent s h x e with
    | (s, some f) => (s, some f)
    | (s, none) => restoreItem s h x l

/-- The items of a list, in order. -/
def restoreAllItems (s : State) (h : HostBytes) : List RestoreItem → State × Option ItemFault
  | [] => (s, none)
  | x :: l =>
    match itemExtents h x with
    | .error e => (s, some e)
    | .ok ex =>
      match restoreItem s h x ex with
      | (s, some f) => (s, some f)
      | (s, none) => restoreAllItems s h l

/-- The restore slot's operation ends with what stopped it. -/
def endRestore (s : State) (f : Option ItemFault) : State :=
  match f with
  | none => endSlate s .restore 0
  | some .host => endSlateHost s .restore
  | some (.status v) => endSlate s .restore v

/-- RESTORE_FROM_HOST. -/
def restoreHost (s : State) (h : HostBytes) : State :=
  match s.slate.restore with
  | none => s
  | some o =>
    let a := o.cmd.addr.toNat
    let p := splitAddr s a
    if o.cmd.op ≠ 4 then s
    else if p.1 ≠ ownPkg s ∨ p.2.1 ≠ 2 then endSlate s .restore 8
    else match slateRead s a (32 * o.cmd.length.toNat) with
      | (s, .error e) => endSlate s .restore e
      | (s, .ok l) =>
        let items := restoreItems l o.cmd.length.toNat
        if (fnOf s 0).busMaster = false then endSlateHost s .restore
        else match itemsOk h items with
          | .error e => endRestore s (some e)
          | .ok _ =>
            let r := restoreAllItems s h items
            endRestore r.1 r.2

/-! ### Shard loads (R600 to R604) -/

/-- The shard's extents are copied from host memory to this package's vault and stock (R600). -/
def shardExtents (s : State) (h : HostBytes) : List (List Byte) → State × Option ItemFault
  | [] => (s, none)
  | x :: rest =>
    let n := fieldAt x 0x10 8
    let dst := fieldAt x 8 8
    let p := splitAddr s dst
    if p.1 ≠ ownPkg s ∨ (p.2.1 ≠ 1 ∧ p.2.1 ≠ 2) ∨ fieldAt x 0x18 8 ≠ 0 then (s, some (.status 8))
    else
      let l := hostBytes h (fieldAt x 0 8) n
      if l.length < n then (s, some .host)
      else match slateWrite s dst l with
        | (s, some st) => (s, some (.status st))
        | (s, none) => shardExtents s h rest

/-- A block of a layout record: slice, incoming entries and push entries (R602). -/
def layoutBlocks : Nat → List Byte → List (Nat × List Byte × List Byte)
  | 0, _ => []
  | n + 1, l =>
    let a := 8 * fieldAt l 2 2
    let b := 32 * fieldAt l 4 2
    (fieldAt l 0 2 % 1024, slice l 8 a, slice l (8 + a) b) :: layoutBlocks n (l.drop (8 + a + b))

/-- Bytes of a layout record's blocks in host memory, each found by its own head. -/
def layoutBytes (h : HostBytes) : Nat → Nat → Option (List Byte)
  | 0, _ => some []
  | n + 1, a =>
    let hd := hostBytes h a 8
    let m := 8 + 8 * fieldAt hd 2 2 + 32 * fieldAt hd 4 2
    let l := hostBytes h a m
    if hd.length < 8 ∨ l.length < m then none else (layoutBytes h n (a + m)).map (fun r => l ++ r)

/-- The reel bank directory of a slice from the layout record (table Reel bank directory, R600). -/
def directoryBytes (rec' : List Byte) (blocks : List (Nat × List Byte × List Byte)) (c : Nat) : List Byte :=
  let b := (blocks.find? (fun x => x.1 == c)).getD (c, [], [])
  [0x52, 0x45, 0x45, 0x4C] ++ leBytes 2 1 ++ leBytes 1 (fieldAt rec' 6 1) ++ [0] ++ slice rec' 8 12 ++ zeros 2 ++
    leBytes 2 (b.2.1.length / 8) ++ zeros 4 ++ leBytes 2 (b.2.2.length / 32) ++ zeros 2 ++ slice rec' 0x14 12 ++ zeros 20 ++
    fit 8192 b.2.1 ++ fit 49152 b.2.2 ++ zeros 8128

/-- Both banks empty. -/
def emptyBanks (s : State) : State :=
  setBank (setBank s false { s.reels.bankA with state := .empty }) true { s.reels.bankB with state := .empty }

/-- The directories of every listed slice are written from the layout record (R602, R603). -/
def writeDirectories (s : State) (rec' : List Byte) (blocks : List (Nat × List Byte × List Byte)) : State :=
  let slices := bitmapCores (slice rec' 0x40 128)
  let roles := fieldAt rec' 6 1
  let s := slices.foldl (fun s c => rawWrite s (sliceKey c directoryBase) (directoryBytes rec' blocks c)) s
  let ids := slices.map (fun c => BitVec.ofNat 10 c)
  modReels s (fun r => { r with
    slices := if roles.testBit 0 then ids else [], sources := if roles.testBit 1 then ids else [], arriving := [] })

/-- The banks after a shard load (R603). -/
def shardBanks (s : State) (b : Bool) (reel : Option Nat) : State :=
  match reel with
  | none => emptyBanks s
  | some r =>
    let s := emptyBanks s
    let s := setBank s b { state := .front, reel := BitVec.ofNat 16 r, policy := 0 }
    drainBanks (cueRelease (reelLatch (modReels s (fun x => { x with posted := BitVec.ofNat 16 r, anyPosted := true })) b) r)

/-- The layout record that a shard header names: its first 0xC0 bytes and its blocks. -/
def layoutOf (h : HostBytes) (a : Nat) : Except ItemFault (List Byte × List (Nat × List Byte × List Byte)) :=
  let hd := hostBytes h a 0xC0
  if hd.length < 0xC0 then .error .host
  else if slice hd 0 4 ≠ [0x52, 0x4C, 0x41, 0x59] ∨ fieldAt hd 4 2 ≠ 1 then .error (.status 8)
  else match layoutBytes h (fieldAt hd 0x20 2) (a + 0xC0) with
    | none => .error .host
    | some l => .ok (hd, layoutBlocks (fieldAt hd 0x20 2) l)

/-- A shard header's slate word: none, or 8 naturally aligned bytes of the package's own stock (R577, table Shard header). -/
def slateWordOk (s : State) (a : Nat) : Bool :=
  let p := splitAddr s a
  a == 0 || (a % 8 == 0 && p.1 == ownPkg s && p.2.1 == 2 && decide (p.2.2 + 16 ≤ capacityGiB s * 2 ^ 30))

/-- A shard header's fixed fields (table Shard header). -/
def shardOk (s : State) (l : List Byte) : Bool :=
  slice l 0 4 == [0x53, 0x48, 0x52, 0x44] && fieldAt l 4 2 == 1 && decide (fieldAt l 6 2 < 4) && decide (fieldAt l 0xA 1 < 2) &&
    decide (fieldAt l 0xE 2 ≤ 4096) && fieldAt l 0xB 1 == 0 && (slice l 0x20 32).all (fun b => b == 0) &&
    decide (fieldAt l 8 2 < 2 ^ 13) && slateWordOk s (fieldAt l 0x18 8)

/-- The load of a shard whose header has been read: extents, directories, banks and the slate word. -/
def shardBody (s : State) (h : HostBytes) (l : List Byte) (ext : List Byte) : State × Option ItemFault :=
  match shardExtents s h (chunksOf ext.length 32 ext) with
  | (s, some f) => (emptyBanks s, some f)
  | (s, none) =>
    let flags := fieldAt l 6 2
    let reel := if flags.testBit 1 then some (fieldAt l 0xC 2) else none
    let done (s : State) : State × Option ItemFault :=
      (modSlate (shardBanks s (fieldAt l 0xA 1 == 1) reel) (fun e => { e with word := BitVec.ofNat 64 (fieldAt l 0x18 8) }), none)
    if flags.testBit 0 then
      (match layoutOf h (fieldAt l 0x10 8) with
      | .error f => (emptyBanks s, some f)
      | .ok (r, b) => done (writeDirectories s r b))
    else done s

/-- SHARD_LOAD. -/
def shardLoad (s : State) (h : HostBytes) : State :=
  match s.slate.restore with
  | none => s
  | some o =>
    let a := o.cmd.addr.toNat
    let l := hostBytes h a 64
    if o.cmd.op ≠ 5 then s
    else if (fnOf s 0).busMaster = false ∨ l.length < 64 then endSlateHost s .restore
    else if shardOk s l = false then endSlate s .restore 8
    else if ownImage s (fieldAt l 8 2 % 2 ^ 13) = false then endSlate s .restore 6
    else
      let n := 32 * fieldAt l 0xE 2
      let ext := hostBytes h (a + 64) n
      if ext.length < n then endSlateHost s .restore
      else
        let r := shardBody s h l ext
        endRestore r.1 r.2

/-! ### Release (R586) -/

/-- RELEASE_DAILIES: both manifest headers are zeroed and the region is free. -/
def releaseDailies (s : State) : State :=
  match s.slate.release with
  | none => s
  | some o =>
    if s.slate.keeperOf ≠ some (resolvePkg s o.cmd.pkg) then endSlate s .release 6
    else
      let zero (s : State) (g : Nat) : State := ownWrite s (memKey 2 (genBase s (ownPkg s) g)) (zeros 128)
      endSlate (endClaim (freeLent (zero (zero s 0) 1)) (ownPkg s)) .release 0

/-! ### Commands -/

/-- HOST_SLATE_OPERATION. -/
def execHostSlateOperation (t : Tenant) (s : State) : Host.Outcome State Fault Refusal := .next (hostSlate s t.toNat)
/-- SLATE_WORD_SAMPLE. -/
def execSlateWordSample (s : State) : Host.Outcome State Fault Refusal := .next (wordSample s)
/-- SLATE_TAKE. -/
def execSlateTake (s : State) : Host.Outcome State Fault Refusal := .next (slateTake s)
/-- SLATE_DRAIN. -/
def execSlateDrain (s : State) : Host.Outcome State Fault Refusal := .next (slateDrain s)
/-- RESTORE_FROM_DAILIES. -/
def execRestoreFromDailies (s : State) : Host.Outcome State Fault Refusal := .next (restoreDailies s)
/-- RESTORE_FROM_HOST. -/
def execRestoreFromHost (h : HostBytes) (s : State) : Host.Outcome State Fault Refusal := .next (restoreHost s h)
/-- SHARD_LOAD. -/
def execShardLoad (h : HostBytes) (s : State) : Host.Outcome State Fault Refusal := .next (shardLoad s h)
/-- RELEASE_DAILIES. -/
def execReleaseDailies (s : State) : Host.Outcome State Fault Refusal := .next (releaseDailies s)
/-- DRAIN_NOTICE. -/
def execDrainNotice (port : BitVec 5) (s : State) : Host.Outcome State Fault Refusal := .next (drainNotice s port.toNat)
/-- KEEPER_CLAIM. -/
def execKeeperClaim (port : BitVec 5) (s : State) : Host.Outcome State Fault Refusal := .next (keeperClaim s port.toNat)
/-- CLAIM_STATUS. -/
def execClaimStatus (port : BitVec 5) (s : State) : Host.Outcome State Fault Refusal := .next (claimStatus s port.toNat)

end Sys2Proof.Machine
end

