-- ==== Sys2Proof/Machine/Frame.lean ====
section
/-!
DEFINITION. Packets of other packages as this one applies them (15_pass_links.md R632, R636, R644): messages and reservations,
tile writes, reads and writes, and their answers; tenant-gone and revocation notices (08_faults_preemption.md R361, R363).
-/
namespace Sys2Proof.Machine

/-! ### Requests at their destination -/

/-- Why a tenant's entries do not reach a granule of this package's vault or stock, by its physical place, with a right (R324, R636;
the source has translated, log entry 52). -/
def physDenied (s : State) (t space off right : Nat) : Option MemErr :=
  let l := (segTable s t).filter (fun e => e.valid && e.space == space && (e.pkg == 0x1FFF || e.pkg == ownPkg s) &&
    decide (e.phys ≤ off / 2 ^ 21 ∧ off / 2 ^ 21 < e.phys + e.len))
  if t = 0 ∨ l.any (fun e => e.grants right) then none
  else some ⟨if l = [] then fTranslation else fRights, if l = [] then space else right, globalOf s (memKey space off)⟩

/-- Why the sender of a packet may not touch the byte at an offset of a space (R325, R636). -/
def byteDenied (s : State) (t space off right : Nat) : Option MemErr :=
  match space with
  | 0 => if t = 0 ∨ sameTenant s t 0 off then none else some ⟨fRights, 4, 0⟩
  | 1 => physDenied s t 1 off right
  | 2 => physDenied s t 2 off right
  | _ => some ⟨fAddress, space, 0⟩

/-- Why the sender of a packet may not touch n bytes of a space. -/
def packetDenied (s : State) (t space off n right : Nat) : Option MemErr :=
  (byteDenied s t space off right).orElse (fun _ => byteDenied s t space (off + n - 1) right)

/-- The reason in an undeliverable answer that tells why a destination refused an access, beyond those of the table Packet
operations; and the fault that it is at the source (R325, R350; log entry 48). -/
def refusalReason (e : MemErr) : Nat :=
  if e.code = fAddress then 0x20 + e.detail % 16
  else if e.code = fTranslation then 0x30 + e.detail % 16
  else if e.code = fRights then 0x40 + e.detail % 16
  else if e.code = fTarget then 0x50 + e.detail % 16
  else 0x60 + e.detail % 16
def refusalFault (reason phys : Nat) : Option MemErr :=
  match reason / 16 with
  | 2 => some ⟨fAddress, reason % 16, phys⟩
  | 3 => some ⟨fTranslation, reason % 16, phys⟩
  | 4 => some ⟨fRights, reason % 16, phys⟩
  | 5 => some ⟨fTarget, reason % 16, phys⟩
  | 6 => some ⟨fUncorrectable, reason % 16, phys⟩
  | _ => none

/-- A request that this package cannot perform is answered undeliverable with what stops it (log entry 48). -/
def cannot (s : State) (p : Packet) (e : MemErr) : State := undeliverable s p (refusalReason e)

/-- The core of a destination address in space 0x0. -/
def destCore (arg : Nat) : Nat := arg / 2 ^ 21 % 1024

/-- The status of a message, reservation or tile write goes back, where it is asked for (R636). -/
def sendStatus (s : State) (p : Packet) (v : Nat) : State :=
  if p.wantsAnswer then answer s p 0x18 p.arg (leBytes 1 v) else s

/-- The message of a message packet: its header, then its payload (R208, R632). -/
def msgOf (l : List Byte) : Msg :=
  { pkg := BitVec.ofNat 13 (fieldAt l 0 2), core := BitVec.ofNat 10 (fieldAt l 2 2), tenant := BitVec.ofNat 12 (fieldAt l 4 2),
    userTag := BitVec.ofNat 16 (fieldAt l 8 2), crossed := true, seq := BitVec.ofNat 32 (fieldAt l 0xC 4),
    num := BitVec.ofNat 32 (fieldAt l 0xC 4),
    payload := slice l 16 (fieldAt l 6 2) }

/-- MESSAGE_PACKET (R207, R212, R213). -/
def messagePacket (s : State) (port : Nat) : State :=
  match takePacket s port 0x10 with
  | none => s
  | some (s, p) =>
    let r := placeMsg s (destCore p.arg) (fieldAt p.body 0xA 1 % 16) (msgOf p.body)
    sendStatus r.1 p r.2

/-- TILE_WRITE_PACKET (R260, R264, R636). -/
def tileWritePacket (s : State) (port : Nat) : State :=
  match takePacket s port 0x11 with
  | none => s
  | some (s, p) =>
    let a := splitAddr s p.arg
    let st := tileStatus s p.tenant a.2.1 a.2.2 p.body.length
    if st ≠ 0 then sendStatus s p st
    else match physWrite s 0 a.2.2 p.body .engine with
      | (s, _, none) => sendStatus s p 0
      | (s, _, some e) => cannot s p e

/-- RESERVE_PACKET (R206, R207); the packet names no group of its sender (log entry 95). -/
def reservePacket (s : State) (port : Nat) : State :=
  match takePacket s port 0x12 with
  | none => s
  | some (s, p) =>
    let tag := fieldAt p.body 4 4
    let r := reserveSlot s (destCore p.arg) (fieldAt p.body 0 1) (tag / 2 ^ 10 % 2 ^ 13) (tag % 2 ^ 10) none p.tenant
    sendStatus r.1 p r.2

/-- UNRESERVE_PACKET (R206). -/
def unreservePacket (s : State) (port : Nat) : State :=
  match takePacket s port 0x13 with
  | none => s
  | some (s, p) =>
    let tag := fieldAt p.body 4 4
    sendStatus (freeSlot s (destCore p.arg) (fieldAt p.body 0 1) (tag / 2 ^ 10 % 2 ^ 13) (tag % 2 ^ 10)) p 0

/-- READ_PACKET: the bytes go back, or why they cannot be read; only a request of the operator context reads a reel bank directory
(R282, R327). -/
def readPacket (s : State) (port : Nat) : State :=
  match takePacket s port 0x20 with
  | none => s
  | some (s, p) =>
    let n := fieldAt p.body 0 4
    let a := splitAddr s p.arg
    match packetDenied s p.tenant a.2.1 a.2.2 n rightRead with
    | some e => cannot s p e
    | none =>
      match readAs (granules n) s (if p.tenant = 0 then .operatorLoad else .engine) 0 p.arg n with
      | (s, l, none) => answer s p 0x28 p.arg l
      | (s, _, some e) => cannot s p e

/-- WRITE_PACKET: the bytes are performed; a record of a home ring goes to its ring port (R518), and a release index written to
a ring head is taken (R519). A write into a generation that is being drained waits at its port (R580 step 2). -/
def writePacket (s0 : State) (port : Nat) : State :=
  match takePacket s0 port 0x21 with
  | none => s0
  | some (s, p) =>
    let a := splitAddr s p.arg
    if a.2.1 = 2 ∧ drainHolds s a.2.2 p.body.length then s0
    else
    let done (s : State) : State := if p.wantsAnswer then answer s p 0x29 p.arg [] else s
    match packetDenied s p.tenant a.2.1 a.2.2 p.body.length rightWrite with
    | some e => cannot s p e
    | none =>
      match ringSlot s a.2.1 a.2.2 p.body with
      | some (k, i) => done (recordArrives s k i p.body)
      | none =>
        match writeAs (granules p.body.length) s .engine 0 p.arg p.body with
        | (s, _, none) => done s
        | (s, _, some e) => cannot s p e

/-! ### Answers at their source -/

/-- A core's control processor waits for the answer of a tag (R340). -/
def awaits (s : State) (c tag : Nat) : Bool := (coreOf s c).waiting.contains tag

/-- The answer of a tag has come; the pc moves on when none is awaited. -/
def answered (s : State) (c tag : Nat) : State :=
  modCore s c (fun k =>
    let w := k.waiting.erase tag
    if w = [] then pcNext { k with waiting := w } else { k with waiting := w })

/-- A status is written to a register and the instruction ends. -/
def statusResult (s : State) (c tag d v : Nat) : State := answered (modCore s c (fun k => setReg k d v)) c tag

/-- A sequence that was counted for a message that was not placed is given back (R208; log entry 35). -/
def unbumpSeq (s : State) (c pkg dst mb : Nat) : State :=
  modNet s (fun n => { n with remoteSeq := tmod n.remoteSeq (senderKey pkg dst mb * 1024 + c) 0 (fun v => v - 1) })

/-- SEND_STATUS_PACKET: a reservation, a send, an unreserve or a tile write ends with its status (R207, R258, R636). -/
def sendStatusPacket (s : State) (port : Nat) : State :=
  match takePacket s port 0x18 with
  | none => s
  | some (s, p) =>
    let v := fieldAt p.body 0 1
    match takeOutstanding s p.tag with
    | (s, some (.core c k)) =>
      let c := c.toNat
      match k with
      | .tile tag stage => tileAnswer s c tag stage v
      | .reserve d pkg dst mb =>
        if awaits s c p.tag then statusResult (if v = 0 then addResv s c pkg dst mb else s) c p.tag d v else s
      | .send d pkg dst mb =>
        let s := if v = 0 then dropResv s c pkg dst mb else unbumpSeq s c pkg dst mb
        if awaits s c p.tag then statusResult s c p.tag d v else s
      | .unreserve => if awaits s c p.tag then answered s c p.tag else s
      | _ => s
    | (s, _) => s

/-- What a remote load leaves in its register when one part has come: the whole value where it is the only part (shift 8), else
the part at its byte beside what came before. -/
def loadPart (old shift v : Nat) : Nat := if shift = 8 then v else old ||| v * 2 ^ (8 * shift)

/-- READ_DATA_PACKET: a load, a part of a DMA transfer or a slate read has its bytes. -/
def readDataPacket (s : State) (port : Nat) : State :=
  match takePacket s port 0x28 with
  | none => s
  | some (s, p) =>
    match takeOutstanding s p.tag with
    | (s, some (.core c k)) =>
      let c := c.toNat
      match k with
      | .load d shift _ =>
        if awaits s c p.tag then
          answered (modCore s c (fun k => setReg k d (loadPart (reg k d) shift (leNat p.body)))) c p.tag
        else s
      | .dmaRead tag pos n dst => dmaDeliver s c tag pos dst (fit n p.body)
      | _ => s
    | (s, some (.slateRead id off)) => slateData s id off p.body
    | (s, _) => s

/-- WRITE_DONE_PACKET: a store, a part of a DMA transfer, a record or a slate write has been performed; with tag 0 a reel frame
(R497). -/
def writeDonePacket (s : State) (port : Nat) : State :=
  match takePacket s port 0x29 with
  | none => s
  | some (s, p) =>
    if p.tag = 0 then framePerformed s p.src p.arg
    else match takeOutstanding s p.tag with
    | (s, some (.core c k)) =>
      let c := c.toNat
      match k with
      | .store _ => if awaits s c p.tag then answered s c p.tag else s
      | .dmaWrite tag pos _ => dmaPart s c tag pos
      | _ => s
    | (s, some (.slate id n)) => slateAck s id n
    | (s, _) => s

/-- A package has answered, or cannot be reached, with a revocation notice: step 4 of the table Fault recovery waits for one
less (R361). -/
def noticeAnswered (s : State) (tag pkg : Nat) : State :=
  { s with cores := s.cores.map (fun e =>
      if tag = (Tag.core (ownPkg s) e.1).encode then (e.1, { e.2 with revoking := e.2.revoking.filter (fun k => k != pkg) })
      else e) }

/-- A package has answered, or cannot be reached, with a tenant-gone notice (R364). -/
def goneAnswered (s : State) (t pkg : Nat) : State :=
  modTq s t (fun q => { q with awaiting := q.awaiting.filter (fun k => k != pkg) })

/-- A reel frame came back: the push entry that the answer names with its destination is held and offers again from its mark
(R524, R644; log entry 45). -/
def frameReturned (s : State) (arg : Nat) : State :=
  if arg % 8 = frameOffer ∨ arg % 8 = frameData ∨ arg % 8 = frameDone then
    (match findPush s (arg / 2 ^ 39 % 2 ^ 13) (arg / 2 ^ 13 % 1024) (arg / 2 ^ 3 % 1024) (arg / 2 ^ 23 % 65536) with
    | some (c, i) => setPushState s c i 2
    | none => s)
  else s

/-- The address as issued of a part of a core's DMA command. -/
def dmaIssued (s : State) (c : Nat) (tag : Byte) (at' : DmaCmd → Nat) : Nat := ((dmaCmd s c tag).map at').getD 0

/-- A core's transfer to another package came back undeliverable: fault 0x0601 with the target package (R644), or the fault that a
refusal at the target is (R325); with the address as issued and the one after translation (R332). -/
def transferLost (s : State) (c tag target arg reason : Nat) (k : RemoteKind) : State :=
  let e := (refusalFault reason arg).getD ⟨fPathLost, target, arg⟩
  let lost (m : Engine) (t addr : Nat) (s : State) : State := memFault s c m t e addr
  match k with
  | .load _ _ a => if awaits s c tag then lost .control 0 a s else s
  | .store a => if awaits s c tag then lost .control 0 a s else s
  | .reserve _ _ _ _ => if awaits s c tag then lost .message 0 arg s else s
  | .send _ _ _ _ => if awaits s c tag then lost .message 0 arg s else s
  | .unreserve => if awaits s c tag then lost .message 0 arg s else s
  | .tile t _ => if (headCmd s c).isSome then lost .arrays t.toNat arg s else s
  | .dmaRead t pos _ _ => dmaFail s c t pos e (dmaIssued s c t (fun d => d.srcAt pos))
  | .dmaWrite t pos _ => dmaFail s c t pos e (dmaIssued s c t (fun d => d.dstAt pos))

/-- UNDELIVERABLE_PACKET (R529, R607, R644, R364). -/
def undeliverablePacket (s : State) (port : Nat) : State :=
  match takePacket s port 0x2F with
  | none => s
  | some (s, p) =>
    if p.tag = 0 then frameReturned s p.arg
    else match takeOutstanding s p.tag with
      | (s, some (.core c k)) => transferLost s c.toNat p.tag (p.arg / 2 ^ 51) p.arg (fieldAt p.body 0 1) k
      | (s, some (.record k i b)) => recordReturned s k i b
      | (s, some (.ringAsk k)) => ringAsk (modRing s k (fun r => { r with asked := 0 })) k
      | (s, some (.slate id _)) => slateUnreachable s id (fieldAt p.body 0 1)
      | (s, some (.slateRead id _)) => slateUnreachable s id (fieldAt p.body 0 1)
      | (s, some (.notice t k)) => noticeAnswered s t k
      | (s, some (.gone t k)) => goneAnswered s t.toNat k
      | (s, _) => s

/-! ### Notices (R359 to R365, R369) -/

/-- A holder tag that a revocation notice names (table Holder tag). -/
def revokeTag (s : State) (tag : Nat) : State :=
  match tag / 2 ^ 28 % 16 with
  | 1 => revokeHomes s (.core (tag / 2 ^ 10 % 2 ^ 13) (tag % 2 ^ 10))
  | 2 => revokeHomes s (.group (tag / 2 ^ 8 % 2 ^ 13) (tag % 2 ^ 8))
  | 3 => revokeHomes s (.tenant (tag / 2 ^ 12 % 2 ^ 13) (tag % 2 ^ 12))
  | 9 =>
    let pkg := tag % 2 ^ 13
    let s := revokeReelSource s pkg
    if s.slate.keeperOf = some pkg then modSlate s (fun e => { e with revoked := true }) else s
  | _ => s

/-- REVOCATION_NOTICE (R361). -/
def revocationNotice (s : State) (port : Nat) : State :=
  match takePacket s port 0x03 with
  | none => s
  | some (s, p) => answer (revokeTag s (p.arg % 2 ^ 32)) p 0x04 p.arg []

/-- REVOCATION_ACKNOWLEDGEMENT (R361). -/
def revocationAck (s : State) (port : Nat) : State :=
  match takePacket s port 0x04 with
  | none => s
  | some (s, p) => noticeAnswered (takeOutstanding s p.tag).1 (p.arg % 2 ^ 32) p.src

/-- TENANT_GONE_NOTICE (step 3 of the table Tenant reset; R369). -/
def goneNotice (s : State) (port : Nat) : State :=
  match takePacket s port 0x01 with
  | none => s
  | some (s, p) =>
    let a := p.arg % 2 ^ 13
    let t := p.arg / 2 ^ 16 % 2 ^ 12
    let s' := if tenantResetting s t then s
      else
        let s := faultGroups s (fun g => groupTenant s g == t) fTenantGone a
        dropHeld (revokeHomes s (.tenant a t)) (fun c r => r.pkg.toNat == a && coreTenant s c == t)
    answer s' p 0x02 p.arg []

/-- TENANT_GONE_ACKNOWLEDGEMENT (step 4 of the table Tenant reset). -/
def goneAck (s : State) (port : Nat) : State :=
  match takePacket s port 0x02 with
  | none => s
  | some (s, p) => goneAnswered (takeOutstanding s p.tag).1 (p.arg / 2 ^ 16 % 2 ^ 12) p.src

/-! ### Commands -/

/-- MESSAGE_PACKET. -/
def execMessagePacket (port : BitVec 5) (s : State) : Host.Outcome State Fault Refusal := .next (messagePacket s port.toNat)
/-- TILE_WRITE_PACKET. -/
def execTileWritePacket (port : BitVec 5) (s : State) : Host.Outcome State Fault Refusal := .next (tileWritePacket s port.toNat)
/-- RESERVE_PACKET. -/
def execReservePacket (port : BitVec 5) (s : State) : Host.Outcome State Fault Refusal := .next (reservePacket s port.toNat)
/-- UNRESERVE_PACKET. -/
def execUnreservePacket (port : BitVec 5) (s : State) : Host.Outcome State Fault Refusal := .next (unreservePacket s port.toNat)
/-- SEND_STATUS_PACKET. -/
def execSendStatusPacket (port : BitVec 5) (s : State) : Host.Outcome State Fault Refusal :=
  .next (sendStatusPacket s port.toNat)
/-- READ_PACKET. -/
def execReadPacket (port : BitVec 5) (s : State) : Host.Outcome State Fault Refusal := .next (readPacket s port.toNat)
/-- WRITE_PACKET. -/
def execWritePacket (port : BitVec 5) (s : State) : Host.Outcome State Fault Refusal := .next (writePacket s port.toNat)
/-- READ_DATA_PACKET. -/
def execReadDataPacket (port : BitVec 5) (s : State) : Host.Outcome State Fault Refusal := .next (readDataPacket s port.toNat)
/-- WRITE_DONE_PACKET. -/
def execWriteDonePacket (port : BitVec 5) (s : State) : Host.Outcome State Fault Refusal := .next (writeDonePacket s port.toNat)
/-- UNDELIVERABLE_PACKET. -/
def execUndeliverablePacket (port : BitVec 5) (s : State) : Host.Outcome State Fault Refusal :=
  .next (undeliverablePacket s port.toNat)
/-- REVOCATION_NOTICE. -/
def execRevocationNotice (port : BitVec 5) (s : State) : Host.Outcome State Fault Refusal := .next (revocationNotice s port.toNat)
/-- REVOCATION_ACKNOWLEDGEMENT. -/
def execRevocationAcknowledgement (port : BitVec 5) (s : State) : Host.Outcome State Fault Refusal :=
  .next (revocationAck s port.toNat)
/-- TENANT_GONE_NOTICE. -/
def execTenantGoneNotice (port : BitVec 5) (s : State) : Host.Outcome State Fault Refusal := .next (goneNotice s port.toNat)
/-- TENANT_GONE_ACKNOWLEDGEMENT. -/
def execTenantGoneAcknowledgement (port : BitVec 5) (s : State) : Host.Outcome State Fault Refusal := .next (goneAck s port.toNat)

end Sys2Proof.Machine
end

