-- ==== Sys2Proof/Machine/DictBase.lean ====
section
/-!
DEFINITION. What every dictionary access shares (03_dictionary.md R80 to R82, R92, R103, R109 to R115, R135): its role, its
tenant context and holder tag, the response body, and the carrier that takes the response.
-/
namespace Sys2Proof.Machine

/-! ### Role, context, holder (R80, R81, R92) -/

/-- The operator role, or the service role while debug is unlocked in SERVICE (R81). -/
def operatorRole (s : State) : Role := if lifeState s = 3 ∧ s.gaffer.debug then .service else .operator

/-- The tenant context bound to virtual function f, 0x8010+f; none while it is unbound (R157). -/
def boundTenant (s : State) (f : Nat) : Option Nat :=
  let v := valNat s (0x8010 + f) 0 0 0x8000
  if v < 4096 then some v else none

/-- Tenant context of a path (R80, R92); none for a virtual function that is bound to no tenant. -/
def pathTenant (s : State) : DictPath → Option Nat
  | .window f => if f = 0 then some 0 else boundTenant s f.toNat
  | .coreWindow g => some (groupTenant s g.toNat)
  | .queue t => some t.toNat
  | .spi => some 0
  | .field _ => some 0
  | .gaffer => some 0

/-- Role of a path (table Roles by path); a function bound to no tenant has none. -/
def pathRole (s : State) (p : DictPath) : Option Role :=
  match p with
  | .window f => if f = 0 then some (operatorRole s) else (boundTenant s f.toNat).map (fun _ => Role.tenant)
  | .coreWindow g => some (if groupTenant s g.toNat = 0 then operatorRole s else .tenant)
  | .queue t => some (if t = 0 then operatorRole s else .tenant)
  | .spi => some (operatorRole s)
  | .field _ => some .field
  | .gaffer => some .system

/-- Holder tag of a path (R92). The spec does not say whether the space 0x4 windows of two core groups of a tenant are one
holder: each group's window is its own here (DESIGN CHOICE, log entry 108). -/
def holderOf (s : State) (p : DictPath) : Holder := { path := p, tenant := BitVec.ofNat 12 ((pathTenant s p).getD 0) }

/-- A path carries a tenant's own accesses: a virtual function, a queue pair, a core group's window. -/
def pathOfTenant : DictPath → Bool
  | .window f => f != 0
  | .coreWindow _ => true
  | .queue _ => true
  | _ => false

/-- Data limit of a path (table Path limits); the Gaffer's own accesses have none. -/
def pathLimit : DictPath → Nat
  | .window _ => 2032
  | .coreWindow _ => 2032
  | .queue _ => 32768
  | .spi => 1024
  | .field _ => 48
  | .gaffer => 65535

/-! ### The response body (R103) -/

/-- A response to a body of an opcode, with a status, the type code, the commit count and the value's full length (R103). -/
def response (op : Byte) (a : Access) (status ty count total : Nat) (data : List Byte) : Response :=
  { opcode := op ||| 0x80, type := BitVec.ofNat 8 (if status = 1 ∨ status = 2 ∨ status = 3 then 0 else ty), index := a.index,
    sub := a.sub, count := BitVec.ofNat 8 count, status := BitVec.ofNat 16 status, total := BitVec.ofNat 32 total,
    length := BitVec.ofNat 16 data.length, tag := a.tag, data := data }

/-- The bytes of a response (table Access response body). -/
def Response.bytes (r : Response) : List Byte :=
  [r.opcode, r.type] ++ leBytes 2 r.index.toNat ++ [r.sub, r.count] ++ leBytes 2 r.status.toNat ++ leBytes 4 r.total.toNat ++
    leBytes 2 r.length.toNat ++ leBytes 2 r.tag.toNat ++ r.data

/-- The instance of a per-tenant entry that an access reaches (R82). -/
def instanceOf (s : State) (a : Access) (d : Desc) : Nat :=
  if d.perTen then (if pathRole s a.path = some .tenant then (pathTenant s a.path).getD 0 else a.sel.toNat % 4096) else 0

/-- Full length of an entry's value: every entry has one size but 0x9004, which holds the records present (R158). -/
def valueLen (s : State) (i : Nat) (d : Desc) : Nat := if i = 0x9004 then 72 * s.can.alarms.length else d.dflt.length

/-- Commit count of a record's instance (R93). -/
def countOf (s : State) (i ten : Nat) : Nat := (tget s.dict.counts (dictKey i 0 ten) 0).toNat

/-- The response to an access as the machine stands (R103): nothing of the entry after abort 0x0001, 0x0002 or 0x0003. -/
def reply (s : State) (op : Byte) (a : Access) (status : Nat) (data : List Byte) : Response :=
  let i := a.index.toNat
  match desc i a.sub.toNat with
  | none => response op a status 0 0 0 data
  | some d =>
    if status = 1 ∨ status = 2 ∨ status = 3 then response op a status 0 0 0 data
    else response op a status d.ty (if isRecord i then countOf s i (instanceOf s a d) else 0) (valueLen s i d) data

/-! ### Carriers (R109, R111, R113 to R115, R719 to R721, R751, R768) -/

/-- The MSI-X vector of a host window (R706); a core group's window raises none (R111). -/
def windowVector (w : Nat) : Option Nat :=
  if w = 0 then some 2047 else if w < 32 then some (2048 + 64 * (w - 1) + 63) else none

/-- A slot of a host window completes (R109, R111); a window that a reset has cleared meanwhile takes nothing (R135). -/
def respondSlot (s : State) (w n : Nat) (r : Response) : State :=
  let k := winOf s w
  if k.busy.toNat.testBit n then
    let s := modWin s w (fun k => { k with
      bytes := cellWrite k.bytes (n * 0x1000 + 0x800) r.bytes
      busy := BitVec.ofNat 16 (withBit k.busy.toNat n false)
      done := BitVec.ofNat 16 (withBit k.done.toNat n true) })
    match windowVector w with
    | some v => raiseVector s v
    | none => s
  else s

/-- Completion status of a dictionary access (R721). -/
def accessStatus (code : Nat) : Nat := if code = 0 then 0 else if code = 0x000E then 1 else 4

/-- 0x4400+g.01 (R153). -/
def GState.code : GState → Nat
  | .idle => 0
  | .running => 1
  | .preempted => 2
  | .fenced => 3
  | .lost => 4

/-- A group control command's write of 0x4300+g completes (R719, R721, R723): an accepted one with flag [0] goes on waiting
(R724). -/
def groupControlled (s : State) (t : Nat) (c : HostCmd) (code : Nat) : State :=
  let k := groupOf s (fieldAt c.entry.body 0 1)
  if code = 0 ∧ (fieldAt c.entry.body 2 1).testBit 0 = true then s
  else finishCmd s t c.index
    { plainDone (accessStatus code) with result := code + k.state.code * 2 ^ 16, second := k.lastFault.toNat }

/-- A host command's access completes (R113, R719, R720): its data inline where it fits and no data address is given, or
written to the data address, up to the data length. -/
def respondCommand (s : State) (t i : Nat) (r : Response) : State :=
  let code := r.status.toNat
  let x : Completion :=
    { status := accessStatus code, result := code + r.type.toNat * 2 ^ 16 + r.count.toNat * 2 ^ 24, length := r.data.length,
      second := r.total.toNat, inline := [] }
  match (tqOf s t).cmds.find? (fun c => c.index == i) with
  | none => s
  | some c =>
    if c.entry.opcode = 2 then groupControlled s t c code
    else if c.entry.dataAddr = 0 then finishCmd s t i { x with inline := if r.data.length ≤ 12 then r.data else [] }
    else if r.data = [] then finishCmd s t i x
    else if (fnOf s (queueFn s t)).busMaster then
      finishCmd (emit s (.hostWrite (BitVec.ofNat 5 (queueFn s t)) c.entry.dataAddr (r.data.take c.entry.dataLen))) t i
        { x with length := min r.data.length c.entry.dataLen }
    else finishCmd s t i (plainDone 5)

/-- A dictionary response on the field bus (R751): the request's class and tag, its source as destination. -/
def respondCan (s : State) (id : BitVec 29) (r : Response) : State :=
  let n := id.toNat
  canSendFd (modCan s (fun c => { c with pending := c.pending.erase id }))
    (fieldIdent (n / 2 ^ 26) (n / 2 ^ 12) s.can.node 2 n) r.bytes

/-- The response of an access goes to its carrier; it is also kept as the last one. -/
def respond (s : State) (c : Carrier) (r : Response) : State :=
  let s := modDict s (fun d => { d with response := some r })
  match c with
  | .direct => s
  | .slot win n => respondSlot s (winNum win) n r
  | .command t i => respondCommand s t.toNat i r
  | .spi => modSpi s (fun p => { p with waiting := false, response := some r })
  | .can id => respondCan s id r

/-! ### Pending accesses (R108, R135) -/

/-- Pending accesses whose path p names are cancelled: each completes with 0x0013 (R135). -/
def cancelAccesses (s : State) (p : DictPath → Bool) : State :=
  let s := match s.dict.awaiting with
    | some w =>
      if p w.effect.holder.path then
        respond (cutAwaiting s) w.carrier { w.resp with status := 0x0013, length := 0, data := [] }
      else s
    | none => s
  let out := s.dict.queued.filter (fun x => p x.2.1.path)
  let s := modDict s (fun d => { d with queued := d.queued.filter (fun x => !p x.2.1.path) })
  out.foldl (fun s x => respond s x.2.2 (reply s x.1 x.2.1 0x0013 [])) s

end Sys2Proof.Machine
end

