-- ==== Sys2Proof/Machine/FieldBus.lean ====
section
/-!
DEFINITION. The CAN FD field port (18_field_ports.md R747 to R761, R794, R795): automatic rate detection, heartbeat, field time,
the alarm buffer, and what it answers to a partner that breaks the protocol.
-/
namespace Sys2Proof.Machine

/-! ### Rates (R759, R760, R865) -/

/-- Codes of the table Auto-baud states. -/
def CanState.code : CanState → Nat
  | .standby => 0
  | .nominalSearch => 1
  | .dataSearch => 2
  | .lockedSilent => 3
  | .active => 4
  | .busOff => 5

/-- 0x9003.02: nominal and data code (R158). Before the rates are locked, of which the spec says nothing, it shows the codes that
are being tried (DESIGN CHOICE, log entry 108). -/
def lockedRates (s : State) : Nat := s.can.nominal + 16 * s.can.data

/-- Heartbeat payload with a field time (table Heartbeat payload). -/
def heartbeatBytes (s : State) (time : Nat) : List Byte :=
  [BitVec.ofNat 8 (lifeState s),
   BitVec.ofNat 8 (b2n s.gaffer.dictReady + 2 * b2n s.power.hold + 4 * b2n (s.can.alarms != []))] ++
  leBytes 2 (BitVec.ofInt 16 s.power.junction).toNat ++ leBytes 4 s.gaffer.readiness.toNat ++ leBytes 8 time

/-- A heartbeat: a broadcast in class 6, whose tag rises by one (R754). -/
def sendHeartbeat (s : State) (time : Nat) : State :=
  let s' := canSendFd s (fieldIdent 6 0 s.can.node 4 s.can.hbTag) (heartbeatBytes s time)
  modCan s' (fun c => { c with hbTag := (c.hbTag + 1) % 256 })

/-- The field port becomes active: readiness bit [2], and a heartbeat (R754, R759). How long ago the last time sync came is not
known here, so the field time of that heartbeat is a free value where one came (log entry 55). -/
def canActive (s : State) : State :=
  let s := setReady (modCan s (fun c => { c with state := .active, fromActive := false })) 2
  match s.can.time with
  | none => sendHeartbeat s 0
  | some _ => sendHeartbeat (useFree s 1) (freeAt s 0)

/-- Locked and silent: event 0x1040 (R760), and active at once where the dictionary is ready (R759). -/
def canLocked (s : State) (nominal data : Nat) : State :=
  let s := modCan s (fun c => { c with
    state := .lockedSilent, nominal := nominal, data := data, valid := 0, errors := 0, sawBrs := false, fromActive := false })
  let s := logEvent s 0x1040 (srcField 0) (lockedRates s)
  if s.gaffer.dictReady then canActive s else s

/-- The search at its first rate set; a fixed rate is skipped (R759). -/
def canSearch (s : State) : State :=
  let n := s.can.fixedNominal
  let d := s.can.fixedData
  if n ≠ 0 ∧ d ≠ 0 then canLocked s n d
  else modCan s (fun c => { c with
    state := if n = 0 then .nominalSearch else .dataSearch
    nominal := if n = 0 then 1 else n
    data := if d = 0 then 1 else d
    valid := 0
    errors := 0
    sawBrs := false
    fromActive := false })

/-- The next rate set of the nominal search: data codes within each nominal code (R759). -/
def nextSet (c : Can) : Can :=
  let wrap := c.fixedData != 0 || c.data == 4
  { c with
    nominal := if wrap then c.nominal % 4 + 1 else c.nominal
    data := if c.fixedData ≠ 0 then c.data else c.data % 4 + 1
    valid := 0
    sawBrs := false }

/-- CAN_STANDBY_EXIT: 70 ms after PWR_OK, CAN_STBY goes low and the search starts (R759, R860 step 9). -/
def canExit (s : State) : State :=
  if s.can.state = .standby ∧ s.pins.pwrOk ∧ s.gaffer.inReset = false then
    canSearch (modPins s (fun p => { p with canStby := false }))
  else s

/-- A frame during the nominal search (table Auto-baud transitions). -/
def nominalFrame (s : State) (valid brs : Bool) : State :=
  if valid = false then modCan s nextSet
  else if s.can.valid + 1 < 3 then
    modCan s (fun c => { c with valid := c.valid + 1, sawBrs := c.sawBrs || brs })
  else if s.can.sawBrs ∨ brs ∨ s.can.fixedData ≠ 0 then canLocked s s.can.nominal s.can.data
  else modCan s (fun c => { c with state := .dataSearch, data := 1, valid := 0, errors := 0, sawBrs := false })

/-- A frame during the data search (table Auto-baud transitions); a search entered from active logs 0x1040 when it ends (R760). -/
def dataFrame (s : State) (valid brs : Bool) : State :=
  match valid, brs with
  | true, true =>
    if s.can.valid + 1 < 3 then modCan s (fun c => { c with valid := c.valid + 1, errors := 0 })
    else canLocked s s.can.nominal s.can.data
  | true, false => modCan s (fun c => { c with errors := 0 })
  | false, true => modCan s (fun c => { c with data := c.data % 4 + 1, valid := 0, errors := 0 })
  | false, false =>
    if s.can.errors + 1 < 3 then modCan s (fun c => { c with errors := c.errors + 1, valid := 0 })
    else
      let s' := if s.can.fromActive then logEvent s 0x1040 (srcField 0) (lockedRates s) else s
      canSearch s'

/-- CAN_SEARCH_FRAME. -/
def canFrameSeen (s : State) (valid brs : Bool) : State :=
  match s.can.state with
  | .nominalSearch => nominalFrame s valid brs
  | .dataSearch => dataFrame s valid brs
  | _ => s

/-- Either rate is automatic (R759). -/
def canAutomatic (s : State) : Bool := s.can.fixedNominal == 0 || s.can.fixedData == 0

/-- Gaffer seconds since the standby rail came up. -/
def nowSec (s : State) : Nat := s.log.ms.toNat / 1000

/-- CAN_BUS_OFF (R759, R760): the third within 10 s, with either rate automatic, goes back to the search. -/
def canBusOff (s : State) : State :=
  if s.can.state = .active then
    let recent := (s.can.busOffs.filter (fun t => decide (nowSec s ≤ t + 10))).take 2
    let s := logEvent (modCan s (fun c => { c with state := .busOff, busOffs := nowSec s :: recent })) 0x2040 (srcField 0) 0
    if recent.length = 2 ∧ canAutomatic s = true then canSearch (modCan s (fun c => { c with busOffs := [] })) else s
  else s

/-- CAN_BUS_OFF_RECOVERY: the error counters start again (ISO 11898-1), and the port is active with its locked rates. -/
def canRecovered (s : State) : State :=
  if s.can.state = .busOff then canActive (modCan s (fun c => { c with txErr := 0, rxErr := 0 })) else s

/-- CAN_ERROR_PASSIVE (R760). -/
def canPassive (s : State) (tec rec' : Byte) : State :=
  if s.can.state = .active then logEvent (modCan s (fun c => { c with txErr := tec, rxErr := rec' })) 0x2040 (srcField 0) 0 else s

/-- ACTIVE_BIT_RATE_SWITCH_FRAME: a frame with bit-rate switch while the locked data code is 0 (R759). -/
def canRateSwitch (s : State) : State :=
  if s.can.state = .active ∧ s.can.data = 0 then
    modCan s (fun c => { c with state := .dataSearch, data := 1, valid := 0, errors := 0, sawBrs := false, fromActive := true })
  else s

/-- The rates and the node in effect at dictionary ready (R794, R865): the journalled ones; a locked rate that differs from a
fixed one sends the port back to the search. -/
def canReady (s : State) : State :=
  let n := valNat s 0x9001 0 0 0
  let d := valNat s 0x9002 0 0 0
  let s := modCan s (fun c => { c with node := valNat s 0x9000 0 0 127, fixedNominal := n, fixedData := d })
  match s.can.state with
  | .lockedSilent =>
    if (n ≠ 0 ∧ n ≠ s.can.nominal) ∨ (d ≠ 0 ∧ d ≠ s.can.data) then canSearch s else canActive s
  | .nominalSearch => canSearch s
  | .dataSearch => if (n ≠ 0 ∧ n ≠ s.can.nominal) ∨ d ≠ 0 then canSearch s else s
  | _ => s

/-! ### Frames (R749, R753, R756 to R758, R761) -/

/-- Fields of an identifier (table Field identifier). -/
def idClass (f : CanFrame) : Nat := f.ident.toNat / 2 ^ 26
def idDst (f : CanFrame) : Nat := f.ident.toNat / 2 ^ 19 % 128
def idSrc (f : CanFrame) : Nat := f.ident.toNat / 2 ^ 12 % 128
def idSvc (f : CanFrame) : Nat := f.ident.toNat / 2 ^ 8 % 16
def idTag (f : CanFrame) : Nat := f.ident.toNat % 256

/-- A frame matches the Loeth (R749). -/
def canMatches (s : State) (f : CanFrame) : Bool := f.extended && (idDst f == 0 || idDst f == s.can.node)

/-- An alarm record (table Alarm record). -/
def AlarmRec.bytes (r : AlarmRec) : List Byte :=
  leBytes 4 r.ident.toNat ++ leBytes 1 r.data.length ++ leBytes 1 (b2n r.fd + 2 * b2n r.brs) ++ leBytes 2 r.dropped ++ fit 64 r.data

/-- CAN_ALARM_FRAME: a matching frame of class 0 joins the alarm buffer, and vector 2,045 is raised (R756 to R758). -/
def alarmReceived (s : State) (f : CanFrame) : State :=
  if s.can.state = .active ∧ canMatches s f = true ∧ idClass f = 0 then
    let full := decide (8 ≤ s.can.alarms.length)
    let lost := if full then min 0xFFFF (((s.can.alarms.head?.map (·.dropped)).getD 0) + 1) else 0
    let kept := if full then s.can.alarms.drop 1 else s.can.alarms
    let kept := match kept with
      | r :: l => { r with dropped := min 0xFFFF (r.dropped + lost) } :: l
      | [] => []
    let r : AlarmRec := { ident := f.ident, fd := f.fd, brs := f.brs, dropped := 0, data := f.data.take 64 }
    raiseVector (modCan s (fun c => { c with alarms := kept ++ [r] })) 2045
  else s

/-- CAN_TIME_SYNC: identifier 0x100 with 8 data bytes (R753). -/
def timeSync (s : State) (f : CanFrame) : State :=
  if s.can.state = .standby ∨ s.can.state = .busOff then s
  else if f.extended = false ∧ f.ident = 0x100 ∧ f.data.length = 8 then modCan s (fun c => { c with time := some (leNat f.data) })
  else s

/-- CAN_HEARTBEAT (R754): the field time is the last sync plus the microseconds since. -/
def canHeartbeat (s : State) (us : Nat) : State :=
  if s.can.state = .active then
    sendHeartbeat s (match s.can.time with
      | some t => (t + us) % 2 ^ 64
      | none => 0)
  else s

/-! ### Partner violations (R761, R795) -/

/-- What a violation is answered with: nothing but the log, or a reject. -/
inductive Violation where
  | logged (code : Nat)
  | reject (code : Nat)
deriving DecidableEq, Repr

/-- Requests outstanding from a source node (R752). -/
def outstandingFrom (s : State) (node : Nat) : List (BitVec 29) :=
  s.can.pending.filter (fun i => i.toNat / 2 ^ 12 % 128 == node)

/-- The violation of a matching frame of classes 1 to 7, or of a frame that carries the Loeth's own node (table Field
violations). -/
def violationOf (s : State) (f : CanFrame) : Option Violation :=
  let svc := idSvc f
  let n := fieldAt f.data 0x0C 2
  let write := fieldAt f.data 0 1 == 2
  if idSrc f = s.can.node then some (.logged 0x07)
  else if idSrc f = 0 then some (.logged 0x02)
  else if svc = 0 ∨ 6 ≤ svc ∨ svc = 2 ∨ svc = 4 ∨ svc = 5 then some (.reject 0x01)
  else if svc = 1 then
    if idDst f = 0 then some (.logged 0x08)
    else if f.fd = false then some (.reject 0x03)
    else if f.data.length < 16 ∨ (write = true ∧ (f.data.length < 16 + n ∨ 48 < n)) then some (.reject 0x04)
    else if (outstandingFrom s (idSrc f)).any (fun i => i.toNat % 256 == idTag f) then some (.reject 0x06)
    else if 4 ≤ (outstandingFrom s (idSrc f)).length then some (.reject 0x05)
    else none
  else none

/-- 0x2041 with the identifier, at most 16 times per second (R761). -/
def logViolation (s : State) (f : CanFrame) : State :=
  let now := nowSec s
  let n := if s.can.violLog.1 = now then s.can.violLog.2 else 0
  if n < 16 then
    logEvent (modCan s (fun c => { c with violLog := (now, n + 1) })) 0x2041 (srcField 0) f.ident.toNat
  else s

/-- A reject to the source, at most one per node in 10 ms (R761): a classic frame. -/
def sendReject (s : State) (f : CanFrame) (code : Nat) : State :=
  let now := s.log.ms.toNat
  let free := match tfind s.can.rejectMs (idSrc f) with
    | some t => decide (t + 10 ≤ now)
    | none => true
  if free = true ∧ s.can.state = .active then
    let s := modCan s (fun c => { c with rejectMs := tput c.rejectMs (idSrc f) now })
    emit s (.can (fieldIdent (max 1 (idClass f)) (idSrc f) s.can.node 5 (idTag f)) false false
      (leBytes 4 f.ident.toNat ++ [BitVec.ofNat 8 code, BitVec.ofNat 8 (outstandingFrom s (idSrc f)).length] ++ zeros 2))
  else s

/-- What a violation does. -/
def onViolation (s : State) (f : CanFrame) : Violation → State
  | .logged _ => logViolation s f
  | .reject c => sendReject (logViolation s f) f c

/-- FIELD_VIOLATION_FRAME: a frame that breaks the field protocol; class 0 frames go to the alarm buffer whatever their service
(R756, R761, R795). -/
def fieldViolation (s : State) (f : CanFrame) : State :=
  if s.can.state = .active ∧ f.extended = true ∧ idClass f ≠ 0 ∧ (canMatches s f ∨ idSrc f = s.can.node) then
    match violationOf s f with
    | some v => onViolation s f v
    | none => s
  else s

/-- The oldest m alarm records are removed (R757, R158). -/
def alarmClear (s : State) (m : Nat) : State := modCan s (fun c => { c with alarms := c.alarms.drop m })

/-! ### Commands -/

/-- CAN_STANDBY_EXIT (R759). -/
def execCanStandbyExit (s : State) : Host.Outcome State Fault Refusal := .next (canExit s)
/-- CAN_SEARCH_FRAME (R759). -/
def execCanSearchFrame (valid brs : Bool) (s : State) : Host.Outcome State Fault Refusal := .next (canFrameSeen s valid brs)
/-- CAN_NOMINAL_SEARCH_TIMEOUT (R759). -/
def execCanNominalSearchTimeout (s : State) : Host.Outcome State Fault Refusal :=
  .next (if s.can.state = .nominalSearch then modCan s nextSet else s)
/-- CAN_DATA_SEARCH_TIMEOUT (R759). -/
def execCanDataSearchTimeout (s : State) : Host.Outcome State Fault Refusal :=
  .next (if s.can.state = .dataSearch then canLocked s s.can.nominal 0 else s)
/-- CAN_BUS_OFF (R759, R760). -/
def execCanBusOff (s : State) : Host.Outcome State Fault Refusal := .next (canBusOff s)
/-- CAN_BUS_OFF_RECOVERY (R759). -/
def execCanBusOffRecovery (s : State) : Host.Outcome State Fault Refusal := .next (canRecovered s)
/-- CAN_ALARM_FRAME (R756 to R758). -/
def execCanAlarmFrame (f : CanFrame) (s : State) : Host.Outcome State Fault Refusal := .next (alarmReceived s f)
/-- CAN_TIME_SYNC (R753). -/
def execCanTimeSync (f : CanFrame) (s : State) : Host.Outcome State Fault Refusal := .next (timeSync s f)
/-- CAN_HEARTBEAT (R754). -/
def execCanHeartbeat (us : Nat) (s : State) : Host.Outcome State Fault Refusal := .next (canHeartbeat s us)
/-- CAN_ERROR_PASSIVE (R760). -/
def execCanErrorPassive (tec rec' : Byte) (s : State) : Host.Outcome State Fault Refusal := .next (canPassive s tec rec')
/-- ACTIVE_BIT_RATE_SWITCH_FRAME (R759). -/
def execActiveBitRateSwitchFrame (s : State) : Host.Outcome State Fault Refusal := .next (canRateSwitch s)
/-- FIELD_VIOLATION_FRAME (R761). -/
def execFieldViolationFrame (f : CanFrame) (s : State) : Host.Outcome State Fault Refusal := .next (fieldViolation s f)

end Sys2Proof.Machine
end

