-- ==== Sys2Proof/Machine/SpiPort.lean ====
section
/-!
DEFINITION. The SPI target port (18_field_ports.md R762 to R773): the status word, the transactions and their CRC, the sticky bits.
A request that takes effect is handed on to the dictionary.
-/
namespace Sys2Proof.Machine

/-! ### Words (R763 to R765) -/

/-- The bytes of words, bits [7:0] of each first (R114, R765). -/
def wordBytes' (l : List U32) : List Byte := l.flatMap (fun w => leBytes 4 w.toNat)

/-- The CRC word over words (R765). -/
def crcWord (l : List U32) : U32 := BitVec.ofNat 32 (crc8 (wordBytes' l))

/-- Bytes as whole little-endian words, padded with zero bytes (R114). -/
def toWords (l : List Byte) : List U32 :=
  (List.range ((l.length + 3) / 4)).map (fun i => BitVec.ofNat 32 (fieldAt l (4 * i) 4))

/-- The port cannot accept a request now (table SPI status word). -/
def spiBusy (s : State) : Bool := !s.gaffer.dictReady || s.spi.waiting

/-- The status word (table SPI status word). The retry hint while busy is a free value of at least 1 (R773; log entry 56). -/
def statusWord (s : State) : U32 :=
  BitVec.ofNat 32 (b2n (spiBusy s) + 2 * b2n s.spi.response.isSome + 4 * (s.spi.sticky % 64) +
    2 ^ 8 * (if spiBusy s then 1 + freeAt s 0 % 255 else 0) + 2 ^ 24 * 0xA5)

/-! ### Sticky bits (R772) -/

def sFrame : Nat := 0
def sCrc : Nat := 1
def sOverrun : Nat := 2
def sBadCmd : Nat := 3
def sExtra : Nat := 4

/-- A sticky bit is set; FRAME_ERR going from 0 to 1 logs 0x2042 (R772). -/
def setSticky (s : State) (i : Nat) : State :=
  let s' := modSpi s (fun p => { p with sticky := withBit p.sticky i true })
  if i = sFrame ∧ s.spi.sticky.testBit i = false then logEvent s' 0x2042 (srcField 1) 0 else s'

/-- Bits written 1 to 0x9010 are cleared (R772). -/
def clearSticky (s : State) (v : Nat) : State :=
  modSpi s (fun p => { p with sticky := (List.range 5).foldl (fun n i => if v.testBit i then withBit n i false else n) p.sticky })

/-! ### Transactions (R764 to R771) -/

/-- Edges past the last word of a transaction of n words (R767). -/
def extraEdges (s : State) (x : SpiTransaction) (n : Nat) : State :=
  if n < x.words.length ∨ (n = x.words.length ∧ x.extraEdges ≠ 0) then setSticky s sExtra else s

/-- Opcode and body words N of a command word (table SPI command word). -/
def spiOp (w : U32) : Nat := w.toNat / 2 ^ 24
def spiN (w : U32) : Nat := w.toNat / 2 ^ 12 % 2 ^ 12

/-- The opcode of a transaction's command word, where it was received. -/
def spiOpcode (x : SpiTransaction) : Option Nat := x.words.head?.map spiOp

/-- A request transaction (R765, R766, R768, R771): the body that goes to the dictionary, where it takes effect and the port is
not busy. -/
def spiRequestTaken (s : State) (x : SpiTransaction) : State × Option (List U32) :=
  match x.words with
  | [] => (setSticky s sFrame, none)
  | c :: l =>
    let n := spiN c
    if n < 4 ∨ 260 < n then (setSticky s sBadCmd, none)
    else if l.length < n + 1 then (setSticky s sFrame, none)
    else
      let s' := extraEdges s x (n + 2)
      if l.getD n 0 ≠ crcWord (c :: l.take n) then (setSticky s' sCrc, none)
      else if spiBusy s then (setSticky s' sOverrun, none)
      else (modSpi s' (fun p => { p with waiting := true, response := none }), some (l.take n))

/-- A fetch transaction: what follows word 1 on SPI_MISO (R769, R770). -/
def spiFetched (s : State) (x : SpiTransaction) : State × List U32 :=
  match x.words with
  | [] => (setSticky s sFrame, [])
  | c :: l =>
    if spiN c ≠ 0 then (setSticky s sBadCmd, [])
    else
      match l with
      | [] => (setSticky s sFrame, [])
      | k :: more =>
        if k ≠ crcWord [c] then (setSticky s sCrc, [])
        else match s.spi.response with
          | none => (setSticky (extraEdges s x 2) sBadCmd, 0 :: List.replicate more.length 0)
          | some r =>
            let w := toWords r.bytes
            let out := w ++ [crcWord w]
            (extraEdges s x (2 + out.length),
              0 :: (out.take more.length ++ List.replicate (more.length - out.length) 0))

/-- A no operation, or a reserved opcode, which sets BAD_CMD (R771). -/
def spiIdle (s : State) (x : SpiTransaction) : State :=
  match x.words with
  | [] => setSticky s sFrame
  | c :: _ => if spiOp c ≠ 0 ∨ spiN c ≠ 0 then setSticky s sBadCmd else extraEdges s x 1

/-- SPI_MISO shifts out the status word and what follows it; before 60 ms it is high impedance and the port takes nothing
(R773). -/
def shiftOut (s : State) (status : U32) (l : List U32) : State := useFree (emit s (.miso (status :: l))) 1

/-- SPI_FETCH (R769). -/
def spiFetch (s : State) (x : SpiTransaction) : State :=
  if s.pins.misoHiZ then s
  else
    let r := spiFetched s x
    shiftOut r.1 (statusWord s) r.2

/-- SPI_NO_OPERATION (R764, R771). -/
def spiNoOperation (s : State) (x : SpiTransaction) : State :=
  if s.pins.misoHiZ then s else shiftOut (spiIdle s x) (statusWord s) []

/-- SPI_READY_TIMER: 60 ms after PWR_OK (R773, R860 step 8). -/
def spiReady (s : State) : State :=
  if s.pins.pwrOk ∧ s.gaffer.inReset = false then setReady (modPins s (fun p => { p with misoHiZ := false })) 1 else s

/-! ### Commands -/

/-- SPI_FETCH (R769). -/
def execSpiFetch (x : SpiTransaction) (s : State) : Host.Outcome State Fault Refusal :=
  if spiOpcode x = some 2 then .next (spiFetch s x) else .refused (.illFormed "SPI_FETCH")
/-- SPI_NO_OPERATION (R771): also a transaction whose command word is reserved or was not received. -/
def execSpiNoOperation (x : SpiTransaction) (s : State) : Host.Outcome State Fault Refusal :=
  if spiOpcode x = some 1 ∨ spiOpcode x = some 2 then .refused (.illFormed "SPI_NO_OPERATION") else .next (spiNoOperation s x)
/-- SPI_READY_TIMER (R773). -/
def execSpiReadyTimer (s : State) : Host.Outcome State Fault Refusal := .next (spiReady s)

end Sys2Proof.Machine
end

