-- ==== Sys2Proof/Machine/TenantReset.lean ====
section
/-!
DEFINITION. Tenant reset across packages (08_faults_preemption.md R362 to R372, 04_dictionary_map.md R173, 17_host_port.md R741,
20_startup_lifecycle.md R877).
-/
namespace Sys2Proof.Machine

/-! ### Step 1 -/

/-- The groups of a tenant that are not idle. -/
def tenantGroups (s : State) (t : Nat) : List Nat := (busyGroups s).filter (fun g => groupTenant s g == t)

/-- Cores that are members of the tenant's groups as step 1 finds them, idle groups among them; a pre-empted group holds none
(R345), and a core belongs to one group (R214). -/
def formerCores (s : State) (t : Nat) : List Nat :=
  (((namedGroups s).filter (fun g => groupTenant s g == t && holdsCores s g)).flatMap (members s)).eraseDups.filter
    (fun c => coreTenant? s c == some t)

/-- The tenant's host commands that have not finished are cancelled (R741). -/
def cancelCommands (s : State) (t : Nat) : State :=
  ((tqOf s t).cmds.map (·.index)).foldl (fun s i => finishCmd s t i (plainDone 8)) s

/-- Accesses and stages of a tenant's own paths (R135). -/
def ofTenantPath (s : State) (t : Nat) (p : DictPath) : Bool := pathOfTenant p && pathTenant s p == some t

/-! ### Step 2 -/

/-- The notice set of R364: every slot of the own frame, and of each frame with a valid default route. -/
def noticeSet (s : State) : List Nat :=
  let own := ownPkg s / 128
  (List.range 64).flatMap (fun f =>
    if f = own ∨ (routeEntry s (f * 128 + 127)).isSome ∨ (routeEntry s (f * 128 + 126)).isSome then frameSlots f else [])

/-- A tenant-gone notice to each package of a list (R363 step 2, R632): a packet of the operator context, so that an undeliverable
answer to it is no traffic of the tenant (R364; log entry 53). -/
def sendGone (s : State) (t : Nat) (pkgs : List Nat) : State :=
  pkgs.foldl (fun s k =>
    sendPacket (takeTag s (.gone (BitVec.ofNat 12 t) k))
      (mkPacket s 0 false k 0x01 false 0 s.net.nextTag (ownPkg s + t * 2 ^ 16) [])) s

/-- The flits of a link's queue less those of packets that satisfy p and have not begun to leave; gone lists the virtual channels
and classes whose packet is being left out. -/
def dropQueued (p : Packet → Bool) : List TxFlit → List Nat → List TxFlit
  | [], _ => []
  | t :: l, gone =>
    let pool := poolOf t.flit.vc t.flit.response
    if t.flit.first then
      (if t.packet.any p then dropQueued p l (pool :: gone) else t :: dropQueued p l (gone.filter (fun x => x != pool)))
    else if gone.contains pool then dropQueued p l gone
    else t :: dropQueued p l gone

/-- Traffic of a tenant that waits in this package is discarded (R363 step 2); what comes or starts later is discarded by packetIn
and sendPacket. -/
def dropTraffic (s : State) (t : Nat) : State :=
  let mine := fun (p : Packet) => (p.vc == 1 || p.vc == 2) && p.tenant == t
  let s := (s.net.inbox.filter (fun e => mine e.2)).foldl
    (fun s e => freeBuffer s e.1 (poolOf e.2.vc e.2.response) (flitsOf e.2.body.length)) s
  let s := (s.net.xbar.filter (fun h => mine h.packet)).foldl
    (fun s h => match h.fromLink with
      | some n => freeBuffer s n (poolOf h.packet.vc h.packet.response) (flitsOf h.packet.body.length)
      | none => s) s
  modNet s (fun n => { n with
    inbox := n.inbox.filter (fun e => !mine e.2)
    xbar := n.xbar.filter (fun h => !mine h.packet)
    links := n.links.map (fun e => (e.1, { e.2 with txq := dropQueued mine e.2.txq [] })) })

/-- TENANT_RESET: steps 1 and 2 (R363); a second request changes nothing (R370). -/
def tenantReset (s : State) (t : Nat) : State :=
  if tenantResetting s t then s
  else
    let former := formerCores s t
    let s := modTq s t (fun q => { q with resetStep := 1, former := former })
    let s := settleDomains (serveLatch ((tenantGroups s t).foldl abortGroup s))
    let s := cancelCommands (clearQueue s t) t
    let s := cancelAccesses s (ofTenantPath s t)
    let s := discardStages s (fun _ h => pathOfTenant h.path && h.tenant.toNat == t) 2
    let pkgs := noticeSet s
    let s := dropTraffic s t
    sendGone (modTq s t (fun q => { q with resetStep := 4, awaiting := pkgs })) t pkgs

/-! ### Steps 4 and 5 -/

/-- The streams of a tenant move to closing (R438). -/
def closeStreams (s : State) (t : Nat) : State :=
  ((s.serving.trackers.filter (fun e => e.2.tenant.toNat == t && e.2.state != .free)).map (·.1)).foldl closeTracker s

/-- TENANT_RESET_ACKS_COMPLETE: step 5, once step 4 has every answer (R363, R365). -/
def tenantAcked (s : State) (t : Nat) : State :=
  let q := tqOf s t
  if q.resetStep = 4 ∧ q.awaiting = [] then
    let s := revokeHomes s (.tenant (ownPkg s) t)
    let s := dropHeld s (fun c _ => q.former.contains c)
    modTq (closeStreams s t) t (fun q => { q with resetStep := 6 })
  else s

/-- The codes of the table Event codes (R164, R169). -/
def eventCodes : List Nat :=
  [0x1001, 0x1002, 0x1003, 0x1010, 0x1011, 0x1012, 0x1020, 0x1021, 0x1022, 0x1023, 0x1030, 0x1031, 0x1032, 0x1033, 0x1034,
    0x1040, 0x1041, 0x1050, 0x1051, 0x1052, 0x1053, 0x1060, 0x1061, 0x1062, 0x1070, 0x1071, 0x1072, 0x1073, 0x2001, 0x2002,
    0x2003, 0x2010, 0x2011, 0x2012, 0x2013, 0x2014, 0x2030, 0x2031, 0x2040, 0x2041, 0x2042, 0x2050, 0x3001, 0x3010, 0x3011,
    0x3012, 0x3013, 0x3020, 0x3021, 0x3022, 0x3023, 0x3030, 0x3031, 0x4001, 0x4002, 0x4010, 0x4020]

/-- A code of that table, free which. -/
def freeCode (s : State) (i : Nat) : Nat := eventCodes.getD (freeAt s i % eventCodes.length) 0x1001

/-- TENANT_RESET_ACK_TIMEOUT: each silent package is logged and no longer awaited (R363 step 4). No row of the table Event codes
names that event: which code of the table it takes, and its detail, are free values (R169; log entry 53). -/
def tenantTimeout (s : State) (t : Nat) : State :=
  let q := tqOf s t
  if q.resetStep = 4 then
    let s := q.awaiting.foldl (fun s _ => logEvent (useFree s 2) (freeCode s 0) (srcTenant t) (freeAt s 1)) s
    modTq s t (fun q => { q with awaiting := [] })
  else s

/-! ### Steps 6 and 7 -/

/-- Granules (space, number) that valid entries of a tenant's segment table map on this package (R322, R366). -/
def granulesOf (s : State) (t : Nat) : List (Nat × Nat) :=
  ((segTable s t).filter (fun e => e.valid && (e.space == 1 || e.space == 2) && resolvePkg s e.pkg == ownPkg s)).flatMap
    (fun e => (List.range e.len).map (fun i => (e.space, e.phys + i)))

/-- The other tenants that are enabled, tenant 0x000 always (R159). -/
def otherTenants (s : State) (t : Nat) : List Nat :=
  (0 :: (s.dict.vals.filter (fun e => e.1 / 2 ^ 20 == 0xA030 && leNat e.2 == 1 && e.1 % 2 ^ 12 != 0)).map
    (fun e => e.1 % 2 ^ 12)).filter (fun x => x != t)

/-- The granules that step 6 wipes: those of the tenant that no other enabled tenant maps (R366). -/
def wipeSet (s : State) (t : Nat) : List (Nat × Nat) :=
  let others := (otherTenants s t).flatMap (granulesOf s)
  ((granulesOf s t).filter (fun g => !others.contains g)).eraseDups

/-- A take template at an address of this package's stock, and its sources, as (key, length). -/
def templateRanges (s : State) (a : Nat) : List (Nat × Nat) :=
  let p := splitAddr s a
  if p.1 ≠ ownPkg s ∨ p.2.1 ≠ 2 then []
  else
    let n := memNat s (memKey 2 p.2.2 + 0x1E) 2
    if n = 0 ∨ 4096 < n then []
    else
      let l := ownRead s (memKey 2 p.2.2) (128 + 32 * n)
      (memKey 2 p.2.2, 128 + 32 * n) :: ((manifestExtents l).filter (extentOk s)).map (fun e =>
        let q := splitAddr s e.source
        (memKey q.2.1 q.2.2, e.count * elementSize e.content))

/-- The slate word with its template and sources, those of a take in progress, and the lent region (R610; log entry 114). -/
def slateRanges (s : State) : List (Nat × Nat) :=
  (if s.slate.word = 0 then []
    else
      let k := memKey 2 (splitAddr s s.slate.word.toNat).2.2
      (k, 16) :: templateRanges s (memNat s (k + 8) 8)) ++
  (match s.slate.take with
    | some o => templateRanges s o.cmd.addr.toNat
    | none => []) ++
  [(memKey 2 (genBase s (ownPkg s) 0), lentSize s)]

/-- What belongs to tenant 0x000 and no tenant reset touches, as (key, length): the adapter shelf (R475), the banks, source regions,
seal words and home rings with their heads (R527), and what belongs to the slate engine (R610). -/
def operatorRanges (s : State) : List (Nat × Nat) :=
  (match adapterAt s 0 with
    | some (sp, off) => [(memKey sp off, 64 * 4096)]
    | none => []) ++
  s.reels.slices.flatMap (fun c => [(sliceKey c.toNat (dirNat s c.toNat 8 4), dirNat s c.toNat 0x10 4),
    (sliceKey c.toNat (dirNat s c.toNat 0xC 4), dirNat s c.toNat 0x10 4)]) ++
  s.reels.sources.flatMap (fun c => [(sliceKey c.toNat (dirNat s c.toNat 0x20 4), dirNat s c.toNat 0x24 4), (sealKey s c.toNat, 8)]) ++
  ((List.range 8).filter (isHome s)).map (fun k => (ringKey s k - 64, 64 + 64 * 2 ^ ringSize s k)) ++ slateRanges s

/-- One granule is wiped (R877) but for the ranges spared; the reserved areas of a slice are left out (R282, R327). -/
def wipeGranule (spare : List (Nat × Nat)) (s : State) (g : Nat × Nat) : State :=
  let off := g.2 * 2 ^ 21
  if g.1 = 1 then
    if off < 2 ^ 35 then wipeExcept s (memKey 1 off) (min (2 ^ 21) (continuityBase - off % 2 ^ 25)) spare else s
  else if off < capacityGiB s * 2 ^ 30 then wipeExcept s (memKey 2 off) (2 ^ 21) spare else s

/-- The per-tenant entries of a tenant at their defaults (R173). -/
def tenantDefaults (s : State) (t : Nat) : State :=
  modDict s (fun d => { d with
    vals := d.vals.filter (fun e => !(e.1 % 2 ^ 12 == t && ((desc (e.1 / 2 ^ 20) (e.1 / 2 ^ 12 % 256)).map (·.perTen)).getD false)) })

/-- TENANT_RESET_COMPLETE: the wipe ends, and step 7 (R363, R877). -/
def tenantDone (s : State) (t : Nat) : State :=
  let q := tqOf s t
  if q.resetStep = 6 then
    let gs := wipeSet s t
    let tiers := b2n (q.former != []) + 2 * b2n (gs.any (fun g => g.1 == 1)) + 4 * b2n (gs.any (fun g => g.1 == 2))
    let spare := operatorRanges s
    let s := q.former.foldl (fun s c => wipe (emptyBoxes s c) (scratchKey c 0) (2 ^ 21)) s
    let s := gs.foldl (wipeGranule spare) s
    let s := modGaffer s (fun g => { g with wipeKind := 0x20, wipedTiers := BitVec.ofNat 8 tiers })
    let s := logEvent s 0x1051 (srcTenant t) tiers
    let s := modTq (tenantDefaults s t) t (fun q => { q with resetStep := 0, former := [], cmds := [] })
    logEvent s 0x1053 (srcTenant t) 0
  else s

/-! ### Commands -/

/-- TENANT_RESET_ACKS_COMPLETE (R365). -/
def execTenantResetAcksComplete (t : Tenant) (s : State) : Host.Outcome State Fault Refusal := .next (tenantAcked s t.toNat)
/-- TENANT_RESET_ACK_TIMEOUT (R363). -/
def execTenantResetAckTimeout (t : Tenant) (s : State) : Host.Outcome State Fault Refusal := .next (tenantTimeout s t.toNat)
/-- TENANT_RESET_COMPLETE (R363). -/
def execTenantResetComplete (t : Tenant) (s : State) : Host.Outcome State Fault Refusal := .next (tenantDone s t.toNat)

end Sys2Proof.Machine
end

