-- ==== Sys2Proof/Machine/LifeCycle.lean ====
section
/-!
DEFINITION. Start-up, resets, life cycle and wiping (20_startup_lifecycle.md R857 to R897, R940; 19_power_health.md R851, R853;
21_electrical_package.md R898, R926; 18_field_ports.md R793): power-up and its timers, each kind of reset, the Gaffer reset, the
boot of an image, dictionary ready, and a life-cycle transition.
-/
namespace Sys2Proof.Machine

/-! ### Image slots and the start-up block (R859, R885) -/

/-- Image slot A, or B. -/
def imageOf (s : State) (b : Bool) : ImageSlot := if b then s.gaffer.imageB else s.gaffer.imageA

/-- Fields of an image header (R883). -/
def ImageSlot.version (i : ImageSlot) : Nat := fieldAt i.header 8 4
def ImageSlot.length (i : ImageSlot) : Nat := fieldAt i.header 0xC 4
def ImageSlot.entry (i : ImageSlot) : Nat := fieldAt i.header 0x10 4
def ImageSlot.key (i : ImageSlot) : List Byte := slice i.header 0x20 97
def ImageSlot.signature (i : ImageSlot) : List Byte := slice i.header 0xA0 96

/-- Magic, format, reserved fields, version, length and entry offset are as the table Image header lays down. -/
def ImageSlot.formatOk (i : ImageSlot) : Bool :=
  i.header.length == 256 && slice i.header 0 4 == [0x58, 0x47, 0x46, 0x57] && fieldAt i.header 4 2 == 1 &&
    fieldAt i.header 6 2 == 0 && decide (1 ≤ i.version) && decide (16 ≤ i.length ∧ i.length ≤ 786432) && i.length % 16 == 0 &&
    i.payload.length == i.length && i.entry % 4 == 0 && decide (i.entry < i.length) &&
    (slice i.header 0x14 12).all (fun b => b == 0) && (slice i.header 0x81 31).all (fun b => b == 0)

/-- The signature verifies over bytes +0x00 to +0x9F followed by the payload (R884). -/
def ImageSlot.signatureOk (i : ImageSlot) : Bool := ecdsaVerify i.key (sha384 (slice i.header 0 0xA0 ++ i.payload)) i.signature

/-- The image's key is the one whose digest 0xA010 holds (R885); an unburned digest matches no key. -/
def keyTrusted (s : State) (i : ImageSlot) : Bool := s.fuses.keyDigest == some (sha384 i.key)

/-- A slot is valid (R885): in BLANK the key is not checked against 0xA010. -/
def slotValid (s : State) (b : Bool) : Bool :=
  let i := imageOf s b
  i.formatOk && (lifeState s == 0 || keyTrusted s i) && i.signatureOk && decide (s.fuses.floor.toNat ≤ i.version)

/-- 0xA000.03 and .04: a slot's version, or 0 (R885). -/
def slotVersion (s : State) (b : Bool) : Nat := if slotValid s b then (imageOf s b).version else 0

/-- What start-up uses while the start-up block is invalid (R859): slot A, 8,533 MT/s, true. -/
def blockDefault : Bool × Nat × Bool := (false, 8533, true)

/-- The newest sealed record of an entry that stands alone (R122). -/
def newestRecord (s : State) (i : Nat) : Option JournalRec :=
  ((authHalf s).recs.filter (fun r => r.good && r.index.toNat == i)).getLast?

/-- The value that the next reset brings into effect of a persistent reset-class entry: a volatile pending value is lost, and the
journal's stands (R85, R138). -/
def nextNat (s : State) (i d : Nat) : Nat :=
  match tfind s.dict.pend (dictKey i 0 0), newestRecord s i with
  | some p, some r => if p.persistent then leNat p.bytes else if r.tombstone then d else leNat r.value
  | some p, none => if p.persistent then leNat p.bytes else valNat s i 0 0 d
  | none, _ => valNat s i 0 0 d

/-- The firmware rewrites the start-up block (R859). -/
def rewriteBlock (s : State) : State :=
  modGaffer s (fun g => { g with block := some (nextNat s 0xA001 0 == 1, nextNat s 0x3010 8533, nextNat s 0x8002 1 == 1) })

/-! ### Rails (R860 steps 3 and 4, R863, R869) -/

/-- Nominal setting of a rail in mV as step 4 turns it on (R860, table Rails). -/
def nominalMv : Nat → Nat
  | 0 => 750
  | 1 => 800
  | 2 => 750
  | 3 => 900
  | 4 => 900
  | 5 => 1200
  | 6 => 500
  | _ => 1800

/-- The order in which step 4 turns the rails on: VIO, VEDGE, VSERDES_H, both VSERDES_A, VDDQ_S, VVAULT, VCORE_F. -/
def railOrder : List Nat := [7, 2, 5, 3, 4, 6, 1, 0]

/-- OPERATION values for on and off (PMBus; log entry 58). -/
def operationOn : Nat := 0x80
def operationOff : Nat := 0x00

/-- VOUT_TRANSITION_RATE in 0.1 mV/µs (R803). -/
def slewOf (r : Nat) : Nat := if r = 0 then 20 else if r = 3 ∨ r = 4 then 50 else 10

/-- A rail is turned on. -/
def railOn (s : State) (r : Nat) : State :=
  if (regOf s r).on then s
  else emit (modReg s r (fun k => { k with on := true, stable := nominalMv r })) (.pmbus (railOf r) pmOperation operationOn)

/-- The rails that are on are turned off in the reverse of the order of step 4. In voltage hold the Gaffer sends no regulator
command, and the rails stay (R791). -/
def railsOff (s : State) : State :=
  if s.power.hold then s
  else railOrder.reverse.foldl (fun s r =>
    if (regOf s r).on then
      emit (modReg s r (fun k => { k with on := false, stable := 0 })) (.pmbus (railOf r) pmOperation operationOff)
    else s) s

/-- Step 3: the regulators are read and set up (R803). -/
def setUpRails (s : State) : State :=
  (List.range 8).foldl (fun s r =>
    emit (emit s (.pmbus (railOf r) pmRevision 0)) (.pmbus (railOf r) pmTransitionRate (slewOf r))) s

/-- Steps 3 and 4 (R860): true when every rail is on. A stuck bus enters voltage hold (R864); a rail that fails after its retry
turns off every rail that is on (R863). -/
def sequenceRails (s : State) (o : PowerUpOutcome) : State × Bool :=
  if o.pmbusOk = false then (pmStuck (startRecovery s .enable), false)
  else
    let s := setUpRails (afterRecovery (modI2c s (fun k => { k with pm := .idle, holder := holderGaffer })))
    match o.failedRail with
    | none => (railOrder.foldl railOn s, true)
    | some r => (railsOff ((railOrder.takeWhile (fun x => x != railNum r)).foldl railOn s), false)

/-! ### Resets (R867, R868, R875) -/

/-- What a reset keeps of the I2C controllers and the power state when the rails stay on: the rails at their values, the last
commanded one of a transition that completes alone, and voltage hold with its stuck bus (R792, R867). -/
def landRails (s : State) : State :=
  match s.power.trans with
  | some t =>
    if t.lost then s
    else modReg s (transRail t.kind) (fun r => { r with stable := if t.returning then t.fromMv else t.toMv })
  | none => s

/-- The power block after a reset with its regulators as they stand. -/
def resetPower (s : State) (keepHold : Bool) : Power :=
  { Power.reset with regs := (landRails s).power.regs, hold := keepHold && s.power.hold }

/-- The I2C controllers after a reset: a stuck PMBus in voltage hold stays so; modules stay in their cages. -/
def resetI2c (s : State) (keepHold : Bool) : I2c :=
  let k := { I2c.reset with present := s.i2c.present, modules := s.i2c.modules }
  if keepHold && s.power.hold then { k with pm := .stuck, holder := 0 } else k

/-- The journal after a reset: flash contents stay, and what was under way in the Gaffer is gone (R124, R128, R893). -/
def restartJournal (s : State) : State :=
  modJournal (cutAwaiting s) (fun j => { j with compacting := false, abandoned := 0, unwritable := false, failedBlocks := 0 })

/-- The dictionary after a reset (R83, R138): values at their defaults until the journal is replayed. The request of 0xA002
stays pending until the ROM has taken it up (R887). -/
def resetDict (s : State) : Dict :=
  { Dict.reset with
      journal := (restartJournal s).dict.journal
      pend := s.dict.pend.filter (fun e => e.1 == dictKey 0xA002 0 0 && e.2.persistent) }

/-- Quads after a reset that may have left their rail at 950 mV: the target is 900 mV (R820). -/
def resetQuads (p : Power) : Tbl Quad :=
  ((List.range 4).filter (fun q => decide (925 ≤ (tget p.regs (quadRail q) Regulator.reset).stable))).map
    (fun q => (q, { Quad.reset with regulate := true }))

/-- The fabric, links, host port and engines as after a reset, every tier wiped (R868, R875, R399, R528). -/
def restartFabric (s : State) : State :=
  { s with
      fabric := { Fabric.reset with refStopped := s.fabric.refStopped }
      mem := Mem.reset
      cores := []
      groups := []
      serving := Serving.reset
      reels := Reels.reset
      slate := Slate.reset
      net := Net.reset
      host := { HostPort.reset with nextReq := s.host.nextReq } }

/-- A reset of a kind code of the table Reset kinds, up to step 1 of the table Power-up. What it keeps: the fuses, the event log
(R167), flash contents, the start-up block, and the rails as they stand (R867). -/
def enterReset (s : State) (kind : Byte) (keepHold : Bool) : State :=
  let s := if s.i2c.lent then emit s (.pmbGnt false) else s
  let pw := resetPower s keepHold
  let used := s.gaffer.block.getD blockDefault
  let d := resetDict s
  let i := resetI2c s keepHold
  let s := restartFabric s
  { s with
      pins := { s.pins with canStby := true, misoHiZ := true, flashHiZ := false, stkResetLow := true, romFault := false }
      gaffer := { s.gaffer with
        running := false, halted := false, loading := false, slotB := used.1, fallback := none, used := used, readiness := 0,
        dictReady := false, resetKind := kind, diesReleased := false, warm := false, challengeLive := false, debug := false }
      dict := d
      power := pw
      ageing := { Ageing.reset with store := s.ageing.store, seq := s.ageing.seq, pos := s.ageing.pos }
      net := { s.net with quads := resetQuads pw }
      host := { s.host with bar4 := used.2.2 }
      can := Can.reset
      spi := Spi.reset
      flash := Flash.reset
      i2c := i }

/-! ### Power-up (R860) -/

/-- Steps 5 to 7: the dies are released, stock training starts, the link synthesisers tune (R641), the domains stage (R829). -/
def releaseDies (s : State) : State :=
  let s := modGaffer s (fun g => { g with diesReleased := true })
  let s := modPins s (fun p => { p with stkResetLow := false })
  let s := modMem s (fun m => { m with
    stock := (List.range 16).map (fun c => (c, { StockChannel.reset with state := 1 })) })
  settleDomains ((List.range 4).foldl startTune s)

/-- The table Power-up from step 1: with the rails sequenced, or kept as they are. In RETIRED the main rails are never turned on
(R878, R882). -/
def startUp (s : State) (rails : Option PowerUpOutcome) : State :=
  let s := enterReset s s.gaffer.resetKind rails.isNone
  let s := modGaffer s (fun g => { g with loading := true })
  if lifeState s = 4 then railsOff s
  else match rails with
    | none => if (regOf s 0).on then releaseDies s else s
    | some o =>
      let r := sequenceRails s o
      if r.2 then releaseDies r.1 else r.1

/-- POWER_UP (R857, R860): PWR_OK rises, or counts as risen. While SYS_RESET_N is low the package waits for its rise (R858;
log entry 60). -/
def powerUp (s : State) (o : PowerUpOutcome) : State :=
  if s.pins.vstby = false ∨ s.pins.pwrOk then s
  else
    let s := modPins s (fun p => { p with pwrOk := true })
    if s.gaffer.inReset then s else startUp s (some o)

/-- POWER_ON_RESET (R867, R940, R167, R859): VSTBY enters its range. -/
def powerOnReset (s : State) : State :=
  let s := enterReset (modGaffer s (fun g => { g with block := none })) 0x01 false
  let s := modDict s (fun d => { d with pend := [] })
  { modGaffer s (fun g => { g with inReset := !s.pins.sysResetN }) with
      log := EventLog.reset, pins := { s.pins with vstby := true, pwrOk := false } }

/-- VSTBY_LOSS (R940): everything stops at once; the rails stay as the regulators hold them. -/
def vstbyLoss (s : State) : State :=
  let s := enterReset (modGaffer s (fun g => { g with block := none })) 0x01 false
  let s := modDict s (fun d => { d with pend := [] })
  { s with log := EventLog.reset, pins := { s.pins with vstby := false, pwrOk := false } }

/-- PACKAGE_RESET (R858): with PWR_OK high the whole package restarts with the rails kept; with it low the Gaffer alone, to its
state after VSTBY enters its range. The package stays in it until SYS_RESET_N rises. -/
def packageReset (s : State) : State :=
  if s.pins.vstby = false then s
  else
    let s := enterReset s (if s.pins.pwrOk then 0x03 else s.gaffer.resetKind) true
    modGaffer (modPins s (fun p => { p with sysResetN := false })) (fun g => { g with inReset := true })

/-- SYS_RESET_N_RISE (R858, R860): with PWR_OK high, start-up runs with the rails kept; where they are not on, they are
sequenced (log entry 60). -/
def sysResetRise (s : State) : State :=
  if s.gaffer.inReset = false then s
  else
    let s := modGaffer (modPins s (fun p => { p with sysResetN := true })) (fun g => { g with inReset := false })
    if s.pins.pwrOk = false then s
    else startUp s (if (regOf s 0).on ∨ s.power.hold then none else some { pmbusOk := true, failedRail := none })

/-- The fabric stops without saving anything, and with it every path but the field ports (R869): a commit being journalled is
not sealed, as no new flash operation starts (log entry 61). -/
def stopFabric (s : State) : State :=
  let s := dropAccesses s (fun p => match p with
    | .spi => false
    | .field _ => false
    | .gaffer => false
    | _ => true)
  let s := match s.dict.awaiting with
    | some w => respond (cutAwaiting s) w.carrier { w.resp with status := 0x000D, length := 0, data := [] }
    | none => s
  let s := modDict s (fun d => { d with
    stages := d.stages.filter (fun x => match x.holder.path with
      | .spi => true
      | .field _ => true
      | _ => false)
    claims := d.claims.filter (fun x => match x.holder.path with
      | .spi => true
      | .field _ => true
      | _ => false) })
  let s := landRails s
  let s := restartFabric s
  let s := modPower s (fun p => { Power.reset with regs := p.regs, hold := p.hold })
  let s := modJournal s (fun j => { j with compacting := false })
  let s := modGaffer s (fun g => { g with
    diesReleased := false, readiness := g.readiness &&& 7, running := g.running && g.dictReady, loading := false })
  modPins s (fun p => { p with stkResetLow := true })

/-- MAIN_POWER_LOSS (R869, R892): the fabric stops, the main rails go off in reverse order. -/
def mainPowerLoss (s : State) : State :=
  if s.pins.pwrOk = false then s
  else
    let s := railsOff (stopFabric s)
    let s := { s with flash := { s.flash with writable := false }, pins := { s.pins with pwrOk := false } }
    modGaffer s (fun g => { g with resetKind := 0x02 })

/-! ### Timers of the first second (R860 steps 10, 11, 16) -/

/-- Densities of an edge die's channels that are present. -/
def densities (l : List ChannelFinding) (e : Nat) : List Nat :=
  (((List.range 8).map (fun i => ((l[8 * e + i]?).map (·.density)).getD 0)).filter (fun d => d != 0)).eraseDups

/-- The cap that training keeps to: the journalled one once the dictionary is ready (R866), else the block's (R859). -/
def trainCap (s : State) : Nat := if s.gaffer.dictReady then valNat s 0x3010 0 0 8533 else s.gaffer.used.2.1

/-- A channel passes its training at a speed grade. -/
def gradePassed (f : ChannelFinding) (g : Nat) : Bool :=
  (g == 6400 && f.passes6400) || (g == 7500 && f.passes7500) || (g == 8533 && f.passes8533)

/-- The grade that a channel of a density from 16 to 32 GiB is trained at: the highest of the three within a cap that it passes
(R288). -/
def trainedGrade (cap : Nat) (f : ChannelFinding) : Option Nat :=
  if 16 ≤ f.density ∧ f.density ≤ 32 then [8533, 7500, 6400].find? (fun g => decide (g ≤ cap) && gradePassed f g) else none

/-- One channel as training leaves it (R288 to R290): a die of mixed densities has no channel in service. -/
def trainChannel (s : State) (l : List ChannelFinding) (c : Nat) : State :=
  let f := (l[c]?).getD { density := 0, passes6400 := false, passes7500 := false, passes8533 := false }
  let put := fun (s : State) (k : StockChannel) => modMem s (fun m => { m with stock := tput m.stock c k })
  if f.density = 0 then put s StockChannel.reset
  else match trainedGrade (trainCap s) f, decide ((densities l (c / 8)).length = 1) with
    | some g, true => put s { density := f.density, state := 2, rate := g, failedInService := false }
    | _, _ => logEvent (put s { density := f.density, state := 3, rate := 0, failedInService := false }) 0x3021 (srcStock c) 0

/-- STOCK_TRAINING_COMPLETE: bit [6], and the wipe starts. -/
def trainingComplete (s : State) (l : List ChannelFinding) : State :=
  if s.gaffer.diesReleased = false ∨ ready s 6 then s
  else setReady ((List.range 16).foldl (fun s c => trainChannel s l c) s) 6

/-- STOCK_WIPE_COMPLETE: the last wipe of the reset ends (R868); bit [7] and event 0x1051. -/
def wipeComplete (s : State) : State :=
  if ready s 6 = false ∨ ready s 7 then s
  else
    let s := modGaffer s (fun g => { g with wipeKind := g.resetKind, wipedTiers := 7 })
    logEvent (setReady s 7) 0x1051 srcGaffer 7

/-- PCIE_CRS_END (R733). -/
def crsEnd (s : State) : State :=
  if s.gaffer.diesReleased ∧ s.pins.pwrOk then setReady (modHost s (fun h => { h with retryStatus := false })) 3 else s

/-! ### The image (R886, R887) -/

/-- The ROM advances the rollback floor at a reset that is no Gaffer reset (R887). -/
def advanceFloor (s : State) (b : Bool) : State :=
  match tfind s.dict.pend (dictKey 0xA002 0 0) with
  | some p =>
    let v := leNat p.bytes
    let s := modDict s (fun d => { d with pend := tdel d.pend (dictKey 0xA002 0 0) })
    if s.fuses.floor.toNat < v ∧ v ≤ (imageOf s b).version ∧ s.fuses.floorWords < 64 then
      { s with fuses := { s.fuses with floor := BitVec.ofNat 32 v, floorWords := s.fuses.floorWords + 1 } }
    else s
  | none => s

/-- No slot is valid (R886): alarm 0x4020, FAULT_N, the rails off, the flash pins released. -/
def haltRom (s : State) : State :=
  let s := logEvent s 0x4020 srcGaffer 0
  let s := railsOff (stopFabric s)
  let s := modPins s (fun p => { p with romFault := true, flashHiZ := true })
  modGaffer s (fun g => { g with halted := true, loading := false, running := false, readiness := g.readiness &&& 6 })

/-- The firmware of a slot starts: 0x1001, bit [0], and 0x2050 where the ROM fell back to it. -/
def runImage (s : State) (b : Bool) (failed : Option Bool) : State :=
  let s := if s.gaffer.warm then s else advanceFloor s b
  let s := modGaffer s (fun g => { g with running := true, loading := false, slotB := b, fallback := failed })
  let s := setReady (logEvent s 0x1001 srcGaffer (b2n b)) 0
  let s := match failed with
    | some f => logEvent s 0x2050 srcGaffer (b2n f)
    | none => s
  answerTrips s

/-- FIRMWARE_START (R860 step 12, R886): the chosen slot, else the other one, else the ROM halts. -/
def firmwareStart (s : State) : State :=
  let b := s.gaffer.slotB
  if s.gaffer.loading = false then s
  else if slotValid s b then runImage s b none
  else if slotValid s (!b) then runImage s (!b) (some b)
  else haltRom s

/-! ### The Gaffer reset (R871 to R874, R793, R851) -/

/-- The ranges whose entries the Gaffer holds (R873). -/
def gafferHeld (i : Nat) : Bool := i / 4096 == 1 || i / 4096 == 2 || i / 4096 == 9 || i / 4096 == 10 || i / 4096 == 15

/-- An entry of effect class reset. -/
def isResetClass (i sub : Nat) : Bool := ((desc i sub).map (fun d => d.cls == cReset)).getD false

/-- Index of a dictionary key, and its subindex. -/
def keyIndex (k : Nat) : Nat := k / 2 ^ 20
def keySub (k : Nat) : Nat := k / 2 ^ 12 % 256

/-- What a Gaffer reset brings back to default or journal (R873). -/
def gafferReplayed (i sub : Nat) : Bool := gafferHeld i && !isResetClass i sub

/-- The I2C controllers recover before their first transaction (R793), and PMBus ownership is revoked (R872). -/
def gafferI2c (s : State) : State :=
  let s := if s.i2c.lent then emit s (.pmbGnt false) else s
  let s := modI2c s (fun k => { k with
    lent := false, holder := 0, failed := false, retries := 0, mod := .recovering, modRounds := 0, modPulses := 0 })
  startRecovery s .gafferReset

/-- Power after a Gaffer reset (R851): rails keep their last commanded values, the cap restarts. -/
def gafferPower (s : State) : State :=
  modPower (landRails s) (fun p => { p with
    trans := none, waiting := [], chain := false, committed := false, retry := false, second := false, again := false,
    cap := 880, goodWindows := 0, currents := [] })

/-- The field ports after a Gaffer reset (R793): requests get no response, an unfetched SPI response is lost, the field port is in
standby. -/
def gafferPorts (s : State) : State :=
  let s := modSpi s (fun p => { p with waiting := false, response := none })
  let s := modPins s (fun p => { p with canStby := true })
  modCan s (fun c => { Can.reset with
    node := c.node, alarms := c.alarms, hbTag := c.hbTag, time := c.time, rejectMs := c.rejectMs, violLog := c.violLog })

/-- The Gaffer restarts alone and loads a slot (R872). Accesses of paths that still exist complete with 0x0013 (R135); those of
the field ports get no response (R793). -/
def gafferReset (s : State) (slot : Bool) : State :=
  let fieldPath := fun (p : DictPath) => match p with
    | .spi => true
    | .field _ => true
    | _ => false
  let s := dropAccesses s fieldPath
  let s := cancelAccesses s (fun p => !fieldPath p)
  let s := restartJournal s
  let s := modDict s (fun d => { d with
    stages := [], claims := [], expired := [], pend := d.pend.filter (fun e => e.2.persistent) })
  let s := modGaffer s (fun g => { g with
    running := false, loading := true, slotB := slot, warm := g.warm || g.dictReady, dictReady := false, debug := false,
    challengeLive := false, fallback := none, readiness := BitVec.ofNat 32 (withBit g.readiness.toNat 0 false) })
  gafferI2c (gafferPower (gafferPorts s))

/-- GAFFER_RESET (R872, R894): a ROM that halted waits for another kind of reset (R886). -/
def gafferResetCmd (s : State) : State :=
  if s.gaffer.running ∨ s.gaffer.loading then gafferReset s s.gaffer.slotB else s

/-- GAFFER_WATCHDOG_EXPIRY (R871): a second one within 60 s boots the other slot, where it is valid. -/
def watchdogExpiry (s : State) (again : Bool) : State :=
  let b := s.gaffer.slotB
  if s.gaffer.running = false then s
  else if again ∧ slotValid s (!b) = true then gafferReset (logEvent s 0x2050 srcGaffer (b2n b)) (!b)
  else gafferReset s b

/-! ### Dictionary ready (R860 step 13, R865, R866, R873, R881, R897) -/

/-- What the firmware finds of the flash (R775, R776): one that may not be written logs 0x3001. -/
def findFlash (s : State) (f : FlashFinding) : State :=
  let ok := f.readable && f.sfdpOk
  let s := { s with flash := if f.readable then
      { identity := f.identity, sizeMib := f.sizeMib, width := if ok then f.width else 1, writable := ok && s.pins.pwrOk }
    else { Flash.reset with writable := false } }
  if ok then s else logEvent s 0x3001 (srcField 4) 0

/-- Only the service role may write the entry (R139). -/
def serviceOnly (d : Desc) : Bool :=
  rightOf d.rights .service == 2 && [Role.system, .operator, .tenant, .field].all (fun r => rightOf d.rights r != 2)

/-- The service-only entries that hold a value return to their defaults, and a tombstone is journalled for each that is
persistent (R139, R881). -/
def dropServiceOnly (s : State) : State :=
  let mine := fun (k : Nat) => ((desc (keyIndex k) (keySub k)).map serviceOnly).getD false
  (s.dict.vals.filter (fun e => mine e.1)).foldl (fun s e =>
    let i := keyIndex e.1
    let s := clearVal s i (keySub e.1) (e.1 % 2 ^ 12)
    if ((desc i (keySub e.1)).map (·.persist)).getD false then journalNow s (newRecord s i (keySub e.1) (e.1 % 2 ^ 12) true [])
    else s) s

/-- The values before the journal is replayed: after a Gaffer reset those that it does not bring back stay, and 0x2010+d.01
matches the state of its domain (R873). -/
def beforeReplay (s : State) : State :=
  if s.gaffer.warm then
    let s := modDict s (fun d => { d with
      vals := d.vals.filter (fun e => !gafferReplayed (keyIndex e.1) (keySub e.1))
      counts := d.counts.filter (fun e => !gafferHeld (keyIndex e.1)) })
    (List.range 16).foldl (fun s d => modDom s d (fun k => { k with
      request := match k.state with
        | .on => 0
        | .staging => 0
        | .retention => 1
        | .off => 2 })) s
  else modDict s (fun d => { d with vals := [] })

/-- The entries that a replay may set (R122, R873). -/
def replayed (s : State) (i sub : Nat) : Bool := if s.gaffer.warm then gafferReplayed i sub else true

/-- Step 13's journal: replayed, with compaction started where the half is past its trigger (R125, R130), or formatted where neither half is good and the flash may be written (R122, R123, R881, R897). -/
def openJournal (s : State) (readable : Bool) (oa ob : HalfOutcome) : State :=
  let s := beforeReplay s
  if readable = false then
    (if s.gaffer.warm then s
    else
      setVal (setVal (setVal s 0xA001 0 0 [if s.gaffer.used.1 then 1 else 0]) 0x3010 0 0 (leBytes 2 s.gaffer.used.2.1)) 0x8002 0 0
        [if s.gaffer.used.2.2 then 1 else 0])
  else if lifeState s = 4 then
    (if s.flash.writable ∧ (s.dict.journal.halfA.recs ≠ [] ∨ s.dict.journal.halfB.recs ≠ []) then eraseJournal s else s)
  else match chooseHalf s.dict.journal with
    | some b =>
      let s := replay s b (replayed s)
      if s.flash.writable then compactionTrigger s else s
    | none => if s.flash.writable then formatJournal s oa ob else s

/-- The newest record of the ageing store (R846). -/
def newestAge : List AgeRec → Option AgeRec
  | [] => none
  | r :: l => match newestAge l with
    | some q => some (if q.seq < r.seq then r else q)
    | none => some r

/-- Wear counts as start-up takes them from the ageing store (R846). -/
def loadAgeing (s : State) : State :=
  match newestAge s.ageing.store with
  | some r => modAgeing s (fun a => { a with
      hours := r.hours, weighted := r.weighted, margin := r.margin, eol := r.eol, maxBase := r.journalMax,
      totalBase := r.eraseTotal, erases := [], seq := r.seq + 1 })
  | none => s

/-- A journalled 0x8002 that differs from what the host port started with is pending until the next reset that restarts the host
port (R866). -/
def stockWindow (s : State) : State :=
  let v := valOf s 0x8002 0 0 [1]
  let cur : List Byte := leBytes 1 (b2n s.host.bar4)
  if v = cur then s
  else setVal (modDict s (fun d => { d with
    pend := tput d.pend (dictKey 0x8002 0 0) { bytes := v, persistent := true } })) 0x8002 0 0 cur

/-- The blocks take up the values that the journal brings at a cold start: serving bounds, changeover share and KV policy,
disabled links, the stock window and the wear counts. -/
def loadBlocks (s : State) : State :=
  let s := stockWindow (loadAgeing s)
  let s := { s with serving := { s.serving with bounds := sixteen s 0x6010 (fun b => 64 * 2 ^ b) } }
  let s := modReels s (fun r => { r with share := valNat s 0x7120 1 0 25, policy := valNat s 0x7120 2 0 0 })
  (List.range 16).foldl (fun s n => if valNat s (0x5100 + n) 4 0 1 = 0 then setLState s n .disabled else s) s

/-- Channels trained above the journalled cap train again at it, and all of stock is wiped again (R866). -/
def retrain (s : State) : State :=
  let cap := valNat s 0x3010 0 0 8533
  if s.mem.stock.any (fun e => decide (cap < e.2.rate)) then
    let s := modGaffer s (fun g => { g with
      readiness := BitVec.ofNat 32 (withBit (withBit g.readiness.toNat 6 false) 7 false) })
    modMem s (fun m => { m with
      stock := m.stock.map (fun e => if cap < e.2.rate then (e.1, { e.2 with state := 1, rate := 0 }) else e)
      cells := m.cells.filter (fun e => decide (e.1 < 2 ^ 48))
      bad := m.bad.filter (fun e => decide (e.1 < 2 ^ 48))
      leases := m.leases.filter (fun e => decide (e < 2 ^ 48)) })
  else s

/-- Reconciliation of the start-up block with the journal (R866). -/
def reconcile (s : State) (used : Bool × Nat × Bool) : State :=
  let want := valNat s 0xA001 0 0 0 == 1
  if want != used.1 && slotValid s want then
    gafferReset (modGaffer s (fun g => { g with used := (want, g.used.2.1, g.used.2.2) })) want
  else retrain s

/-- DICTIONARY_READY (R860 step 13). -/
def dictionaryReady (s : State) (f : FlashFinding) (oa ob : HalfOutcome) : State :=
  if s.gaffer.running = false ∨ s.gaffer.dictReady then s
  else
    let cold := !s.gaffer.warm
    let s := openJournal (findFlash s f) f.readable oa ob
    let s := if lifeState s = 3 ∨ lifeState s = 4 then s else dropServiceOnly s
    let s := if cold then loadBlocks s else s
    let s := rewriteBlock (modGaffer s (fun g => { g with dictReady := true, warm := false }))
    let s := logEvent s 0x1002 srcGaffer 0
    let s := canReady s
    let s := setpointCommitted s
    reconcile s s.gaffer.used

/-- LINKS_RELEASED (R860 step 14, R659): both timebases are calibrated, bits [4] and [5] set, holding links start their kickoff. -/
def linksReleased (s : State) : State :=
  if s.gaffer.dictReady = false ∨ s.gaffer.diesReleased = false ∨ ready s 4 then s
  else
    let s := setReady (setReady (calibrate (calibrate s .d0) .d1) 4) 5
    (List.range 16).foldl (fun s n => if (linkOf s n).state = .holding then startKickoff s n else s) s

/-! ### Life cycle (R878 to R882) -/

/-- The transitions of the table Life-cycle transitions. -/
def transitionAllowed (s : State) (new : Nat) : Bool :=
  let old := lifeState s
  (old == 0 && new == 1 && s.fuses.keyDigest.isSome) || (old == 1 && new == 2) ||
    (old == 2 && new == 3 && decide (s.fuses.rows ≤ 30)) || (old == 3 && new == 2) || (decide (old < 4) && new == 4)

/-- Steps 1 to 4 of the table Transition sequence, taken as one step (log entry 62). -/
def transition (s : State) (new : Nat) : State :=
  let old := lifeState s
  let s := (List.range 16).foldl (fun s n => if usable s n then emit s (.control n 2 0) else s) s
  let s := { s with fuses := if new = 4 then { s.fuses with retired := true } else { s.fuses with rows := s.fuses.rows + 1 } }
  let s := logEvent s 0x1050 srcGaffer (old + new * 2 ^ 8)
  let s := if old = 3 then dropServiceOnly s else s
  let s := if new = 4 then eraseJournal (cutAwaiting s) else s
  let s := startUp (modGaffer s (fun g => { g with resetKind := BitVec.ofNat 8 (0x10 + new) })) none
  if new = 4 then
    logEvent (modGaffer s (fun g => { g with wipeKind := 0x14, wipedTiers := 7 })) 0x1051 srcGaffer 7
  else s

/-! ### Test access and rails beyond their bands (R891, R898, R926) -/

/-- Boundary scan and the private instructions are available (table Life-cycle states, R890). -/
def scanFull (s : State) : Bool := decide (lifeState s < 2) || (lifeState s == 3 && s.gaffer.debug)

/-- IDCODE (R891): the stepping is that of the edge dies, over whose balls the port runs. -/
def idcode : U32 :=
  BitVec.ofNat 32 (1 + Config.jep106.toNat * 2 + 0x4C06 * 2 ^ 12 + Config.steppings.toNat % 16 * 2 ^ 28)

/-- TAP_INSTRUCTION: IDCODE answers while VIO is on. What boundary scan drives and the private instructions do is outside the
block; a state that does not offer them leaves BYPASS (IEEE 1149.1). -/
def tapInstruction (s : State) (i : TapInstr) : State :=
  if i = .idcode ∧ (regOf s 7).on then emit s (.idcode idcode) else s

/-- Absolute maximum of a rail in mV (R898). -/
def absMax : Rail → Int
  | .vcoreF => 990
  | .vvault => 950
  | .vedge => 900
  | .vserdesA0 => 1050
  | .vserdesA1 => 1050
  | .vserdesH => 1350
  | .vddqS => 600
  | .vio => 2000

/-- Half the band of a rail including ripple and load steps, in mV (table Recommended operating conditions); VCORE_F is covered
by R66 and R67. -/
def bandOf : Rail → Int
  | .vcoreF => 0
  | .vvault => 24
  | .vedge => 23
  | .vserdesA0 => 18
  | .vserdesA1 => 18
  | .vserdesH => 36
  | .vddqS => 20
  | .vio => 90

/-- Where a rail's band lies: around 900 or 950 mV for VSERDES_A, else around the nominal setting. -/
def bandCentre (s : State) (r : Rail) : Int :=
  match r with
  | .vserdesA0 => if 925 ≤ (regOf s 3).stable then 950 else 900
  | .vserdesA1 => if 925 ≤ (regOf s 4).stable then 950 else 900
  | r => (nominalMv (railNum r) : Int)

/-- RAIL_EXCURSION within the absolute maxima (R926, R853): one longer than 1 ms of a rail that is on counts as a fall of
PWR_OK. -/
def railExcursion (s : State) (r : Rail) (mv : Int) (long : Bool) : State :=
  let c := bandCentre s r
  if long = false ∨ r = .vcoreF ∨ (regOf s (railNum r)).on = false ∨ (c - bandOf r ≤ mv ∧ mv ≤ c + bandOf r) then s
  else mainPowerLoss s

/-! ### Commands -/

/-- POWER_ON_RESET (R867). -/
def execPowerOnReset (s : State) : Host.Outcome State Fault Refusal := .next (powerOnReset s)
/-- POWER_UP (R860). -/
def execPowerUp (o : PowerUpOutcome) (s : State) : Host.Outcome State Fault Refusal := .next (powerUp s o)
/-- STOCK_TRAINING_COMPLETE (R860). -/
def execStockTrainingComplete (l : List ChannelFinding) (s : State) : Host.Outcome State Fault Refusal :=
  .next (trainingComplete s l)
/-- STOCK_WIPE_COMPLETE (R860). -/
def execStockWipeComplete (s : State) : Host.Outcome State Fault Refusal := .next (wipeComplete s)
/-- PCIE_CRS_END (R733). -/
def execPcieCrsEnd (s : State) : Host.Outcome State Fault Refusal := .next (crsEnd s)
/-- FIRMWARE_START (R860). -/
def execFirmwareStart (s : State) : Host.Outcome State Fault Refusal := .next (firmwareStart s)
/-- DICTIONARY_READY (R860). -/
def execDictionaryReady (f : FlashFinding) (h h2 : HalfOutcome) (s : State) : Host.Outcome State Fault Refusal :=
  .next (dictionaryReady s f h h2)
/-- LINKS_RELEASED (R659). -/
def execLinksReleased (s : State) : Host.Outcome State Fault Refusal := .next (linksReleased s)
/-- MAIN_POWER_LOSS (R869). -/
def execMainPowerLoss (s : State) : Host.Outcome State Fault Refusal := .next (mainPowerLoss s)
/-- VSTBY_LOSS (R940). -/
def execVstbyLoss (s : State) : Host.Outcome State Fault Refusal := .next (vstbyLoss s)
/-- PACKAGE_RESET (R858). -/
def execPackageReset (s : State) : Host.Outcome State Fault Refusal := .next (packageReset s)
/-- SYS_RESET_N_RISE (R860). -/
def execSysResetNRise (s : State) : Host.Outcome State Fault Refusal := .next (sysResetRise s)
/-- GAFFER_WATCHDOG_EXPIRY (R871). -/
def execGafferWatchdogExpiry (within60s : Bool) (s : State) : Host.Outcome State Fault Refusal :=
  .next (watchdogExpiry s within60s)
/-- GAFFER_RESET (R872). -/
def execGafferReset (s : State) : Host.Outcome State Fault Refusal := .next (gafferResetCmd s)
/-- TAP_INSTRUCTION (R891). -/
def execTapInstruction (i : TapInstr) (s : State) : Host.Outcome State Fault Refusal := .next (tapInstruction s i)
/-- RAIL_EXCURSION (R898, R926): beyond an absolute maximum no rule of the manual holds. -/
def execRailExcursion (r : Rail) (mv : Int) (longerThan1ms : Bool) (s : State) : Host.Outcome State Fault Refusal :=
  if mv < -300 ∨ absMax r < mv then .fault .beyondAbsoluteMaximum else .next (railExcursion s r mv longerThan1ms)

end Sys2Proof.Machine
end

