-- ==== Sys2Proof/Machine/DictValue.lean ====
section
/-!
DEFINITION. What a read of each entry returns (04_dictionary_map.md R144, R150 to R161, R165, R488; 03_dictionary.md R89, R97): the
committed value of a writable entry, and what the owning block holds of one that only the Loeth sets.
-/
namespace Sys2Proof.Machine

/-! ### Codes of states -/

/-- 0x5300+q.01 (R154). -/
def SynthState.code : SynthState → Nat
  | .off => 0
  | .tuning => 1
  | .locked => 2
  | .failed => 3
  | .recalibrating => 4

/-- 0x9030.01 and 0x9031.01 (R158). -/
def I2cState.code : I2cState → Nat
  | .idle => 0
  | .recovering => 1
  | .stuck => 2

/-! ### Values of the blocks -/

/-- A 128-byte bitmap of cores (R153, the layout of 0x4001). -/
def coreBitmap (l : List Nat) : List Byte :=
  (List.range 128).map (fun i => BitVec.ofNat 8
    ((l.filter (fun c => c / 8 == i)).foldl (fun v c => withBit v (c % 8) true) 0))

/-- Cores that are fenced. -/
def fencedCores (s : State) : List Nat := (s.cores.filter (fun e => e.2.fenced)).map (·.1)

/-- Trackers that are not free, 0x6001. -/
def trackersInUse (s : State) : Nat := (s.serving.trackers.filter (fun e => e.2.state != .free)).length

/-- Reels that trackers in states open, running and verifying run (R488). -/
def runningReels (s : State) : List Nat :=
  (s.serving.trackers.filter (fun e => e.2.state == .open' || e.2.state == .running || e.2.state == .verifying)).map
    (fun e => e.2.reel.toNat)

/-- The oldest of reel numbers (R487's order); none of no reels. -/
def oldestReel : List Nat → Option Nat
  | [] => none
  | r :: l => match oldestReel l with
    | some q => some (if newer r q then q else r)
    | none => some r

/-- 0x7000.03: the state of the bank that is not front, 0 while none is (R488). -/
def backState (s : State) : Nat :=
  match frontBank s with
  | some b => (bankOf s (!b)).state.code
  | none => 0

/-- 0x7000.04; with no such tracker the manual gives no value: a free value (log entry 63). -/
def oldestInUse (s : State) : Nat :=
  match oldestReel (runningReels s) with
  | some r => r
  | none => freeAt s 0 % 65536

/-- Bytes off to off + n − 1 of the event log 0xF001 (R163, R165). -/
def logSlice (s : State) (off n : Nat) : List Byte :=
  let first := off / 16
  let last := (off + n + 15) / 16
  let rows := (List.range (last - first)).flatMap (fun i =>
    match tfind s.log.recs (first + i) with
    | some e => eventBytes e
    | none => zeros 16)
  slice rows (off % 16) n

/-- ECC records 0x3000 to 0x3002 (R152). -/
def eccField (e : Ecc) (sub : Nat) : List Byte :=
  match sub with
  | 1 => leBytes 8 e.corrected
  | 2 => leBytes 4 e.uncorrectable
  | _ => leBytes 8 e.last

/-- Ranges 0x1000 and 0x2000 (R150, R151). -/
def value12 (s : State) (b i sub : Nat) : Option (List Byte) :=
  let h := authHalf s
  let d := i - 0x2010
  let q := i - 0x2040
  match b, sub with
  | 0x1010, _ => some (leBytes 1 (lifeState s))
  | 0x1012, _ => some (leBytes 1 (b2n s.gaffer.debug))
  | 0x1020, _ => some (leBytes 1 (b2n s.gaffer.dictReady))
  | 0x1021, _ => some (leBytes 4 s.gaffer.readiness.toNat)
  | 0x1030, _ => some (leBytes 4 (imageOf s s.gaffer.slotB).version)
  | 0x1040, 1 => some (leBytes 1 (b2n s.dict.journal.authB))
  | 0x1040, 2 => some (leBytes 4 ((h.generation.map BitVec.toNat).getD 0))
  | 0x1040, 3 => some (leBytes 4 h.fill)
  | 0x1040, 4 => some (leBytes 4 (compactedSize h.recs))
  | 0x2001, _ => some (leBytes 2 s.power.vcoreMv)
  | 0x2002, _ => some (leBytes 4 s.power.packageMw)
  | 0x2010, 1 => some (leBytes 1 (domOf s d).request)
  | 0x2010, 2 => some (leBytes 1 (domOf s d).state.code)
  | 0x2010, 3 => some (leBytes 4 (domOf s d).currentMa)
  | 0x2010, 4 => some (leBytes 4 (domOf s d).beatRate)
  | 0x2010, 5 => some (leBytes 4 (fTenths (domOf s d).tenths).toNat)
  | 0x2010, 6 => some (leBytes 8 (domOf s d).energy)
  | 0x2020, _ => some (leBytes 4 (fTenths s.power.junction).toNat)
  | 0x2022, _ => some (leBytes 2 s.fabric.periods.1)
  | 0x2023, _ => some (leBytes 2 s.fabric.periods.2)
  | 0x2030, _ => some (leBytes 2 (s.power.railMv.getD (sub - 1) 0))
  | 0x2040, 1 => some (leBytes 2 (quadOf s q).target)
  | 0x2040, 2 => some (leBytes 2 (quadOf s q).measured)
  | 0x2050, _ => some (leBytes 1 (b2n s.power.hold))
  | 0x2060, 1 => some (leBytes 4 s.ageing.hours)
  | 0x2060, 3 => some (leBytes 4 (predictedLife s))
  | 0x2060, 4 => some ((List.range 16).flatMap (fun d => leBytes 4 ((domOf s d).drift % 2 ^ 32).toNat))
  | 0x2060, 5 => some (leBytes 1 s.ageing.margin)
  | 0x2060, 6 => some (leBytes 4 (journalErases s))
  | 0x2060, 7 => some (leBytes 8 (totalErases s))
  | _, _ => none

/-- Ranges 0x3000 to 0x5000 (R152 to R154). -/
def value345 (s : State) (b i sub : Nat) : Option (List Byte) :=
  let c := stockOf s (i - 0x3020)
  let g := groupOf s (i - b)
  let l := linkOf s (i - 0x5200)
  match b, sub with
  | 0x3000, _ => some (eccField s.mem.vaultEcc sub)
  | 0x3001, _ => some (eccField s.mem.stockEcc sub)
  | 0x3002, _ => some (eccField s.mem.scratchEcc sub)
  | 0x3011, _ => some (leBytes 2 (capacityGiB s))
  | 0x3020, 1 => some (leBytes 1 c.density)
  | 0x3020, 2 => some (leBytes 1 c.state)
  | 0x3020, 3 => some (leBytes 2 c.rate)
  | 0x3040, 1 => some [s.gaffer.wipeKind]
  | 0x3040, 2 => some [s.gaffer.wipedTiers]
  | 0x4001, _ => some (coreBitmap (fencedCores s))
  | 0x4200, 0xFE => some [g.latchedCount]
  | 0x4300, _ => some (leBytes 1 g.request)
  | 0x4400, 1 => some (leBytes 1 g.state.code)
  | 0x4400, 2 => some (leBytes 8 g.huddles)
  | 0x4400, 3 => some (leBytes 4 g.kernel)
  | 0x4400, 4 => some (leBytes 2 g.lastFault.toNat)
  | 0x5200, 1 => some (leBytes 1 l.state.code)
  | 0x5200, 2 => some (leBytes 1 ((l.mode.map (·.mode)).getD 0xFF))
  | 0x5200, 3 => some (leBytes 1 ((l.mode.map (fun m => 2 ^ m.width)).getD 0))
  | 0x5200, 4 => some (leBytes 1 ((l.mode.map (fun m => b2n m.deep)).getD 0))
  | 0x5200, 5 => some (leBytes 2 l.partner.1)
  | 0x5200, 6 => some (leBytes 1 l.partner.2)
  | 0x5200, 7 => some (leBytes 2 l.lastFoul.toNat)
  | 0x5300, 1 => some (leBytes 1 (quadOf s (i - 0x5300)).synth.code)
  | 0x5300, 2 => some (leBytes 4 (quadOf s (i - 0x5300)).recals)
  | _, _ => none

/-- Ranges 0x6000 to 0x8000 (R155 to R157, R488, R415, R515). -/
def value678 (s : State) (b i sub : Nat) : Option (List Byte) :=
  let ring := ringOf s (i - 0x7130)
  match b, sub with
  | 0x6001, _ => some (leBytes 2 (trackersInUse s))
  | 0x6010, 0xFE => some [tget s.dict.latched 0x6010 0]
  | 0x6020, 0xFE => some [tget s.dict.latched 0x6020 0]
  | 0x6021, _ => some ((List.range 16).flatMap (fun k => leBytes 4 (pagesFree s k)))
  | 0x7000, 1 => some (leBytes 2 ((frontReel s).getD 0))
  | 0x7000, 2 => some (leBytes 2 s.reels.posted.toNat)
  | 0x7000, 3 => some (leBytes 1 (backState s))
  | 0x7000, 4 => some (leBytes 2 (oldestInUse s))
  | 0x7000, 5 => some (leBytes 2 (s.serving.trackers.filter (fun e => e.2.state == .cueWait)).length)
  | 0x7120, 0xFE => some [tget s.dict.latched 0x7120 0]
  | 0x7130, 3 => some (leBytes 8 ring.written)
  | 0x7130, 4 => some (leBytes 8 ring.released)
  | 0x7211, 1 => some (leBytes 8 s.slate.lastStep)
  | 0x7211, 2 => some (leBytes 8 s.slate.lastDrained)
  | 0x7211, 3 => some (leBytes 2 s.slate.lastReel.toNat)
  | 0x8000, 1 => some [s.host.rate]
  | 0x8000, 2 => some [s.host.width]
  | 0x8000, 3 => some (leBytes 1 (b2n s.host.flitMode))
  | 0x8001, _ => some (leBytes 1 (if s.host.vfEnable then s.host.numVfs else 0))
  | _, _ => none

/-- Ranges 0x9000 to 0xF000 (R158 to R161). -/
def value9AF (s : State) (b i sub ten : Nat) : Option (List Byte) :=
  let l := linkOf s (i - 0xF100)
  match b, sub with
  | 0x9003, 1 => some (leBytes 1 s.can.state.code)
  | 0x9003, 2 => some (leBytes 1 (lockedRates s))
  | 0x9003, 3 => some [s.can.txErr]
  | 0x9003, 4 => some [s.can.rxErr]
  | 0x9004, _ => some (s.can.alarms.flatMap AlarmRec.bytes)
  | 0x9010, _ => some (leBytes 4 s.spi.sticky)
  | 0x9020, 1 => some (leBytes 4 s.flash.identity.toNat)
  | 0x9020, 2 => some (leBytes 4 s.flash.sizeMib.toNat)
  | 0x9020, 3 => some [s.flash.width]
  | 0x9030, 1 => some (leBytes 1 s.i2c.pm.code)
  | 0x9030, 2 => some (leBytes 4 s.i2c.holder.toNat)
  | 0x9031, 1 => some (leBytes 1 s.i2c.mod.code)
  | 0x9031, 2 => some (leBytes 2 s.i2c.present.toNat)
  | 0x9040, _ => some (tget s.i2c.modules (i - 0x9040) (zeros 128))
  | 0xA000, 1 => some (leBytes 1 (b2n s.gaffer.slotB))
  | 0xA000, 2 => some (leBytes 4 s.fuses.floor.toNat)
  | 0xA000, 3 => some (leBytes 4 (slotVersion s false))
  | 0xA000, 4 => some (leBytes 4 (slotVersion s true))
  | 0xA010, _ => s.fuses.keyDigest
  | 0xA020, _ => some ((List.range 48).map (Config.challengeByte s.gaffer.challenges))
  | 0xA021, _ => some []
  | 0xA030, _ => if ten = 0 then some [1] else none
  | 0xA031, _ => some (leBytes 1 (b2n (tenantResetting s ten)))
  | 0xF000, _ => some (leBytes 4 s.log.next.toNat)
  | 0xF001, _ => some (logSlice s 0 65536)
  | 0xF100, 1 => some (leBytes 8 l.flitsSent)
  | 0xF100, 2 => some (leBytes 8 l.flitsRecv)
  | 0xF100, 3 => some (leBytes 8 l.replays)
  | 0xF100, 4 => some (leBytes 8 l.crcErrors)
  | 0xF100, 5 => some (leBytes 4 l.fouls)
  | 0xF200, 1 => some (leBytes 8 (tqOf s ten).misses)
  | 0xF200, 2 => some (leBytes 8 (tqOf s ten).kernels)
  | 0xF200, 3 => some (leBytes 8 (tqOf s ten).completions)
  | _, _ => none

/-- What a block holds of an entry or field, where the committed values do not hold it. -/
def blockValue (s : State) (i sub ten : Nat) : Option (List Byte) :=
  let b := (baseOf i).getD i
  match b / 4096 with
  | 1 => value12 s b i sub
  | 2 => value12 s b i sub
  | 3 => value345 s b i sub
  | 4 => value345 s b i sub
  | 5 => value345 s b i sub
  | 6 => value678 s b i sub
  | 7 => value678 s b i sub
  | 8 => value678 s b i sub
  | _ => value9AF s b i sub ten

/-- The value in effect of an entry or field (R83, R97); subindex 0x00 of a record is its commit count. -/
def valueOf (s : State) (i sub ten : Nat) : List Byte :=
  if sub = 0 ∧ isRecord i then leBytes 1 (countOf s i ten)
  else match blockValue s i sub ten with
    | some v => v
    | none => valOf s i sub ten (defaultOf i sub)

/-- A read with its flags (R103, R106): the default, the pending value where the entry holds one, else the value in effect. -/
def readValue (s : State) (i sub ten flags : Nat) : List Byte :=
  if flags.testBit 2 then defaultOf i sub
  else match tfind s.dict.pend (dictKey i sub ten) with
    | some p => if flags.testBit 1 then p.bytes else valueOf s i sub ten
    | none => valueOf s i sub ten

/-- Bytes off to off + n − 1 of a read, as many as the value has (R106); of the event log no more than these are formed. -/
def readSlice (s : State) (i sub ten flags off n : Nat) : List Byte :=
  if i = 0xF001 ∧ flags.testBit 2 = false then logSlice s off (min n (65536 - off))
  else slice (readValue s i sub ten flags) off n

end Sys2Proof.Machine
end

