-- ==== Sys2Proof/Machine/DictAccess.lean ====
section
/-!
DEFINITION. How an access to the object dictionary is executed (03_dictionary.md R76 to R116, R132 to R140, R930 to R934;
04_dictionary_map.md R141 to R174): checks in order, reads, staged writes, commits, pieces, the quiet class, the combination
checks of the blocks, what a commit does to its block, and the wait for the journal's seal.
-/
namespace Sys2Proof.Machine

/-! ### Checks that every access meets -/

/-- Opcodes of the access body (R103). -/
def opRead : Byte := 1
def opWrite : Byte := 2
def opInfo : Byte := 3

/-- Flags of the access body (R103). -/
def isVolatile (a : Access) : Bool := a.flags.toNat.testBit 0
def toDefault (a : Access) : Bool := a.flags.toNat.testBit 2
def isFinal (a : Access) : Bool := a.flags.toNat.testBit 3

/-- The bytes that a write carries: its length field's worth of what the carrier delivered (R934). -/
def writeBytes (a : Access) : List Byte := a.data.take a.length.toNat

/-- A field port read: it may ask for more than it gets (R751). -/
def fieldRead (op : Byte) (a : Access) : Bool := match a.path with
  | .field _ => op == opRead
  | _ => false

/-- 0x000F for a malformed body (R101, R104, R934). -/
def bodyCode (op : Byte) (a : Access) : Nat :=
  if (op ≠ opRead ∧ op ≠ opWrite ∧ op ≠ opInfo) ∨ 16 ≤ a.flags.toNat then 0x000F
  else if op = opInfo then 0
  else if pathLimit a.path < a.length.toNat ∧ fieldRead op a = false then 0x000F
  else if op = opWrite ∧ a.data.length < a.length.toNat then 0x000F
  else 0

/-- The entries and fields that an index names. -/
def MapEntry.descs : MapEntry → List Desc
  | .one d => [d]
  | .rec' fs => fs.map (·.2)

/-- A tenant access to an entry of a core group of another tenant (R148). -/
def foreignGroup (s : State) (a : Access) (r : Role) : Bool :=
  let i := a.index.toNat
  r == .tenant && decide (0x4100 ≤ i ∧ i < 0x4500) && groupTenant s (i % 256) != (pathTenant s a.path).getD 0

/-- The entry that an access names, or the code of R79, R141 and R148. -/
def findEntry (s : State) (a : Access) : Except Nat Desc :=
  match entryAt a.index.toNat with
  | none => .error 0x0001
  | some e =>
    match pathRole s a.path with
    | none => .error 0x0003
    | some r =>
      if e.descs.all (fun d => rightOf d.rights r == 0) ∨ foreignGroup s a r then .error 0x0003
      else match descOf e a.sub.toNat with
        | none => .error 0x0002
        | some d => if rightOf d.rights r = 0 then .error 0x0003 else .ok d

/-- The block that owns an index has finished start-up (R132, R860, table Readiness). -/
def blockReady (s : State) (i : Nat) : Bool :=
  match i / 4096 with
  | 3 => if i = 0x3000 ∨ i = 0x3030 ∨ i = 0x3031 then ready s 4 else true
  | 4 => ready s 4
  | 5 => ready s 5
  | 6 => ready s 4
  | 7 => ready s 4
  | 8 => ready s 3
  | 9 => if i ≤ 0x9005 then s.can.state != .standby else if i = 0x9010 then ready s 1 else true
  | _ => true

/-- An entry of a core group that a fault has fenced (R137): its fault status 0x4400+g and its control 0x4300+g stay. -/
def fencedBlock (s : State) (i : Nat) : Bool :=
  decide ((0x4100 ≤ i ∧ i < 0x4300)) && (groupOf s (i % 256)).state == .fenced

/-- Readiness, fencing and life cycle of the block (R132, R137, R159). -/
def blockCode (s : State) (i : Nat) : Nat :=
  if blockReady s i = false then 0x000E
  else if fencedBlock s i then 0x0014
  else if (i = 0xA020 ∨ i = 0xA021) ∧ lifeState s ≠ 3 then 0x000B
  else 0

/-- An entry of a compute domain in retention or off (R134, R171). -/
def poweredDown (s : State) (i : Nat) : Bool :=
  baseOf i == some 0x2010 && ((domOf s (i - 0x2010)).state == .retention || (domOf s (i - 0x2010)).state == .off)

/-- What a write reaches is kept in retention (R145, R171): the entry, or for a commit every field that it may bring in. -/
def keptWrite (a : Access) (d : Desc) : Bool :=
  if isRecord a.index.toNat then (writable (fieldsOf a.index.toNat)).all (fun f => f.2.kept) else d.kept

/-- A write to a field of a record is staged (R90). -/
def isStaged (op : Byte) (a : Access) : Bool := op == opWrite && a.sub != 0 && isRecord a.index.toNat

/-- A tenant access to a per-tenant entry of a context that is not enabled (R172). -/
def outOfScope (s : State) (a : Access) (d : Desc) : Bool :=
  d.perTen && pathRole s a.path == some .tenant && !tenantEnabled s (instanceOf s a d)

/-- The code of an access that reaches an entry, before it is read or written. -/
def accessCode (s : State) (op : Byte) (a : Access) (d : Desc) : Nat :=
  if outOfScope s a d then 0x000A
  else if isStaged op a then 0
  else if blockCode s a.index.toNat ≠ 0 then blockCode s a.index.toNat
  else if op = opWrite ∧ poweredDown s a.index.toNat = true ∧ keptWrite a d = false then 0x0015
  else 0

/-! ### Reads (R97, R105, R106, R889) -/

/-- A read of 0xA020 makes a fresh challenge (R889); one of 0x7000.04 with no stream uses its free value up (log entry 63). -/
def beforeRead (s : State) (a : Access) : State :=
  if a.index = 0xA020 ∧ toDefault a = false then modGaffer s (fun g => { g with challenges := g.challenges + 1, challengeLive := true })
  else s

/-- After the read of 0x7000.04. -/
def afterRead (s : State) (a : Access) : State :=
  if a.index = 0x7000 ∧ a.sub = 4 ∧ toDefault a = false ∧ oldestReel (runningReels s) = none then useFree s 1 else s

/-- A read: the state after it, its code and its data (R106). R106 names a scalar write at a non-zero offset; a scalar read there is
answered 0x0006 too, and a BLOB or STR read that reaches past the value is cut short, only an offset beyond the value giving
0x0010 (DESIGN CHOICE, log entry 108). -/
def readAccess (s : State) (a : Access) (d : Desc) : State × Nat × List Byte :=
  let i := a.index.toNat
  let off := a.offset.toNat
  let n := min a.length.toNat (pathLimit a.path)
  if isText d.ty then
    if valueLen s i d < off then (s, 0x0010, [])
    else
      let s := beforeRead s a
      (s, 0, readSlice s i a.sub.toNat (instanceOf s a d) a.flags.toNat off n)
  else if off ≠ 0 ∨ n < d.dflt.length then (s, 0x0006, [])
  else (afterRead s a, 0, readSlice s i a.sub.toNat (instanceOf s a d) a.flags.toNat 0 n)

/-! ### Blocks that are active (R85 and the notes of 04_dictionary_map.md) -/

/-- A group of the tenant runs, or its reset does. -/
def tenantBusy (s : State) (t : Nat) : Bool := tenantResetting s t || (runningGroups s).any (fun g => groupTenant s g == t)

/-- Ring k is written by a running group, read by one (on its home, learner groups: log entry 118), or fed with records that are
queued (R85, R156, R530). -/
def ringBusy (s : State) (k : Nat) : Bool :=
  (!isHome s k && queuedFor s k != []) || (isHome s k && (runningGroups s).any (fun g => groupRole s g == 2)) ||
    s.serving.trackers.any (fun e =>
    e.2.state != .free && e.2.ring == k && (groupOf s e.2.group.toNat).state == .running)

/-- A queue pair keeps the binding of a function (R739). -/
def bindingBusy (s : State) (f v : Nat) : Bool :=
  ((boundTenant s f).map (queueOn s)).getD false || (decide (v < 4096) && queueOn s v)

/-- Link n refuses a quiet write: it is not disabled, down or holding (R662); a write of false to .04 alone is taken in every
state (table Link transitions). -/
def linkBusy (s : State) (n : Nat) (fs : Tbl (List Byte)) : Bool :=
  !([LState.disabled, .down, .holding].contains (linkOf s n).state) && !(fs.all (fun f => f.1 == 4 && f.2 == [0]))

/-- The owning block of quiet fields is active (R85). -/
def quietBusy (s : State) (i ten : Nat) (fs : Tbl (List Byte)) : Bool :=
  match (baseOf i).getD i with
  | 0x1011 => runningGroups s != [] || s.host.tenants.any (fun e => e.2.resetStep != 0)
  | 0x3030 => tenantBusy s ten
  | 0x3031 => tenantBusy s ten
  | 0x4100 => (groupOf s (i - 0x4100)).state == .running
  | 0x5100 => linkBusy s (i - 0x5100) fs
  | 0x6030 => (runningGroups s).any (fun g => groupRole s g == 1)
  | 0x7130 => ringBusy s (i - 0x7130)
  | 0x7210 => slateActive s
  | 0x8010 => bindingBusy s (i - 0x8010) (leNat ((tfind fs 0).getD []))
  | 0x8100 => queueOn s ten && fs.any (fun f => decide (f.1 ≤ 4))
  | 0xA030 => tenantBusy s ten
  | _ => false

/-! ### Combination checks of the blocks -/

/-- A field as the commit would leave it: staged, else as it is. -/
def mergedNat (s : State) (i ten : Nat) (fs : Tbl (List Byte)) (k : Nat) : Nat :=
  leNat ((tfind fs k).getD (valueOf s i k ten))

/-- Another group that is not idle, and holds its members, has one of the cores (R214, R345). -/
def coresTaken (s : State) (g : Nat) (l : List Nat) : Bool :=
  (busyGroups s).any (fun h => h != g && holdsCores s h && l.any (fun c => isMember s h c))

/-- Values that increase strictly. -/
def increasing : List Nat → Bool
  | a :: b :: l => decide (a < b) && increasing (b :: l)
  | _ => true

/-- The ring and its head that an entry of size s at a base offset takes (R931). -/
def ringSpan (off size : Nat) : Nat × Nat := (off - 64, off + 64 * 2 ^ size)

/-- The rings of other entries on their home overlap this one (R931). -/
def ringOverlaps (s : State) (k : Nat) (x : Nat × Nat) : Bool :=
  (List.range 8).any (fun j =>
    let y := ringSpan (splitAddr s (ringBase s j)).2.2 (ringSize s j)
    j != k && ringSize s j != 0 && isHome s j && decide (x.1 < y.2 ∧ y.1 < x.2))

/-- The conditions of R931 on a ring base and size. -/
def ringOk (s : State) (k base size : Nat) : Bool :=
  let off := base % 2 ^ 47
  let pkg := base / 2 ^ 51
  let home := pkg == 0x1FFF || pkg == ownPkg s
  let x := ringSpan off size
  size == 0 ||
    (base / 2 ^ 47 % 16 == 2 && off / 2 ^ 39 == 0 && (home || decide (pkg % 128 < 72)) && off % (64 * 2 ^ size) == 0 && off != 0 &&
      (!home || (decide (x.2 ≤ capacityGiB s * 2 ^ 30) && !ringOverlaps s k x)))

/-- A vector that an enabled queue pair of the tenant may name (R707). -/
def vectorOk (s : State) (t v : Nat) : Bool :=
  match boundVf s t with
  | some f => decide (2048 + 64 * (f - 1) ≤ v ∧ v < 2048 + 64 * f)
  | none => decide (v ≤ 2047)

/-- A queue pair may be enabled with the merged fields (R707, R711, R740). -/
def enableCode (s : State) (t : Nat) (fs : Tbl (List Byte)) : Nat :=
  let m := mergedNat s 0x8100 t fs
  if tenantEnabled s t = false ∨ vectorOk s t (m 4) = false then 0x0008
  else if m 1 % 4096 ≠ 0 ∨ m 2 % 4096 ≠ 0 then 0x0007
  else 0

/-- The combination check of a record's commit by its block; 0 where it passes. -/
def recordCode (s : State) (i ten : Nat) (fs : Tbl (List Byte)) (p : PreCheck) : Nat :=
  let m := mergedNat s i ten fs
  match (baseOf i).getD i with
  | 0x1011 => inList (m 2 == 0x4C435452 && transitionAllowed s (m 1))
  | 0x2010 => powerRequestCheck s (i - 0x2010) (m 1) p
  | 0x4100 => match tfind fs 1 with
    | some v => inList (!coresTaken s (i - 0x4100) (bitmapCores v))
    | none => 0
  | 0x5001 => inList (m 1 % 8 == m 2 - 64)
  | 0x6010 => inList (increasing ((List.range 16).map (fun b => m (b + 1))))
  | 0x6020 => inRange (decide (((List.range 16).map (fun b => m (b + 1))).sum ≤ 2 ^ 22))
  | 0x7130 => inList (ringOk s (i - 0x7130) (m 1) (m 2))
  | 0x8100 => if tfind fs 5 = some [1] then enableCode s ten fs else 0
  | _ => 0

/-- A shelf base that 0x6030 takes (R443). -/
def shelfOk (s : State) (v : Nat) : Bool :=
  let p := splitAddr s v
  v == 0 || (v % 64 == 0 && p.1 == ownPkg s && (p.2.1 == 1 || p.2.1 == 2))

/-- The check of a value for an entry that stands alone by its block; 0 where it passes. -/
def entryCode (s : State) (i v : Nat) : Nat :=
  match (baseOf i).getD i with
  | 0x2000 => if s.power.hold then 0x000C else 0
  | 0x6030 => inList (shelfOk s v)
  | 0x8010 => inList (decide (4096 ≤ v) || boundVf s v == none || boundVf s v == some (i - 0x8010))
  | 0xA002 => if v < s.fuses.floor.toNat then 0x0007 else inList (decide (s.fuses.floorWords < 64))
  | _ => 0

/-! ### What a commit does -/

/-- Entries whose value their block holds, so that a commit stores none. -/
def blockHeld (i : Nat) : Bool :=
  [0x2010, 0x4300, 0x9010, 0xA021, 0xA031, 0xF002, 0xF003].contains ((baseOf i).getD i)

/-- One committed value takes effect under its class (R85): a reset-class one is held as pending. -/
def applyField (e : Effect) (s : State) (f : Nat × List Byte) : State :=
  let i := e.index.toNat
  let k := dictKey i f.1 e.ten.toNat
  if ((desc i f.1).map (·.cls)).getD cLive = cReset then
    modDict s (fun d => { d with pend := tput d.pend k { bytes := f.2, persistent := !e.volatile } })
  else if blockHeld i then s
  else setVal s i f.1 e.ten.toNat f.2

/-- The stage that a holder has of a record's instance. -/
def ownStage (s : State) (i ten : Nat) (h : Holder) : Option Stage :=
  s.dict.stages.find? (fun x => x.index.toNat == i && x.ten.toNat == ten && x.holder == h)

/-- A holder's stage of a record's instance is gone. -/
def dropStage (s : State) (i ten : Nat) (h : Holder) : State :=
  modDict s (fun d => { d with stages := d.stages.filter (fun x => !(x.index.toNat == i && x.ten.toNat == ten && x.holder == h)) })

/-- The commit count increases by one, modulo 256 (R93). -/
def bumpCount (s : State) (i ten : Nat) : State :=
  modDict s (fun d => { d with counts := tput d.counts (dictKey i 0 ten) (BitVec.ofNat 8 (countOf s i ten + 1)) })

/-- A substitution is applied or cleared (R677): event 0x1060, and one in force restarts every push entry toward the substituted
slot from mark 0 with a new offer (R599); rings whose home answers again are asked for what was not answered (R529). -/
def substitute (s : State) : State :=
  let s := logEvent s 0x1060 srcGaffer (valNat s 0x5001 1 0 0 + valNat s 0x5001 2 0 64 * 256)
  match substitution s with
  | none => ringPump s
  | some (slot, _) =>
    let dst := ownPkg s / 128 * 128 + slot
    let s := ((List.range 8).filter (fun k => ringSize s k != 0 && ringHome s k == dst)).foldl reQueue s
    ringPump (s.reels.sources.foldl (fun s c =>
      (List.range (pushCount s c.toNat)).foldl (fun s i =>
        if pushState s c.toNat i ≠ 0 ∧ pushDst s c.toNat i = dst then startPush s c.toNat i (pushReel s c.toNat i) else s) s) s)

/-- Every record of the event log is zeroed, and 0x1073 logged (R167, R168). -/
def clearEvents (s : State) : State := logEvent { s with log := { s.log with recs := [] } } 0x1073 srcGaffer 0

/-- Every counter of 0xF100 to 0xF2FF is zeroed, and 0x1072 logged (R162). -/
def clearCounters (s : State) : State :=
  let s := modNet s (fun n => { n with links := n.links.map (fun e =>
    (e.1, { e.2 with flitsSent := 0, flitsRecv := 0, replays := 0, crcErrors := 0, fouls := 0 })) })
  let s := modHost s (fun h => { h with tenants := h.tenants.map (fun e =>
    (e.1, { e.2 with misses := 0, kernels := 0, completions := 0 })) })
  logEvent s 0x1072 srcGaffer 0

/-- What the owning block does with a commit, by its index; v gives a committed field. -/
def blockEffect (s : State) (i ten : Nat) (v : Nat → Option Nat) : State :=
  match (baseOf i).getD i with
  | 0x2000 => setpointCommitted s
  | 0x2010 => powerRequest s (i - 0x2010) ((v 1).getD 0)
  | 0x2051 => if v 0 = some 1 then holdRecovery s else s
  | 0x3010 => rewriteBlock s
  | 0x5000 => logEvent s 0x1061 srcGaffer 0
  | 0x5001 => substitute s
  | 0x5100 => match v 4 with
    | some 0 => disableLink s (i - 0x5100)
    | some _ => enableLink s (i - 0x5100)
    | none => s
  | 0x6010 => serveLatch s
  | 0x6020 => serveLatch s
  | 0x7130 => configureRing s (i - 0x7130)
  | 0x8002 => rewriteBlock s
  | 0x8100 => match v 5 with
    | some 0 => queueDisabled s ten
    | some _ => queueEnabled s ten
    | none => s
  | 0x9005 => alarmClear s ((v 0).getD 0)
  | 0x9010 => clearSticky s ((v 0).getD 0)
  | 0xA001 => rewriteBlock s
  | 0xA031 => if v 0 = some 1 then tenantReset s ten else s
  | 0xF002 => if v 0 = some 1 then clearEvents s else s
  | 0xF003 => if v 0 = some 1 then clearCounters s else s
  | _ => s

/-- An accepted write takes effect (R85, R93): values, the record's count and stage, the owning block. -/
def applyEffect (s : State) (e : Effect) : State :=
  let i := e.index.toNat
  let ten := e.ten.toNat
  let s := e.fields.foldl (applyField e) s
  let s := if e.record then dropStage (bumpCount s i ten) i ten e.holder else s
  if e.fields = [] then s else blockEffect s i ten (fun k => (tfind e.fields k).map leNat)

/-! ### Writes -/

/-- What a write comes to: it is over with a code, or a commit takes effect (with a tombstone for the journal, R84). -/
inductive WriteOut where
  | over (s : State) (code : Nat)
  | commit (s : State) (e : Effect) (tomb : Bool)

/-- A staged write (R90, R91): checked for length, offset and holder alone. -/
def stageWrite (s : State) (a : Access) (d : Desc) : WriteOut :=
  let ten := instanceOf s a d
  let h := holderOf s a.path
  let v := if toDefault a then d.dflt else (writeBytes a)
  let st := s.dict.stages.find? (fun x => x.index == a.index && x.ten.toNat == ten)
  if toDefault a = false ∧ v.length ≠ d.dflt.length then .over s 0x0006
  else if toDefault a = false ∧ a.offset ≠ 0 then .over s (if isText d.ty then 0x0010 else 0x0006)
  else if (st.map (fun x => x.holder != h)).getD false then .over s 0x0011
  else
    let fields := tput ((st.map (·.fields)).getD []) a.sub.toNat v
    .over (modDict s (fun k => { k with
      stages := { index := a.index, ten := BitVec.ofNat 12 ten, holder := h, fields := fields } ::
        k.stages.filter (fun x => !(x.index == a.index && x.ten.toNat == ten))
      expired := k.expired.filter (fun x => x != (a.index, BitVec.ofNat 12 ten, h)) })) 0

/-- The fields of a commit are checked and taken in together (R84, R93, R98, R933). A value that fails its range or combination
check discards the stage. -/
def commitFields (s : State) (a : Access) (ten : Nat) (fs : Tbl (List Byte)) (restore : Bool) : WriteOut :=
  let i := a.index.toNat
  let h := holderOf s a.path
  if quietBusy s i ten fs then .over s 0x0005
  else
    let value := fs.foldl (fun c f => orCode c (((desc i f.1).map (fun d => valueCheck i f.1 d f.2)).getD 0)) 0
    let code := orCode value (recordCode s i ten fs a.pre)
    if code = 0x0007 ∨ code = 0x0008 then .over (dropStage s i ten h) code
    else if code ≠ 0 then .over s code
    else .commit s
      { index := a.index, ten := BitVec.ofNat 12 ten, holder := h, record := true, fields := fs, volatile := isVolatile a }
      (restore && (persistFields i).all (fun f => (tfind fs f.1).isSome))

/-- The fields of a record that a role may write, at their defaults (R84, R146). -/
def restoreFields (i : Nat) (r : Role) : Tbl (List Byte) :=
  ((writable (fieldsOf i)).filter (fun f => rightOf f.2.rights r == 2)).map (fun f => (f.1, f.2.dflt))

/-- A write to subindex 0x00 of a record (R84, R93 to R95, R101). -/
def countWrite (s : State) (a : Access) (d : Desc) : WriteOut :=
  let i := a.index.toNat
  let ten := instanceOf s a d
  let h := holderOf s a.path
  let key : U16 × Tenant × Holder := (a.index, BitVec.ofNat 12 ten, h)
  let forget (s : State) : State := modDict s (fun k => { k with expired := k.expired.filter (fun x => x != key) })
  if toDefault a then
    if s.dict.stages.any (fun x => x.index == a.index && x.ten.toNat == ten && x.holder != h) then .over s 0x0011
    else commitFields s a ten (restoreFields i ((pathRole s a.path).getD .field)) true
  else if (writeBytes a).length ≠ 1 ∨ a.offset ≠ 0 then .over s 0x0006
  else
    let v := leNat (writeBytes a)
    if v = countOf s i ten then .over (forget (dropStage s i ten h)) 0
    else if v ≠ (countOf s i ten + 1) % 256 then .over s 0x0009
    else match ownStage s i ten h with
      | some st => commitFields s a ten st.fields false
      | none => if s.dict.expired.contains key then .over (forget s) 0x0017 else .over (bumpCount s i ten) 0

/-- An accepted whole value of an entry that stands alone. -/
def entryEffect (s : State) (a : Access) (d : Desc) (v : List Byte) : Effect :=
  { index := a.index, ten := BitVec.ofNat 12 (instanceOf s a d), holder := holderOf s a.path, record := false,
    fields := [(a.sub.toNat, v)], volatile := isVolatile a }

/-- The default of an entry that stands alone is restored (R84): a default is in the entry's range by itself; only voltage hold
can refuse it (R133). The request of a group reads 0 again, and every sticky bit of 0x9010 is cleared, whose default is 0
(log entry 64). -/
def restoreEntry (s : State) (a : Access) (d : Desc) : WriteOut :=
  let i := a.index.toNat
  if (baseOf i).getD i = 0x2000 ∧ s.power.hold = true then .over s 0x000C
  else if baseOf i = some 0x4300 then .over (modGroup s (i - 0x4300) (fun k => { k with request := 0 })) 0
  else .commit s (entryEffect s a d (if i = 0x9010 then leBytes 4 0x1F else d.dflt)) true

/-- A scalar write, or a default restored, to an entry that stands alone (R84, R85, R930). A group request is carried out at
once by its group (R153). -/
def scalarWrite (s : State) (a : Access) (d : Desc) (v : List Byte) : WriteOut :=
  let i := a.index.toNat
  if quietBusy s i (instanceOf s a d) [(0, v)] then .over s 0x0005
  else if toDefault a then restoreEntry s a d
  else
    let code := orCode (valueCheck i 0 d v) (entryCode s i (leNat v))
    if code ≠ 0 then .over s code
    else if baseOf i = some 0x4300 then
      let r := groupRequest s (i - 0x4300) (leNat v)
      .over r.1 r.2
    else .commit s (entryEffect s a d v) false

/-- The claim of a value (R100). -/
def claimOf (s : State) (a : Access) (ten : Nat) : Option Claim :=
  s.dict.claims.find? (fun x => x.index == a.index && x.sub == a.sub && x.tenant.toNat == ten)

/-- The claim of a value is gone. -/
def dropClaim (s : State) (a : Access) (ten : Nat) : State :=
  modDict s (fun k => { k with claims := k.claims.filter (fun x => !(x.index == a.index && x.sub == a.sub && x.tenant.toNat == ten)) })

/-- The pieces written so far are kept under the claim of the writer (R100). -/
def putClaim (s : State) (a : Access) (ten : Nat) (l : List Byte) : State :=
  modDict (dropClaim s a ten) (fun k => { k with
    claims := { index := a.index, sub := a.sub, tenant := BitVec.ofNat 12 ten, holder := holderOf s a.path, bytes := l } :: k.claims })

/-- A piece of a BLOB (R76, R99, R100): the completed value goes to f; one of another size is refused and the pieces stay. A piece
that is both out of sequence and past the value's size is answered 0x0010, and the claim and its pieces stand (DESIGN CHOICE, log
entry 108). -/
def pieceWrite (s : State) (a : Access) (d : Desc) (f : State → List Byte → WriteOut) : WriteOut :=
  let ten := instanceOf s a d
  let size := valueSize a.index.toNat d
  let c := claimOf s a ten
  let sofar := (c.map (·.bytes)).getD []
  if (c.map (fun x => x.holder != holderOf s a.path)).getD false then .over s 0x0011
  else if size < a.offset.toNat + (writeBytes a).length then .over s 0x0010
  else if a.offset.toNat ≠ sofar.length then .over (dropClaim s a ten) 0x0016
  else if isFinal a = false then .over (putClaim s a ten (sofar ++ writeBytes a)) 0
  else if (sofar ++ writeBytes a).length ≠ size then .over s 0x0006
  else f (dropClaim s a ten) (sofar ++ writeBytes a)

/-- A completed key digest is burned into the fuses (R160). -/
def burnDigest (s : State) (v : List Byte) : WriteOut :=
  .over { s with fuses := { s.fuses with keyDigest := some v } } 0

/-- A completed unlock response (R889, R890): it uses the challenge up whether or not it is valid. -/
def unlock (s : State) (v : List Byte) : WriteOut :=
  let ok := s.gaffer.challengeLive && ecdsaVerify (imageOf s s.gaffer.slotB).key
    (sha384 ((List.range 48).map (Config.challengeByte s.gaffer.challenges) ++ serialBytes)) v
  if ok then .over (logEvent (modGaffer s (fun g => { g with debug := true, challengeLive := false })) 0x1052 srcGaffer 0) 0
  else .over (modGaffer s (fun g => { g with challengeLive := false })) 0x0008

/-- A write of the key digest 0xA010 (R160): only in BLANK, and once; where both are broken the life cycle's 0x000B comes first
(DESIGN CHOICE, log entry 83). -/
def digestWrite (s : State) (a : Access) (d : Desc) : WriteOut :=
  if lifeState s ≠ 0 then .over s 0x000B
  else if s.fuses.keyDigest.isSome then .over s 0x0012
  else if toDefault a then .over s 0
  else pieceWrite s a d burnDigest

/-- A write that has passed the checks of every access. -/
def writeAccess (s : State) (a : Access) (d : Desc) : WriteOut :=
  let i := a.index.toNat
  let ten := instanceOf s a d
  if (pathRole s a.path).map (rightOf d.rights) ≠ some 2 then .over s 0x0004
  else if lifeState s = 4 ∧ isStaged opWrite a = false then .over s 0x000B
  else if i = 0xA030 ∧ ten = 0 then .over s 0x0004
  else if i = 0xA010 then digestWrite s a d
  else if i = 0xA021 then (if toDefault a then .over s 0 else pieceWrite s a d unlock)
  else if isRecord i then (if a.sub = 0 then countWrite s a d else stageWrite s a d)
  else if toDefault a then scalarWrite s a d d.dflt
  else if isText d.ty then
    if quietBusy s i ten [] then .over s 0x0005
    else pieceWrite s a d (fun s v => .commit s (entryEffect s a d v) false)
  else if (writeBytes a).length ≠ d.dflt.length ∨ a.offset ≠ 0 then .over s 0x0006
  else scalarWrite s a d (writeBytes a)

/-! ### Commits and the journal (R116, R121) -/

/-- The effect is journalled before it is acknowledged. -/
def persistent (e : Effect) : Bool :=
  !e.volatile && (if e.record then persistFields e.index.toNat != []
    else ((desc e.index.toNat 0).map (·.persist)).getD false)

/-- The value that a journal record of the effect holds (R121). -/
def journalValue (s : State) (e : Effect) : List Byte :=
  let i := e.index.toNat
  if e.record then (persistFields i).flatMap (fun f => (tfind e.fields f.1).getD (valueOf s i f.1 e.ten.toNat))
  else (tfind e.fields 0).getD []

/-- The access is over: its response goes out. -/
def finish (s : State) (op : Byte) (a : Access) (c : Carrier) (code : Nat) (data : List Byte) : State :=
  respond s c (reply s op a code data)

/-- An effect that needs no journal, and its response; a life-cycle transition starts after the response (R879). -/
def takeEffect (s : State) (op : Byte) (a : Access) (c : Carrier) (e : Effect) : State :=
  let s := finish (applyEffect s e) op a c 0 []
  if e.index = 0x1011 ∧ e.fields ≠ [] then transition s (valNat s 0x1011 1 0 0) else s

/-- An accepted commit: a persistent one waits for the seal of its journal record (R116), or is refused with 0x000D. -/
def commitEffect (s : State) (op : Byte) (a : Access) (c : Carrier) (e : Effect) (tomb : Bool) : State :=
  if persistent e then
    match beginRecord s (newRecord s e.index.toNat 0 e.ten.toNat tomb (if tomb then [] else journalValue s e)) with
    | none => finish s op a c 0x000D []
    | some (s', r) =>
      let p := reply s op a 0 []
      modDict s' (fun d => { d with
        awaiting := some { rec' := r, effect := e, carrier := c, resp := if e.record then { p with count := p.count + 1 } else p } })
  else takeEffect s op a c e

/-! ### Execution (R108, R112) -/

/-- One access is executed. -/
def perform (s : State) (op : Byte) (a : Access) (c : Carrier) : State :=
  if s.gaffer.dictReady = false ∧ a.path ≠ .gaffer then finish s op a c 0x000E []
  else if bodyCode op a ≠ 0 then finish s op a c (bodyCode op a) []
  else match findEntry s a with
    | .error e => finish s op a c e []
    | .ok d =>
      if op = opInfo then finish s op a c 0 (infoBytes d)
      else if accessCode s op a d ≠ 0 then finish s op a c (accessCode s op a d) []
      else if op = opRead then
        let r := readAccess s a d
        finish r.1 op a c r.2.1 r.2.2
      else match writeAccess s a d with
        | .over s code => finish s op a c code []
        | .commit s e tomb => commitEffect s op a c e tomb

/-- Accesses are executed one after another while none waits for its seal (R108). -/
def drain : Nat → State → State
  | 0, s => s
  | n + 1, s =>
    match s.dict.awaiting, s.dict.queued with
    | none, (op, a, c) :: l => drain n (perform (modDict s (fun d => { d with queued := l })) op a c)
    | _, _ => s

/-- Every access that waits is taken up. -/
def drainAll (s : State) : State := drain s.dict.queued.length s

/-- A path delivers an access to the dictionary (R108). -/
def deliver (s : State) (op : Byte) (a : Access) (c : Carrier) : State :=
  drainAll (modDict s (fun d => { d with queued := d.queued ++ [(op, a, c)] }))

/-! ### Seal, failure and expiry -/

/-- The commit that waited takes effect and is acknowledged (R116). -/
def sealed (s : State) (w : Awaiting) : State :=
  let s := compactionTrigger (keepRecord (modDict s (fun d => { d with awaiting := none })) w.rec' true)
  drainAll (respond (applyEffect s w.effect) w.carrier w.resp)

/-- The record's program fails (R140): it is rewritten in a later block, or the commit is refused with 0x000D. -/
def sealFailed (s : State) (w : Awaiting) (page : BitVec 6) : State :=
  match recordFailed s w.rec' page with
  | (s, some r) => modDict s (fun d => { d with awaiting := some { w with rec' := r } })
  | (s, none) =>
    let resp := { w.resp with status := 0x000D, count := if w.effect.record then w.resp.count - 1 else w.resp.count }
    drainAll (respond (modDict s (fun d => { d with awaiting := none })) w.carrier resp)

/-- JOURNAL_RECORD_SEALED (R116, R140). -/
def recordSealed (s : State) (o : FlashOutcome) : State :=
  match s.dict.awaiting, o with
  | none, _ => s
  | some w, .ok => sealed s w
  | some w, .failed p => sealFailed s w p

/-- FLASH_STATUS_POLL (R778): a failed operation is the failure of the record being written (R140); any other poll changes
nothing. -/
def flashPoll (s : State) (o : FlashOutcome) : State :=
  match s.dict.awaiting, o with
  | some w, .failed p => sealFailed s w p
  | _, _ => s

/-- STAGE_EXPIRY (R96, R100): the stage of a record's instance, or the claim of a value, is discarded, and 0x1012 logged. -/
def stageExpiry (s : State) (i : U16) (sub : Byte) (ten : Tenant) : State :=
  let note (s : State) : State := logEvent s 0x1012 srcGaffer (i.toNat * 65536)
  if isRecord i.toNat then
    match s.dict.stages.find? (fun x => x.index == i && x.ten == ten) with
    | none => s
    | some st => note (modDict s (fun d => { d with stages := d.stages.erase st, expired := (i, ten, st.holder) :: d.expired }))
  else
    match s.dict.claims.find? (fun x => x.index == i && x.sub == sub && x.tenant == ten) with
    | none => s
    | some c => note (modDict s (fun d => { d with claims := d.claims.erase c }))

end Sys2Proof.Machine
end

