-- ==== Sys2Proof/Machine/Carriers.lean ====
section
/-!
DEFINITION. The paths that carry dictionary accesses (03_dictionary.md R107 to R115, R934, R935; 17_host_port.md R720 to R724;
18_field_ports.md R751, R752, R761, R766 to R768), and the meanings of the dictionary's commands.
-/
namespace Sys2Proof.Machine

/-! ### The request body (R103) -/

/-- The opcode of a request body. -/
def bodyOp (l : List Byte) : Byte := l.getD 0 0

/-- A request body as an access by a path. -/
def accessOf (path : DictPath) (pre : PreCheck) (l : List Byte) : Access :=
  { path := path, flags := l.getD 1 0, index := BitVec.ofNat 16 (fieldAt l 2 2), sub := l.getD 4 0,
    sel := BitVec.ofNat 16 (fieldAt l 6 2), offset := BitVec.ofNat 32 (fieldAt l 8 4), length := BitVec.ofNat 16 (fieldAt l 12 2),
    tag := BitVec.ofNat 16 (fieldAt l 14 2), data := l.drop 16, pre := pre }

/-! ### Host windows (R109 to R112, R935) -/

/-- The dictionary path of a window. -/
def windowPath : WindowId → DictPath
  | .fn f => .window f
  | .group g => .coreWindow g

/-- The window takes a slot: busy, its completion bit cleared (R110). -/
def takeSlot (s : State) (w n : Nat) : State :=
  modWin s w (fun k => { k with
    busy := BitVec.ofNat 16 (withBit k.busy.toNat n true)
    done := BitVec.ofNat 16 (withBit k.done.toNat n false) })

/-- A write of n to the slot doorbell (R110): a busy slot sets the overrun bit; a value outside 1 to 15 changes nothing. -/
def slotDoorbell (s : State) (win : WindowId) (n : Nat) (pre : PreCheck) : State :=
  let w := winNum win
  if n = 0 ∨ 15 < n then s
  else if (winOf s w).busy.toNat.testBit n then modWin s w (fun k => { k with overrun := true })
  else
    let body := cellRead (winOf s w).bytes (n * 0x1000) 2048
    deliver (takeSlot s w n) (bodyOp body) (accessOf (windowPath win) pre body) (.slot win n)

/-- The request body that the sender stores in a slot before its doorbell. -/
def storeBody (s : State) (win : WindowId) (n : Nat) (l : List Byte) : State :=
  if n = 0 ∨ 15 < n then s
  else modWin s (winNum win) (fun k => { k with bytes := cellWrite k.bytes (n * 0x1000) (l.take 2048) })

/-- A write of the window status or of the completion bits (table Host window layout): ones clear the overrun bit [3], or the
completion bits. -/
def windowClear (s : State) (win : WindowId) (off v : Nat) : State :=
  if off = 0 ∧ v.testBit 3 then modWin s (winNum win) (fun k => { k with overrun := false })
  else if off = 8 then modWin s (winNum win) (fun k => { k with done := k.done &&& ~~~(BitVec.ofNat 16 v) })
  else s

/-! ### Host commands (R720 to R723) -/

/-- The host gives a dictionary command what it carries (R720): the write data, none for a read; else a completion status. -/
def commandData (s : State) (t : Nat) (e : Entry) (h : HostBytes) : List Byte ⊕ Nat :=
  let op := bodyOp e.body
  let n := fieldAt e.body 12 2
  if (e.body.drop 16).any (fun b => b != 0) then .inr 2
  else if op = opWrite then
    if e.dataLen ≠ n ∨ (e.dataAddr = 0 ∧ n ≠ 0) then .inr 2
    else
      let l := hostBytes h e.dataAddr n
      if n ≠ 0 ∧ ((fnOf s (queueFn s t)).busMaster = false ∨ l.length < n) then .inr 5 else .inl l
  else if op = opRead ∧ e.dataAddr = 0 ∧ 12 < n then .inr 2
  else .inl []

/-- HOST_DICTIONARY_ACCESS (R720, R721, R726): a tag that is not the command ID is aborted with 0x000F. -/
def hostAccess (s : State) (t : Nat) (h : HostBytes) (pre : PreCheck) : State :=
  match nextCmd s t 1 with
  | none => s
  | some c =>
    let s := runCmd s t c.index
    match commandData s t c.entry h with
    | .inr status => finishCmd s t c.index (plainDone status)
    | .inl l =>
      let a := { accessOf (.queue (BitVec.ofNat 12 t)) pre (c.entry.body.take 16) with data := l }
      let op := bodyOp c.entry.body
      let car : Carrier := .command (BitVec.ofNat 12 t) c.index
      if a.tag.toNat ≠ c.entry.cid then finish s op a car 0x000F [] else deliver s op a car

/-- The fields of a group control body are in their ranges (table Group control body). -/
def groupBodyOk (l : List Byte) : Bool :=
  decide (1 ≤ fieldAt l 1 1 ∧ fieldAt l 1 1 ≤ 4) && decide (fieldAt l 2 1 < 2) && (l.drop 3).all (fun b => b == 0)

/-- HOST_GROUP_CONTROL (R723): the request is written to 0x4300+g by the queue pair's path. -/
def hostGroupControl (s : State) (t : Nat) (pre : PreCheck) : State :=
  match nextCmd s t 2 with
  | none => s
  | some c =>
    let l := c.entry.body
    if groupBodyOk l = false then finishCmd s t c.index (plainDone 2)
    else
      deliver (runCmd s t c.index) opWrite
        { path := .queue (BitVec.ofNat 12 t), flags := 0, index := BitVec.ofNat 16 (0x4300 + fieldAt l 0 1), sub := 0, sel := 0,
          offset := 0, length := 1, tag := 0, data := [l.getD 1 0], pre := pre } (.command (BitVec.ofNat 12 t) c.index)

/-! ### The SPI target port (R114, R766 to R768, R934) -/

/-- The words of an SPI body match its length field (R934); a read carries its 16 bytes and may carry fill (log entry 57). -/
def spiLengthOk (l : List Byte) : Bool :=
  let n := fieldAt l 12 2
  let most := roundUp (16 + n) 4
  decide (16 + n ≤ l.length ∧ l.length ≤ most)

/-- SPI_REQUEST (R766, R768): what takes effect goes to the dictionary. -/
def spiRequest (s : State) (x : SpiTransaction) (pre : PreCheck) : State :=
  if s.pins.misoHiZ then s
  else
    let r := spiRequestTaken s x
    let s' := shiftOut r.1 (statusWord s) []
    match r.2 with
    | none => s'
    | some ws =>
      let l := wordBytes' ws
      let a := accessOf .spi pre l
      if spiLengthOk l then deliver s' (bodyOp l) a .spi else finish s' (bodyOp l) a .spi 0x000F []

/-! ### The field port (R115, R751, R752) -/

/-- CAN_DICTIONARY_REQUEST: a request without a violation is held and delivered; its body's tag must be that of its identifier
(R115). -/
def canRequest (s : State) (f : CanFrame) (pre : PreCheck) : State :=
  if s.can.state = .active ∧ canMatches s f = true then
    match violationOf s f with
    | some v => onViolation s f v
    | none =>
      let s := modCan s (fun c => { c with pending := c.pending ++ [f.ident] })
      let a := accessOf (.field (BitVec.ofNat 7 (idSrc f))) pre f.data
      let op := bodyOp f.data
      if a.tag.toNat ≠ idTag f then finish s op a (.can f.ident) 0x000F [] else deliver s op a (.can f.ident)
  else s

/-! ### Commands: accesses -/

/-- An access given as a command of its own. -/
def accessStep (op : Byte) (a : Access) (s : State) : Host.Outcome State Fault Refusal := .next (deliver s op a .direct)

/-- A command that the table gives an entry of its own: an access to any other index is ill-formed. -/
def entryStep (mn : String) (base : Nat) (op : Byte) (a : Access) (s : State) : Host.Outcome State Fault Refusal :=
  if baseOf a.index.toNat = some base then accessStep op a s else .refused (.illFormed mn)

/-- DICT_READ (R97, R106). -/
def execDictRead (a : Access) (s : State) : Host.Outcome State Fault Refusal := accessStep opRead a s
/-- DICT_READ_INFORMATION (R105). -/
def execDictReadInformation (a : Access) (s : State) : Host.Outcome State Fault Refusal := accessStep opInfo a s
/-- DICT_WRITE (R85). -/
def execDictWrite (a : Access) (s : State) : Host.Outcome State Fault Refusal := accessStep opWrite a s
/-- STAGED_WRITE (R90, R91). -/
def execStagedWrite (a : Access) (s : State) : Host.Outcome State Fault Refusal := accessStep opWrite a s
/-- COMMIT (R93). -/
def execCommit (a : Access) (s : State) : Host.Outcome State Fault Refusal := accessStep opWrite a s
/-- DISCARD_STAGE (R94). -/
def execDiscardStage (a : Access) (s : State) : Host.Outcome State Fault Refusal := accessStep opWrite a s
/-- RESTORE_DEFAULT (R84). -/
def execRestoreDefault (a : Access) (s : State) : Host.Outcome State Fault Refusal := accessStep opWrite a s
/-- WRITE_PIECE (R99). -/
def execWritePiece (a : Access) (s : State) : Host.Outcome State Fault Refusal := accessStep opWrite a s
/-- STAGE_EXPIRY (R96). -/
def execStageExpiry (i : U16) (sub : Byte) (ten : Tenant) (s : State) : Host.Outcome State Fault Refusal :=
  .next (stageExpiry s i sub ten)
/-- WINDOW_SLOT_DOORBELL (R110). -/
def execWindowSlotDoorbell (win : WindowId) (v : U32) (written : List Byte) (pre : PreCheck) (s : State) :
    Host.Outcome State Fault Refusal := .next (slotDoorbell (storeBody s win v.toNat written) win v.toNat pre)
/-- WINDOW_COMPLETION_CLEAR (R109). -/
def execWindowCompletionClear (win : WindowId) (off : U16) (v : U32) (s : State) : Host.Outcome State Fault Refusal :=
  .next (windowClear s win off.toNat v.toNat)
/-- JOURNAL_RECORD_SEALED (R116). -/
def execJournalRecordSealed (o : FlashOutcome) (s : State) : Host.Outcome State Fault Refusal := .next (recordSealed s o)
/-- FLASH_STATUS_POLL (R778). -/
def execFlashStatusPoll (o : FlashOutcome) (s : State) : Host.Outcome State Fault Refusal := .next (flashPoll s o)
/-- LIFE_CYCLE_TRANSITION (R879): a commit of 0x1011. -/
def execLifeCycleTransition (a : Access) (s : State) : Host.Outcome State Fault Refusal :=
  entryStep "LIFE_CYCLE_TRANSITION" 0x1011 opWrite a s
/-- VCORE_F_SETPOINT_COMMIT (R811). -/
def execVcoreFSetpointCommit (a : Access) (s : State) : Host.Outcome State Fault Refusal :=
  entryStep "VCORE_F_SETPOINT_COMMIT" 0x2000 opWrite a s
/-- POWER_STATE_REQUEST (R828). -/
def execPowerStateRequest (a : Access) (s : State) : Host.Outcome State Fault Refusal :=
  entryStep "POWER_STATE_REQUEST" 0x2010 opWrite a s
/-- HOLD_RECOVERY_REQUEST (R790). -/
def execHoldRecoveryRequest (a : Access) (s : State) : Host.Outcome State Fault Refusal :=
  entryStep "HOLD_RECOVERY_REQUEST" 0x2051 opWrite a s
/-- GROUP_START (R153). -/
def execGroupStart (a : Access) (s : State) : Host.Outcome State Fault Refusal := entryStep "GROUP_START" 0x4300 opWrite a s
/-- GROUP_PREEMPT (R341). -/
def execGroupPreempt (a : Access) (s : State) : Host.Outcome State Fault Refusal := entryStep "GROUP_PREEMPT" 0x4300 opWrite a s
/-- GROUP_RESUME (R346). -/
def execGroupResume (a : Access) (s : State) : Host.Outcome State Fault Refusal := entryStep "GROUP_RESUME" 0x4300 opWrite a s
/-- GROUP_ABORT (R347). -/
def execGroupAbort (a : Access) (s : State) : Host.Outcome State Fault Refusal := entryStep "GROUP_ABORT" 0x4300 opWrite a s
/-- ROUTE_TABLE_WRITE (R666). -/
def execRouteTableWrite (a : Access) (s : State) : Host.Outcome State Fault Refusal :=
  entryStep "ROUTE_TABLE_WRITE" 0x5000 opWrite a s
/-- BENCH_SUBSTITUTION (R677). -/
def execBenchSubstitution (a : Access) (s : State) : Host.Outcome State Fault Refusal :=
  entryStep "BENCH_SUBSTITUTION" 0x5001 opWrite a s
/-- LINK_DISABLE (R623). -/
def execLinkDisable (a : Access) (s : State) : Host.Outcome State Fault Refusal := entryStep "LINK_DISABLE" 0x5100 opWrite a s
/-- LINK_ENABLE (R623). -/
def execLinkEnable (a : Access) (s : State) : Host.Outcome State Fault Refusal := entryStep "LINK_ENABLE" 0x5100 opWrite a s
/-- RING_CONFIGURE (R515). -/
def execRingConfigure (a : Access) (s : State) : Host.Outcome State Fault Refusal := entryStep "RING_CONFIGURE" 0x7130 opWrite a s
/-- QUEUE_ENABLE (R712). -/
def execQueueEnable (a : Access) (s : State) : Host.Outcome State Fault Refusal := entryStep "QUEUE_ENABLE" 0x8100 opWrite a s
/-- QUEUE_DISABLE (R736). -/
def execQueueDisable (a : Access) (s : State) : Host.Outcome State Fault Refusal := entryStep "QUEUE_DISABLE" 0x8100 opWrite a s
/-- ALARM_CLEAR (R757). -/
def execAlarmClear (a : Access) (s : State) : Host.Outcome State Fault Refusal := entryStep "ALARM_CLEAR" 0x9005 opWrite a s
/-- KEY_DIGEST_WRITE (R160). -/
def execKeyDigestWrite (a : Access) (s : State) : Host.Outcome State Fault Refusal :=
  entryStep "KEY_DIGEST_WRITE" 0xA010 opWrite a s
/-- UNLOCK_CHALLENGE_READ (R889). -/
def execUnlockChallengeRead (a : Access) (s : State) : Host.Outcome State Fault Refusal :=
  entryStep "UNLOCK_CHALLENGE_READ" 0xA020 opRead a s
/-- UNLOCK_RESPONSE_WRITE (R889). -/
def execUnlockResponseWrite (a : Access) (s : State) : Host.Outcome State Fault Refusal :=
  entryStep "UNLOCK_RESPONSE_WRITE" 0xA021 opWrite a s
/-- TENANT_RESET (R363). -/
def execTenantReset (a : Access) (s : State) : Host.Outcome State Fault Refusal := entryStep "TENANT_RESET" 0xA031 opWrite a s
/-- EVENT_LOG_CLEAR (R168). -/
def execEventLogClear (a : Access) (s : State) : Host.Outcome State Fault Refusal := entryStep "EVENT_LOG_CLEAR" 0xF002 opWrite a s
/-- COUNTER_CLEAR (R162). -/
def execCounterClear (a : Access) (s : State) : Host.Outcome State Fault Refusal := entryStep "COUNTER_CLEAR" 0xF003 opWrite a s

/-! ### Commands: carriers -/

/-- HOST_DICTIONARY_ACCESS (R720). -/
def execHostDictionaryAccess (t : Tenant) (h : HostBytes) (pre : PreCheck) (s : State) : Host.Outcome State Fault Refusal :=
  .next (hostAccess s t.toNat h pre)
/-- HOST_GROUP_CONTROL (R723). -/
def execHostGroupControl (t : Tenant) (pre : PreCheck) (s : State) : Host.Outcome State Fault Refusal :=
  .next (hostGroupControl s t.toNat pre)
/-- SPI_REQUEST (R766). -/
def execSpiRequest (x : SpiTransaction) (pre : PreCheck) (s : State) : Host.Outcome State Fault Refusal :=
  if spiOpcode x = some 1 then .next (spiRequest s x pre) else .refused (.illFormed "SPI_REQUEST")
/-- CAN_DICTIONARY_REQUEST (R751). -/
def execCanDictionaryRequest (f : CanFrame) (pre : PreCheck) (s : State) : Host.Outcome State Fault Refusal :=
  if idSvc f = 1 ∧ idClass f ≠ 0 then .next (canRequest s f pre) else .refused (.illFormed "CAN_DICTIONARY_REQUEST")

end Sys2Proof.Machine
end

