-- ==== Sys2Proof/Machine/LoadStore.lean ====
section
/-!
DEFINITION. LOAD and STORE of the control processor (05_cores_arrays.md R223): local and remote memory, and the windows of space 0x4
(03_dictionary.md R109, R935; 08_faults_preemption.md R325, R328).
-/
namespace Sys2Proof.Machine

/-- The address of a load or store: s[a] + immediate (R223). -/
def lsAddr (s : State) (c : Nat) (w : U32) : Nat := (reg (coreOf s c) (wA w) + immExt w) % 2 ^ 64

/-! ### Windows of space 0x4 -/

/-- Bytes of the windows of space 0x4: 256 of 64 KiB. -/
def windowSpan : Nat := 256 * 0x10000

/-- An access touches the control words of a window (R935). -/
def touchesControl (r n : Nat) : Bool := decide (r < 16 ∨ 0x10000 < r + n)

/-- The window status (table Host window layout). The retry hint is a free value (log entry 56). -/
def windowStatus (s : State) (w : Nat) : Nat :=
  b2n s.gaffer.dictReady + 2 * b2n s.dict.journal.compacting + 4 * b2n s.power.hold + 8 * b2n (winOf s w).overrun +
    2 ^ 8 * (freeAt s 0 % 256)

/-- A read of n bytes at offset r of window w (R109, R935). -/
def windowRead (s : State) (w r n : Nat) : Nat :=
  if touchesControl r n then
    (if n = 4 ∧ r % 4 = 0 then
      (match r with
      | 0 => windowStatus s w
      | 8 => (winOf s w).done.toNat
      | _ => 0)
    else 2 ^ (8 * n) - 1)
  else leNat (cellRead (winOf s w).bytes r n)

/-- What the regulator answers to a pre-check that a core's doorbell leads to: free values (log entry 65). -/
def freePre (s : State) : PreCheck :=
  { faultBit := if freeAt s 0 % 3 = 0 then none else some (freeAt s 0 % 3 == 1)
    ioutMa := if freeAt s 1 % 2 = 0 then none else some (freeAt s 1 / 2) }

/-- The bytes of a window that keep what is written to them: those of the slots, from 0x1000 on. -/
def windowPut (m : List Host.Cell) (r : Nat) (l : List Byte) : List Host.Cell :=
  if r < 0x1000 then cellWrite m 0x1000 (l.drop (0x1000 - r)) else cellWrite m r l

/-- A write of bytes at offset r of the window of group g (R109, R110, R935). -/
def windowWrite (s : State) (g r : Nat) (l : List Byte) : State :=
  let win : WindowId := .group (BitVec.ofNat 8 g)
  if touchesControl r l.length then
    (if l.length = 4 ∧ r % 4 = 0 then
      (if r = 4 then useFree (slotDoorbell s win (leNat l) (freePre s)) 2 else windowClear s win r (leNat l))
    else s)
  else modWin s (winNum win) (fun k => { k with bytes := windowPut k.bytes r l })

/-! ### Accesses to other packages (R273, R328, R636) -/

/-- One part of an access to another package: its position, its length and its address there. -/
structure RemotePart where
  pos : Nat
  len : Nat
  addr : Nat
deriving DecidableEq, Repr

/-- The parts of an access, granule by granule, before one that does not translate. -/
def remoteParts : Nat → State → Nat → Nat → Nat → Nat → Nat → State × List RemotePart × Option MemErr
  | 0, s, _, _, _, _, _ => (s, [], none)
  | f + 1, s, c, a, pos, n, right =>
    if n = 0 then (s, [], none)
    else
      let m := inGranule a n
      let p := splitAddr s a
      match translate s c (coreTenant s c) p.1 p.2.1 p.2.2 right with
      | (s, .fail e) => (s, [], some e)
      | (s, .ok off) =>
        match wayLost s c p.1 p.2.1 off m with
        | some e => (s, [], some e)
        | none =>
        let r := remoteParts f s c (a + m) (pos + m) (n - m) right
        (r.1, { pos := pos, len := m, addr := p.1 * 2 ^ 51 + memKey p.2.1 off } :: r.2.1, r.2.2)

/-- A load from another package: one read request for each part; the register waits for them all. -/
def remoteLoad (s : State) (c d a n : Nat) : State :=
  match remoteParts 2 s c a 0 n rightRead with
  | (s, _, some e) => memFault s c .control 0 e a
  | (s, [p], none) => coreRequest s c 2 (p.addr / 2 ^ 51) 0x20 p.addr (leBytes 4 p.len) (.load d 8 a)
  | (s, l, none) =>
    l.foldl (fun s p => coreRequest s c 2 (p.addr / 2 ^ 51) 0x20 p.addr (leBytes 4 p.len) (.load d p.pos a))
      (modCore s c (fun k => setReg k d 0))

/-- A store to another package: one write request for each part that translates. -/
def remoteStore (s : State) (c a : Nat) (l : List Byte) : State :=
  match remoteParts 2 s c a 0 l.length rightWrite with
  | (s, ps, e) =>
    let s := ps.foldl (fun s p => coreRequest s c 2 (p.addr / 2 ^ 51) 0x21 p.addr (slice l p.pos p.len) (.store a)) s
    match e with
    | some e => memFault s c .control 0 e a
    | none => s

/-! ### Meanings -/

/-- The translation of an access to a window of this package (R325), or the fault: address fault beyond the windows or in
another package. -/
def windowCheck (s : State) (c a n right : Nat) : State × Trans :=
  let p := splitAddr s a
  if p.1 ≠ ownPkg s ∨ windowSpan < p.2.2 + n then (s, .fail ⟨fAddress, 4, 0⟩)
  else translate s c (coreTenant s c) p.1 4 p.2.2 right

/-- d = n bytes at the address, zero-extended (R223); the load waits while a stopped link reference holds it (R71). -/
def loadOp (c : Nat) (w : U32) (n : Nat) (s : State) : State :=
  let a := lsAddr s c w
  let p := splitAddr s a
  if p.2.1 = 3 ∨ 4 < p.2.1 then cpFault s c fAddress p.2.1 a 0
  else if accessHeld (granules n) s c a n rightRead then s
  else if p.2.1 = 4 then
    match windowCheck s c a n rightRead with
    | (s, .fail e) => memFault s c .control 0 e a
    | (s, .ok off) => useFree (result s c (wD w) (windowRead s (256 + off / 0x10000) (off % 0x10000) n)) 1
  else if p.1 = ownPkg s then
    match coreLoad s c a n with
    | (s, _, some e) => memFault s c .control 0 e a
    | (s, l, none) => result s c (wD w) (leNat l)
  else remoteLoad s c (wD w) a n

/-- The n low bytes of s[d] to the address (R223); the store waits while a stopped link reference holds it (R71). -/
def storeOp (c : Nat) (w : U32) (n : Nat) (s : State) : State :=
  let a := lsAddr s c w
  let p := splitAddr s a
  let l := leBytes n (reg (coreOf s c) (wD w))
  if p.2.1 = 3 ∨ 4 < p.2.1 then cpFault s c fAddress p.2.1 a 0
  else if accessHeld (granules n) s c a n rightWrite then s
  else if p.2.1 = 4 then
    match windowCheck s c a n rightWrite with
    | (s, .fail e) => memFault s c .control 0 e a
    | (s, .ok off) => windowWrite (modCore s c pcNext) (off / 0x10000) (off % 0x10000) l
  else if p.1 = ownPkg s then
    match coreWrite s c a l with
    | (s, _, some e) => memFault s c .control 0 e a
    | (s, _, none) => modCore s c pcNext
  else remoteStore s c a l

/-- The width that a load or store word spells. -/
def lsWidth (w : U32) : Nat := 2 ^ wFnI w

/-- LOAD. -/
def execLoad (c : CoreId) (w : U32) (s : State) : Host.Outcome State Fault Refusal :=
  coreStep "LOAD" (fun p => p == .load (lsWidth w)) (loadOp c.toNat w (lsWidth w)) c w s
/-- STORE. -/
def execStore (c : CoreId) (w : U32) (s : State) : Host.Outcome State Fault Refusal :=
  coreStep "STORE" (fun p => p == .store (lsWidth w)) (storeOp c.toNat w (lsWidth w)) c w s

end Sys2Proof.Machine
end

