-- ==== Sys2Proof/Machine/Sends.lean ====
section
/-!
DEFINITION. MSG.SEND (05_cores_arrays.md R207, R210): a message goes once every earlier write of its sender to the receiving core's
scratchpad has been performed.
-/
namespace Sys2Proof.Machine

/-- A tile-send of an array command may still write to a core's scratchpad (R210, R260). -/
def ArrCmd.owes (a : ArrCmd) (s : State) (pkg dst : Nat) : Bool :=
  match a.kind with
  | .product _ (some h) =>
    !(a.started && decide (a.sends ≤ a.sent) && a.acks == 0) &&
      (sendStages h).any (fun i =>
        let x := splitAddr s (sendDest (epilogueAt h i))
        !a.failed.contains i && x.1 == pkg && x.2.1 == 0 && x.2.2 / 2 ^ 21 == dst)
  | _ => false

/-- Core c still has writes outstanding to a core's scratchpad (R210). -/
def owesWrites (s : State) (c pkg dst : Nat) : Bool :=
  (coreOf s c).dmaQ.any (fun d => d.owes s pkg dst) || (coreOf s c).arrQ.any (fun a => a.owes s pkg dst)

/-- MSG.SEND (R207, R210). -/
def msgSend (c : Nat) (w : U32) (s : State) : State :=
  withDesc s c w 32 (fun s => result s c (wA w) 4) (fun s pkg dst mb l =>
    let len := fieldAt l 0xC 2
    let off := fieldAt l 0x10 4
    if 4096 < len then descFault s c .message (wTag w) 0xC
    else if scratchBytes < off + len then descFault s c .message (wTag w) 0x10
    else if heldResv s c pkg dst mb = none then result s c (wA w) 5
    else if owesWrites s c pkg dst then s
    else overWay s c (wTag w) (messageWay s c pkg dst) (fun s =>
      match scratchRead s c off len with
      | (s', _, some e) => memFault s' c .message (wTag w) e off
      | (s', p, none) =>
        let m := mkMsg s' c pkg dst mb (fieldAt l 0xA 2) p
        if pkg = ownPkg s then
          let r := sendLocal s' c dst mb m
          result r.1 c (wA w) r.2
        else
          coreRequest (bumpSeq s' c pkg dst mb) c 1 pkg 0x10 (coreAddr pkg dst) (wireHeader m mb ++ p)
            (.send (wA w) pkg dst mb)))

/-- MSG_SEND. -/
def execMsgSend (c : CoreId) (w : U32) (s : State) : Host.Outcome State Fault Refusal :=
  coreStep "MSG_SEND" (fun p => p == .message 2) (msgSend c.toNat w) c w s

end Sys2Proof.Machine
end

