-- ==== Sys2Proof/Machine/Dispatch.lean ====
section
/-!
DEFINITION. exec: one arm per command, each one direct call of its meaning.
-/
namespace Sys2Proof.Machine

/-- The effect of a command on everything but the queue of waiting commands. -/
def exec (i : Instr) (s : State) : Host.Outcome State Fault Refusal :=
  match i with
  | .dictRead a => Sys2Proof.Machine.execDictRead a s
  | .dictReadInformation a => Sys2Proof.Machine.execDictReadInformation a s
  | .dictWrite a => Sys2Proof.Machine.execDictWrite a s
  | .stagedWrite a => Sys2Proof.Machine.execStagedWrite a s
  | .commit a => Sys2Proof.Machine.execCommit a s
  | .discardStage a => Sys2Proof.Machine.execDiscardStage a s
  | .restoreDefault a => Sys2Proof.Machine.execRestoreDefault a s
  | .writePiece a => Sys2Proof.Machine.execWritePiece a s
  | .stageExpiry index sub sel => Sys2Proof.Machine.execStageExpiry index sub sel s
  | .windowSlotDoorbell win value written pre => Sys2Proof.Machine.execWindowSlotDoorbell win value written pre s
  | .windowCompletionClear win off value => Sys2Proof.Machine.execWindowCompletionClear win off value s
  | .journalRecordSealed o => Sys2Proof.Machine.execJournalRecordSealed o s
  | .journalCompaction h => Sys2Proof.Machine.execJournalCompaction h s
  | .compactionRetry h => Sys2Proof.Machine.execCompactionRetry h s
  | .lifeCycleTransition a => Sys2Proof.Machine.execLifeCycleTransition a s
  | .vcoreFSetpointCommit a => Sys2Proof.Machine.execVcoreFSetpointCommit a s
  | .powerStateRequest a => Sys2Proof.Machine.execPowerStateRequest a s
  | .holdRecoveryRequest a => Sys2Proof.Machine.execHoldRecoveryRequest a s
  | .groupStart a => Sys2Proof.Machine.execGroupStart a s
  | .groupPreempt a => Sys2Proof.Machine.execGroupPreempt a s
  | .groupResume a => Sys2Proof.Machine.execGroupResume a s
  | .groupAbort a => Sys2Proof.Machine.execGroupAbort a s
  | .routeTableWrite a => Sys2Proof.Machine.execRouteTableWrite a s
  | .benchSubstitution a => Sys2Proof.Machine.execBenchSubstitution a s
  | .linkDisable a => Sys2Proof.Machine.execLinkDisable a s
  | .linkEnable a => Sys2Proof.Machine.execLinkEnable a s
  | .ringConfigure a => Sys2Proof.Machine.execRingConfigure a s
  | .queueEnable a => Sys2Proof.Machine.execQueueEnable a s
  | .queueDisable a => Sys2Proof.Machine.execQueueDisable a s
  | .alarmClear a => Sys2Proof.Machine.execAlarmClear a s
  | .keyDigestWrite a => Sys2Proof.Machine.execKeyDigestWrite a s
  | .unlockChallengeRead a => Sys2Proof.Machine.execUnlockChallengeRead a s
  | .unlockResponseWrite a => Sys2Proof.Machine.execUnlockResponseWrite a s
  | .tenantReset a => Sys2Proof.Machine.execTenantReset a s
  | .tenantResetAcksComplete t => Sys2Proof.Machine.execTenantResetAcksComplete t s
  | .tenantResetAckTimeout t => Sys2Proof.Machine.execTenantResetAckTimeout t s
  | .tenantResetComplete t => Sys2Proof.Machine.execTenantResetComplete t s
  | .eventLogClear a => Sys2Proof.Machine.execEventLogClear a s
  | .counterClear a => Sys2Proof.Machine.execCounterClear a s
  | .bridgeFlitArrival b ch flit crc => Sys2Proof.Machine.execBridgeFlitArrival b ch flit crc s
  | .bridgeChannelOutOfService b ch => Sys2Proof.Machine.execBridgeChannelOutOfService b ch s
  | .bridgeStall e ch => Sys2Proof.Machine.execBridgeStall e ch s
  | .linkReferenceStop e => Sys2Proof.Machine.execLinkReferenceStop e s
  | .meshFlitArrival hop found => Sys2Proof.Machine.execMeshFlitArrival hop found s
  | .refreshTimebaseCalibration die => Sys2Proof.Machine.execRefreshTimebaseCalibration die s
  | .vaultRefresh slice bank => Sys2Proof.Machine.execVaultRefresh slice bank s
  | .refreshPeriodChange die hottestTenths => Sys2Proof.Machine.execRefreshPeriodChange die hottestTenths s
  | .vaultScrub slice => Sys2Proof.Machine.execVaultScrub slice s
  | .droopTrip site senseMv => Sys2Proof.Machine.execDroopTrip site senseMv s
  | .droopCauseClear die => Sys2Proof.Machine.execDroopCauseClear die s
  | .senseSample r => Sys2Proof.Machine.execSenseSample r s
  | .msWindowEnd r => Sys2Proof.Machine.execMsWindowEnd r s
  | .intAdd c w => Sys2Proof.Machine.execIntAdd c w s
  | .intSubtract c w => Sys2Proof.Machine.execIntSubtract c w s
  | .intAnd c w => Sys2Proof.Machine.execIntAnd c w s
  | .intOr c w => Sys2Proof.Machine.execIntOr c w s
  | .intExclusiveOr c w => Sys2Proof.Machine.execIntExclusiveOr c w s
  | .intShiftLeft c w => Sys2Proof.Machine.execIntShiftLeft c w s
  | .intLogicalRight c w => Sys2Proof.Machine.execIntLogicalRight c w s
  | .intArithmeticRight c w => Sys2Proof.Machine.execIntArithmeticRight c w s
  | .intProductLow c w => Sys2Proof.Machine.execIntProductLow c w s
  | .intProductHighUnsigned c w => Sys2Proof.Machine.execIntProductHighUnsigned c w s
  | .intLessSigned c w => Sys2Proof.Machine.execIntLessSigned c w s
  | .intLessUnsigned c w => Sys2Proof.Machine.execIntLessUnsigned c w s
  | .intSignedMinimum c w => Sys2Proof.Machine.execIntSignedMinimum c w s
  | .intSignedMaximum c w => Sys2Proof.Machine.execIntSignedMaximum c w s
  | .intLeadingZeros c w => Sys2Proof.Machine.execIntLeadingZeros c w s
  | .intSetBits c w => Sys2Proof.Machine.execIntSetBits c w s
  | .addImmediate c w => Sys2Proof.Machine.execAddImmediate c w s
  | .andImmediate c w => Sys2Proof.Machine.execAndImmediate c w s
  | .orImmediate c w => Sys2Proof.Machine.execOrImmediate c w s
  | .shiftOrImmediate c w => Sys2Proof.Machine.execShiftOrImmediate c w s
  | .load c w => Sys2Proof.Machine.execLoad c w s
  | .store c w => Sys2Proof.Machine.execStore c w s
  | .branch c w => Sys2Proof.Machine.execBranch c w s
  | .jumpAndLink c w => Sys2Proof.Machine.execJumpAndLink c w s
  | .arrayProduct c w => Sys2Proof.Machine.execArrayProduct c w s
  | .attention c w => Sys2Proof.Machine.execAttention c w s
  | .streamOpen c w => Sys2Proof.Machine.execStreamOpen c w s
  | .streamCommit c w => Sys2Proof.Machine.execStreamCommit c w s
  | .storyboardCompaction c => Sys2Proof.Machine.execStoryboardCompaction c s
  | .streamPark c w => Sys2Proof.Machine.execStreamPark c w s
  | .streamUnpark c w => Sys2Proof.Machine.execStreamUnpark c w s
  | .streamClose c w => Sys2Proof.Machine.execStreamClose c w s
  | .streamRead c w => Sys2Proof.Machine.execStreamRead c w s
  | .streamRoster c w => Sys2Proof.Machine.execStreamRoster c w s
  | .streamAdopt c w => Sys2Proof.Machine.execStreamAdopt c w s
  | .followReelWaitEnd c => Sys2Proof.Machine.execFollowReelWaitEnd c s
  | .ringQueueWaitEnd c => Sys2Proof.Machine.execRingQueueWaitEnd c s
  | .arrWait c w => Sys2Proof.Machine.execArrWait c w s
  | .epilogueBlock c => Sys2Proof.Machine.execEpilogueBlock c s
  | .deferredSweep c => Sys2Proof.Machine.execDeferredSweep c s
  | .tileSendBlock c => Sys2Proof.Machine.execTileSendBlock c s
  | .arrayCommandComplete c => Sys2Proof.Machine.execArrayCommandComplete c s
  | .attentionComplete c => Sys2Proof.Machine.execAttentionComplete c s
  | .vectorAdd c w => Sys2Proof.Machine.execVectorAdd c w s
  | .vectorSubtract c w => Sys2Proof.Machine.execVectorSubtract c w s
  | .vectorMultiply c w => Sys2Proof.Machine.execVectorMultiply c w s
  | .vectorFusedMultiplyAdd c w => Sys2Proof.Machine.execVectorFusedMultiplyAdd c w s
  | .vectorMinimum c w => Sys2Proof.Machine.execVectorMinimum c w s
  | .vectorMaximum c w => Sys2Proof.Machine.execVectorMaximum c w s
  | .vectorCompare c w p => Sys2Proof.Machine.execVectorCompare c w p s
  | .vectorSelect c w => Sys2Proof.Machine.execVectorSelect c w s
  | .vectorExp2 c w => Sys2Proof.Machine.execVectorExp2 c w s
  | .vectorLog2 c w => Sys2Proof.Machine.execVectorLog2 c w s
  | .vectorReciprocal c w => Sys2Proof.Machine.execVectorReciprocal c w s
  | .vectorReciprocalSquareRoot c w => Sys2Proof.Machine.execVectorReciprocalSquareRoot c w s
  | .vectorSquareRoot c w => Sys2Proof.Machine.execVectorSquareRoot c w s
  | .vectorExp c w => Sys2Proof.Machine.execVectorExp c w s
  | .vectorSigmoid c w => Sys2Proof.Machine.execVectorSigmoid c w s
  | .vectorTanh c w => Sys2Proof.Machine.execVectorTanh c w s
  | .laneSum c w => Sys2Proof.Machine.execLaneSum c w s
  | .laneMaximum c w => Sys2Proof.Machine.execLaneMaximum c w s
  | .vectorLoad c w => Sys2Proof.Machine.execVectorLoad c w s
  | .vectorStore c w => Sys2Proof.Machine.execVectorStore c w s
  | .vSoftmax c w => Sys2Proof.Machine.execVSoftmax c w s
  | .msgRsv c w => Sys2Proof.Machine.execMsgRsv c w s
  | .msgSend c w => Sys2Proof.Machine.execMsgSend c w s
  | .msgRecv c w => Sys2Proof.Machine.execMsgRecv c w s
  | .msgPoll c w => Sys2Proof.Machine.execMsgPoll c w s
  | .msgUnrsv c w => Sys2Proof.Machine.execMsgUnrsv c w s
  | .messageArrival dst mailbox srcPkg srcCore => Sys2Proof.Machine.execMessageArrival dst mailbox srcPkg srcCore s
  | .dmaCopy c w => Sys2Proof.Machine.execDmaCopy c w s
  | .dmaFill c w => Sys2Proof.Machine.execDmaFill c w s
  | .dmaWait c w => Sys2Proof.Machine.execDmaWait c w s
  | .dmaCommandComplete c tag => Sys2Proof.Machine.execDmaCommandComplete c tag s
  | .rngGen c w => Sys2Proof.Machine.execRngGen c w s
  | .rngVfill c w => Sys2Proof.Machine.execRngVfill c w s
  | .hud c w => Sys2Proof.Machine.execHud c w s
  | .huddleRelease g => Sys2Proof.Machine.execHuddleRelease g s
  | .snapshotCopyComplete c fault => Sys2Proof.Machine.execSnapshotCopyComplete c fault s
  | .preemptSaveComplete g fault => Sys2Proof.Machine.execPreemptSaveComplete g fault s
  | .resumeRestoreComplete g fault => Sys2Proof.Machine.execResumeRestoreComplete g fault s
  | .hudLocal c w => Sys2Proof.Machine.execHudLocal c w s
  | .nop c w => Sys2Proof.Machine.execNop c w s
  | .beats c w => Sys2Proof.Machine.execBeats c w s
  | .softwareFault c w => Sys2Proof.Machine.execSoftwareFault c w s
  | .engineStall c e found => Sys2Proof.Machine.execEngineStall c e found s
  | .atomicRead c w => Sys2Proof.Machine.execAtomicRead c w s
  | .atomicSwap c w => Sys2Proof.Machine.execAtomicSwap c w s
  | .compareAndSwap c w => Sys2Proof.Machine.execCompareAndSwap c w s
  | .atomicAdd c w => Sys2Proof.Machine.execAtomicAdd c w s
  | .atomicAnd c w => Sys2Proof.Machine.execAtomicAnd c w s
  | .atomicOr c w => Sys2Proof.Machine.execAtomicOr c w s
  | .atomicExclusiveOr c w => Sys2Proof.Machine.execAtomicExclusiveOr c w s
  | .atomicSignedMinimum c w => Sys2Proof.Machine.execAtomicSignedMinimum c w s
  | .atomicSignedMaximum c w => Sys2Proof.Machine.execAtomicSignedMaximum c w s
  | .atomicUnsignedMinimum c w => Sys2Proof.Machine.execAtomicUnsignedMinimum c w s
  | .atomicUnsignedMaximum c w => Sys2Proof.Machine.execAtomicUnsignedMaximum c w s
  | .atomicFp32Add c w => Sys2Proof.Machine.execAtomicFp32Add c w s
  | .leaseTake c w => Sys2Proof.Machine.execLeaseTake c w s
  | .leaseRelease c w => Sys2Proof.Machine.execLeaseRelease c w s
  | .stockChannelFailure ch => Sys2Proof.Machine.execStockChannelFailure ch s
  | .domainDrainComplete d => Sys2Proof.Machine.execDomainDrainComplete d s
  | .headerStage d => Sys2Proof.Machine.execHeaderStage d s
  | .domainStagingComplete d => Sys2Proof.Machine.execDomainStagingComplete d s
  | .sealWordSample slice => Sys2Proof.Machine.execSealWordSample slice s
  | .reelOffer port => Sys2Proof.Machine.execReelOffer port s
  | .reelAccept port => Sys2Proof.Machine.execReelAccept port s
  | .reelHold port => Sys2Proof.Machine.execReelHold port s
  | .offerResend slice entry => Sys2Proof.Machine.execOfferResend slice entry s
  | .reelStale port => Sys2Proof.Machine.execReelStale port s
  | .reelData port => Sys2Proof.Machine.execReelData port s
  | .reelDone port => Sys2Proof.Machine.execReelDone port s
  | .slateTake => Sys2Proof.Machine.execSlateTake s
  | .slateWordSample => Sys2Proof.Machine.execSlateWordSample s
  | .slateDrain => Sys2Proof.Machine.execSlateDrain s
  | .restoreFromDailies => Sys2Proof.Machine.execRestoreFromDailies s
  | .restoreFromHost h => Sys2Proof.Machine.execRestoreFromHost h s
  | .shardLoad h => Sys2Proof.Machine.execShardLoad h s
  | .releaseDailies => Sys2Proof.Machine.execReleaseDailies s
  | .modeWordOffer n word => Sys2Proof.Machine.execModeWordOffer n word s
  | .modeWordChoice n word => Sys2Proof.Machine.execModeWordChoice n word s
  | .modeWordConfirm n word => Sys2Proof.Machine.execModeWordConfirm n word s
  | .modeWordHold n word => Sys2Proof.Machine.execModeWordHold n word s
  | .holdHintExpiry n => Sys2Proof.Machine.execHoldHintExpiry n s
  | .kickoffConfirmTimeout n => Sys2Proof.Machine.execKickoffConfirmTimeout n s
  | .kickoffRetry n => Sys2Proof.Machine.execKickoffRetry n s
  | .linkSignalDetect n => Sys2Proof.Machine.execLinkSignalDetect n s
  | .packetFlit n flit => Sys2Proof.Machine.execPacketFlit n flit s
  | .nullFlit n flit => Sys2Proof.Machine.execNullFlit n flit s
  | .replayRequest n flit => Sys2Proof.Machine.execReplayRequest n flit s
  | .replayTimeout n => Sys2Proof.Machine.execReplayTimeout n s
  | .foulFlit n flit => Sys2Proof.Machine.execFoulFlit n flit s
  | .linkControlPause n flit => Sys2Proof.Machine.execLinkControlPause n flit s
  | .linkControlDown n flit => Sys2Proof.Machine.execLinkControlDown n flit s
  | .pauseEnd n => Sys2Proof.Machine.execPauseEnd n s
  | .flitForward => Sys2Proof.Machine.execFlitForward s
  | .lossOfSignal n presence => Sys2Proof.Machine.execLossOfSignal n presence s
  | .signalReturn n => Sys2Proof.Machine.execSignalReturn n s
  | .recoveryExpiry n => Sys2Proof.Machine.execRecoveryExpiry n s
  | .synthesiserLocked q => Sys2Proof.Machine.execSynthesiserLocked q s
  | .synthesiserTuneTimeout q => Sys2Proof.Machine.execSynthesiserTuneTimeout q s
  | .synthesiserRetry q => Sys2Proof.Machine.execSynthesiserRetry q s
  | .quadRecalibration q tenths => Sys2Proof.Machine.execQuadRecalibration q tenths s
  | .recalibrationDeadline q => Sys2Proof.Machine.execRecalibrationDeadline q s
  | .quadRailStep q => Sys2Proof.Machine.execQuadRailStep q s
  | .tenantGoneNotice port => Sys2Proof.Machine.execTenantGoneNotice port s
  | .tenantGoneAcknowledgement port => Sys2Proof.Machine.execTenantGoneAcknowledgement port s
  | .revocationNotice port => Sys2Proof.Machine.execRevocationNotice port s
  | .revocationAcknowledgement port => Sys2Proof.Machine.execRevocationAcknowledgement port s
  | .messagePacket port => Sys2Proof.Machine.execMessagePacket port s
  | .tileWritePacket port => Sys2Proof.Machine.execTileWritePacket port s
  | .reservePacket port => Sys2Proof.Machine.execReservePacket port s
  | .unreservePacket port => Sys2Proof.Machine.execUnreservePacket port s
  | .sendStatusPacket port => Sys2Proof.Machine.execSendStatusPacket port s
  | .readPacket port => Sys2Proof.Machine.execReadPacket port s
  | .writePacket port => Sys2Proof.Machine.execWritePacket port s
  | .ringIndexRequest port => Sys2Proof.Machine.execRingIndexRequest port s
  | .ringGrant port => Sys2Proof.Machine.execRingGrant port s
  | .ringRecordPublish ring => Sys2Proof.Machine.execRingRecordPublish ring s
  | .releaseIndexReport port => Sys2Proof.Machine.execReleaseIndexReport port s
  | .drainNotice port => Sys2Proof.Machine.execDrainNotice port s
  | .keeperClaim port => Sys2Proof.Machine.execKeeperClaim port s
  | .claimStatus port => Sys2Proof.Machine.execClaimStatus port s
  | .readDataPacket port => Sys2Proof.Machine.execReadDataPacket port s
  | .writeDonePacket port => Sys2Proof.Machine.execWriteDonePacket port s
  | .undeliverablePacket port => Sys2Proof.Machine.execUndeliverablePacket port s
  | .pcieLinkUp rate width bothFlit => Sys2Proof.Machine.execPcieLinkUp rate width bothFlit s
  | .configurationRequest f reg write => Sys2Proof.Machine.execConfigurationRequest f reg write s
  | .submissionTailDoorbell page value => Sys2Proof.Machine.execSubmissionTailDoorbell page value s
  | .completionHeadDoorbell page value => Sys2Proof.Machine.execCompletionHeadDoorbell page value s
  | .submissionFetch t => Sys2Proof.Machine.execSubmissionFetch t s
  | .hostDictionaryAccess t h pre => Sys2Proof.Machine.execHostDictionaryAccess t h pre s
  | .hostGroupControl t pre => Sys2Proof.Machine.execHostGroupControl t pre s
  | .groupWaitComplete t slot => Sys2Proof.Machine.execGroupWaitComplete t slot s
  | .hostCopy t h => Sys2Proof.Machine.execHostCopy t h s
  | .hostSlateOperation t => Sys2Proof.Machine.execHostSlateOperation t s
  | .hostNoOperation t => Sys2Proof.Machine.execHostNoOperation t s
  | .completionPost t writeOk => Sys2Proof.Machine.execCompletionPost t writeOk s
  | .bar4Read off len => Sys2Proof.Machine.execBar4Read off len s
  | .bar4Write off bytes => Sys2Proof.Machine.execBar4Write off bytes s
  | .functionLevelReset f => Sys2Proof.Machine.execFunctionLevelReset f s
  | .hostPortReset cause => Sys2Proof.Machine.execHostPortReset cause s
  | .canStandbyExit => Sys2Proof.Machine.execCanStandbyExit s
  | .canSearchFrame valid brs => Sys2Proof.Machine.execCanSearchFrame valid brs s
  | .canNominalSearchTimeout => Sys2Proof.Machine.execCanNominalSearchTimeout s
  | .canDataSearchTimeout => Sys2Proof.Machine.execCanDataSearchTimeout s
  | .canBusOff => Sys2Proof.Machine.execCanBusOff s
  | .canBusOffRecovery => Sys2Proof.Machine.execCanBusOffRecovery s
  | .canDictionaryRequest f pre => Sys2Proof.Machine.execCanDictionaryRequest f pre s
  | .canAlarmFrame f => Sys2Proof.Machine.execCanAlarmFrame f s
  | .canTimeSync f => Sys2Proof.Machine.execCanTimeSync f s
  | .canHeartbeat elapsedUs => Sys2Proof.Machine.execCanHeartbeat elapsedUs s
  | .spiRequest x pre => Sys2Proof.Machine.execSpiRequest x pre s
  | .spiFetch x => Sys2Proof.Machine.execSpiFetch x s
  | .spiNoOperation x => Sys2Proof.Machine.execSpiNoOperation x s
  | .spiReadyTimer => Sys2Proof.Machine.execSpiReadyTimer s
  | .flashStatusPoll o => Sys2Proof.Machine.execFlashStatusPoll o s
  | .pmbusPoll reading => Sys2Proof.Machine.execPmbusPoll reading s
  | .pmbusAlert rail status => Sys2Proof.Machine.execPmbusAlert rail status s
  | .pmbusRetry sdaHigh => Sys2Proof.Machine.execPmbusRetry sdaHigh s
  | .busLend => Sys2Proof.Machine.execBusLend s
  | .busTakeBack sdaHigh => Sys2Proof.Machine.execBusTakeBack sdaHigh s
  | .i2cRecovery bus round => Sys2Proof.Machine.execI2cRecovery bus round s
  | .i2cRecoveryRoundWait bus round => Sys2Proof.Machine.execI2cRecoveryRoundWait bus round s
  | .moduleBusRetry round => Sys2Proof.Machine.execModuleBusRetry round s
  | .moduleInserted n => Sys2Proof.Machine.execModuleInserted n s
  | .moduleRemoved n => Sys2Proof.Machine.execModuleRemoved n s
  | .moduleRead n bytes => Sys2Proof.Machine.execModuleRead n bytes s
  | .transitionComplete => Sys2Proof.Machine.execTransitionComplete s
  | .transitionDeadline => Sys2Proof.Machine.execTransitionDeadline s
  | .transitionReverted => Sys2Proof.Machine.execTransitionReverted s
  | .returningCommandSettle mv => Sys2Proof.Machine.execReturningCommandSettle mv s
  | .chainRetry => Sys2Proof.Machine.execChainRetry s
  | .canaryMeasure d stressed twin => Sys2Proof.Machine.execCanaryMeasure d stressed twin s
  | .vaultRetentionMeasure sliceTimesUs => Sys2Proof.Machine.execVaultRetentionMeasure sliceTimesUs s
  | .ageingRecord meanTenths meanMv writeOk => Sys2Proof.Machine.execAgeingRecord meanTenths meanMv writeOk s
  | .powerOnReset => Sys2Proof.Machine.execPowerOnReset s
  | .powerUp o => Sys2Proof.Machine.execPowerUp o s
  | .stockTrainingComplete found => Sys2Proof.Machine.execStockTrainingComplete found s
  | .stockWipeComplete => Sys2Proof.Machine.execStockWipeComplete s
  | .pcieCrsEnd => Sys2Proof.Machine.execPcieCrsEnd s
  | .firmwareStart => Sys2Proof.Machine.execFirmwareStart s
  | .dictionaryReady flash h h2 => Sys2Proof.Machine.execDictionaryReady flash h h2 s
  | .linksReleased => Sys2Proof.Machine.execLinksReleased s
  | .mainPowerLoss => Sys2Proof.Machine.execMainPowerLoss s
  | .vstbyLoss => Sys2Proof.Machine.execVstbyLoss s
  | .packageReset => Sys2Proof.Machine.execPackageReset s
  | .gafferWatchdogExpiry within60s => Sys2Proof.Machine.execGafferWatchdogExpiry within60s s
  | .gafferReset => Sys2Proof.Machine.execGafferReset s
  | .tapInstruction tap => Sys2Proof.Machine.execTapInstruction tap s
  | .railExcursion rail mv longerThan1ms => Sys2Proof.Machine.execRailExcursion rail mv longerThan1ms s
  | .linkReferenceReturn e => Sys2Proof.Machine.execLinkReferenceReturn e s
  | .equalisationTrainingComplete n => Sys2Proof.Machine.execEqualisationTrainingComplete n s
  | .recalibrationComplete q pausedUs => Sys2Proof.Machine.execRecalibrationComplete q pausedUs s
  | .canErrorPassive tec rec => Sys2Proof.Machine.execCanErrorPassive tec rec s
  | .activeBitRateSwitchFrame => Sys2Proof.Machine.execActiveBitRateSwitchFrame s
  | .fieldViolationFrame f => Sys2Proof.Machine.execFieldViolationFrame f s
  | .msiXTableWrite f entry dword value => Sys2Proof.Machine.execMsiXTableWrite f entry dword value s
  | .hostReadCompletion req r => Sys2Proof.Machine.execHostReadCompletion req r s
  | .completionTimeout req => Sys2Proof.Machine.execCompletionTimeout req s
  | .sysResetNRise => Sys2Proof.Machine.execSysResetNRise s
  | .pmbusTransactionEnd o => Sys2Proof.Machine.execPmbusTransactionEnd o s

end Sys2Proof.Machine
end

