-- ==== Sys2Proof/WellFormed.lean ====
section
/-!
DEFINITION. Which commands are well formed: the operands are those of the command's row. A core row brings a word that spells its
instruction (or an illegal word, which raises its fault, R223), a dictionary row with an entry of its own brings an access to that
entry, a row of a mode word, flit, frame or transaction brings one of its kind. exec refuses any other operands by the row's name.
-/
namespace Sys2Proof.Machine

/-- A word of a core row: it spells the row's instruction, or is illegal. -/
def wordFor (w : U32) (want : Spelling → Bool) : Bool := spell w == .illegal || want (spell w)

/-- A mode word of a row's kind; a bad CRC or a reserved kind fits every row (R617). -/
def modeWordFor (kind : Nat) (w : U64) : Bool :=
  let v := w.toNat
  !mwOk v || mwKind v == 0 || decide (4 < mwKind v) || mwKind v == kind

/-- A flit of a row's type; a bad CRC fits every row, a reserved type the row of packet flits (R624, R625). -/
def flitFor (ty : Nat) (l : List Byte) : Bool :=
  let t := (flitOf l).ftype
  !flitOk l || t == ty || (decide (5 ≤ t) && ty == ftPacket)

/-- A link control flit of a row's code; a reserved code fits both rows (R647). -/
def controlFor (want : Nat) (l : List Byte) : Bool :=
  flitFor ftControl l && !(flitOk l && (flitOf l).ftype == ftControl && fieldAt (l.drop 16) 0 1 == 3 - want)

/-- The operands of a command are those of its row. -/
def wellFormed (i : Instr) : Bool :=
  match i with
  | .dictRead _ => true
  | .dictReadInformation _ => true
  | .dictWrite _ => true
  | .stagedWrite _ => true
  | .commit _ => true
  | .discardStage _ => true
  | .restoreDefault _ => true
  | .writePiece _ => true
  | .stageExpiry _ _ _ => true
  | .windowSlotDoorbell _ _ _ _ => true
  | .windowCompletionClear _ _ _ => true
  | .journalRecordSealed _ => true
  | .journalCompaction _ => true
  | .compactionRetry _ => true
  | .lifeCycleTransition a => baseOf a.index.toNat == some 0x1011
  | .vcoreFSetpointCommit a => baseOf a.index.toNat == some 0x2000
  | .powerStateRequest a => baseOf a.index.toNat == some 0x2010
  | .holdRecoveryRequest a => baseOf a.index.toNat == some 0x2051
  | .groupStart a => baseOf a.index.toNat == some 0x4300
  | .groupPreempt a => baseOf a.index.toNat == some 0x4300
  | .groupResume a => baseOf a.index.toNat == some 0x4300
  | .groupAbort a => baseOf a.index.toNat == some 0x4300
  | .routeTableWrite a => baseOf a.index.toNat == some 0x5000
  | .benchSubstitution a => baseOf a.index.toNat == some 0x5001
  | .linkDisable a => baseOf a.index.toNat == some 0x5100
  | .linkEnable a => baseOf a.index.toNat == some 0x5100
  | .ringConfigure a => baseOf a.index.toNat == some 0x7130
  | .queueEnable a => baseOf a.index.toNat == some 0x8100
  | .queueDisable a => baseOf a.index.toNat == some 0x8100
  | .alarmClear a => baseOf a.index.toNat == some 0x9005
  | .keyDigestWrite a => baseOf a.index.toNat == some 0xA010
  | .unlockChallengeRead a => baseOf a.index.toNat == some 0xA020
  | .unlockResponseWrite a => baseOf a.index.toNat == some 0xA021
  | .tenantReset a => baseOf a.index.toNat == some 0xA031
  | .tenantResetAcksComplete _ => true
  | .tenantResetAckTimeout _ => true
  | .tenantResetComplete _ => true
  | .eventLogClear a => baseOf a.index.toNat == some 0xF002
  | .counterClear a => baseOf a.index.toNat == some 0xF003
  | .bridgeFlitArrival _ _ _ _ => true
  | .bridgeChannelOutOfService _ _ => true
  | .bridgeStall _ _ => true
  | .linkReferenceStop _ => true
  | .meshFlitArrival _ _ => true
  | .refreshTimebaseCalibration _ => true
  | .vaultRefresh _ _ => true
  | .refreshPeriodChange _ _ => true
  | .vaultScrub _ => true
  | .droopTrip _ _ => true
  | .droopCauseClear _ => true
  | .senseSample _ => true
  | .msWindowEnd _ => true
  | .intAdd _ w => wordFor w (fun p => p == .integer 0x0)
  | .intSubtract _ w => wordFor w (fun p => p == .integer 0x1)
  | .intAnd _ w => wordFor w (fun p => p == .integer 0x2)
  | .intOr _ w => wordFor w (fun p => p == .integer 0x3)
  | .intExclusiveOr _ w => wordFor w (fun p => p == .integer 0x4)
  | .intShiftLeft _ w => wordFor w (fun p => p == .integer 0x5)
  | .intLogicalRight _ w => wordFor w (fun p => p == .integer 0x6)
  | .intArithmeticRight _ w => wordFor w (fun p => p == .integer 0x7)
  | .intProductLow _ w => wordFor w (fun p => p == .integer 0x8)
  | .intProductHighUnsigned _ w => wordFor w (fun p => p == .integer 0x9)
  | .intLessSigned _ w => wordFor w (fun p => p == .integer 0xA)
  | .intLessUnsigned _ w => wordFor w (fun p => p == .integer 0xB)
  | .intSignedMinimum _ w => wordFor w (fun p => p == .integer 0xC)
  | .intSignedMaximum _ w => wordFor w (fun p => p == .integer 0xD)
  | .intLeadingZeros _ w => wordFor w (fun p => p == .integer 0xE)
  | .intSetBits _ w => wordFor w (fun p => p == .integer 0xF)
  | .addImmediate _ w => wordFor w (fun p => p == .immediate 0)
  | .andImmediate _ w => wordFor w (fun p => p == .immediate 1)
  | .orImmediate _ w => wordFor w (fun p => p == .immediate 2)
  | .shiftOrImmediate _ w => wordFor w (fun p => p == .immediate 3)
  | .load _ w => wordFor w (fun p => p == .load (lsWidth w))
  | .store _ w => wordFor w (fun p => p == .store (lsWidth w))
  | .branch _ w => wordFor w (fun p => match p with | .branch _ => true | _ => false)
  | .jumpAndLink _ w => wordFor w (fun p => p == .jump)
  | .arrayProduct _ w => wordFor w (fun p => p == .arrGo)
  | .attention _ w => wordFor w (fun p => p == .arrGo)
  | .streamOpen _ w => wordFor w (fun p => p == .arrGo)
  | .streamCommit _ w => wordFor w (fun p => p == .arrGo)
  | .storyboardCompaction _ => true
  | .streamPark _ w => wordFor w (fun p => p == .arrGo)
  | .streamUnpark _ w => wordFor w (fun p => p == .arrGo)
  | .streamClose _ w => wordFor w (fun p => p == .arrGo)
  | .streamRead _ w => wordFor w (fun p => p == .arrGo)
  | .streamRoster _ w => wordFor w (fun p => p == .arrGo)
  | .streamAdopt _ w => wordFor w (fun p => p == .arrGo)
  | .followReelWaitEnd _ => true
  | .ringQueueWaitEnd _ => true
  | .arrWait _ w => wordFor w (fun p => p == .arrWait)
  | .epilogueBlock _ => true
  | .deferredSweep _ => true
  | .tileSendBlock _ => true
  | .arrayCommandComplete _ => true
  | .attentionComplete _ => true
  | .vectorAdd _ w => wordFor w (fun p => p == .vectorArith)
  | .vectorSubtract _ w => wordFor w (fun p => p == .vectorArith)
  | .vectorMultiply _ w => wordFor w (fun p => p == .vectorArith)
  | .vectorFusedMultiplyAdd _ w => wordFor w (fun p => p == .vectorArith)
  | .vectorMinimum _ w => wordFor w (fun p => p == .vectorArith)
  | .vectorMaximum _ w => wordFor w (fun p => p == .vectorArith)
  | .vectorCompare _ w _ => wordFor w (fun p => p == .vectorArith)
  | .vectorSelect _ w => wordFor w (fun p => p == .vectorSelect)
  | .vectorExp2 _ w => wordFor w (fun p => p == .vectorFn 0x10)
  | .vectorLog2 _ w => wordFor w (fun p => p == .vectorFn 0x11)
  | .vectorReciprocal _ w => wordFor w (fun p => p == .vectorFn 0x12)
  | .vectorReciprocalSquareRoot _ w => wordFor w (fun p => p == .vectorFn 0x13)
  | .vectorSquareRoot _ w => wordFor w (fun p => p == .vectorFn 0x14)
  | .vectorExp _ w => wordFor w (fun p => p == .vectorFn 0x15)
  | .vectorSigmoid _ w => wordFor w (fun p => p == .vectorFn 0x16)
  | .vectorTanh _ w => wordFor w (fun p => p == .vectorFn 0x17)
  | .laneSum _ w => wordFor w (fun p => p == .vectorReduce 0x20)
  | .laneMaximum _ w => wordFor w (fun p => p == .vectorReduce 0x21)
  | .vectorLoad _ w => wordFor w (fun p => match p with | .vectorLoadStore _ => true | _ => false)
  | .vectorStore _ w => wordFor w (fun p => match p with | .vectorLoadStore _ => true | _ => false)
  | .vSoftmax _ w => wordFor w (fun p => p == .softmax)
  | .msgRsv _ w => wordFor w (fun p => p == .message 1)
  | .msgSend _ w => wordFor w (fun p => p == .message 2)
  | .msgRecv _ w => wordFor w (fun p => p == .message 3)
  | .msgPoll _ w => wordFor w (fun p => p == .message 4)
  | .msgUnrsv _ w => wordFor w (fun p => p == .message 5)
  | .messageArrival _ _ _ _ => true
  | .dmaCopy _ w => wordFor w (fun p => p == .dmaGo)
  | .dmaFill _ w => wordFor w (fun p => p == .dmaGo)
  | .dmaWait _ w => wordFor w (fun p => p == .dmaWait)
  | .dmaCommandComplete _ _ => true
  | .rngGen _ w => wordFor w.word (fun p => p == .rngGen)
  | .rngVfill _ w => wordFor w.word (fun p => p == .rngVfill)
  | .hud _ w => wordFor w (fun p => p == .hud)
  | .huddleRelease _ => true
  | .snapshotCopyComplete _ _ => true
  | .preemptSaveComplete _ _ => true
  | .resumeRestoreComplete _ _ => true
  | .hudLocal _ w => wordFor w (fun p => p == .hudLocal)
  | .nop _ w => wordFor w (fun p => p == .nop)
  | .beats _ w => wordFor w (fun p => p == .beats)
  | .softwareFault _ w => wordFor w (fun p => p == .fault)
  | .engineStall _ _ _ => true
  | .atomicRead _ w => wordFor w (fun p => p == .atomic 0x0 4 || p == .atomic 0x0 8)
  | .atomicSwap _ w => wordFor w (fun p => p == .atomic 0x1 4 || p == .atomic 0x1 8)
  | .compareAndSwap _ w => wordFor w (fun p => p == .atomic 0x2 4 || p == .atomic 0x2 8)
  | .atomicAdd _ w => wordFor w (fun p => p == .atomic 0x3 4 || p == .atomic 0x3 8)
  | .atomicAnd _ w => wordFor w (fun p => p == .atomic 0x4 4 || p == .atomic 0x4 8)
  | .atomicOr _ w => wordFor w (fun p => p == .atomic 0x5 4 || p == .atomic 0x5 8)
  | .atomicExclusiveOr _ w => wordFor w (fun p => p == .atomic 0x6 4 || p == .atomic 0x6 8)
  | .atomicSignedMinimum _ w => wordFor w (fun p => p == .atomic 0x7 4 || p == .atomic 0x7 8)
  | .atomicSignedMaximum _ w => wordFor w (fun p => p == .atomic 0x8 4 || p == .atomic 0x8 8)
  | .atomicUnsignedMinimum _ w => wordFor w (fun p => p == .atomic 0x9 4 || p == .atomic 0x9 8)
  | .atomicUnsignedMaximum _ w => wordFor w (fun p => p == .atomic 0xA 4 || p == .atomic 0xA 8)
  | .atomicFp32Add _ w => wordFor w (fun p => p == .atomic 0xB 4 || p == .atomic 0xB 8)
  | .leaseTake _ w => wordFor w (fun p => p == .atomic 0xC 4 || p == .atomic 0xC 8)
  | .leaseRelease _ w => wordFor w (fun p => p == .atomic 0xD 4 || p == .atomic 0xD 8)
  | .stockChannelFailure _ => true
  | .domainDrainComplete _ => true
  | .headerStage _ => true
  | .domainStagingComplete _ => true
  | .sealWordSample _ => true
  | .reelOffer _ => true
  | .reelAccept _ => true
  | .reelHold _ => true
  | .offerResend _ _ => true
  | .reelStale _ => true
  | .reelData _ => true
  | .reelDone _ => true
  | .slateTake => true
  | .slateWordSample => true
  | .slateDrain => true
  | .restoreFromDailies => true
  | .restoreFromHost _ => true
  | .shardLoad _ => true
  | .releaseDailies => true
  | .modeWordOffer _ word => modeWordFor 1 word
  | .modeWordChoice _ word => modeWordFor 2 word
  | .modeWordConfirm _ word => modeWordFor 3 word
  | .modeWordHold _ word => modeWordFor 4 word
  | .holdHintExpiry _ => true
  | .kickoffConfirmTimeout _ => true
  | .kickoffRetry _ => true
  | .linkSignalDetect _ => true
  | .packetFlit _ flit => flitFor ftPacket flit
  | .nullFlit _ flit => flitFor ftNull flit
  | .replayRequest _ flit => flitFor ftReplay flit
  | .replayTimeout _ => true
  | .foulFlit _ flit => flitFor ftFoul flit
  | .linkControlPause _ flit => controlFor 1 flit
  | .linkControlDown _ flit => controlFor 2 flit
  | .pauseEnd _ => true
  | .flitForward => true
  | .lossOfSignal _ _ => true
  | .signalReturn _ => true
  | .recoveryExpiry _ => true
  | .synthesiserLocked _ => true
  | .synthesiserTuneTimeout _ => true
  | .synthesiserRetry _ => true
  | .quadRecalibration _ _ => true
  | .recalibrationDeadline _ => true
  | .quadRailStep _ => true
  | .tenantGoneNotice _ => true
  | .tenantGoneAcknowledgement _ => true
  | .revocationNotice _ => true
  | .revocationAcknowledgement _ => true
  | .messagePacket _ => true
  | .tileWritePacket _ => true
  | .reservePacket _ => true
  | .unreservePacket _ => true
  | .sendStatusPacket _ => true
  | .readPacket _ => true
  | .writePacket _ => true
  | .ringIndexRequest _ => true
  | .ringGrant _ => true
  | .ringRecordPublish _ => true
  | .releaseIndexReport _ => true
  | .drainNotice _ => true
  | .keeperClaim _ => true
  | .claimStatus _ => true
  | .readDataPacket _ => true
  | .writeDonePacket _ => true
  | .undeliverablePacket _ => true
  | .pcieLinkUp _ _ _ => true
  | .configurationRequest _ _ _ => true
  | .submissionTailDoorbell _ _ => true
  | .completionHeadDoorbell _ _ => true
  | .submissionFetch _ => true
  | .hostDictionaryAccess _ _ _ => true
  | .hostGroupControl _ _ => true
  | .groupWaitComplete _ _ => true
  | .hostCopy _ _ => true
  | .hostSlateOperation _ => true
  | .hostNoOperation _ => true
  | .completionPost _ _ => true
  | .bar4Read _ _ => true
  | .bar4Write _ _ => true
  | .functionLevelReset _ => true
  | .hostPortReset _ => true
  | .canStandbyExit => true
  | .canSearchFrame _ _ => true
  | .canNominalSearchTimeout => true
  | .canDataSearchTimeout => true
  | .canBusOff => true
  | .canBusOffRecovery => true
  | .canDictionaryRequest f _ => idSvc f == 1 && idClass f != 0
  | .canAlarmFrame _ => true
  | .canTimeSync _ => true
  | .canHeartbeat _ => true
  | .spiRequest x _ => spiOpcode x == some 1
  | .spiFetch x => spiOpcode x == some 2
  | .spiNoOperation x => spiOpcode x != some 1 && spiOpcode x != some 2
  | .spiReadyTimer => true
  | .flashStatusPoll _ => true
  | .pmbusPoll _ => true
  | .pmbusAlert _ _ => true
  | .pmbusRetry _ => true
  | .busLend => true
  | .busTakeBack _ => true
  | .i2cRecovery _ _ => true
  | .i2cRecoveryRoundWait _ _ => true
  | .moduleBusRetry _ => true
  | .moduleInserted _ => true
  | .moduleRemoved _ => true
  | .moduleRead _ _ => true
  | .transitionComplete => true
  | .transitionDeadline => true
  | .transitionReverted => true
  | .returningCommandSettle _ => true
  | .chainRetry => true
  | .canaryMeasure _ _ _ => true
  | .vaultRetentionMeasure _ => true
  | .ageingRecord _ _ _ => true
  | .powerOnReset => true
  | .powerUp _ => true
  | .stockTrainingComplete _ => true
  | .stockWipeComplete => true
  | .pcieCrsEnd => true
  | .firmwareStart => true
  | .dictionaryReady _ _ _ => true
  | .linksReleased => true
  | .mainPowerLoss => true
  | .vstbyLoss => true
  | .packageReset => true
  | .gafferWatchdogExpiry _ => true
  | .gafferReset => true
  | .tapInstruction _ => true
  | .railExcursion _ _ _ => true
  | .linkReferenceReturn _ => true
  | .equalisationTrainingComplete _ => true
  | .recalibrationComplete _ _ => true
  | .canErrorPassive _ _ => true
  | .activeBitRateSwitchFrame => true
  | .fieldViolationFrame _ => true
  | .msiXTableWrite _ _ _ _ => true
  | .hostReadCompletion _ _ => true
  | .completionTimeout _ => true
  | .sysResetNRise => true
  | .pmbusTransactionEnd _ => true

/-- The descriptor that an ARR.GO word names is of the row's kind, or of a kind that no row has (R186, R401). -/
def arrFits (s : State) (op cmd : Nat) (c : CoreId) (w : U32) : Bool :=
  let o := descByte s c.toNat w 0
  let k := descByte s c.toNat w 1
  let listed := o == 1 || o == 2 || (o == 3 && decide (1 ≤ k ∧ k ≤ 8))
  spell w != .arrGo || !listed || (o == op && (op != 3 || k == cmd))

/-- The descriptor that a DMA.GO word names asks for the row's operation, or for none (R335). -/
def dmaFits (s : State) (op : Nat) (c : CoreId) (w : U32) : Bool :=
  let o := descByte s c.toNat w 0
  spell w != .dmaGo || !(o == 1 || o == 2) || o == op

/-- A command fits the state it comes to: it is well formed, and a queued descriptor is of the row's kind. Such a command is not
refused. -/
def fits (i : Instr) (s : State) : Bool :=
  wellFormed i &&
    (match i with
    | .arrayProduct c w => arrFits s 1 0 c w
    | .attention c w => arrFits s 2 0 c w
    | .streamOpen c w => arrFits s 3 1 c w
    | .streamCommit c w => arrFits s 3 2 c w
    | .streamPark c w => arrFits s 3 3 c w
    | .streamUnpark c w => arrFits s 3 4 c w
    | .streamClose c w => arrFits s 3 5 c w
    | .streamRead c w => arrFits s 3 6 c w
    | .streamRoster c w => arrFits s 3 7 c w
    | .streamAdopt c w => arrFits s 3 8 c w
    | .dmaCopy c w => dmaFits s 1 c w
    | .dmaFill c w => dmaFits s 2 c w
    | _ => true)

end Sys2Proof.Machine
end

