-- ==== Sys2Proof/Safety.lean ====
section
/-! DEFINITION. What a safe run is: a command completes, memory keeps its canonical form, the write-once fuses only advance,
and a command leaves the queue of waiting commands alone. -/

namespace Sys2Proof.Machine

/-- A command completes: it answers a next state, neither a fault nor a refusal. -/
def completes (i : Instr) (s : State) : Prop := ∃ t, exec i s = .next t

/-- Whatever a command answers, a next state of it has the relation `R` to the state before it. -/
def everyNext (R : State → State → Prop) (i : Instr) (s : State) : Prop := ∀ t, exec i s = .next t → R s t

/-- The fuses only advance: once RETIRED always RETIRED, a burnt key digest stays, the firmware floor and the count of
repair rows never fall ([20_startup_lifecycle.md R878, R887, 04_dictionary_map.md R160]). -/
structure FusesLe (a b : Fuses) : Prop where
  rows : a.rows ≤ b.rows
  retired : a.retired = true → b.retired = true
  digest : ∀ d, a.keyDigest = some d → b.keyDigest = some d
  floor : a.floor.toNat ≤ b.floor.toNat
  words : a.floorWords ≤ b.floorWords

/-- The queue and the fuses are untouched and memory keeps its canonical form. -/
def Keeps (s t : State) : Prop := t.pending = s.pending ∧ t.fuses = s.fuses ∧ (s.mem.wf = true → t.mem.wf = true)

/-- The queue is untouched, the fuses only advance and memory keeps its canonical form. -/
def Grows (s t : State) : Prop := t.pending = s.pending ∧ FusesLe s.fuses t.fuses ∧ (s.mem.wf = true → t.mem.wf = true)

/-- The invariant of a run: memory is in its canonical form, strictly rising addresses and no entry a wiped byte would give. -/
def Inv (s : State) : Prop := s.mem.wf = true

end Sys2Proof.Machine
end

