-- ==== Sys2Proof/Certificates/Slice0/Obligations.lean ====
section
/-!
DEFINITION. The statements for the provers, each a Prop of its own, and the few relations they are written in. A statement
of a command's effect says that the command runs, under conditions on the state and the operands alone, and what the next
state holds: what changed, and that the rest of the machine did not.
-/
set_option Elab.async false
set_option linter.all false
namespace Sys2Proof.Claims

open Sys2Proof.Machine

/-- The command answers a next state, and P holds of it. -/
def Runs (i : Instr) (s : State) (P : State → Prop) : Prop := ∃ t, exec i s = .next t ∧ P t

/-- Nothing changes but core c. -/
def OnlyCore (s t : State) (c : Nat) : Prop := t = { s with cores := t.cores } ∧ ∀ k, k ≠ c → coreOf t k = coreOf s k

/-- Scalar register r of core c. -/
def sreg (s : State) (c r : Nat) : BitVec 64 := BitVec.ofNat 64 (reg (coreOf s c) r)

/-- Core c has v in register d (s0 discards it and reads zero) and goes on at p; its other registers, the rest of it and all
else stay. -/
structure WritesRegAt (s t : State) (c d : Nat) (v p : BitVec 64) : Prop where
  written : d ≠ 0 → sreg t c d = v
  zero : sreg t c 0 = 0
  others : ∀ r, r ≠ d → sreg t c r = sreg s c r
  core : coreOf t c = { coreOf s c with regs := (coreOf t c).regs, pc := p }
  only : OnlyCore s t c

/-- As WritesRegAt, with the next instruction's pc. -/
def WritesReg (s t : State) (c d : Nat) (v : BitVec 64) : Prop := WritesRegAt s t c d v ((coreOf s c).pc + 4)

/-- Core c goes on at p; nothing else changes. -/
def GoesTo (s t : State) (c : Nat) (p : BitVec 64) : Prop :=
  coreOf t c = { coreOf s c with pc := p } ∧ OnlyCore s t c

/-- Every byte of memory from address k on, but for the n from key a on, reads as before. -/
def OtherBytes (s t : State) (a n : Nat) : Prop := ∀ k, k < a ∨ a + n ≤ k → cellGet t.mem.cells k = cellGet s.mem.cells k

/-- One event is appended to the log: the next sequence number, the time, its code, source and detail, in slot sequence
modulo 4,096. -/
def Logged (s t : State) (code : Nat) (src : U16) (detail : Nat) : Prop :=
  t.log.next = s.log.next + 1 ∧ t.log.ms = s.log.ms ∧
    t.log.recs = tput s.log.recs (s.log.next.toNat % 4096)
      { seq := s.log.next, time := s.log.ms, code := BitVec.ofNat 16 code, source := src, detail := BitVec.ofNat 32 detail }

end Sys2Proof.Claims

open Sys2Proof Sys2Proof.Machine Sys2Proof.Claims

/-! ## The block and its queue -/

/-- A step takes the command at the front of the queue and runs it on the state with the queue's rest; on an empty queue the
block idles (the idling is the model's choice, log entry 1). -/
def Obligations.FrontCommandRuns : Prop :=
  (∀ (i : Instr) (rest : List Instr) (s : State), s.pending = i :: rest → step s = exec i { s with pending := rest }) ∧
    ∀ s : State, s.pending = [] → step s = .next s

/-- Every step takes exactly the front command off the queue, adds none, and lets the fuses only advance: a RETIRED part stays
RETIRED, the burnt key digest stays, the firmware floor and the repair rows never fall. -/
def Obligations.StepsOnlyAdvanceFuses : Prop :=
  ∀ s t : State, step s = .next t → t.pending = s.pending.tail ∧ FusesLe s.fuses t.fuses

/-- Every step keeps memory in its canonical form, from any state whose memory has it. -/
def Obligations.StepsKeepMemoryForm : Prop := ∀ s t : State, Inv s → step s = .next t → Inv t

/-- After a power-on reset the queue is empty, memory is wiped in every tier and in canonical form, no error is recorded in it,
no lease or repaired channel is listed, no core has a register that does not read zero, every group is idle, no stream is open,
no domain is on, and the readiness word is 0. Registers for which the manual gives no value at reset stand at 0 as log entry 4
chooses. -/
def Obligations.ResetHolds : Prop :=
  State.reset.pending = [] ∧ Inv State.reset ∧ (∀ k, cellGet State.reset.mem.cells k = 0) ∧ State.reset.mem.bad = [] ∧
    State.reset.mem.leases = [] ∧ (∀ c r, sreg State.reset c r = 0) ∧ (∀ g, (groupOf State.reset g).state = .idle) ∧
    (∀ i, (trackerOf State.reset i).state = .free) ∧ (∀ d, (domOf State.reset d).state = .off) ∧
    State.reset.gaffer.readiness = 0

/-- A command whose operands are those of its row answers a next state, whatever the state of the block; the one exception is a
rail beyond its absolute maximum, which the manual gives no behaviour. -/
def Obligations.FittingCommandsComplete : Prop :=
  ∀ (i : Instr) (s : State), fits i s = true →
    (∀ r mv long, i = .railExcursion r mv long → -300 ≤ mv ∧ mv ≤ absMax r) → completes i s

/-- A command that is refused had the operands of another row, and a command with such operands is refused by its name: always,
but for a mode word, which a link that is up treats alike whatever its kind (R651). A rail beyond its absolute maximum is the
one fault. -/
def Obligations.IllFormedRefused : Prop :=
  (∀ (i : Instr) (s : State) (r : Refusal), exec i s = .refused r → fits i s = false ∧ ∃ m, r = .illFormed m) ∧
    (∀ (i : Instr) (s : State), wellFormed i = false → (∀ n, (linkOf s n).state ≠ .up) →
      ∃ m, exec i s = .refused (.illFormed m)) ∧
    ∀ (i : Instr) (s : State) (f : Fault), exec i s = .fault f →
      ∃ r mv long, i = .railExcursion r mv long ∧ (mv < -300 ∨ absMax r < mv)

/-! ## The control processor -/

/-- The sixteen integer functions of R223 on s[a] and s[b]: s[d] takes the result, s0 discards it, the pc moves past the
instruction, and no other register, core or byte of memory changes. The four immediate functions of class 0x01: the immediate is
bits [14:0] of the word, sign-extended but for function 3. -/
def Obligations.IntegerResults : Prop :=
  (∀ (s : State) (c : CoreId) (w : U32), issues s c.toNat w = true →
    let a := sreg s c.toNat (wA w)
    let b := sreg s c.toNat (wB w)
    let sh := b.toNat % 64
    let gives (i : Instr) (v : BitVec 64) : Prop := Runs i s (fun t => WritesReg s t c.toNat (wD w) v)
    (spell w = .integer 0x0 → gives (.intAdd c w) (a + b)) ∧
    (spell w = .integer 0x1 → gives (.intSubtract c w) (a - b)) ∧
    (spell w = .integer 0x2 → gives (.intAnd c w) (a &&& b)) ∧
    (spell w = .integer 0x3 → gives (.intOr c w) (a ||| b)) ∧
    (spell w = .integer 0x4 → gives (.intExclusiveOr c w) (a ^^^ b)) ∧
    (spell w = .integer 0x5 → gives (.intShiftLeft c w) (a <<< sh)) ∧
    (spell w = .integer 0x6 → gives (.intLogicalRight c w) (a >>> sh)) ∧
    (spell w = .integer 0x7 → gives (.intArithmeticRight c w) (a.sshiftRight sh)) ∧
    (spell w = .integer 0x8 → gives (.intProductLow c w) (a * b)) ∧
    (spell w = .integer 0x9 → gives (.intProductHighUnsigned c w)
      ((a.setWidth 128 * b.setWidth 128).extractLsb' 64 64)) ∧
    (spell w = .integer 0xA → gives (.intLessSigned c w) (if a.slt b then 1 else 0)) ∧
    (spell w = .integer 0xB → gives (.intLessUnsigned c w) (if a.ult b then 1 else 0)) ∧
    (spell w = .integer 0xC → gives (.intSignedMinimum c w) (if a.slt b then a else b)) ∧
    (spell w = .integer 0xD → gives (.intSignedMaximum c w) (if a.slt b then b else a)) ∧
    (spell w = .integer 0xE → gives (.intLeadingZeros c w)
      (BitVec.ofNat 64 ((List.range 64).takeWhile (fun i => !a.getLsbD (63 - i))).length)) ∧
    (spell w = .integer 0xF → gives (.intSetBits c w)
      (BitVec.ofNat 64 ((List.range 64).filter (fun i => a.getLsbD i)).length))) ∧
  (∀ (s : State) (c : CoreId) (w : U32), issues s c.toNat w = true →
    let a := sreg s c.toNat (wA w)
    let imm : BitVec 15 := w.extractLsb' 0 15
    let gives (i : Instr) (v : BitVec 64) : Prop := Runs i s (fun t => WritesReg s t c.toNat (wD w) v)
    (spell w = .immediate 0 → gives (.addImmediate c w) (a + imm.signExtend 64)) ∧
    (spell w = .immediate 1 → gives (.andImmediate c w) (a &&& imm.signExtend 64)) ∧
    (spell w = .immediate 2 → gives (.orImmediate c w) (a ||| imm.signExtend 64)) ∧
    (spell w = .immediate 3 → gives (.shiftOrImmediate c w) ((a <<< 15) ||| imm.setWidth 64)))

/-- The six branch conditions on s[a] (bits [26:22]) and s[b] (bits [21:17]): to pc + 4 × offset where the condition holds, else
past the branch; a jump and link leaves pc + 4 in s[d] and goes on at s[a] + 4 × immediate. That the pc is an offset from the code
base is the model's reading (log entry 30). NOP only moves the pc; BEATS writes a count that is no smaller than the one it gave
before (a free value, log entry 2) and uses one free value up. -/
def Obligations.ControlFlow : Prop :=
  (∀ (s : State) (c : CoreId) (w : U32), issues s c.toNat w = true →
    let pc := (coreOf s c.toNat).pc
    let a := sreg s c.toNat (wD w)
    let b := sreg s c.toNat (wA w)
    let off : BitVec 14 := w.extractLsb' 0 14
    let imm : BitVec 15 := w.extractLsb' 0 15
    let goes (i : Instr) (taken : Prop) : Prop :=
      Runs i s (fun t => (taken → GoesTo s t c.toNat (pc + 4 * off.signExtend 64)) ∧ (¬taken → GoesTo s t c.toNat (pc + 4)))
    (spell w = .branch 0 → goes (.branch c w) (a = b)) ∧
    (spell w = .branch 1 → goes (.branch c w) (a ≠ b)) ∧
    (spell w = .branch 2 → goes (.branch c w) (a.slt b = true)) ∧
    (spell w = .branch 3 → goes (.branch c w) (a.slt b = false)) ∧
    (spell w = .branch 4 → goes (.branch c w) (a.ult b = true)) ∧
    (spell w = .branch 5 → goes (.branch c w) (a.ult b = false)) ∧
    (spell w = .jump → Runs (.jumpAndLink c w) s (fun t =>
      WritesRegAt s t c.toNat (wD w) (pc + 4) (sreg s c.toNat (wA w) + 4 * imm.signExtend 64)))) ∧
  (∀ (s : State) (c : CoreId) (w : U32), issues s c.toNat w = true →
    (spell w = .nop → Runs (.nop c w) s (fun t => GoesTo s t c.toNat ((coreOf s c.toNat).pc + 4))) ∧
    (spell w = .beats → Runs (.beats c w) s (fun t =>
      (coreOf s c.toNat).beatsMark ≤ (coreOf t c.toNat).beatsMark ∧
      (wD w ≠ 0 → sreg t c.toNat (wD w) = BitVec.ofNat 64 (coreOf t c.toNat).beatsMark) ∧
      (∀ r, r ≠ wD w → sreg t c.toNat r = sreg s c.toNat r) ∧
      coreOf t c.toNat = { coreOf s c.toNat with
        regs := (coreOf t c.toNat).regs, beatsMark := (coreOf t c.toNat).beatsMark, pc := (coreOf s c.toNat).pc + 4 } ∧
      OnlyCore { s with freeCount := s.freeCount + 1 } t c.toNat)))

/-! ## Faults -/

/-- The last event of the log has this code, source and detail. -/
def Sys2Proof.Claims.LastEvent (t : State) (code : Nat) (src : U16) (detail : Nat) : Prop :=
  ∃ e, tfind t.log.recs ((t.log.next - 1).toNat % 4096) = some e ∧ e.seq = t.log.next - 1 ∧ e.code = BitVec.ofNat 16 code ∧
    e.source = src ∧ e.detail = BitVec.ofNat 32 detail

/-- What a fault with a code leaves of a running group g of whose cores c took it (R348): the group is fenced and its last fault
is the code, event 0x3011 is logged, the group's streams are lost, every register and pc of every core stays, and no other
group changes. Where the group's members had nothing under way, c's fault record holds code, core, kernel, huddles, pc, engine,
tag and detail. -/
structure Sys2Proof.Claims.EngineFault (s t : State) (c g code detail engine tag : Nat) : Prop where
  fenced : (groupOf t g).state = .fenced ∧ (groupOf t g).lastFault = BitVec.ofNat 16 code
  logged : LastEvent t 0x3011 (srcGroup g) code
  groups : ∀ h, h ≠ g → groupOf t h = groupOf s h
  registers : ∀ k, (coreOf t k).regs = (coreOf s k).regs ∧ (coreOf t k).vregs = (coreOf s k).vregs ∧
    (coreOf t k).acc = (coreOf s k).acc ∧ (coreOf t k).pc = (coreOf s k).pc
  streams : ∀ i, (trackerOf t i).group.toNat = g → (trackerOf t i).state ≠ .running ∧ (trackerOf t i).state ≠ .open'
  rest : t = { s with
    freeCount := t.freeCount, outputs := t.outputs, log := t.log, mem := t.mem, cores := t.cores
    groups := t.groups, serving := t.serving, reels := t.reels, host := t.host }
  record : (∀ m ∈ members s g, (coreOf s m).dmaQ = [] ∧ (coreOf s m).arrQ = [] ∧ (coreOf s m).waiting = []) →
    s.reels.bankA.state ≠ .draining → s.reels.bankB.state ≠ .draining →
    cellRead t.mem.cells (contKey c 0x40) 24 = leBytes 2 code ++ leBytes 2 c ++ leBytes 4 (groupOf s g).kernel ++
      leBytes 8 (groupOf s g).huddles ++ leBytes 4 (coreOf s c).pc.toNat ++ leBytes 1 engine ++ leBytes 1 tag ++ leBytes 2 detail

/-- The same for a fault of the control processor: engine 0, tag 0. -/
abbrev Sys2Proof.Claims.FaultTaken (s t : State) (c g code detail : Nat) : Prop := EngineFault s t c g code detail 0 0

/-- A fault marked "core" of core c in running group g (R349): the group is fenced with the code, core c is fenced with it, no other
group changes, and every register and pc stays. -/
structure Sys2Proof.Claims.CoreFault (s t : State) (c g code : Nat) : Prop where
  group : (groupOf t g).state = .fenced ∧ (groupOf t g).lastFault = BitVec.ofNat 16 code
  core : (coreOf t c).fenced = true
  groups : ∀ h, h ≠ g → groupOf t h = groupOf s h
  registers : ∀ k, (coreOf t k).regs = (coreOf s k).regs ∧ (coreOf t k).vregs = (coreOf s k).vregs ∧
    (coreOf t k).acc = (coreOf s k).acc ∧ (coreOf t k).pc = (coreOf s k).pc

/-- The rows whose operands are a core and a word of its own. -/
def Sys2Proof.Claims.coreRows : List (CoreId → U32 → Instr) :=
  [.intAdd, .intSubtract, .intAnd, .intOr, .intExclusiveOr, .intShiftLeft, .intLogicalRight, .intArithmeticRight,
    .intProductLow, .intProductHighUnsigned, .intLessSigned, .intLessUnsigned, .intSignedMinimum, .intSignedMaximum,
    .intLeadingZeros, .intSetBits, .addImmediate, .andImmediate, .orImmediate, .shiftOrImmediate] ++
  [.load, .store, .branch, .jumpAndLink, .arrayProduct, .attention, .streamOpen, .streamCommit, .streamPark, .streamUnpark,
    .streamClose, .streamRead, .streamRoster, .streamAdopt, .arrWait] ++
  [.vectorAdd, .vectorSubtract, .vectorMultiply, .vectorFusedMultiplyAdd, .vectorMinimum, .vectorMaximum, .vectorSelect,
    .vectorExp2, .vectorLog2, .vectorReciprocal, .vectorReciprocalSquareRoot, .vectorSquareRoot, .vectorExp, .vectorSigmoid,
    .vectorTanh, .laneSum, .laneMaximum, .vectorLoad, .vectorStore, .vSoftmax] ++
  [.msgRsv, .msgSend, .msgRecv, .msgPoll, .msgUnrsv, .dmaCopy, .dmaFill, .dmaWait, fun c w => .rngGen c ⟨w, false⟩, fun c w => .rngVfill c ⟨w, false⟩,
    .hud, .hudLocal,
    .nop, .beats, .softwareFault] ++
  [.atomicRead, .atomicSwap, .compareAndSwap, .atomicAdd, .atomicAnd, .atomicOr, .atomicExclusiveOr, .atomicSignedMinimum,
    .atomicSignedMaximum, .atomicUnsignedMinimum, .atomicUnsignedMaximum, .atomicFp32Add, .leaseTake, .leaseRelease]

/-- An illegal word raises the illegal-instruction fault whatever row it comes in, with the word's upper half as its detail; the
FAULT instruction raises the software fault with s[a][15:0]; an engine command that makes no progress raises the engine stall, with
the engine as its detail, and one whose state has a parity error the internal check, which fences the core as well. -/
def Obligations.FaultsOfACore : Prop :=
  ∀ (s : State) (c : CoreId) (w : U32) (g : Nat), runningGroup s c.toNat = some g →
    (issues s c.toNat w = true → spell w = .illegal → ∀ row ∈ coreRows,
      Runs (row c w) s (fun t => FaultTaken s t c.toNat g 0x0101 (w.toNat / 65536))) ∧
    (issues s c.toNat w = true → spell w = .illegal → ∀ p,
      Runs (.vectorCompare c w p) s (fun t => FaultTaken s t c.toNat g 0x0101 (w.toNat / 65536))) ∧
    (issues s c.toNat w = true → spell w = .fault →
      Runs (.softwareFault c w) s (fun t => FaultTaken s t c.toNat g 0x0102 ((sreg s c.toNat (wA w)).toNat % 65536))) ∧
    ((coreOf s c.toNat).fenced = false → coreOn s c.toNat = true → (groupOf s g).saving = false →
      (∀ (tag : Byte) d, d ∈ (coreOf s c.toNat).dmaQ → d.tag = tag →
        Runs (.engineStall c .dma ⟨tag, false⟩) s (fun t => EngineFault s t c.toNat g 0x0103 3 3 tag.toNat)) ∧
      (∀ (tag : Byte) a, a ∈ (coreOf s c.toNat).arrQ → a.tag = tag →
        Runs (.engineStall c .arrays ⟨tag, false⟩) s (fun t => EngineFault s t c.toNat g 0x0103 1 1 tag.toNat)) ∧
      (∀ (tag : Byte) e, e ∈ [Engine.control, .vector, .message, .random, .savePath] →
        Runs (.engineStall c e ⟨tag, false⟩) s (fun t =>
          EngineFault s t c.toNat g 0x0103 (engineCode e) (engineCode e) tag.toNat)) ∧
      (∀ (tag : Byte) e, Runs (.engineStall c e ⟨tag, true⟩) s (fun t => CoreFault s t c.toNat g 0x0801)))

/-! ## Loads, stores and atomics -/

/-- An access of n bytes at address a by core c with a right reaches offset o of its space in this package: it lies within one
granule, its tenant's segments give it, the target accepts it and no word of it is in error. -/
structure Sys2Proof.Claims.Reaches (s : State) (c a n right : Nat) (who : Agent) (o : Nat) : Prop where
  here : (splitAddr s a).1 = ownPkg s
  space : (splitAddr s a).2.1 < 3
  granule : 0 < n ∧ a % 2 ^ 21 + n ≤ 2 ^ 21
  translated : translateAt s (coreTenant s c) (splitAddr s a).1 (splitAddr s a).2.1 (splitAddr s a).2.2 right = .ok o
  target : physCheck s (splitAddr s a).2.1 o n who = none
  clean : badIn s (memKey (splitAddr s a).2.1 o) n = []
  channel : (splitAddr s a).2.1 = 2 → failedStock s o n = none

/-- The bridges between core c and offset o of the space and package of address a carry its traffic: every channel of the way or
its pair is in service and no stopped link reference holds it (R36, R37, R70, R71). -/
def Sys2Proof.Claims.WayOpen (s : State) (c a n o : Nat) : Prop :=
  placeWay s c (splitAddr s a).1 (splitAddr s a).2.1 o n = .open'

/-- The agent that a load of core c is: tenant 0x000 loads as the operator (R282). -/
def Sys2Proof.Claims.loadAgent (s : State) (c : Nat) : Agent := if coreTenant s c = 0 then .operatorLoad else .engine

/-- No release index of a ring at home lies in the n bytes from a key on (a write of one lets the home grant indices, R519). -/
def Sys2Proof.Claims.NoRelease (s : State) (key n : Nat) : Prop :=
  ∀ k < 8, isHome s k = true → key + n ≤ ringKey s k - 64 + 8 ∨ ringKey s k - 64 + 16 ≤ key

/-- Core c goes on past its instruction; of the rest, only its registers, translation cache and its tenant's count of misses may
have changed, and memory as the statement says. -/
structure Sys2Proof.Claims.Accessed (s t : State) (c : Nat) : Prop where
  core : coreOf t c = { coreOf s c with
    regs := (coreOf t c).regs, tcache := (coreOf t c).tcache, pc := (coreOf s c).pc + 4 }
  cores : ∀ k, k ≠ c → coreOf t k = coreOf s k
  host : t.host = { s.host with tenants := t.host.tenants } ∧ (coreTenant s c = 0 → t.host = s.host)
  rest : t = { s with cores := t.cores, host := t.host, mem := t.mem }

/-- A load of 1, 2, 4 or 8 bytes that reaches memory of this package writes them, zero-extended, to s[d] and leaves memory as it
was; a store writes the low bytes of s[d] there and to no other byte. Either waits while a stopped link reference holds its way. -/
def Obligations.LocalLoadsAndStores : Prop :=
  ∀ (s : State) (c : CoreId) (w : U32) (o : Nat), issues s c.toNat w = true →
    let n := 2 ^ wFnI w
    let a := lsAddr s c.toNat w
    let key := memKey (splitAddr s a).2.1 o
    (spell w = .load n → Reaches s c.toNat a n rightRead (loadAgent s c.toNat) o →
      (WayOpen s c.toNat a n o → Runs (.load c w) s (fun t => Accessed s t c.toNat ∧ t.mem = s.mem ∧
        (wD w ≠ 0 → sreg t c.toNat (wD w) = BitVec.ofNat 64 (leNat (cellRead s.mem.cells key n))) ∧
        sreg t c.toNat 0 = 0 ∧ ∀ r, r ≠ wD w → sreg t c.toNat r = sreg s c.toNat r)) ∧
      (placeWay s c.toNat (ownPkg s) (splitAddr s a).2.1 o n = .held → exec (.load c w) s = .next s)) ∧
    (spell w = .store n → Reaches s c.toNat a n rightWrite .engine o →
      (WayOpen s c.toNat a n o → NoRelease s key n →
        Runs (.store c w) s (fun t => Accessed s t c.toNat ∧ (∀ r, sreg t c.toNat r = sreg s c.toNat r) ∧
          cellRead t.mem.cells key n = leBytes n (sreg s c.toNat (wD w)).toNat ∧ OtherBytes s t key n)) ∧
      (placeWay s c.toNat (ownPkg s) (splitAddr s a).2.1 o n = .held → exec (.store c w) s = .next s))

/-- A load or store that leaves the package over an open way sends one request on VC2 and the core waits for its answer; one of the slot bytes of
a window of this package reads or writes them; one to a space that has no memory raises the address fault. -/
def Obligations.OtherLoadsAndStores : Prop :=
  ∀ (s : State) (c : CoreId) (w : U32), issues s c.toNat w = true →
    let n := 2 ^ wFnI w
    let a := lsAddr s c.toNat w
    let p := splitAddr s a
    let ten := coreTenant s c.toNat
    let l := leBytes n (sreg s c.toNat (wD w)).toNat
    let away (o op : Nat) (body : List Byte) (k : RemoteKind) (t : State) : Prop :=
      t.net.xbar = s.net.xbar ++ [{ packet :=
        { vc := 2, response := false, dst := p.1, src := ownPkg s, hops := 0, op := op, wantsAnswer := true, tenant := ten,
          tag := s.net.nextTag, arg := p.1 * 2 ^ 51 + memKey p.2.1 o, body := body }, fromLink := none }] ∧
      tfind t.net.out s.net.nextTag = some (.core c k) ∧ (coreOf t c.toNat).waiting = [s.net.nextTag] ∧
      (coreOf t c.toNat).pc = (coreOf s c.toNat).pc ∧ (coreOf t c.toNat).regs = (coreOf s c.toNat).regs ∧
      t = { s with cores := t.cores, host := t.host, net := t.net }
    (∀ o, p.1 ≠ ownPkg s → p.2.1 < 3 → a % 2 ^ 21 + n ≤ 2 ^ 21 → o < 2 ^ 47 → wayOut s c.toNat = .open' →
      tenantResetting s ten = false →
      (spell w = .load n → translateAt s ten p.1 p.2.1 p.2.2 rightRead = .ok o →
        Runs (.load c w) s (away o 0x20 (leBytes 4 n) (.load (wD w) 8 a))) ∧
      (spell w = .store n → translateAt s ten p.1 p.2.1 p.2.2 rightWrite = .ok o →
        Runs (.store c w) s (away o 0x21 l (.store a)))) ∧
    (p.1 = ownPkg s → p.2.1 = 4 → p.2.2 + n ≤ 2 ^ 24 → 0x1000 ≤ p.2.2 % 2 ^ 16 → p.2.2 % 2 ^ 16 + n ≤ 2 ^ 16 →
      (ten = 0 ∨ groupTenant s (p.2.2 / 2 ^ 16) = ten) →
      (spell w = .load n → Runs (.load c w) s (fun t =>
        WritesReg { s with freeCount := s.freeCount + 1 } t c.toNat (wD w)
          (BitVec.ofNat 64 (leNat (cellRead (winOf s (256 + p.2.2 / 2 ^ 16)).bytes (p.2.2 % 2 ^ 16) n))))) ∧
      (spell w = .store n → Runs (.store c w) s (fun t =>
        cellRead (winOf t (256 + p.2.2 / 2 ^ 16)).bytes (p.2.2 % 2 ^ 16) n = l ∧
        (∀ v, v ≠ 256 + p.2.2 / 2 ^ 16 → winOf t v = winOf s v) ∧
        coreOf t c.toNat = { coreOf s c.toNat with pc := (coreOf s c.toNat).pc + 4 } ∧
        t = { s with cores := t.cores, host := t.host }))) ∧
    (∀ g, runningGroup s c.toNat = some g → p.2.1 = 3 ∨ 4 < p.2.1 →
      (spell w = .load n → Runs (.load c w) s (fun t => FaultTaken s t c.toNat g 0x0201 p.2.1)) ∧
      (spell w = .store n → Runs (.store c w) s (fun t => FaultTaken s t c.toNat g 0x0201 p.2.1)))

/-- The value an atomic leaves, by the function of the table Atomic operations. -/
def Sys2Proof.Claims.atomicNew {n : Nat} (f : Nat) (old b d : BitVec n) : BitVec n :=
  match f with
  | 0x0 => old
  | 0x1 => b
  | 0x2 => if old = b then d else old
  | 0x3 => old + b
  | 0x4 => old &&& b
  | 0x5 => old ||| b
  | 0x6 => old ^^^ b
  | 0x7 => if b.slt old then b else old
  | 0x8 => if old.slt b then b else old
  | 0x9 => if b.ult old then b else old
  | _ => if old.ult b then b else old

/-- An atomic of width n left `new` in the n bytes at a key and returned `old`, zero-extended, in s[d]. -/
def Sys2Proof.Claims.AtomicDone (s t : State) (c : Nat) (w : U32) (key n old new : Nat) : Prop :=
  Accessed s t c ∧ cellRead t.mem.cells key n = leBytes n new ∧ OtherBytes s t key n ∧
    (wD w ≠ 0 → sreg t c (wD w) = BitVec.ofNat 64 old) ∧ sreg t c 0 = 0 ∧ ∀ r, r ≠ wD w → sreg t c r = sreg s c r

/-- Every atomic, in either width: the word is read, changed and written at its home in one access, and the old value goes to
s[d]; a misaligned one raises the alignment fault. An atomic FP32 add leaves the rounded sum. LEASE_TAKE of a free word where the
home's list has room: the word is held under the taker's core, package, group and tenant and joins the list; of a held word:
nothing but s[d] changes; where the list is full: s[d] is all ones. LEASE_RELEASE by the named holder zeroes the word, and by
anyone else changes nothing but s[d]. -/
def Obligations.AtomicsAndLeases : Prop :=
  (∀ (s : State) (c : CoreId) (w : U32) (o : Nat), issues s c.toNat w = true →
    let a := (sreg s c.toNat (wA w)).toNat
    let key := memKey (splitAddr s a).2.1 o
    let ready (n : Nat) : Prop :=
      a % n = 0 ∧ Reaches s c.toNat a n rightAtomic .engine o ∧ WayOpen s c.toNat a n o ∧ NoRelease s key n
    let old4 : BitVec 32 := BitVec.ofNat 32 (leNat (cellRead s.mem.cells key 4))
    let old8 : BitVec 64 := BitVec.ofNat 64 (leNat (cellRead s.mem.cells key 8))
    let does (f : Nat) (i : Instr) : Prop :=
      (spell w = .atomic f 4 → ready 4 → Runs i s (fun t => AtomicDone s t c.toNat w key 4 old4.toNat
        (atomicNew f old4 ((sreg s c.toNat (wB w)).setWidth 32) ((sreg s c.toNat (wD w)).setWidth 32)).toNat)) ∧
      (spell w = .atomic f 8 → ready 8 → Runs i s (fun t => AtomicDone s t c.toNat w key 8 old8.toNat
        (atomicNew f old8 (sreg s c.toNat (wB w)) (sreg s c.toNat (wD w))).toNat)) ∧
      (∀ g n, runningGroup s c.toNat = some g → spell w = .atomic f n → a % n ≠ 0 →
        Runs i s (fun t => FaultTaken s t c.toNat g 0x0202 n))
    does 0x0 (.atomicRead c w) ∧ does 0x1 (.atomicSwap c w) ∧ does 0x2 (.compareAndSwap c w) ∧ does 0x3 (.atomicAdd c w) ∧
    does 0x4 (.atomicAnd c w) ∧ does 0x5 (.atomicOr c w) ∧ does 0x6 (.atomicExclusiveOr c w) ∧
    does 0x7 (.atomicSignedMinimum c w) ∧ does 0x8 (.atomicSignedMaximum c w) ∧ does 0x9 (.atomicUnsignedMinimum c w) ∧
    does 0xA (.atomicUnsignedMaximum c w) ∧
    (spell w = .atomic 0xB 4 → ready 4 → Runs (.atomicFp32Add c w) s (fun t => AtomicDone s t c.toNat w key 4 old4.toNat
      (fAdd old4 ((sreg s c.toNat (wB w)).setWidth 32)).toNat))) ∧
  (∀ (s : State) (c : CoreId) (w : U32) (o : Nat), issues s c.toNat w = true →
    let a := (sreg s c.toNat (wA w)).toNat
    let key := memKey (splitAddr s a).2.1 o
    let old := leNat (cellRead s.mem.cells key 8)
    let tag := c.toNat + ownPkg s * 2 ^ 10 + (groupOfCore s c.toNat).getD 0 * 2 ^ 23 + coreTenant s c.toNat * 2 ^ 31
    let room := key ∈ s.mem.leases ∨ leasesAt s (leaseHome s key).1 < (leaseHome s key).2
    a % 8 = 0 → Reaches s c.toNat a 8 rightAtomic .engine o → WayOpen s c.toNat a 8 o → NoRelease s key 8 → tag < 2 ^ 62 →
    (spell w = .atomic 0xC 8 → old < 2 ^ 63 → room → Runs (.leaseTake c w) s (fun t =>
      AtomicDone s t c.toNat w key 8 old (2 ^ 63 + old / 2 ^ 62 * 2 ^ 62 + tag) ∧ key ∈ t.mem.leases)) ∧
    (spell w = .atomic 0xC 8 → old < 2 ^ 63 → ¬room → Runs (.leaseTake c w) s (fun t =>
      AtomicDone s t c.toNat w key 8 (2 ^ 64 - 1) old ∧ t.mem = s.mem)) ∧
    (spell w = .atomic 0xC 8 → 2 ^ 63 ≤ old → Runs (.leaseTake c w) s (fun t =>
      AtomicDone s t c.toNat w key 8 old old ∧ t.mem = s.mem)) ∧
    (spell w = .atomic 0xD 8 → old % 2 ^ 43 = tag → Runs (.leaseRelease c w) s (fun t =>
      AtomicDone s t c.toNat w key 8 old 0)) ∧
    (spell w = .atomic 0xD 8 → old % 2 ^ 43 ≠ tag → Runs (.leaseRelease c w) s (fun t =>
      AtomicDone s t c.toNat w key 8 old old ∧ t.mem = s.mem)))

/-! ## The vector engine and random numbers -/

/-- Core c has the lanes v in vector register d and goes on past its instruction; its other vector registers, the rest of it and
all else stay. -/
structure Sys2Proof.Claims.WritesVreg (s t : State) (c d : Nat) (v : List F32) : Prop where
  written : vreg (coreOf t c) d = v
  others : ∀ r, r ≠ d → vreg (coreOf t c) r = vreg (coreOf s c) r
  core : coreOf t c = { coreOf s c with vregs := (coreOf t c).vregs, pc := (coreOf s c).pc + 4 }
  only : OnlyCore s t c

/-- The vector arithmetic, lane by lane over 64 lanes: sums, differences, products, fused multiply-add with one rounding, minimum,
maximum, compare and select, and the eight functions 0x10 to 0x17 of R224. The word of a compare and which values select are a
part's own (log entry 31). While a snapshot copy of the core runs, the instruction waits. -/
def Obligations.VectorArithmetic : Prop :=
  ∀ (s : State) (c : CoreId) (w : U32), issues s c.toNat w = true →
    let k := coreOf s c.toNat
    let a := vreg k (wA w)
    let b := vreg k (wB w)
    let e := vreg k (wC w)
    let gives (i : Instr) (v : List F32) : Prop :=
      (k.snapB = none → Runs i s (fun t => WritesVreg s t c.toNat (wD w) v)) ∧ (k.snapB ≠ none → exec i s = .next s)
    (spell w = .vectorArith →
      gives (.vectorAdd c w) (List.zipWith fAdd a b) ∧
      gives (.vectorSubtract c w) (List.zipWith fSub a b) ∧
      gives (.vectorMultiply c w) (List.zipWith fMul a b) ∧
      gives (.vectorFusedMultiplyAdd c w) (List.zipWith (fun x p => fFma x p.1 p.2) a (b.zip e)) ∧
      gives (.vectorMinimum c w) (List.zipWith fMin a b) ∧
      gives (.vectorMaximum c w) (List.zipWith fMax a b) ∧
      ∀ p, gives (.vectorCompare c w p) (List.zipWith (fun x y => Config.compareWord (fCompare p x y)) a b)) ∧
    (spell w = .vectorSelect →
      gives (.vectorSelect c w) (List.zipWith (fun z p => if Config.selects z then p.1 else p.2) e (a.zip b))) ∧
    (spell w = .vectorFn 0x10 → gives (.vectorExp2 c w) (a.map fExp2)) ∧
    (spell w = .vectorFn 0x11 → gives (.vectorLog2 c w) (a.map fLog2)) ∧
    (spell w = .vectorFn 0x12 → gives (.vectorReciprocal c w) (a.map fRecip)) ∧
    (spell w = .vectorFn 0x13 → gives (.vectorReciprocalSquareRoot c w) (a.map fRsqrt)) ∧
    (spell w = .vectorFn 0x14 → gives (.vectorSquareRoot c w) (a.map fSqrt)) ∧
    (spell w = .vectorFn 0x15 → gives (.vectorExp c w) (a.map fExp)) ∧
    (spell w = .vectorFn 0x16 → gives (.vectorSigmoid c w) (a.map fSigmoid)) ∧
    (spell w = .vectorFn 0x17 → gives (.vectorTanh c w) (a.map fTanh))

/-- FP32 results are NaN as 0x7FC00000; minimum and maximum of a NaN are NaN, −0 is below +0 in them; a comparison with a NaN
holds for `unordered` and not equal alone, and −0 equals +0. LANE_SUM puts the pairwise-tree sum of the 64 lanes of v[a] into lane
0 of v[d], LANE_MAXIMUM their maximum; lanes 1 to 63 of v[d] stay. -/
def Obligations.FloatCornersAndReductions : Prop :=
  ((∀ x : F32, isNan x = true → ∀ y, fAdd x y = 0x7FC00000 ∧ fAdd y x = 0x7FC00000 ∧ fMul x y = 0x7FC00000 ∧
    fMin x y = 0x7FC00000 ∧ fMin y x = 0x7FC00000 ∧ fMax x y = 0x7FC00000 ∧ fMax y x = 0x7FC00000) ∧
  (∀ x y : F32, isNan x = true ∨ isNan y = true → ∀ p, fCompare p x y = true ↔ p = .unordered ∨ p = .ne) ∧
  fMin 0x80000000 0 = 0x80000000 ∧ fMin 0 0x80000000 = 0x80000000 ∧ fMax 0x80000000 0 = 0 ∧ fMax 0 0x80000000 = 0 ∧
  fCompare .eq 0 0x80000000 = true ∧ fCompare .lt 0x80000000 0 = false ∧
  (∀ x y : F32, fAdd x y = fAdd y x)) ∧
  (∀ (s : State) (c : CoreId) (w : U32), issues s c.toNat w = true → (coreOf s c.toNat).snapB = none →
    let a := vreg (coreOf s c.toNat) (wA w)
    let d := vreg (coreOf s c.toNat) (wD w)
    (spell w = .vectorReduce 0x20 → Runs (.laneSum c w) s (fun t =>
      WritesVreg s t c.toNat (wD w) (pairTree a :: d.drop 1))) ∧
    (spell w = .vectorReduce 0x21 → Runs (.laneMaximum c w) s (fun t =>
      WritesVreg s t c.toNat (wD w) (rowMax a :: d.drop 1))))

/-- A range of a core's scratchpad is there and free of errors. -/
def Sys2Proof.Claims.ScratchClean (s : State) (c off n : Nat) : Prop := off + n ≤ 2 ^ 21 ∧ badIn s (scratchKey c off) n = []

/-- A vector load widens 64 elements of scratchpad or takes four accumulator lines; a vector store rounds 64 lanes into
scratchpad bytes, touching no other byte, or fills four accumulator lines, which then count as written since the last copies; a
stochastic store with 31 in field b is illegal. Loads and stores in MXFP4 leave free values (log entry 32). -/
def Obligations.VectorMemory : Prop :=
  ∀ (s : State) (c : CoreId) (w : U32) (fn : Nat), issues s c.toNat w = true → spell w = .vectorLoadStore fn →
    let k := coreOf s c.toNat
    let n := (sreg s c.toNat (wA w)).toNat
    let key := scratchKey c.toNat n
    let rounding (i : Nat) : Rounding :=
      let pos := (sreg s c.toNat (wB w + 1)).toNat
      roundingAt (latchedOf s c.toNat) (wC w / 16 % 2 == 1) (sreg s c.toNat (wB w)).toNat 0x10 (pos / 2 ^ 32)
        ((pos % 2 ^ 32 + i) % 2 ^ 32)
    k.snapB = none →
    (fn % 16 < 8 → ∀ f, wC w % 8 < 6 → fmtOf (wC w % 8) = some f → ScratchClean s c.toNat n (f.bytes 64) →
      (f ≠ .mxfp4 → Runs (.vectorLoad c w) s (fun t => WritesVreg s t c.toNat (wD w)
        ((List.range 64).map (fun i => f.widen (f.elem (cellRead s.mem.cells key (f.bytes 64)) i))))) ∧
      (f ≠ .mxfp4 → wC w / 16 % 2 = 0 ∨ wB w ≠ 31 → Runs (.vectorStore c w) s (fun t =>
        cellRead t.mem.cells key (f.pack ((List.range 64).map (fun i =>
          f.narrow (rounding i) ((vreg k (wD w)).getD i 0)))).length =
          f.pack ((List.range 64).map (fun i => f.narrow (rounding i) ((vreg k (wD w)).getD i 0))) ∧
        OtherBytes s t key (f.bytes 64) ∧ coreOf t c.toNat = { k with pc := k.pc + 4 } ∧
        OnlyCore { s with mem := t.mem } t c.toNat)) ∧
      (f = .mxfp4 → Runs (.vectorLoad c w) s (fun t => ∃ v, v.length = 64 ∧
        WritesVreg { s with freeCount := s.freeCount + 64 } t c.toNat (wD w) v)) ∧
      (f = .mxfp4 → wC w / 16 % 2 = 0 ∨ wB w ≠ 31 → Runs (.vectorStore c w) s (fun t =>
        OtherBytes s t key 32 ∧ coreOf t c.toNat = { k with pc := k.pc + 4 } ∧
        OnlyCore { s with mem := t.mem, freeCount := s.freeCount + 32 } t c.toNat))) ∧
    (8 ≤ fn % 16 → n + 4 ≤ 1024 →
      Runs (.vectorLoad c w) s (fun t => WritesVreg s t c.toNat (wD w)
        (accLine k n ++ accLine k (n + 1) ++ accLine k (n + 2) ++ accLine k (n + 3))) ∧
      (wC w / 16 % 2 = 0 ∨ wB w ≠ 31 → Runs (.vectorStore c w) s (fun t =>
        (∀ i, i < 4 → accLine (coreOf t c.toNat) (n + i) = ((vreg k (wD w)).drop (16 * i)).take 16 ∧
          n + i ∈ (coreOf t c.toNat).dirtyA ∧ n + i ∈ (coreOf t c.toNat).dirtyB) ∧
        (∀ j, j < n ∨ n + 4 ≤ j → accLine (coreOf t c.toNat) j = accLine k j) ∧
        coreOf t c.toNat = { k with
          acc := (coreOf t c.toNat).acc, dirtyA := (coreOf t c.toNat).dirtyA, dirtyB := (coreOf t c.toNat).dirtyB
          pc := k.pc + 4 } ∧ OnlyCore s t c.toNat))) ∧
    (∀ g, runningGroup s c.toNat = some g → wC w / 16 % 2 = 1 → wB w = 31 →
      Runs (.vectorStore c w) s (fun t => FaultTaken s t c.toNat g 0x0101 (w.toNat / 65536)))

/-- V.SOFTMAX: each row of FP32 values at the descriptor's start becomes its softmax at the descriptor's output, where the two
ranges lie apart; no byte outside the output changes. The descriptor's layout is the model's (log entry 33). RNG.GEN writes bits
[63:0] of the XCG-10 output of stream s[a], position s[b] and the purpose of the word to s[d] and bits [127:64] to s[d + 1]; d of
0 or 31 is illegal. RNG.VFILL fills v[d] with the 64 words of 16 positions from s[b] on. A parity error in the random-number unit
raises the internal check, which fences the core. -/
def Obligations.SoftmaxAndRandom : Prop :=
  (∀ (s : State) (c : CoreId) (w : U32), issues s c.toNat w = true → spell w = .softmax →
    let a := (sreg s c.toNat (wA w)).toNat
    let l := cellRead s.mem.cells (scratchKey c.toNat a) 16
    let start := fieldAt l 0 4
    let len := fieldAt l 4 4
    let rows := fieldAt l 8 4
    let out := fieldAt l 12 4
    let row (m : List Host.Cell) (off : Nat) : List Byte := cellRead m (scratchKey c.toNat off) (4 * len)
    let values (m : List Host.Cell) (off : Nat) : List F32 :=
      (List.range len).map (fun i => Fmt.fp32.widen (Fmt.fp32.elem (row m off) i))
    ScratchClean s c.toNat a 16 → ScratchClean s c.toNat start (4 * len * rows) → ScratchClean s c.toNat out (4 * len * rows) →
    start + 4 * len * rows ≤ out ∨ out + 4 * len * rows ≤ start →
      Runs (.vSoftmax c w) s (fun t =>
        (∀ r, r < rows → row t.mem.cells (out + 4 * len * r) =
          Fmt.fp32.pack ((softmaxRow (values s.mem.cells (start + 4 * len * r))).map (fun x => x.toNat))) ∧
        OtherBytes s t (scratchKey c.toNat out) (4 * len * rows) ∧
        coreOf t c.toNat = { coreOf s c.toNat with pc := (coreOf s c.toNat).pc + 4 } ∧
        OnlyCore { s with mem := t.mem } t c.toNat)) ∧
  (∀ (s : State) (c : CoreId) (w : U32), issues s c.toNat w = true →
    let seed := (latchedOf s c.toNat).seed.toNat
    let stream := (sreg s c.toNat (wA w)).toNat
    let pos := sreg s c.toNat (wB w)
    let words (p : BitVec 64) : List U32 :=
      let x := xcg10 seed stream p.toNat (wFnA w / 16)
      [x.1, x.2.1, x.2.2.1, x.2.2.2]
    (spell w = .rngGen → wD w ≠ 0 → wD w ≠ 31 → Runs (.rngGen c ⟨w, false⟩) s (fun t =>
      sreg t c.toNat (wD w) = BitVec.ofNat 64 ((words pos).getD 0 0).toNat + BitVec.ofNat 64 ((words pos).getD 1 0).toNat <<< 32 ∧
      sreg t c.toNat (wD w + 1) =
        BitVec.ofNat 64 ((words pos).getD 2 0).toNat + BitVec.ofNat 64 ((words pos).getD 3 0).toNat <<< 32 ∧
      (∀ r, r ≠ wD w → r ≠ wD w + 1 → sreg t c.toNat r = sreg s c.toNat r) ∧
      coreOf t c.toNat = { coreOf s c.toNat with regs := (coreOf t c.toNat).regs, pc := (coreOf s c.toNat).pc + 4 } ∧
      OnlyCore s t c.toNat)) ∧
    (∀ g, runningGroup s c.toNat = some g → spell w = .rngGen → wD w = 0 ∨ wD w = 31 →
      Runs (.rngGen c ⟨w, false⟩) s (fun t => FaultTaken s t c.toNat g 0x0101 (w.toNat / 65536))) ∧
    (spell w = .rngVfill → (coreOf s c.toNat).snapB = none → Runs (.rngVfill c ⟨w, false⟩) s (fun t =>
      WritesVreg s t c.toNat (wD w) ((List.range 16).flatMap (fun i => words (pos + BitVec.ofNat 64 i))))) ∧
    (∀ g, runningGroup s c.toNat = some g →
      (spell w = .rngGen → Runs (.rngGen c ⟨w, true⟩) s (fun t => CoreFault s t c.toNat g 0x0801)) ∧
      (spell w = .rngVfill → Runs (.rngVfill c ⟨w, true⟩) s (fun t => CoreFault s t c.toNat g 0x0801))))

/-! ## Messages -/

/-- A message descriptor of n bytes at s[a] names mailbox mb of core dst of package pkg: it lies in the scratchpad, free of
errors, its mailbox is 0 to 15 and its address a scratchpad's. -/
structure Sys2Proof.Claims.Describes (s : State) (c : Nat) (w : U32) (n pkg dst mb : Nat) : Prop where
  clean : ScratchClean s c (sreg s c (wD w)).toNat n
  address : splitAddr s (fieldAt (cellRead s.mem.cells (scratchKey c (sreg s c (wD w)).toNat) n) 0 8) =
    (pkg, 0, (splitAddr s (fieldAt (cellRead s.mem.cells (scratchKey c (sreg s c (wD w)).toNat) n) 0 8)).2.2)
  core : dst = (splitAddr s (fieldAt (cellRead s.mem.cells (scratchKey c (sreg s c (wD w)).toNat) n) 0 8)).2.2 / 2 ^ 21 % 1024
  mailbox : mb = fieldAt (cellRead s.mem.cells (scratchKey c (sreg s c (wD w)).toNat) n) 8 1 ∧ mb < 16

/-- The status register s[b] of core c reads st, its other registers stay and its pc moves on. -/
def Sys2Proof.Claims.Status (s t : State) (c : Nat) (w : U32) (st : Nat) : Prop :=
  (wA w ≠ 0 → sreg t c (wA w) = BitVec.ofNat 64 st) ∧ (∀ r, r ≠ wA w → sreg t c r = sreg s c r) ∧
    (coreOf t c).pc = (coreOf s c).pc + 4

/-- Only the cores c and e change, and nothing but cores. -/
def Sys2Proof.Claims.OnlyCores (s t : State) (c e : Nat) : Prop :=
  t = { s with cores := t.cores } ∧ ∀ k, k ≠ c → k ≠ e → coreOf t k = coreOf s k

/-- MSG.RSV over an open way to a core of this package answers, in this order: 6 with 16 reservations held; 4, 2 or 3 where the destination is
fenced, off, or of another tenant; 1 where the mailbox is full or closed; else 0, and one slot is reserved for the sender, who
holds one more reservation. MSG.UNRSV of a held one returns it, and of none only goes on. To another package either sends a request and waits. -/
def Obligations.MessageReservations : Prop :=
  ∀ (s : State) (c : CoreId) (w : U32) (pkg dst mb : Nat), issues s c.toNat w = true →
    Describes s c.toNat w 9 pkg dst mb →
    let ten := coreTenant s c.toNat
    let held := (coreOf s c.toNat).resv
    let me := (BitVec.ofNat 13 (ownPkg s), c, (groupOfCore s c.toNat).map (BitVec.ofNat 8), BitVec.ofNat 12 ten)
    let asks (op : Nat) (k : RemoteKind) (t : State) : Prop :=
      t.net.xbar = s.net.xbar ++ [{ packet :=
        { vc := 1, response := false, dst := pkg, src := ownPkg s, hops := 0, op := op, wantsAnswer := true, tenant := ten,
          tag := s.net.nextTag, arg := pkg * 2 ^ 51 + dst * 2 ^ 21
          body := leBytes 4 mb ++ leBytes 4 (2 ^ 28 + ownPkg s * 2 ^ 10 + c.toNat) }, fromLink := none }] ∧
      tfind t.net.out s.net.nextTag = some (.core c k) ∧ (coreOf t c.toNat).waiting = [s.net.nextTag] ∧
      (coreOf t c.toNat).pc = (coreOf s c.toNat).pc ∧ t = { s with cores := t.cores, net := t.net }
    messageWay s c.toNat pkg dst = .open' →
    (spell w = .message 1 → pkg = ownPkg s →
      let st := if 16 ≤ held.length then 6 else if destStatus s dst ten ≠ 0 then destStatus s dst ten
        else if (coreOf s dst).closed ∨ 8 ≤ (boxOf s dst mb).used then 1 else 0
      Runs (.msgRsv c w) s (fun t => Status s t c.toNat w st ∧ OnlyCores s t c.toNat dst ∧
        (st ≠ 0 → ∀ e m, boxOf t e m = boxOf s e m) ∧ (st ≠ 0 → (coreOf t c.toNat).resv = held) ∧
        (st = 0 → boxOf t dst mb = { boxOf s dst mb with reserved := (boxOf s dst mb).reserved ++ [me] } ∧
          (∀ e m, (e, m) ≠ (dst, mb) → boxOf t e m = boxOf s e m) ∧
          (coreOf t c.toNat).resv = held ++
            [{ pkg := BitVec.ofNat 13 pkg, core := BitVec.ofNat 10 dst, mailbox := BitVec.ofNat 4 mb }]))) ∧
    (spell w = .message 1 → pkg ≠ ownPkg s → tenantResetting s ten = false → held.length < 16 →
      Runs (.msgRsv c w) s (asks 0x12 (.reserve (wA w) pkg dst mb))) ∧
    (∀ r, spell w = .message 5 → pkg = ownPkg s → heldResv s c.toNat pkg dst mb = some r → Runs (.msgUnrsv c w) s (fun t =>
      (coreOf t c.toNat).resv = held.erase r ∧ (coreOf t c.toNat).pc = (coreOf s c.toNat).pc + 4 ∧
      (∀ q, sreg t c.toNat q = sreg s c.toNat q) ∧
      (∀ x, findSlot s dst mb pkg c.toNat = some x →
        boxOf t dst mb = { boxOf s dst mb with reserved := (boxOf s dst mb).reserved.erase x }) ∧
      (∀ e m, (e, m) ≠ (dst, mb) → boxOf t e m = boxOf s e m) ∧ OnlyCores s t c.toNat dst)) ∧
    (∀ r, spell w = .message 5 → pkg ≠ ownPkg s → tenantResetting s ten = false → heldResv s c.toNat pkg dst mb = some r →
      Runs (.msgUnrsv c w) s (fun t => asks 0x13 .unreserve t ∧ (coreOf t c.toNat).resv = held.erase r)) ∧
    (spell w = .message 5 → heldResv s c.toNat pkg dst mb = none → Runs (.msgUnrsv c w) s (fun t =>
      GoesTo s t c.toNat ((coreOf s c.toNat).pc + 4)))

/-- MSG.SEND on a held reservation within the package moves the payload into the sender's reserved slot, whole, with the next
sequence, and answers 0; without a reservation it answers 5 and changes nothing else; while the core still owes writes to the
receiver's scratchpad it waits. MESSAGE_ARRIVAL takes the first placed message of a sender that none of its placed ones comes before;
one from another package only at its turn. MSG.RECV and MSG.POLL copy the oldest arrived message, header first, to s[a] and free its
slot; with none there RECV waits and POLL answers 1. -/
def Obligations.MessageTransfers : Prop :=
  ∀ (s : State) (c : CoreId) (w : U32),
    (∀ dst mb, issues s c.toNat w = true → spell w = .message 2 → Describes s c.toNat w 32 (ownPkg s) dst mb →
      let l := cellRead s.mem.cells (scratchKey c.toNat (sreg s c.toNat (wD w)).toNat) 32
      let len := fieldAt l 0xC 2
      let off := fieldAt l 0x10 4
      let key := senderKey (ownPkg s) c.toNat mb
      let seq := tget (coreOf s dst).sendSeq key 0
      let m : Msg := { pkg := BitVec.ofNat 13 (ownPkg s), core := c, tenant := BitVec.ofNat 12 (coreTenant s c.toNat)
                       userTag := BitVec.ofNat 16 (fieldAt l 0xA 2), crossed := false, seq := seq
                       num := seq - tget (coreOf s dst).seqBase key 0, payload := cellRead s.mem.cells (scratchKey c.toNat off) len }
      len ≤ 4096 → ScratchClean s c.toNat off len →
      (heldResv s c.toNat (ownPkg s) dst mb = none → Runs (.msgSend c w) s (fun t => WritesReg s t c.toNat (wA w) 5)) ∧
      (∀ r, heldResv s c.toNat (ownPkg s) dst mb = some r → owesWrites s c.toNat (ownPkg s) dst = true →
        exec (.msgSend c w) s = .next s) ∧
      (∀ r x, ownPkg s < 2 ^ 13 → heldResv s c.toNat (ownPkg s) dst mb = some r → destStatus s dst m.tenant.toNat = 0 →
        findSlot s dst mb (ownPkg s) c.toNat = some x → owesWrites s c.toNat (ownPkg s) dst = false →
        wayAcross s c.toNat dst = .open' →
        Runs (.msgSend c w) s (fun t => Status s t c.toNat w 0 ∧ OnlyCores s t c.toNat dst ∧
          boxOf t dst mb = { boxOf s dst mb with
            reserved := (boxOf s dst mb).reserved.erase x, placed := (boxOf s dst mb).placed ++ [m] } ∧
          (∀ e b, (e, b) ≠ (dst, mb) → boxOf t e b = boxOf s e b) ∧
          (coreOf t c.toNat).resv = (coreOf s c.toNat).resv.erase r ∧
          tget (coreOf t dst).sendSeq key 0 = seq + 1))) ∧
    (∀ (m : Msg) (rest : List Msg), issues s c.toNat w = true → (boxOf s c.toNat (wTag w % 16)).arrived = m :: rest →
      let bytes := msgHeader m (wTag w % 16) ++ m.payload
      let off := (sreg s c.toNat (wD w)).toNat
      ScratchClean s c.toNat off bytes.length →
      let takes (i : Instr) : Prop := Runs i s (fun t =>
        Status s t c.toNat w 0 ∧ cellRead t.mem.cells (scratchKey c.toNat off) bytes.length = bytes ∧
        OtherBytes s t (scratchKey c.toNat off) bytes.length ∧
        boxOf t c.toNat (wTag w % 16) = { boxOf s c.toNat (wTag w % 16) with arrived := rest } ∧
        (∀ b, b ≠ wTag w % 16 → boxOf t c.toNat b = boxOf s c.toNat b) ∧ OnlyCore { s with mem := t.mem } t c.toNat)
      (spell w = .message 3 → takes (.msgRecv c w)) ∧ (spell w = .message 4 → takes (.msgPoll c w))) ∧
    (issues s c.toNat w = true → (boxOf s c.toNat (wTag w % 16)).arrived = [] →
      (spell w = .message 3 → exec (.msgRecv c w) s = .next s) ∧
      (spell w = .message 4 → Runs (.msgPoll c w) s (fun t => WritesReg s t c.toNat (wA w) 1))) ∧
    (∀ (mb : BitVec 4) (pkg : Pkg) (src : CoreId) (m : Msg),
      let key := senderKey pkg.toNat src.toNat mb.toNat
      let next := tget (coreOf s c.toNat).recvSeq key 0
      let same := (boxOf s c.toNat mb.toNat).placed.filter (fun x => x.pkg == pkg && x.core == src)
      same.find? (fun x => !same.any (fun y => seqBefore y.seq x.seq) && (pkg.toNat == ownPkg s || !seqBefore next x.seq)) = some m →
      Runs (.messageArrival c mb pkg src) s (fun t =>
        boxOf t c.toNat mb.toNat = { boxOf s c.toNat mb.toNat with
          placed := (boxOf s c.toNat mb.toNat).placed.erase m, arrived := (boxOf s c.toNat mb.toNat).arrived ++ [m] } ∧
        tget (coreOf t c.toNat).recvSeq key 0 = (if seqBefore next (m.seq + 1) then m.seq + 1 else next) ∧
        (∀ b, b ≠ mb.toNat → boxOf t c.toNat b = boxOf s c.toNat b) ∧ (coreOf t c.toNat).regs = (coreOf s c.toNat).regs ∧
        OnlyCore s t c.toNat))

/-! ## DMA -/

/-- DMA.GO with a copy or fill descriptor of one chunk (one row that lies in one granule of source and of destination, at most
4,096 bytes) within this package: the destination's bytes are the source's, or the pattern repeated; no other byte changes, the
command stands in the DMA queue under its tag, and the core goes on. A reserved operation is a descriptor fault at offset 0, too
many rows one at 4. A full queue or a tag still outstanding makes it wait. That the transfer happens at the issue where the ways are
open is the model's choice (log entry 25). DMA.WAIT goes on when no command of its tag is queued, else it waits; DMA_COMMAND_COMPLETE takes a command
whose answers have all come off the queue and writes status 0 into its descriptor, touching no other byte; it leaves one that still
awaits answers, and any while the core's domain is not on. -/
def Obligations.DmaTransfers : Prop :=
  (∀ (s : State) (c : CoreId) (w : U32), issues s c.toNat w = true → spell w = .dmaGo →
    let off := (sreg s c.toNat (wD w)).toNat
    let l := cellRead s.mem.cells (scratchKey c.toNat off) 64
    let src := fieldAt l 8 8
    let dst := fieldAt l 0x10 8
    let n := fieldAt l 0x18 4
    let free := (coreOf s c.toNat).dmaQ.length < 8 ∧ ∀ d ∈ (coreOf s c.toNat).dmaQ, d.tag.toNat ≠ wTag w
    (¬free → fieldAt l 0 1 = 1 → exec (.dmaCopy c w) s = .next s) ∧
    (¬free → fieldAt l 0 1 = 2 → exec (.dmaFill c w) s = .next s) ∧
    (free → ScratchClean s c.toNat off 64 → fieldAt l 4 4 = 1 → 0 < n → n ≤ 4096 →
      (fieldAt l 1 1) % 2 = 0 → fieldAt l 0x30 8 = 0 →
      ∀ o, Reaches s c.toNat dst n rightWrite .engine o → WayOpen s c.toNat dst n o →
      let key := memKey (splitAddr s dst).2.1 o
      NoRelease s key n →
      let done (bytes : List Byte) (t : State) : Prop :=
        cellRead t.mem.cells key n = bytes ∧ OtherBytes s t key n ∧
        (coreOf t c.toNat).dmaQ.map (fun d => d.tag) = (coreOf s c.toNat).dmaQ.map (fun d => d.tag) ++ [BitVec.ofNat 8 (wTag w)] ∧
        coreOf t c.toNat = { coreOf s c.toNat with
          dmaQ := (coreOf t c.toNat).dmaQ, tcache := (coreOf t c.toNat).tcache, pc := (coreOf s c.toNat).pc + 4 } ∧
        (∀ k, k ≠ c.toNat → coreOf t k = coreOf s k) ∧ t = { s with cores := t.cores, host := t.host, mem := t.mem }
      (fieldAt l 0 1 = 1 → ∀ o', Reaches s c.toNat src n rightRead .engine o' → WayOpen s c.toNat src n o' →
        (plainAddr s src + n ≤ plainAddr s dst ∨ plainAddr s dst + n ≤ plainAddr s src) →
        Runs (.dmaCopy c w) s (done (cellRead s.mem.cells (memKey (splitAddr s src).2.1 o') n))) ∧
      (fieldAt l 0 1 = 2 →
        Runs (.dmaFill c w) s (done ((List.range n).map (fun i => (slice l 0x28 8).getD (i % 8) 0))))) ∧
    (∀ g, runningGroup s c.toNat = some g → free → ScratchClean s c.toNat off 64 →
      (fieldAt l 0 1 ≠ 1 → fieldAt l 0 1 ≠ 2 →
        Runs (.dmaCopy c w) s (fun t => LastEvent t 0x3011 (srcGroup g) 0x0301 ∧ (groupOf t g).state = .fenced)) ∧
      (fieldAt l 0 1 = 1 → 2 ^ 20 < fieldAt l 4 4 →
        Runs (.dmaCopy c w) s (fun t => LastEvent t 0x3011 (srcGroup g) 0x0301 ∧ (groupOf t g).state = .fenced)))) ∧
  (∀ (s : State) (c : CoreId) (w : U32) (tag : Byte),
    (issues s c.toNat w = true → spell w = .dmaWait →
      ((∀ d ∈ (coreOf s c.toNat).dmaQ, d.tag.toNat ≠ wTag w) →
        Runs (.dmaWait c w) s (fun t => GoesTo s t c.toNat ((coreOf s c.toNat).pc + 4))) ∧
      ((∃ d ∈ (coreOf s c.toNat).dmaQ, d.tag.toNat = wTag w) → exec (.dmaWait c w) s = .next s)) ∧
    (∀ d, coreOn s c.toNat = true → (coreOf s c.toNat).dmaQ.find? (fun d => d.tag == tag) = some d → d.came = [] →
      d.total ≤ d.next →
      (d.pend = [] → badIn s (scratchKey c.toNat (d.off + 0x38)) 4 = [] → Runs (.dmaCommandComplete c tag) s (fun t =>
        coreOf t c.toNat = { coreOf s c.toNat with dmaQ := (coreOf s c.toNat).dmaQ.filter (fun x => x.tag != tag) } ∧
        cellRead t.mem.cells (scratchKey c.toNat (d.off + 0x38)) 4 = [0, 0, 0, 0] ∧
        OtherBytes s t (scratchKey c.toNat (d.off + 0x38)) 4 ∧ OnlyCore { s with mem := t.mem } t c.toNat)) ∧
      (d.pend ≠ [] → exec (.dmaCommandComplete c tag) s = .next s)) ∧
    (coreOn s c.toNat = false → exec (.dmaCommandComplete c tag) s = .next s))

/-! ## The array queue -/

/-- ARR.GO can queue a command now: fewer than four are queued, none under its tag, and its descriptor of n bytes is there. -/
structure Sys2Proof.Claims.CanQueue (s : State) (c : Nat) (w : U32) (n : Nat) : Prop where
  room : (coreOf s c).arrQ.length < 4
  tag : ∀ a ∈ (coreOf s c).arrQ, a.tag.toNat ≠ wTag w
  clean : ScratchClean s c (sreg s c (wD w)).toNat n

/-- The descriptor of n bytes that an ARR.GO names. -/
def Sys2Proof.Claims.descOf (s : State) (c : Nat) (w : U32) (n : Nat) : List Byte :=
  cellRead s.mem.cells (scratchKey c (sreg s c (wD w)).toNat) n

/-- Element k of row r of n elements of a format in the scratchpad: rows from an address at a stride. -/
def Sys2Proof.Claims.rowElem (s : State) (c : Nat) (f : Fmt) (addr stride r n k : Nat) : Nat :=
  f.elem (cellRead s.mem.cells (scratchKey c (addr + r * stride)) (f.bytes n)) k

/-- An attention command on one stream, one query row and one page: the stream's readers count one more, the output row is the
page's partial divided by its sum, rounded into the output format, the core goes on, and outside the output row and the staging
area no byte changes. The staging area is left with free bytes (log entry 39). -/
def Obligations.AttentionOnOnePage : Prop :=
  ∀ (s : State) (c : CoreId) (w : U32) (f : Fmt) (page : Nat × Nat) (ok ov : Nat), issues s c.toNat w = true →
    spell w = .arrGo →
    let l := descOf s c.toNat w 64
    let a := attnOf l
    let core := coreOf s c.toNat
    let i := fieldAt (cellRead s.mem.cells (scratchKey c.toNat a.list) 2) 0 2 % 16384
    let bases := cellRead s.mem.cells (scratchKey c.toNat a.bases) 128
    let ka := (fieldAt bases (8 * page.1) 8 + page.2 * a.pageStride + a.kOff) % 2 ^ 64
    let va := (fieldAt bases (8 * page.1) 8 + page.2 * a.pageStride + a.vOff) % 2 ^ 64
    let keyOf (x o : Nat) : Nat := memKey (splitAddr s x).2.1 o
    let elems (key : Nat) : List Nat :=
      (List.range a.d).map (fun j => f.elem (cellRead s.mem.cells key (f.bytes a.d)) j)
    let rows (x o : Nat) : List (List Nat) := (List.range 64).map (fun t => elems (keyOf x o + t * f.bytes a.d))
    let p := pagePartial f (a.flag 2) a.d a.scale ((elems (scratchKey c.toNat a.queries)).map f.decode) (rows ka ok)
      (rows va ov) ((List.range 64).map (fun t => decide (t < (trackerOf s i).tokens + 1) &&
        (!a.flag 0 || decide (t ≤ (trackerOf s i).tokens))))
    let out := a.outFmt f
    CanQueue s c.toNat w 64 → fieldAt l 0 1 = 2 → core.arrQ = [] → attnBad a = none → a.format = some f →
    a.s = 1 → a.q = 1 → a.g = 1 → a.flag 1 = false → a.flag 3 = false → a.flag 4 = false →
    a.firstPage = 0 → a.pageCount = 1 → (trackerOf s i).pages = [page] → (trackerOf s i).tokens < 64 →
    (trackerOf s i).state = .running → (trackerOf s i).tenant.toNat = coreTenant s c.toNat →
    s.mem.bad = [] → Reaches s c.toNat ka (64 * f.bytes a.d) rightRead .engine ok →
    Reaches s c.toNat va (64 * f.bytes a.d) rightRead .engine ov →
    WayOpen s c.toNat ka (64 * f.bytes a.d) ok → WayOpen s c.toNat va (64 * f.bytes a.d) ov →
    Runs (.attention c w) s (fun t =>
      (trackerOf t i) = { trackerOf s i with readers := (trackerOf s i).readers + 1 } ∧
      (∀ j, j ≠ i → trackerOf t j = trackerOf s j) ∧
      cellRead t.mem.cells (scratchKey c.toNat a.output) (out.bytes a.d) =
        out.pack (p.2.2.map (fun x => if p.2.1 = 0 then 0 else out.narrow .even (fMul x (fRecip p.2.1)))) ∧
      (∀ k, (k < scratchKey c.toNat a.output ∨ scratchKey c.toNat a.output + out.bytes a.d ≤ k) →
        (k < scratchKey c.toNat a.staging ∨ scratchKey c.toNat a.staging + 256 * f.bytes a.d ≤ k) →
        cellGet t.mem.cells k = cellGet s.mem.cells k) ∧
      (coreOf t c.toNat).arrQ.map (fun x => (x.tag, x.started, x.streams)) = [(BitVec.ofNat 8 (wTag w), true, [i])] ∧
      coreOf t c.toNat = { core with
        arrQ := (coreOf t c.toNat).arrQ, tcache := (coreOf t c.toNat).tcache, pc := core.pc + 4 } ∧
      (∀ k, k ≠ c.toNat → coreOf t k = coreOf s k))

/-- ARRAY_PRODUCT with a good descriptor, with or without a good stage chain that has no prologue, that finds the queue empty runs:
every output element of its lines is the sum of its terms (R190, R191, R194), from the line's value where the descriptor accumulates,
else from zero; no other accumulator line changes, and no byte of memory. While a line that it writes is still to be copied to a
snapshot it is queued and computes nothing yet, and so behind another command. A format that is none is a descriptor fault at offset 2.
ARR.WAIT goes on when no command of its tag is queued, else waits. ARRAY_COMMAND_COMPLETE takes a finished product off the queue, one
with a chain once its work is done and answered, here with no notify message to send, and its status goes to the chain's header;
ATTENTION_COMPLETE takes a finished attention, whose stream's readers fall. Neither does anything before, or while the core's domain
is not on. -/
def Obligations.ArrayProducts : Prop :=
  (∀ (s : State) (c : CoreId) (w : U32), issues s c.toNat w = true → spell w = .arrGo →
    let l := descOf s c.toNat w 64
    let d := productOf l
    let k := coreOf s c.toNat
    let off := (sreg s c.toNat (wD w)).toNat
    let good (ch : Option Chain) : Prop := productBad d none = none ∧ (d.chain = 0 → ch = none) ∧
      (d.chain ≠ 0 → ∃ h len, ch = some h ∧ readChain s c.toNat d.chain = (s, some (.ok (h, len))) ∧ h.prologue = [] ∧
        chainOk h d ((operandFmt d.actFmt).getD .bf16) len = true)
    CanQueue s c.toNat w 64 → fieldAt l 0 1 = 1 →
    (∀ a b ch, good ch → k.arrQ = [] → operandFmt d.actFmt = some a → operandFmt d.wFmt = some b →
      let blocks := if a = .mxfp4 then (d.k + 31) / 32 else 0
      let byte (x : Nat) : Nat := (cellGet s.mem.cells (scratchKey c.toNat x)).toNat
      (∀ m, m < d.m → badIn s (scratchKey c.toNat (d.actAddr + m * d.actStride)) (a.bytes d.k) = []) →
      (∀ j, j < d.k → badIn s (scratchKey c.toNat (d.wAddr + j * d.wStride)) (b.bytes d.n) = []) →
      (∀ m, m < d.m → badIn s (scratchKey c.toNat (d.actScale + m * d.actScaleStride)) blocks = []) →
      (∀ j, j < blocks → badIn s (scratchKey c.toNat (d.wScale + j * d.wScaleStride)) d.n = []) →
      (copyingLines s c.toNat d.line (d.m * linesPerRow d.n) = false → Runs (.arrayProduct c w) s (fun t =>
        (∀ m n, m < d.m → n < d.n →
          (accLine (coreOf t c.toNat) (lineOf d m n)).getD (n % 16) 0 =
            outputElem a (d.flags.testBit 1 || (latchedOf s c.toNat).canonical) (tileK (arrayMode s c.toNat d.mode) a)
              (if d.flags.testBit 0 then (accLine k (lineOf d m n)).getD (n % 16) 0 else 0)
              (terms a ((List.range d.k).map (fun j =>
                (a.decode (rowElem s c.toNat a d.actAddr d.actStride m d.k j),
                  b.decode (rowElem s c.toNat b d.wAddr d.wStride j d.n n))))
                ((List.range blocks).map (fun j =>
                  (byte (d.actScale + m * d.actScaleStride + j), byte (d.wScale + j * d.wScaleStride + n)))))) ∧
        (∀ j, j < d.line ∨ d.line + d.m * linesPerRow d.n ≤ j → accLine (coreOf t c.toNat) j = accLine k j) ∧
        (coreOf t c.toNat).arrQ =
          [{ newCmd (wTag w) off (.product d ch) with started := true, sends := sendCount s c.toNat d ch }] ∧
        coreOf t c.toNat = { k with
          arrQ := (coreOf t c.toNat).arrQ, acc := (coreOf t c.toNat).acc, dirtyA := (coreOf t c.toNat).dirtyA
          dirtyB := (coreOf t c.toNat).dirtyB, pc := k.pc + 4 } ∧ OnlyCore s t c.toNat)) ∧
      (copyingLines s c.toNat d.line (d.m * linesPerRow d.n) = true → Runs (.arrayProduct c w) s (fun t =>
        coreOf t c.toNat = { k with arrQ := [newCmd (wTag w) off (.product d ch)], pc := k.pc + 4 } ∧ OnlyCore s t c.toNat))) ∧
    (∀ h rest ch, good ch → k.arrQ = h :: rest → h.started = true → Runs (.arrayProduct c w) s (fun t =>
      coreOf t c.toNat = { k with arrQ := k.arrQ ++ [newCmd (wTag w) off (.product d ch)], pc := k.pc + 4 } ∧
      OnlyCore s t c.toNat)) ∧
    (∀ g, runningGroup s c.toNat = some g → d.chain = 0 → d.mode ≤ 2 → operandFmt d.actFmt = none →
      Runs (.arrayProduct c w) s (fun t => LastEvent t 0x3011 (srcGroup g) 0x0301 ∧ (groupOf t g).state = .fenced))) ∧
  (∀ (s : State) (c : CoreId) (w : U32),
    (issues s c.toNat w = true → spell w = .arrWait →
      ((∀ a ∈ (coreOf s c.toNat).arrQ, a.tag.toNat ≠ wTag w) →
        Runs (.arrWait c w) s (fun t => GoesTo s t c.toNat ((coreOf s c.toNat).pc + 4))) ∧
      ((∃ a ∈ (coreOf s c.toNat).arrQ, a.tag.toNat = wTag w) → exec (.arrWait c w) s = .next s)) ∧
    (∀ a, (coreOf s c.toNat).arrQ = [a] →
      (a.started = false ∨ coreOn s c.toNat = false →
        exec (.arrayCommandComplete c) s = .next s ∧ exec (.attentionComplete c) s = .next s) ∧
      (coreOn s c.toNat = true → a.started = true →
        (∀ d, a.kind = .product d none → Runs (.arrayCommandComplete c) s (fun t =>
          coreOf t c.toNat = { coreOf s c.toNat with arrQ := [] } ∧ OnlyCore s t c.toNat)) ∧
        (∀ d h, a.kind = .product d (some h) → chainDone a d h (arrayMode s c.toNat d.mode) = true →
          (∀ i ∈ sendStages h, sendNotifies (epilogueAt h i) = false) →
          badIn s (scratchKey c.toNat (d.chain + 0x18)) 4 = [] → Runs (.arrayCommandComplete c) s (fun t =>
            cellRead t.mem.cells (scratchKey c.toNat (d.chain + 0x18)) 4 = leBytes 4 a.status ∧
            OtherBytes s t (scratchKey c.toNat (d.chain + 0x18)) 4 ∧
            coreOf t c.toNat = { coreOf s c.toNat with arrQ := [] } ∧ OnlyCore { s with mem := t.mem } t c.toNat)) ∧
        (∀ d i, a.kind = .attention d → a.streams = [i] →
          ((trackerOf s i).state ≠ .closing ∨ 1 < (trackerOf s i).readers) →
          s.reels.bankA.state ≠ .draining → s.reels.bankB.state ≠ .draining →
          Runs (.attentionComplete c) s (fun t =>
            trackerOf t i = { trackerOf s i with readers := (trackerOf s i).readers - 1 } ∧
            (∀ j, j ≠ i → trackerOf t j = trackerOf s j) ∧ coreOf t c.toNat = { coreOf s c.toNat with arrQ := [] } ∧
            (∀ k, k ≠ c.toNat → coreOf t k = coreOf s k) ∧
            t = { s with cores := t.cores, serving := { s.serving with trackers := t.serving.trackers } })))))

/-! ## Streams -/

/-- A stream command of core c with the descriptor bytes l is at the head, alone: it can be queued, the queue is empty, its
command byte is n and its descriptor's result word is writable. -/
structure Sys2Proof.Claims.StreamReady (s : State) (c : Nat) (w : U32) (n : Nat) : Prop where
  queue : CanQueue s c w 32
  empty : (coreOf s c).arrQ = []
  op : fieldAt (descOf s c w 32) 0 1 = 3 ∧ fieldAt (descOf s c w 32) 1 1 = n

/-- A stream command ended: its descriptor's result word holds status and value, the array queue is empty again, the core's pc
moved on, and in memory only that word and the n bytes at a key changed. -/
structure Sys2Proof.Claims.StreamDone (s t : State) (c : Nat) (w : U32) (status value key n : Nat) : Prop where
  result : cellRead t.mem.cells (scratchKey c ((sreg s c (wD w)).toNat + 0x1C)) 4 = leBytes 2 status ++ leBytes 2 value
  bytes : ∀ k, (k < key ∨ key + n ≤ k) → (k < scratchKey c ((sreg s c (wD w)).toNat + 0x1C) ∨
    scratchKey c ((sreg s c (wD w)).toNat + 0x20) ≤ k) → cellGet t.mem.cells k = cellGet s.mem.cells k
  core : coreOf t c = { coreOf s c with pc := (coreOf s c).pc + 4, arrQ := [], tcache := (coreOf t c).tcache }
  cores : ∀ k, k ≠ c → coreOf t k = coreOf s k

/-- The stream is the issuing core's group's and tenant's. -/
def Sys2Proof.Claims.Owns (s : State) (c i g : Nat) : Prop :=
  runningGroup s c = some g ∧ (trackerOf s i).group.toNat = g ∧ (trackerOf s i).tenant.toNat = groupTenant s g

/-- No bank drains: a stream that lets go of a reel empties none (R485). -/
def Sys2Proof.Claims.NoDrain (s : State) : Prop := s.reels.bankA.state ≠ .draining ∧ s.reels.bankB.state ≠ .draining

/-- STREAM_PARK moves a running stream to parked; UNPARK moves a parked one to running at the front reel, or to cue wait where the
front lags the posted reel; CLOSE moves a stream with readers to closing; ADOPT moves a lost one to parked under the issuing
group. Each writes status 0 (6 for a cue wait) and changes no other stream. On a free stream each answers 2, on one of another
tenant 3. STREAM_READ copies the 64-byte tracker to the command's scratchpad address, of any stream of the tenant; STREAM_ROSTER
writes the IDs of the group's running streams of one bucket, at most count of them, and answers how many; where one of them is of
another tenant it answers 3 (the model's reading, log entry 38). -/
def Obligations.StreamStatesAndReports : Prop :=
  (∀ (s : State) (c : CoreId) (w : U32) (g n : Nat), issues s c.toNat w = true → spell w = .arrGo →
    StreamReady s c.toNat w n → runningGroup s c.toNat = some g →
    let i := fieldAt (descOf s c.toNat w 32) 2 2 % 16384
    let tr := trackerOf s i
    let ends (cmd : Instr) (status : Nat) (x : Tracker) : Prop := Runs cmd s (fun t =>
      StreamDone s t c.toNat w status 0 0 0 ∧ trackerOf t i = x ∧ (∀ j, j ≠ i → trackerOf t j = trackerOf s j) ∧
      t = { s with cores := t.cores, mem := t.mem, serving := { s.serving with
        trackers := t.serving.trackers, boards := t.serving.boards } })
    (NoDrain s → Owns s c.toNat i g →
      (n = 3 → tr.state = .running → ends (.streamPark c w) 0 { tr with state := .parked }) ∧
      (∀ r, n = 4 → tr.state = .parked → frontReel s = some r → ends (.streamUnpark c w)
        (if 3 < reelLag s.reels.posted.toNat r then 6 else 0)
        { tr with
          reel := BitVec.ofNat 16 r, lagFlag := decide (3 < reelLag s.reels.posted.toNat r)
          state := if 3 < reelLag s.reels.posted.toNat r then .cueWait else .running }) ∧
      (n = 5 → tr.state ≠ .free → tr.state ≠ .closing → tr.readers ≠ 0 → ends (.streamClose c w) 0
        { tr with state := .closing, ticket := 0, nodes := 0 })) ∧
    (n = 8 → tr.state = .lost → tr.tenant.toNat = groupTenant s g → ends (.streamAdopt c w) 0
      { tr with state := .parked, group := BitVec.ofNat 8 g }) ∧
    (∀ cmd, (n, cmd) ∈ [(3, Instr.streamPark c w), (4, .streamUnpark c w), (5, .streamClose c w), (8, .streamAdopt c w)] →
      (tr.state = .free → ends cmd 2 tr) ∧
      (tr.state ≠ .free → tr.tenant.toNat ≠ groupTenant s g → ends cmd 3 tr))) ∧
  (∀ (s : State) (c : CoreId) (w : U32) (g n : Nat), issues s c.toNat w = true → spell w = .arrGo →
    StreamReady s c.toNat w n → runningGroup s c.toNat = some g →
    let off := (sreg s c.toNat (wD w)).toNat
    let k := streamCmdOf (descOf s c.toNat w 32)
    let i := k.stream % 16384
    let a := k.addr.toNat
    let ids := ((s.serving.trackers.filter (fun e => e.2.state == .running && e.2.group.toNat == g && e.2.bucket == k.ring)).map
      (·.1)).take k.count
    let apart (m : Nat) : Prop := a + m ≤ off + 0x1C ∨ off + 0x20 ≤ a
    let reports (cmd : Instr) (value : Nat) (bytes : List Byte) : Prop := Runs cmd s (fun t =>
      StreamDone s t c.toNat w 0 value (scratchKey c.toNat a) bytes.length ∧
      cellRead t.mem.cells (scratchKey c.toNat a) bytes.length = bytes ∧ t = { s with cores := t.cores, mem := t.mem })
    (n = 6 → (trackerOf s i).state ≠ .free → (trackerOf s i).tenant.toNat = groupTenant s g → ScratchClean s c.toNat a 64 →
      apart 64 → reports (.streamRead c w) 0 (trackerBytes s i)) ∧
    let foreign := ∃ e ∈ s.serving.trackers, e.2.state = .running ∧ e.2.group.toNat = g ∧ e.2.bucket = k.ring ∧
      e.2.tenant.toNat ≠ groupTenant s g
    (n = 7 → foreign → a + 2 * k.count ≤ 2 ^ 21 → Runs (.streamRoster c w) s (fun t =>
      StreamDone s t c.toNat w 3 0 0 0 ∧ t = { s with cores := t.cores, mem := t.mem })) ∧
    (n = 7 → ¬foreign → ScratchClean s c.toNat a (2 * ids.length) → apart (2 * ids.length) → ids.length < 2 ^ 16 →
      reports (.streamRoster c w) ids.length (ids.flatMap (leBytes 2))))

/-- STREAM_OPEN of the lowest free stream (or of the one named), with a page list that has room for the bound of bucket 15 in one
granule: the tracker takes tenant, group, prompt, adapter, ring, page list and the front reel, the pages for the prompt are granted
from the pool of the bucket of no tokens as far as it has them, and the stream is open, or in page wait where pages lack. It answers
0 and the stream ID. With no free stream it answers 1; on one in use 2, or 3 where another tenant or group has it; with no bank in
front 2, and for a prompt beyond the bound of bucket 15 status 5 (the model's choice, log entry 38): then nothing else changes. -/
def Obligations.StreamOpens : Prop :=
  ∀ (s : State) (c : CoreId) (w : U32) (g : Nat), issues s c.toNat w = true → spell w = .arrGo →
    StreamReady s c.toNat w 1 → runningGroup s c.toNat = some g →
    let k := streamCmdOf (descOf s c.toNat w 32)
    let p := splitAddr s k.addr.toNat
    let need := (k.count + 127) / 64
    let room := 4 * ((boundOf s 15 + 63) / 64)
    let named := trackerOf s (k.stream % 16384)
    let refused (status : Nat) : Prop := Runs (.streamOpen c w) s (fun t =>
      StreamDone s t c.toNat w status 0 0 0 ∧ t = { s with cores := t.cores, mem := t.mem })
    let opens (i : Nat) : Prop := if k.stream = 0xFFFF then lowestFreeStream s = some i else i = k.stream % 16384 ∧ named.state = .free
    k.ring < 8 → ringSize s k.ring ≠ 0 → p.1 = ownPkg s → (p.2.1 = 1 ∨ p.2.1 = 2) →
    (k.stream = 0xFFFF → lowestFreeStream s = none → refused 1) ∧
    (k.stream ≠ 0xFFFF → named.state ≠ .free →
      refused (if named.tenant.toNat = groupTenant s g ∧ named.group.toNat = g then 2 else 3)) ∧
    (∀ i, opens i → (boundOf s 15 < k.count + 64 → refused 5) ∧
      (k.count + 64 ≤ boundOf s 15 → frontReel s = none → refused 2)) ∧
    (∀ r i off, frontReel s = some r → opens i → i < 2 ^ 16 → k.adapter.toNat.testBit 15 = true → k.count + 64 ≤ boundOf s 15 →
      k.addr.toNat % 2 ^ 21 + room ≤ 2 ^ 21 →
      translateAt s (coreTenant s c.toNat) p.1 p.2.1 p.2.2 rightWrite = .ok off → s.mem.bad = [] →
      physCheck s p.2.1 off room .engine = none →
      (∀ j, j < need → p.2.1 = 2 → failedStock s (off + 4 * j) 4 = none) →
      Runs (.streamOpen c w) s (fun t =>
        StreamDone s t c.toNat w 0 i (memKey p.2.1 off) (4 * need) ∧
        trackerOf t i = { Tracker.reset with
          state := if need ≤ (trackerOf t i).pages.length then .open' else .pageWait
          bucket := bucketFor s 0, tenant := BitVec.ofNat 12 (groupTenant s g), group := BitVec.ofNat 8 g, prompt := k.count
          adapter := k.adapter, ring := k.ring, listAddr := k.addr, listSpace := p.2.1, listGranules := [off / 2 ^ 21]
          user := k.user, reel := BitVec.ofNat 16 r, pages := (trackerOf t i).pages, ticket := (trackerOf t i).ticket } ∧
        (trackerOf t i).pages.length ≤ need ∧
        (∀ q ∈ (trackerOf t i).pages, q.1 = bucketFor s 0 ∧ q.2 < s.serving.pools.getD q.1 0 ∧ q ∉ s.serving.used ∧
          q ∈ t.serving.used) ∧
        (need ≤ (trackerOf t i).pages.length ∨
          ∀ q, q < s.serving.pools.getD (bucketFor s 0) 0 → (bucketFor s 0, q) ∈ t.serving.used) ∧
        (∀ j, j ≠ i → trackerOf t j = trackerOf s j) ∧
        t = { s with cores := t.cores, mem := t.mem, serving := t.serving, host := t.host }))

/-- What a commit of k tokens on stream i leaves (R404, R501): L grows by the count, the stream runs at the target reel, its bucket
follows L, its storyboard is gone, status 0 and the reel are answered, and no other stream changes. -/
structure Sys2Proof.Claims.CommitDone (s t : State) (c i target : Nat) (k : StreamCmd) : Prop where
  tracker : trackerOf t i = { trackerOf s i with
    tokens := (trackerOf s i).tokens + k.count, state := .running, promptDone := true, nodes := 0
    bucket := bucketFor s ((trackerOf s i).tokens + k.count), reel := BitVec.ofNat 16 target }
  others : ∀ j, j ≠ i → trackerOf t j = trackerOf s j
  board : tfind t.serving.boards i = none
  core : (coreOf t c).arrQ = []
  regs : (coreOf t c).regs = (coreOf s c).regs ∧ (coreOf t c).acc = (coreOf s c).acc

/-- A commit can be applied now: the stream is the group's, its pages reach position L + count + 63, the bound of bucket 15 is
not passed, no bank drains, the target reel does not lag, and records find room while every ring already asks for indices. -/
structure Sys2Proof.Claims.CommitFits (s : State) (c i g target : Nat) (k : StreamCmd) : Prop where
  owner : Owns s c i g
  pages : ((trackerOf s i).tokens + k.count + 127) / 64 ≤ (trackerOf s i).pages.length
  bound : (trackerOf s i).tokens + k.count + 64 ≤ boundOf s 15
  drain : NoDrain s
  lag : reelLag s.reels.posted.toNat target ≤ 3
  queue : s.reels.queue.length + k.count ≤ 4096
  asked : ∀ q < 8, ringSize s q = 0 ∨ (ringOf s q).asked ≠ 0
  clean : s.mem.bad = []

/-- STREAM_COMMIT with flag prompt on an open stream commits its prompt and queues no record; without flags, on a running stream,
it queues one experience record for each token, stamped with the reel held before. The front reel is taken. A commit that waits at
the head of the queue runs when what it waited for is there: the follow reel that it named is front, or the package's record queue
has room; a commit that resolves a storyboard runs once its stream has no readers, here with the accepted path where it stands
(R464 moves no row then). -/
def Obligations.StreamCommits : Prop :=
  (∀ (s : State) (c : CoreId) (w : U32) (g r : Nat), issues s c.toNat w = true → spell w = .arrGo →
    StreamReady s c.toNat w 2 → frontReel s = some r → r < 2 ^ 16 →
    let off := (sreg s c.toNat (wD w)).toNat
    let k := streamCmdOf (descOf s c.toNat w 32)
    let i := k.stream % 16384
    let block := cellRead s.mem.cells (scratchKey c.toNat (off + 0x20)) (16 + 16 * k.count)
    CommitFits s c.toNat i g r k → k.addr = 0 → 0 < k.count → (fieldAt block 2 1) % 2 = 0 →
    off + 0x30 + 16 * k.count ≤ 2 ^ 21 →
    (k.flags = 1 → k.count ≤ 2 ^ 20 → (trackerOf s i).state = .open' → k.count = (trackerOf s i).prompt →
      Runs (.streamCommit c w) s (fun t => CommitDone s t c.toNat i r k ∧ StreamDone s t c.toNat w 0 r 0 0 ∧
        t.reels = s.reels)) ∧
    (k.flags = 0 → k.count ≤ 64 → (trackerOf s i).state = .running → tfind s.serving.boards i = none →
      Runs (.streamCommit c w) s (fun t => CommitDone s t c.toNat i r k ∧ StreamDone s t c.toNat w 0 r 0 0 ∧
        t.reels = { s.reels with queue := t.reels.queue } ∧
        t.reels.queue.length = s.reels.queue.length + k.count ∧ t.reels.queue.take s.reels.queue.length = s.reels.queue ∧
        ∀ x ∈ t.reels.queue.drop s.reels.queue.length, x.ring = (trackerOf s i).ring ∧
          slice x.bytes 8 2 = leBytes 2 (trackerOf s i).reel.toNat ∧ slice x.bytes 10 2 = leBytes 2 i))) ∧
  (∀ (s : State) (c : CoreId) (g : Nat) (a : ArrCmd) (k : StreamCmd),
    coreOn s c.toNat = true → (coreOf s c.toNat).arrQ = [a] → a.kind = .stream k → a.started = true → k.cmd = 2 →
    let i := k.stream % 16384
    let block := cellRead s.mem.cells (scratchKey c.toNat (a.off + 0x20)) (16 + 16 * k.count)
    let follow := fieldAt block 0 2
    let v := cellRead s.mem.cells (scratchKey c.toNat k.addr.toNat) 128
    k.flags = 0 → 0 < k.count → k.count ≤ 64 → a.off + 0x30 + 16 * k.count ≤ 2 ^ 21 →
    (CommitFits s c.toNat i g follow k → k.addr = 0 → (trackerOf s i).state = .running → tfind s.serving.boards i = none →
      (fieldAt block 2 1) % 2 = 1 → s.reels.bankA.state = .front → s.reels.bankA.reel.toNat = follow →
      Runs (.followReelWaitEnd c) s (fun t => CommitDone s t c.toNat i follow k)) ∧
    (∀ r, frontReel s = some r → r < 2 ^ 16 → CommitFits s c.toNat i g r k → k.addr = 0 → (trackerOf s i).state = .running →
      tfind s.serving.boards i = none → (fieldAt block 2 1) % 2 = 0 →
      Runs (.ringQueueWaitEnd c) s (fun t => CommitDone s t c.toNat i r k)) ∧
    (∀ r b, frontReel s = some r → r < 2 ^ 16 → CommitFits s c.toNat i g r k → (trackerOf s i).state = .verifying →
      (trackerOf s i).readers = 0 → tfind s.serving.boards i = some b → (fieldAt block 2 1) % 2 = 0 →
      k.addr.toNat ≠ 0 → k.addr.toNat % 16 = 0 → k.addr.toNat + 128 ≤ 2 ^ 21 →
      vectorBad v i ((trackerOf s i).tokens + k.count) = none → fieldAt v 0 1 = 0 → fieldAt v 8 1 < b.n →
      k.count = depthOf b.parents 64 (fieldAt v 8 1) → moves (trackerOf s i).tokens (pathTo b.parents 64 (fieldAt v 8 1)) = [] →
      0 < fieldAt v 0x60 2 → fieldAt v 0x60 2 ≤ 4096 → 32 ≤ fieldAt v 0x62 2 → fieldAt v 0x62 2 ≤ 512 →
      fieldAt v 0x62 2 % 32 = 0 → fieldAt v 0x50 4 + 128 ≤ 2 ^ 21 →
      Runs (.storyboardCompaction c) s (fun t => CommitDone s t c.toNat i r k)))

/-! ## Stage chains -/

/-- The head of core c's array queue is the started product d with the chain h, and its epilogue is function stages fs and then
the stages l. -/
structure Sys2Proof.Claims.ChainHead (s : State) (c : Nat) (a : ArrCmd) (d : ProductDesc) (h : Chain) (fs l : List StageRec) :
    Prop where
  head : (coreOf s c).arrQ.head? = some a
  kind : a.kind = .product d (some h)
  started : a.started = true
  stages : h.epilogue = fs ++ l ∧ ∀ r ∈ fs, r.code = 0x23

/-- The head of core c's queue became a; but for memory, nothing else changed. -/
def Sys2Proof.Claims.HeadBecomes (s t : State) (c : Nat) (a : ArrCmd) : Prop :=
  coreOf t c = { coreOf s c with arrQ := a :: (coreOf s c).arrQ.drop 1 } ∧ OnlyCore { s with mem := t.mem } t c

/-- EPILOGUE_BLOCK of a chain of functions and an FP32 store applies the functions to the next block of columns of every row and
stores it; a tile-send behind the store takes each stored row. DEFERRED_SWEEP of a chain that ends in an INT8 quantise of kind 1
writes each row's scale byte and elements from the whole row. TILE_SEND_BLOCK writes the block that the tile-send took into another
core's scratchpad of this package, and is then rid of it. No other byte changes. While the core's domain is not on, none of them does
anything. -/
def Obligations.ChainBlocks : Prop :=
  ∀ (s : State) (c e : CoreId) (a : ArrCmd) (d : ProductDesc) (h : Chain) (fs : List StageRec) (st q sn : StageRec),
    let w := tileN (arrayMode s c.toNat d.mode)
    let units := unitCount (arrayMode s c.toNat d.mode) h d.n
    let cols (b : Nat) : Nat := min w (d.n - b * w)
    let row (m b : Nat) : List F32 :=
      fs.foldl (fun l r => l.map (epilogueFn r.option)) (accRow (coreOf s c.toNat) d m (b * w) (cols b))
    let bytes (m b : Nat) : List Byte := Fmt.fp32.pack ((row m b).map (fun x => x.toNat))
    let stored : Prop := st.code = 0x26 ∧ st.fmt = 6 ∧ 4 * d.n ≤ st.param ∧ ScratchClean s c.toNat st.a (d.m * st.param)
    let blockDone (ready : List (Nat × Nat × Int × List Byte)) (t : State) : Prop :=
      (∀ m, m < d.m →
        cellRead t.mem.cells (scratchKey c.toNat (st.a + m * st.param + 4 * (a.block * w))) (4 * cols a.block) = bytes m a.block) ∧
      OtherBytes s t (scratchKey c.toNat st.a) (d.m * st.param) ∧
      HeadBecomes s t c.toNat { a with block := a.block + 1, ready := ready }
    let piece (m b : Nat) : Int := ((m * sendStride sn + 4 * (b * w) : Nat) : Int)
    (coreOn s c.toNat = false → exec (.epilogueBlock c) s = .next s ∧ exec (.deferredSweep c) s = .next s ∧
      exec (.tileSendBlock c) s = .next s) ∧
    (coreOn s c.toNat = true →
      (stored → ChainHead s c.toNat a d h fs [st] → a.block < units →
        Runs (.epilogueBlock c) s (blockDone a.ready)) ∧
      (stored → ChainHead s c.toNat a d h fs [st, sn] → sn.code = 0x27 → a.block < units →
        Runs (.epilogueBlock c) s (blockDone (a.ready ++
          (List.range d.m).map (fun m => (a.block, fs.length + 1, piece m a.block, bytes m a.block))))) ∧
      (ChainHead s c.toNat a d h fs [q] → q.code = 0x25 → q.fmt = 4 → q.option = 1 → 0 < d.n → d.n ≤ q.param → a.swept = false →
        (fs = [] ∨ units ≤ a.block) →
        ScratchClean s c.toNat q.a (d.m * q.param) → ScratchClean s c.toNat q.b d.m →
        (q.a + d.m * q.param ≤ q.b ∨ q.b + d.m ≤ q.a) →
        Runs (.deferredSweep c) s (fun t =>
          (∀ m, m < d.m →
            let r := accRow (coreOf s c.toNat) d m 0 d.n
            let big := largestMagnitude r
            cellRead t.mem.cells (scratchKey c.toNat (q.b + m)) 1 = leBytes 1 (scale8 .int8 big) ∧
            cellRead t.mem.cells (scratchKey c.toNat (q.a + m * q.param)) d.n =
              Fmt.int8.pack (r.map (fun x => quantElem .int8 1 .even big x))) ∧
          (∀ k, (k < scratchKey c.toNat q.a ∨ scratchKey c.toNat (q.a + d.m * q.param) ≤ k) →
            (k < scratchKey c.toNat q.b ∨ scratchKey c.toNat (q.b + d.m) ≤ k) →
            cellGet t.mem.cells k = cellGet s.mem.cells k) ∧
          HeadBecomes s t c.toNat { a with swept := true, status := a.status + 2 ^ 17 })) ∧
      (∀ o (l : Nat → List Byte), ChainHead s c.toNat a d h fs [st, sn] → st.code = 0x26 → sn.code = 0x27 → a.failed = [] →
        a.sent < a.block → a.sent < units → sendDest sn < 2 ^ 64 →
        splitAddr s (sendDest sn) = (ownPkg s, 0, e.toNat * 2 ^ 21 + o) → e ≠ c → 4 * d.n ≤ sendStride sn →
        destStatus s e.toNat (coreTenant s c.toNat) = 0 → ScratchClean s e.toNat o (d.m * sendStride sn) →
        (a.ready.filter (fun x => x.1 == a.sent && x.2.1 == fs.length + 1)).map (fun x => x.2.2) =
          (List.range d.m).map (fun m => (piece m a.sent, l m)) →
        (∀ m, (l m).length = 4 * cols a.sent) →
        Runs (.tileSendBlock c) s (fun t =>
          (∀ m, m < d.m →
            cellRead t.mem.cells (scratchKey e.toNat (o + m * sendStride sn + 4 * (a.sent * w))) (4 * cols a.sent) = l m) ∧
          OtherBytes s t (scratchKey e.toNat o) (d.m * sendStride sn) ∧
          HeadBecomes s t c.toNat { a with
            sent := a.sent + 1, ready := a.ready.filter (fun x => !(x.1 == a.sent && x.2.1 == fs.length + 1)) })))

/-! ## Core groups -/

/-- Every compute domain stands in the state that is requested of it, so that none moves when groups change. -/
def Sys2Proof.Claims.Settled (s : State) : Prop :=
  ∀ d < 16, ((domOf s d).state = .on ∧ (domOf s d).request = 0) ∨ ((domOf s d).state = .retention ∧ (domOf s d).request = 1) ∨
    ((domOf s d).state = .off ∧ (domOf s d).request = 2)

/-- Kernel record k of group g stands in the vault of this package, in one granule and below the continuity area, at offset o,
and is read under tenant 0x000. -/
structure Sys2Proof.Claims.KernelAt (s : State) (g k o : Nat) : Prop where
  tenant : groupTenant s g = 0
  place : splitAddr s ((shotAddr s g + 64 + 32 * k) % 2 ^ 64) = (ownPkg s, 1, o)
  slice : o % 2 ^ 25 + 32 ≤ continuityBase ∧ o + 32 ≤ 2 ^ 35 ∧ (shotAddr s g + 64 + 32 * k) % 2 ^ 21 + 32 ≤ 2 ^ 21
  clean : s.mem.bad = []

/-- Every member of group g has entered kernel k with the registers of R217: its rank, the argument block, the member count, the
kernel, its core and its package; its other registers read zero. -/
def Sys2Proof.Claims.Entered (s t : State) (g k : Nat) (record : List Byte) : Prop :=
  ∀ m ∈ members s g, (coreOf t m).pc = BitVec.ofNat 64 (fieldAt record 0 4) ∧ (coreOf t m).arrived = false ∧
    sreg t m 1 = BitVec.ofNat 64 (rankOf s g m) ∧
    sreg t m 2 = (groupOf s g).header.argBase + BitVec.ofNat 64 (fieldAt record 4 4) ∧
    sreg t m 3 = BitVec.ofNat 64 (members s g).length ∧ sreg t m 4 = BitVec.ofNat 64 k ∧ sreg t m 5 = BitVec.ofNat 64 m ∧
    sreg t m 6 = BitVec.ofNat 64 (ownPkg s) ∧ ∀ r, r = 0 ∨ 6 < r → sreg t m r = 0

/-- HUD of a core whose commands have completed arrives at the huddle, and HUD.LOCAL goes on; else each waits. When every member of a
running group has arrived, the huddle is released: the count rises, the copies of the snapshot start, and either the members
enter the next kernel, or after the last one the group becomes idle. -/
def Obligations.Huddles : Prop :=
  (∀ (s : State) (c : CoreId) (w : U32), issues s c.toNat w = true →
    let quiet := (coreOf s c.toNat).arrQ = [] ∧ (coreOf s c.toNat).dmaQ = [] ∧ (coreOf s c.toNat).waiting = []
    (spell w = .hud → quiet → Runs (.hud c w) s (fun t =>
      coreOf t c.toNat = { coreOf s c.toNat with arrived := true } ∧ OnlyCore s t c.toNat)) ∧
    (spell w = .hud → ¬quiet → exec (.hud c w) s = .next s) ∧
    (spell w = .hudLocal → quiet → Runs (.hudLocal c w) s (fun t => GoesTo s t c.toNat ((coreOf s c.toNat).pc + 4))) ∧
    (spell w = .hudLocal → ¬quiet → exec (.hudLocal c w) s = .next s)) ∧
  (∀ (s : State) (g : GroupId),
    let x := groupOf s g.toNat
    let last := x.kernelFlags.testBit 0 = true ∨ x.header.kernels ≤ x.kernel + 1
    let next := if x.kernelFlags.testBit 0 = true ∨ x.header.kernels ≤ x.kernel + 1 then 0 else x.kernel + 1
    let released (t : State) : Prop :=
      (groupOf t g.toNat).huddles = (x.huddles + 1) % 2 ^ 64 ∧ (groupOf t g.toNat).kernel = next ∧
      (tqOf t (groupTenant s g.toNat)).kernels = ((tqOf s (groupTenant s g.toNat)).kernels + 1) % 2 ^ 64 ∧
      (∀ m ∈ members s g.toNat, (coreOf t m).snapB ≠ none ∧ (coreOf t m).vregs = (coreOf s m).vregs ∧
        (coreOf t m).acc = (coreOf s m).acc) ∧
      (∀ k, k ∉ members s g.toNat → coreOf t k = coreOf s k) ∧ (∀ h, h ≠ g.toNat → groupOf t h = groupOf s h) ∧
      t = { s with
        groups := t.groups, cores := t.cores, host := t.host, mem := t.mem, serving := t.serving, dict := t.dict }
    x.state = .running → x.saving = false → x.pending = false → Settled s → s.mem.bad = [] →
    (∀ m ∈ members s g.toNat, (coreOf s m).arrived = true ∧ (coreOf s m).fenced = false ∧ coreOn s m = true ∧
      (coreOf s m).snapB = none) →
    (∀ e ∈ s.serving.trackers, e.2.state ≠ .pageWait) →
    (last → x.header.flags.getLsbD 0 = false → Runs (.huddleRelease g) s (fun t =>
      released t ∧ (groupOf t g.toNat).state = .idle ∧ ∀ m ∈ members s g.toNat, (coreOf t m).arrived = false ∧
        (coreOf t m).regs = (coreOf s m).regs ∧ (coreOf t m).pc = (coreOf s m).pc)) ∧
    (∀ o, (¬last ∨ x.header.flags.getLsbD 0 = true) → KernelAt s g.toNat next o → Runs (.huddleRelease g) s (fun t =>
      released t ∧ (groupOf t g.toNat).state = .running ∧
      Entered s t g.toNat next (cellRead s.mem.cells (memKey 1 o) 32))))

/-- Slot r of group g's save lies in the vault, clear of every continuity area. -/
def Sys2Proof.Claims.SlotsFit (s : State) (g : Nat) : Prop :=
  (groupOf s g).saveSpace = 1 ∧ ∀ m ∈ members s g,
    slotOffset (groupOf s g).saveBase (rankOf s g m) % 2 ^ 25 + 0x300000 ≤ continuityBase ∧
    slotOffset (groupOf s g).saveBase (rankOf s g m) + 0x300000 ≤ 2 ^ 35

/-- A snapshot copy that completes leaves the vector registers and every line that it takes in its half, valid, with the huddle
count; a fault during it stops the group of the kernel that it closes, also where that was the list's last (log entry 113). A completed save leaves the group preempted, each member's registers and scratchpad in its slot, its mark 3 and its mailboxes
empty; a completed resume brings them back, and the group enters its saved kernel. A fault of a save or restore leaves the group
lost and that core fenced. -/
def Obligations.SnapshotsAndSaves : Prop :=
  (∀ (s : State) (c : CoreId) (b : Bool),
    let k := coreOf s c.toNat
    k.snapB = some b → k.arrQ = [] → (∀ n ∈ k.snapLines, n < 1024) → badIn s (contKey c.toNat 0) 0x28000 = [] →
    Runs (.snapshotCopyComplete c none) s (fun t =>
      cellRead t.mem.cells (halfKey c.toNat b) 0x2000 = vregBytes k ∧
      (∀ n ∈ k.snapLines, cellRead t.mem.cells (halfKey c.toNat b + 0x2000 + 64 * n) 64 = lineBytes k n) ∧
      halfValid t c.toNat b = true ∧ halfValid t c.toNat (!b) = halfValid s c.toNat (!b) ∧
      halfCount t c.toNat b = (groupOf s (memNat s (contKey c.toNat 0x20) 1)).huddles % 2 ^ 64 ∧
      OtherBytes s t (contKey c.toNat 0) 0x28000 ∧ coreOf t c.toNat = { k with snapB := none, snapLines := [] } ∧
      OnlyCore { s with mem := t.mem } t c.toNat)) ∧
  (∀ (s : State) (c : CoreId) (b : Bool) (f : SaveFault),
    let g := memNat s (contKey c.toNat 0x20) 1
    let x := groupOf s g
    (coreOf s c.toNat).snapB = some b → isMember s g c.toNat = true → x.saving = false →
    (x.state = .running ∨ (x.state = .idle ∧ runningGroup s c.toNat = none ∧ restoringGroup s c.toNat = none)) →
    Runs (.snapshotCopyComplete c (some f)) s (fun t => (groupOf t g).state = .fenced ∧
      (groupOf t g).lastFault = BitVec.ofNat 16 (pathCode f.fault) ∧ (coreOf t c.toNat).snapB = none ∧
      (∀ h, h ≠ g → groupOf t h = groupOf s h) ∧
      (f.fault = .memory ∨ f.fault = .stall ∨ f.fault = .pairLost → LastEvent t 0x3011 (srcGroup g) (pathCode f.fault)) ∧
      (f.fault = .mesh ∨ f.fault = .internal → (coreOf t c.toNat).fenced = true))) ∧
  (∀ (s : State) (g : GroupId),
    let x := groupOf s g.toNat
    Settled s → (∀ m ∈ members s g.toNat, coreOn s m = true) →
    (x.saving = true → SlotsFit s g.toNat → s.mem.bad = [] → (∀ m ∈ members s g.toNat, (coreOf s m).snapB = none) →
      Runs (.preemptSaveComplete g none) s (fun t =>
        (groupOf t g.toNat).state = .preempted ∧ (groupOf t g.toNat).saving = false ∧
        (∀ m ∈ members s g.toNat,
          let key := memKey 1 (slotOffset x.saveBase (rankOf s g.toNat m))
          cellRead t.mem.cells (key + 0x1000) 0x2000 = vregBytes (coreOf s m) ∧
          cellRead t.mem.cells (key + 0x93000) (2 ^ 21) = cellRead s.mem.cells (scratchKey m 0) (2 ^ 21) ∧
          memNat t (contKey m 6) 1 = 3 ∧ (coreOf t m).boxes = [] ∧ (coreOf t m).closed = false) ∧
        (∀ k, k ∉ members s g.toNat → coreOf t k = coreOf s k) ∧ (∀ h, h ≠ g.toNat → groupOf t h = groupOf s h) ∧
        t = { s with freeCount := t.freeCount, mem := t.mem, cores := t.cores, groups := t.groups })) ∧
    (∀ f, x.saving = true → f.core.toNat ∈ members s g.toNat → Runs (.preemptSaveComplete g (some f)) s (fun t =>
      (groupOf t g.toNat).state = .lost ∧ (groupOf t g.toNat).lastFault = 0x0701 ∧ (coreOf t f.core.toNat).fenced = true)) ∧
    (∀ o, x.restoring = true → x.state = .preempted → SlotsFit s g.toNat → KernelAt s g.toNat x.savedKernel o →
      x.savedKernel < x.header.kernels → groupRole s g.toNat ≠ 2 → (∀ e ∈ s.serving.trackers, e.2.state ≠ .pageWait) →
      Runs (.resumeRestoreComplete g none) s (fun t =>
        (groupOf t g.toNat).state = .running ∧ (groupOf t g.toNat).kernel = x.savedKernel ∧
        (groupOf t g.toNat).huddles = x.huddles ∧
        (∀ m ∈ members s g.toNat,
          let key := memKey 1 (slotOffset x.saveBase (rankOf s g.toNat m))
          vregBytes (coreOf t m) = cellRead s.mem.cells (key + 0x1000) 0x2000 ∧
          cellRead t.mem.cells (scratchKey m 0) (2 ^ 21) = cellRead s.mem.cells (key + 0x93000) (2 ^ 21)) ∧
        Entered s t g.toNat x.savedKernel (cellRead s.mem.cells (memKey 1 o) 32) ∧
        (∀ h, h ≠ g.toNat → groupOf t h = groupOf s h))) ∧
    (∀ f, x.restoring = true → f.core.toNat ∈ members s g.toNat → Runs (.resumeRestoreComplete g (some f)) s (fun t =>
      (groupOf t g.toNat).state = .lost ∧ (groupOf t g.toNat).lastFault = 0x0702 ∧ (coreOf t f.core.toNat).fenced = true)))

/-! ## The fabric -/

/-- Every running group that satisfies p is fenced with a code; every other group stays. -/
def Sys2Proof.Claims.GroupsFault (s t : State) (p : Nat → Prop) (code : U16) : Prop :=
  (∀ g ∈ runningGroups s, p g → (groupOf t g).state = .fenced ∧ (groupOf t g).lastFault = code) ∧
    ∀ g, (g ∉ runningGroups s ∨ ¬p g) → groupOf t g = groupOf s g

/-- Flits on the mesh (R36 to R38, R45 to R48): a flit at a router goes one link toward its column, then toward its row, and at its core is
delivered once no older one of its flow is under way; a word with one wrong bit is corrected and counted; a flit with an uncorrectable
word is not delivered, and its core takes the fault 0x0402, which fences it. -/
def Sys2Proof.Claims.MeshFlits : Prop :=
  (∀ (s : State) (f : FabricFlit) (c r : CoreId), f.dst = .core c → dieOf r.toNat = dieOf c.toNat →
    let row := rowOf c.toNat
    let col := columnOf c.toNat
    nextHop s f r.toNat =
      if columnOf r.toNat < col then .router (r.toNat + 1)
      else if col < columnOf r.toNat then .router (r.toNat - 1)
      else if rowOf r.toNat < row then .router (r.toNat + 32)
      else if row < rowOf r.toNat then .router (r.toNat - 32)
      else .arrive) ∧
  (∀ (s : State) (r : CoreId) (f : FabricFlit) (found : List EccFinding),
    let news := f.src = .core r ∧ f.seq = sentOf s f ∧ f ∉ inFabric s
    let left := s.fabric.transit.erase (r, f)
    let ones := (found.filter (· == .corrected)).length
    let sent (t : State) : Prop := (news → sentOf t f = f.seq + 1) ∧ (¬news → t.fabric.sent = s.fabric.sent)
    let goes (t : State) : Prop := sent t ∧ t.fabric.meshCorrected = s.fabric.meshCorrected + ones ∧
      t = { s with fabric := { s.fabric with
        channels := t.fabric.channels, sent := t.fabric.sent, transit := t.fabric.transit, delivered := t.fabric.delivered
        meshCorrected := t.fabric.meshCorrected } }
    flitRouted f = true → fabricUp s = true → spineHeldAt s r.toNat = false → news ∨ (r, f) ∈ s.fabric.transit →
    (nextHop s f r.toNat = .arrive → overtakes s f = true → exec (.meshFlitArrival ⟨r, f⟩ found) s = .next s) ∧
    (.uncorrectable ∉ found →
      (nextHop s f r.toNat = .arrive → overtakes s f = false → Runs (.meshFlitArrival ⟨r, f⟩ found) s (fun t => goes t ∧
        t.fabric.delivered = f :: s.fabric.delivered ∧ t.fabric.transit = left ∧ t.fabric.channels = s.fabric.channels)) ∧
      (∀ c, nextHop s f r.toNat = .router c → Runs (.meshFlitArrival ⟨r, f⟩ found) s (fun t => goes t ∧
        t.fabric.delivered = s.fabric.delivered ∧ t.fabric.transit = left ++ [(BitVec.ofNat 10 c, f)] ∧
        t.fabric.channels = s.fabric.channels)) ∧
      (∀ b ch h lane, nextHop s f r.toNat = .bridge b ch → flitCrossing f b = some (h, lane) →
        f ∉ ((chanOf s (b * 32 + ch)).lane lane).flits → Runs (.meshFlitArrival ⟨r, f⟩ found) s (fun t => goes t ∧
          t.fabric.delivered = s.fabric.delivered ∧ t.fabric.transit = left ∧
          (chanOf t (b * 32 + ch)).lane lane = ((chanOf s (b * 32 + ch)).lane lane).push b f ∧
          ∀ x, x ≠ b * 32 + ch → chanOf t x = chanOf s x))) ∧
    (∀ c g, .uncorrectable ∈ found → ¬(nextHop s f r.toNat = .arrive ∧ overtakes s f = true) → flitOwner f = some c →
      runningGroup s c.toNat = some g → (groupOf s g).saving = false → Runs (.meshFlitArrival ⟨r, f⟩ found) s (fun t =>
        CoreFault s t c.toNat g 0x0402 ∧ sent t ∧ t.fabric.delivered = s.fabric.delivered ∧ t.fabric.transit = left ∧
        t.fabric.channels = s.fabric.channels)))

/-- Flits on a bridge (R34 to R39, R69 to R72): a flit whose way leads over the bridge goes by the channel that its traffic uses; the
oldest of its lane crosses once when its CRC holds, to the router behind the channel or to the edge die, and is resent when not;
another one, and every one while the clocked end or the spine stands still, is kept in order. The channel whose flits failed 16 resends
leaves service, and its kept flits go behind the pair's (the model's choice, log entry 105); with both out the running groups that need
the pair fault, and one whose flit comes then. A stall faults the groups with waiting flits. When the link reference returns, the clocked
end passes what it held, in order. A flit that arrives on the mesh goes on, is delivered or is turned away as MeshFlits says. -/
def Obligations.BridgesAndMesh : Prop :=
  (∀ (s : State) (b : BridgeId) (ch : BitVec 5) (f : FabricFlit) (crc : U16) (h lane : Nat),
    let bn := bridgeNum b
    let i := bn * 32 + ch.toNat
    let l := (chanOf s i).lane lane
    let stands := clockStopped s bn = true ∨ (∃ r ∈ bridgeRouters bn ch.toNat, spineHeldAt s r = true) ∨
      (exitRouter bn ch.toNat lane = none ∧ overtakes s f = true)
    let laneBecomes (j : Nat) (x : Lane) (t : State) : Prop :=
      (chanOf t j).lane lane = x ∧ (chanOf t j).out = (chanOf s j).out ∧
        (∀ y, y ≠ lane → (chanOf t j).lane y = (chanOf s j).lane y) ∧ (∀ y, y ≠ j → chanOf t y = chanOf s y)
    let crosses (x : Lane) (t : State) : Prop := laneBecomes i x t ∧
      (∀ r, exitRouter bn ch.toNat lane = some r →
        t.fabric.transit = s.fabric.transit ++ [(BitVec.ofNat 10 r, f)] ∧ t.fabric.delivered = s.fabric.delivered) ∧
      (exitRouter bn ch.toNat lane = none →
        t.fabric.delivered = f :: s.fabric.delivered ∧ t.fabric.transit = s.fabric.transit)
    let counted (t : State) : Prop := sentOf t f = f.seq + 1 ∧ (∀ g, sameFlow g f = false → sentOf t g = sentOf s g) ∧
      t = { s with fabric := { s.fabric with
        channels := t.fabric.channels, sent := t.fabric.sent, transit := t.fabric.transit, delivered := t.fabric.delivered } }
    flitCrossing f bn = some (h, lane) → flitRouted f = true → fabricUp s = true →
    (useChannel s bn h = some ch.toNat →
      (l.flits.head? = some f → ¬stands →
        (crc = Config.bridgeCrc f.data → Runs (.bridgeFlitArrival b ch f crc) s (fun t => crosses l.pop t ∧
          t = { s with fabric := { s.fabric with
            channels := t.fabric.channels, transit := t.fabric.transit, delivered := t.fabric.delivered } })) ∧
        (crc ≠ Config.bridgeCrc f.data → Runs (.bridgeFlitArrival b ch f crc) s (fun t =>
          laneBecomes i { l with fails := l.fails + 1 } t ∧
          t = { s with fabric := { s.fabric with channels := t.fabric.channels } }))) ∧
      (f ∈ l.flits → stands ∨ l.flits.head? ≠ some f → exec (.bridgeFlitArrival b ch f crc) s = .next s) ∧
      (∀ e k, f.src = .edge e k → f.seq = sentOf s f → f ∉ inFabric s →
        (¬stands → l.flits = [] →
          (crc = Config.bridgeCrc f.data → Runs (.bridgeFlitArrival b ch f crc) s (fun t =>
            crosses { l with fails := 0 } t ∧ counted t)) ∧
          (crc ≠ Config.bridgeCrc f.data → Runs (.bridgeFlitArrival b ch f crc) s (fun t =>
            laneBecomes i { l.push bn f with fails := l.fails + 1 } t ∧ counted t))) ∧
        (stands ∨ l.flits ≠ [] → Runs (.bridgeFlitArrival b ch f crc) s (fun t => laneBecomes i (l.push bn f) t ∧ counted t)))) ∧
    (∀ u e k, useChannel s bn h = some u → u ≠ h → ch.toNat = h → f.src = .edge e k → f.seq = sentOf s f → f ∉ inFabric s →
      Runs (.bridgeFlitArrival b ch f crc) s (fun t =>
        laneBecomes (bn * 32 + u) (((chanOf s (bn * 32 + u)).lane lane).push bn f) t ∧ counted t)) ∧
    (∀ e k c g, useChannel s bn h = none → ch.toNat = h → f.src = .edge e k → f.seq = sentOf s f → f ∉ inFabric s →
      flitOwner f = some c → runningGroup s c.toNat = some g → Runs (.bridgeFlitArrival b ch f crc) s (fun t =>
        (groupOf t g).state = .fenced ∧ (groupOf t g).lastFault = 0x0502 ∧ t.fabric = s.fabric))) ∧
  (∀ (s : State) (b : BridgeId) (ch : BitVec 5),
    let bn := bridgeNum b
    let i := bn * 32 + ch.toNat
    let j := bn * 32 + (ch.toNat ^^^ 1)
    let k := chanOf s i
    ch.toNat < bridgeChannels bn → k.out = false → (∃ e ∈ k.lanes, 16 < e.2.fails) →
    ((chanOf s j).out = false →
      (∀ x, x < 4 → (k.lane x).flits.Nodup ∧ ∀ f ∈ (k.lane x).flits, f ∉ ((chanOf s j).lane x).flits) →
      Runs (.bridgeChannelOutOfService b ch) s (fun t =>
        chanOf t i = { Channel.reset with out := true } ∧ (chanOf t j).out = false ∧
        (∀ x, x < 4 → ((chanOf t j).lane x).flits = ((chanOf s j).lane x).flits ++ (k.lane x).flits) ∧
        (∀ x, x ≠ i → x ≠ j → chanOf t x = chanOf s x) ∧ Logged s t 0x3010 (srcBridge bn) (bn * 256 + ch.toNat) ∧
        t = { s with log := t.log, fabric := { s.fabric with channels := t.fabric.channels } })) ∧
    ((chanOf s j).out = true → (∀ g ∈ runningGroups s, (groupOf s g).saving = false) →
      Runs (.bridgeChannelOutOfService b ch) s (fun t =>
        chanOf t i = { k with out := true } ∧ (∀ x, x ≠ i → chanOf t x = chanOf s x) ∧
        GroupsFault s t (fun g => ∃ m ∈ members s g, needsPair bn ch.toNat m = true) 0x0502))) ∧
  (∀ (s : State) (e : EdgeDie) (ch : BitVec 4),
    let b := edgeBridge e
    let k := chanOf s (b * 32 + ch.toNat)
    let into : List Nat := if e = .e0 then [2, 3] else [0, 1]
    let outof : List Nat := if e = .e0 then [0, 1] else [2, 3]
    let passed (ls : List Nat) : List (Nat × FabricFlit) := (List.range 16).flatMap (fun c =>
      if (chanOf s (b * 32 + c)).out then []
      else ls.flatMap (fun x => ((chanOf s (b * 32 + c)).lane x).flits.map (fun f => (c, f))))
    let router (c : Nat) : Nat := if e = .e0 then 2 * c else 992 + 2 * c
    (k.flits ≠ [] → k.out = false → (∀ g ∈ runningGroups s, (groupOf s g).saving = false) →
      Runs (.bridgeStall e ch) s (fun t => GroupsFault s t
        (fun g => ∃ f ∈ k.flits, ∃ c, flitOwner f = some c ∧ isMember s g c.toNat = true) 0x0501)) ∧
    Runs (.linkReferenceStop e) s (fun t =>
      clockStopped t b = true ∧ t = { s with fabric := { s.fabric with refStopped := t.fabric.refStopped } }) ∧
    (clockStopped s b = true → Runs (.linkReferenceReturn e) s (fun t =>
      clockStopped t b = false ∧
      (∀ c x, c < 16 → x < 4 → (chanOf s (b * 32 + c)).out = false → ((chanOf t (b * 32 + c)).lane x).flits = []) ∧
      (∀ i, (chanOf s i).out = true ∨ i < b * 32 ∨ b * 32 + 16 ≤ i → chanOf t i = chanOf s i) ∧
      t.fabric.transit = s.fabric.transit ++ (passed into).map (fun x => (BitVec.ofNat 10 (router x.1), x.2)) ∧
      t.fabric.delivered = ((passed outof).map (·.2)).reverse ++ s.fabric.delivered ∧
      t = { s with fabric := { s.fabric with
        channels := t.fabric.channels, transit := t.fabric.transit, delivered := t.fabric.delivered
        refStopped := t.fabric.refStopped } }))) ∧
  MeshFlits

/-- The refresh period in µs that a hottest sensor of x tenths of °C requires (table Vault refresh periods). -/
def Sys2Proof.Claims.refreshAt (x : Int) : Nat :=
  if 1000 < x then 500 else if 950 < x then 707 else if 900 < x then 1000 else if 850 < x then 1414 else 2000

/-- A calibration and a refresh change no stored value. The refresh period shortens at once with the temperature and lengthens only
2 °C below its boundary, and the change is logged. A scrub mends and counts every correctable word of its slice and records an
uncorrectable one. A stock channel that fails in service reads 3 and stays in the interleave. -/
def Obligations.VaultAndStock : Prop :=
  ∀ (s : State) (die : FieldDie) (c : CoreId),
    let old := periodOf s die
    ((regOf s 1).on = true → s.gaffer.running = true → Runs (.refreshTimebaseCalibration die) s (fun t =>
      t.fabric.calibrations = (if die = .d0 then (s.fabric.calibrations.1 + 1, s.fabric.calibrations.2)
        else (s.fabric.calibrations.1, s.fabric.calibrations.2 + 1)) ∧
      t = { s with fabric := { s.fabric with calibrations := t.fabric.calibrations } })) ∧
    ((regOf s 1).on = true → ∀ bank, Runs (.vaultRefresh c bank) s (fun t =>
      t = { s with fabric := { s.fabric with refreshes := s.fabric.refreshes + 1 } })) ∧
    ((regOf s 1).on = true → old ∈ [500, 707, 1000, 1414, 2000] → ∀ x : Int,
      let new := if refreshAt x < old then refreshAt x else max old (refreshAt (x + 20))
      (new = old → exec (.refreshPeriodChange die x) s = .next s) ∧
      (new ≠ old → Runs (.refreshPeriodChange die x) s (fun t =>
        periodOf t die = new ∧ (∀ d, d ≠ die → periodOf t d = periodOf s d) ∧
        Logged s t 0x1022 srcGaffer (new * 65536 + (if die = .d0 then 0 else 1)) ∧
        t = { s with log := t.log, fabric := { s.fabric with periods := t.fabric.periods } }))) ∧
    (∀ l, (regOf s 1).on = true → badIn s (sliceKey c.toNat 0) (2 ^ 25) = l → (∀ e ∈ l, e.2 = false ∧ keySpace e.1 = 1) →
      Runs (.vaultScrub c) s (fun t =>
        badIn t (sliceKey c.toNat 0) (2 ^ 25) = [] ∧
        t.mem.vaultEcc.corrected % 2 ^ 64 = (s.mem.vaultEcc.corrected + l.length) % 2 ^ 64 ∧
        t = { s with
          fabric := { s.fabric with scrubs := s.fabric.scrubs + 1 }
          mem := { s.mem with bad := t.mem.bad, vaultEcc := t.mem.vaultEcc } })) ∧
    (∀ w, (regOf s 1).on = true → badIn s (sliceKey c.toNat 0) (2 ^ 25) = [(w, true)] → keySpace w = 1 →
      Runs (.vaultScrub c) s (fun t =>
        t.mem.vaultEcc = { s.mem.vaultEcc with
          uncorrectable := (s.mem.vaultEcc.uncorrectable + 1) % 2 ^ 32, last := globalOf s w } ∧
        Logged s t 0x3022 srcGaffer (globalOf s w) ∧
        t = { s with
          log := t.log, fabric := { s.fabric with scrubs := s.fabric.scrubs + 1 }
          mem := { s.mem with vaultEcc := t.mem.vaultEcc } })) ∧
    (∀ ch : ChannelId, (stockOf s ch.toNat).state = 2 → Runs (.stockChannelFailure ch) s (fun t =>
      stockOf t ch.toNat = { stockOf s ch.toNat with state := 3, failedInService := true } ∧
      (∀ j, j ≠ ch.toNat → stockOf t j = stockOf s j) ∧ (∀ e, interleaved t e = interleaved s e) ∧
      capacityGiB t = capacityGiB s ∧ t = { s with mem := { s.mem with stock := t.mem.stock } }))

/-! ## Compute domains -/

/-- Every domain but d stands in the state that is requested of it. -/
def Sys2Proof.Claims.SettledBut (s : State) (d : Nat) : Prop :=
  ∀ e < 16, e ≠ d → ((domOf s e).state = .on ∧ (domOf s e).request = 0) ∨
    ((domOf s e).state = .retention ∧ (domOf s e).request = 1) ∨ ((domOf s e).state = .off ∧ (domOf s e).request = 2)

/-- A drained domain goes to retention with all it holds, or, with no group on it, off: its cores are as after a reset but for their
fences. A domain that stages takes its stages one by one and after stage 8 is on; from off its scratchpads read zero. A droop
forces a domain that is on into retention and holds it there; below 600 mV it is an alarm. While the Gaffer restarts, the trip is
held for it and the domain stays. When the cause clears, a domain that is requested on stages again. -/
def Obligations.DomainStates : Prop :=
  (∀ (s : State) (d : DomainId), SettledBut s d.toNat →
    let k := domOf s d.toNat
    ((domOf s d.toNat).drain = some .retention → k.request = 1 → Runs (.domainDrainComplete d) s (fun t =>
      domOf t d.toNat = { k with drain := none, state := .retention } ∧ Logged s t 0x1023 (srcDomain d.toNat) 1 ∧
      (∀ e, e ≠ d.toNat → domOf t e = domOf s e) ∧ t = { s with power := t.power, log := t.log })) ∧
    (k.drain = some .off → k.request = 2 → holdingOn s d.toNat = [] → domGroups s d.toNat (fun x => x.state == .fenced) = [] →
      Runs (.domainDrainComplete d) s (fun t =>
        domOf t d.toNat = { k with drain := none, state := .off } ∧ Logged s t 0x1023 (srcDomain d.toNat) 2 ∧
        (∀ c ∈ domainCores d.toNat, coreOf t c =
          { Core.reset with fenced := (coreOf s c).fenced, revoking := (coreOf s c).revoking }) ∧
        (∀ c, c ∉ domainCores d.toNat → (coreOf t c).regs = (coreOf s c).regs ∧ (coreOf t c).arrQ = (coreOf s c).arrQ) ∧
        t = { s with power := t.power, log := t.log, cores := t.cores })) ∧
    (k.state = .staging → k.stage < 8 → Runs (.headerStage d) s (fun t =>
      domOf t d.toNat = { k with stage := k.stage + 1 } ∧ (∀ e, e ≠ d.toNat → domOf t e = domOf s e) ∧
      t = { s with power := t.power })) ∧
    (k.state = .staging → k.stage = 8 → k.request = 0 → Runs (.domainStagingComplete d) s (fun t =>
      domOf t d.toNat = { k with stage := 0, state := .on } ∧ Logged s t 0x1023 (srcDomain d.toNat) 0 ∧
      (∀ e, e ≠ d.toNat → domOf t e = domOf s e) ∧
      (k.fromOff = false → t.mem = s.mem) ∧
      (k.fromOff = true → (∀ c ∈ domainCores d.toNat, ∀ o, o < 2 ^ 21 → cellGet t.mem.cells (scratchKey c o) = 0) ∧
        ∀ n, (∀ c ∈ domainCores d.toNat, n < scratchKey c 0 ∨ scratchKey c (2 ^ 21) ≤ n) →
          cellGet t.mem.cells n = cellGet s.mem.cells n) ∧
      t = { s with power := t.power, log := t.log, mem := t.mem })) ∧
    (∀ mv, s.gaffer.warm = true → s.gaffer.running = false → Runs (.droopTrip (.domain d) mv) s (fun t =>
      t = { s with power := { s.power with heldTrips := (.domain d, mv) :: s.power.heldTrips } })) ∧
    (∀ mv, (s.gaffer.warm = false ∨ s.gaffer.running = true) → k.state = .on → k.request ≤ 1 →
      Runs (.droopTrip (.domain d) mv) s (fun t =>
      (domOf t d.toNat).state = .retention ∧ (domOf t d.toNat).droop = true ∧ (domOf t d.toNat).request = k.request ∧
      (domOf t d.toNat).drain = none ∧ dieTripped t d.toNat = true ∧ (∀ e, e ≠ d.toNat → domOf t e = domOf s e) ∧
      (600 ≤ mv → LastEvent t 0x1023 (srcDomain d.toNat) 1) ∧ (mv < 600 → LastEvent t 0x4001 srcGaffer mv) ∧
      t.cores = s.cores ∧ t.mem = s.mem)) ∧
    (∀ die, (regOf s 0).on = true → d.toNat / 8 = (if die = FieldDie.d0 then 0 else 1) → k.state = .retention → k.request = 0 →
      k.hot = false → stagingCount s < 2 → Runs (.droopCauseClear die) s (fun t =>
        (domOf t d.toNat).state = .staging ∧ (domOf t d.toNat).droop = false ∧ (domOf t d.toNat).stage = 0 ∧
        dieTripped t d.toNat = false ∧ (∀ x ∈ t.power.spineHeld, x.1 ≠ die) ∧ LastEvent t 0x1023 (srcDomain d.toNat) 3 ∧
        t = { s with power := t.power, log := t.log }))) ∧
  (∀ (s : State) (die : FieldDie) (seg mv : Nat), s.gaffer.warm = false ∨ s.gaffer.running = true →
    Runs (.droopTrip (.spine die seg) mv) s (fun t =>
      (die, seg) ∈ t.power.spineHeld ∧ (600 ≤ mv → Logged s t 0x2012 srcGaffer 0) ∧
      (mv < 600 → LastEvent t 0x4001 srcGaffer mv ∧ t.log.next = s.log.next + 2) ∧ t.power.domains = s.power.domains ∧
      t = { s with power := t.power, log := t.log }))

/-! ## Sensing, windows and ageing -/

/-- A sample of the sensors sets every domain's temperature and the package's; a domain above 105 °C is forced into retention. The
end of a window advances the millisecond count, adds each domain's charge to its energy, and lowers the cap by 10 mV, no further
than 620 mV, where power, current or temperature is over its limit and no governor transition runs. -/
def Obligations.SensingAndWindows : Prop :=
  (∀ (s : State) (r : SenseReadings), Settled s → r.domainTenths.length = 16 → (∀ d < 16, (domOf s d).hot = false) →
    ((∀ d < 16, r.domainTenths.getD d 0 ≤ 1050) → Runs (.senseSample r) s (fun t =>
      (∀ d < 16, domOf t d = { domOf s d with tenths := r.domainTenths.getD d 0 }) ∧ t.power.junction = r.packageTenths ∧
      (t.power.aboveAlarm = true ↔ exLess (dec32 (alarmLevel s)) (dec32 (fTenths r.packageTenths)) = true) ∧
      (t.power.aboveAlarm = true → s.power.aboveAlarm = false → Logged s t 0x2011 srcGaffer r.packageTenths.toNat) ∧
      (t.power.aboveAlarm = false ∨ s.power.aboveAlarm = true → t.log = s.log) ∧
      t = { s with power := t.power, log := t.log })) ∧
    (∀ d < 16, 1050 < r.domainTenths.getD d 0 → (domOf s d).state = .on → Runs (.senseSample r) s (fun t =>
      (domOf t d).state = .retention ∧ (domOf t d).hot = true ∧ (domOf t d).tenths = r.domainTenths.getD d 0 ∧
      (domOf t d).request = (domOf s d).request ∧ t.cores = s.cores ∧ t.mem = s.mem))) ∧
  (∀ (s : State) (r : WindowReadings),
    let lim := valNat s 0x2003 0 0 1250
    let core := (r.domainMa.take 16).sum + (r.spineMa.take 2).sum
    let other := if s.power.hold then s.power.otherUw
      else ((List.range 7).map (fun i => (regOf s (i + 1)).vout * (regOf s (i + 1)).iout)).sum
    let exceeds (t : State) : Prop := 1000 * lim < t.power.packageMw ∨
      1350000 * t.power.currents.length < t.power.currents.sum ∨ 1030 < t.power.junction
    Runs (.msWindowEnd r) s (fun t =>
      t.log.ms = s.log.ms + 1 ∧ t.power.vcoreMv = r.vcoreMv ∧ t.power.junction = r.packageTenths ∧
      t.power.packageMw = Config.roundPower (r.vcoreMv * core + other) ∧
      t.power.currents = (core :: s.power.currents).take 10 ∧
      (∀ d < 16, (domOf t d).currentMa = r.domainMa.getD d 0 ∧
        (domOf t d).energy =
          ((domOf s d).energy + ((domOf s d).energyRem + r.domainMa.getD d 0 * r.vcoreMv) / 1000000) % 2 ^ 64 ∧
        (domOf t d).energyRem = ((domOf s d).energyRem + r.domainMa.getD d 0 * r.vcoreMv) % 1000000) ∧
      (∀ q < 4, (quadOf t q).measured = r.quadMv.getD q 0) ∧
      ((∀ x, s.power.trans = some x → x.kind ≠ .vcore false) → exceeds t → t.power.cap = max 620 (s.power.cap - 10)) ∧
      (∀ x, s.power.trans = some x → x.kind = .vcore false → t.power.cap = s.power.cap)))

/-- A canary measurement of a domain that is on gives its drift in ppm, rounded toward zero (with no reference a free value, log
entry 2); the retention measurement keeps the lowest margin and logs it below 30 %, once a day; the ageing record of an hour goes
to the next free offset of the ring, and while the flash cannot be written only the hours count. -/
def Obligations.AgeingAndWear : Prop :=
  (∀ (s : State) (d : DomainId) (stressed twin : Nat),
    let den : Int := stressed * canaryRef d.toNat s.power.vcoreMv
    ((domOf s d.toNat).state = .on → Runs (.canaryMeasure d stressed twin) s (fun t =>
      (den ≠ 0 → (domOf t d.toNat).drift = Int.tdiv ((twin * 2 ^ 32 * 100 - den) * 1000000) den) ∧
      domOf t d.toNat = { domOf s d.toNat with drift := (domOf t d.toNat).drift } ∧
      (∀ e, e ≠ d.toNat → domOf t e = domOf s e) ∧ t = { s with power := t.power, freeCount := s.freeCount + 1 })) ∧
    ((domOf s d.toNat).state ≠ .on → exec (.canaryMeasure d stressed twin) s = .next s)) ∧
  (∀ (s : State) (times : List Nat), times ≠ [] → Runs (.vaultRetentionMeasure times) s (fun t =>
    (∃ x ∈ times, t.ageing.margin = retentionMargin x) ∧ (∀ x ∈ times, t.ageing.margin ≤ retentionMargin x) ∧
    (t.ageing.margin < 30 → s.ageing.loggedDay ≠ some (s.ageing.day + 1) → Logged s t 0x2014 srcGaffer t.ageing.margin) ∧
    (30 ≤ t.ageing.margin ∨ s.ageing.loggedDay = some (s.ageing.day + 1) → t.log = s.log) ∧
    t = { s with ageing := t.ageing, log := t.log })) ∧
  (∀ (s : State) (tenths : Int) (mv : Nat) (ok : List Bool),
    let hours := (s.ageing.hours + 1) % 2 ^ 32
    let weighted := (s.ageing.weighted + Config.hourWeight tenths mv) % 2 ^ 32
    (s.flash.writable = false → Runs (.ageingRecord tenths mv ok) s (fun t =>
      t = { s with ageing := { s.ageing with hours := hours, weighted := weighted } })) ∧
    (s.flash.writable = true → s.ageing.pos % 1024 ≠ 0 ∨ s.ageing.store = [] → ok.getD 0 true = true →
      Runs (.ageingRecord tenths mv ok) s (fun t =>
        (∃ r, t.ageing.store = s.ageing.store ++ [r] ∧ r.offset = ageOffset s.ageing.pos ∧ r.seq = s.ageing.seq ∧
          r.hours = hours ∧ r.weighted = weighted) ∧
        t.ageing.hours = hours ∧ t.ageing.weighted = weighted ∧ t.ageing.seq = s.ageing.seq + 1 ∧
        t.ageing.pos = (s.ageing.pos + 1) % 4096 ∧ t = { s with ageing := t.ageing, log := t.log })) ∧
    (s.flash.writable = true → s.ageing.pos % 1024 ≠ 0 → ok = [false, false, false] →
      Runs (.ageingRecord tenths mv ok) s (fun t =>
        t.ageing.pos = nextAgeBlock (nextAgeBlock s.ageing.pos) ∧ t.ageing.hours = hours ∧
        LastEvent t 0x2003 (srcField 4) (ageOffset (nextAgeBlock s.ageing.pos)) ∧
        t = { s with ageing := t.ageing, log := t.log })))

/-! ## Transitions of rails -/

/-- The VCORE_F chain's next transition from a stable value toward an effective setpoint: at most 50 mV. -/
def Sys2Proof.Claims.chainStep (committed : Bool) (stable e : Nat) : Transition :=
  { kind := .vcore committed, fromMv := stable, toMv := if stable < e then min e (stable + 50) else max e (stable - 50)
    command := true, stopSeen := false, returning := false, lost := false }

/-- The bus is the Gaffer's and idle, and no VSERDES_A step waits for it. -/
def Sys2Proof.Claims.ChainMay (s : State) : Prop := busReady s = true ∧ stepReady s = false ∧ (regOf s 0).on = true

/-- A completed VCORE_F transition leaves the rail at its value: at the setpoint event 0x1020 is logged and the chain ends, short of
it the next transition starts. At its deadline the returning command goes out; when the rail is back, or has settled after a failed
returning command, the transition counts as reverted: event 0x2010 for a commit, and the chain stops, to run once more after
100 ms. A VSERDES_A step pauses its quad's up links and commands its rail. -/
def Obligations.PowerTransitions : Prop :=
  (∀ (s : State) (x : Transition) (c : Bool), s.power.trans = some x → x.kind = .vcore c → s.pins.pmbReq = false →
    let e := effective s
    let reverts (mv : Nat) (t : State) : Prop :=
      (regOf t 0).stable = mv ∧ t.power.trans = none ∧ t.power.chain = false ∧ t.power.retry = !s.power.second ∧
      (c = true → Logged s t 0x2010 srcGaffer mv) ∧ (c = false → t.log = s.log) ∧ t = { s with power := t.power, log := t.log }
    (x.stopSeen = true → x.returning = false → x.lost = false →
      (x.toMv = e → x.toMv = valNat s 0x2000 0 0 750 → s.power.committed = true → Runs .transitionComplete s (fun t =>
        (regOf t 0).stable = x.toMv ∧ t.power.trans = none ∧ t.power.committed = false ∧
        Logged s t 0x1020 srcGaffer x.toMv ∧ t = { s with power := t.power, log := t.log })) ∧
      (x.toMv ≠ e → s.power.chain = true → ChainMay s → Runs .transitionComplete s (fun t =>
        (regOf t 0).stable = x.toMv ∧ t.power.trans = some (chainStep s.power.committed x.toMv e) ∧
        t.outputs = .pmbus .vcoreF 0x21 (chainStep s.power.committed x.toMv e).toMv :: s.outputs ∧
        t = { s with power := t.power, outputs := t.outputs })) ∧
      (x.command = true → Runs .transitionDeadline s (fun t =>
        t.power.trans = some { x with returning := true, stopSeen := false } ∧
        t.outputs = .pmbus .vcoreF 0x21 x.fromMv :: s.outputs ∧
        t = { s with power := { s.power with trans := t.power.trans }, outputs := t.outputs }))) ∧
    (x.stopSeen = true → x.returning = true → x.lost = false → s.power.again = false →
      Runs .transitionReverted s (reverts x.fromMv)) ∧
    (∀ mv, x.lost = true → s.power.again = false →
      (s.i2c.pm ≠ .stuck → Runs (.returningCommandSettle mv) s (reverts mv)) ∧
      (s.i2c.pm = .stuck → Runs (.returningCommandSettle mv) s (fun t =>
        (regOf t 0).stable = mv ∧ t.power.trans = none ∧ t.power.retry = s.power.retry ∧
        t = { s with power := t.power })))) ∧
  (∀ s : State, s.power.retry = true → s.power.trans = none → ChainMay s → (regOf s 0).stable ≠ effective s →
    Runs .chainRetry s (fun t =>
      t.power.trans = some (chainStep s.power.committed (regOf s 0).stable (effective s)) ∧ t.power.retry = false ∧
      t.power.second = true ∧
      t.outputs = .pmbus .vcoreF 0x21 (chainStep s.power.committed (regOf s 0).stable (effective s)).toMv :: s.outputs ∧
      t = { s with power := t.power, outputs := t.outputs })) ∧
  (∀ (s : State) (q : QuadId) (rest : List QuadId), s.power.waiting = q :: rest → stepPermitted s q.toNat = true →
    s.power.trans = none → busReady s = true → (quadOf s q.toNat).synth ≠ .tuning → (quadOf s q.toNat).target = 950 →
    (regOf s (quadRail q.toNat)).stable < 925 → Runs (.quadRailStep q) s (fun t =>
      t.power.trans = some
        { kind := .quad q, fromMv := (regOf s (quadRail q.toNat)).stable, toMv := 950, command := true, stopSeen := false
          returning := false, lost := false } ∧
      t.outputs.head? = some (.pmbus (railOf (quadRail q.toNat)) 0x21 950) ∧ (∀ x ∈ t.power.waiting, x ≠ q) ∧
      (quadOf t q.toNat).stepping = true ∧
      (∀ n ∈ quadLinks q.toNat, (linkOf s n).state = .up →
        linkOf t n = { linkOf s n with state := .paused, pause := some .step }) ∧
      t = { s with power := t.power, net := t.net, outputs := t.outputs }))

/-! ## The PMBus and the module bus -/

/-- What a read of a regulator's status puts on the PMBus: STATUS_WORD, the status reads that its bits call for (log entry 58), and
CLEAR_FAULTS. -/
def Sys2Proof.Claims.statusTraffic (r : Rail) (status : U16) : List Output :=
  .pmbus r 0x79 0 :: (if status.toNat.testBit 15 then [.pmbus r 0x7A 0] else []) ++
    (if status.toNat.testBit 14 then [.pmbus r 0x7B 0] else []) ++ (if status.toNat.testBit 2 then [.pmbus r 0x7D 0] else []) ++
    [.pmbus r 0x03 0]

/-- While the Gaffer owns an idle PMBus, a poll reads VOUT, IOUT and the status of every regulator, an alert the Alert Response
Address and the responder's status, each status read followed by CLEAR_FAULTS. A transaction that ends with its STOP is so marked; one that fails is tried again up to three times, and a
returning command that fails for good is lost. The bus is lent when no transition runs and given back on the release of
PMB_REQ_N. -/
def Obligations.PowerBus : Prop :=
  (∀ (s : State) (l : List RegulatorReading), busReady s = true → transacting s = false → l.length = 8 →
    Runs (.pmbusPoll l) s (fun t =>
      (∀ r x, r < 8 → l[r]? = some x →
        regOf t r = { regOf s r with vout := x.voutMv, iout := x.ioutMa, status := x.status }) ∧
      t.outputs = ((List.range 8).flatMap (fun r => match l[r]? with
        | some x => .pmbus (railOf r) 0x8B 0 :: .pmbus (railOf r) 0x8C 0 :: statusTraffic (railOf r) x.status
        | none => [])).reverse ++ s.outputs ∧
      t = { s with power := { s.power with regs := t.power.regs }, outputs := t.outputs })) ∧
  (∀ (s : State) (r : Rail) (status : U16), busReady s = true → Runs (.pmbusAlert r status) s (fun t =>
    regOf t (railNum r) = { regOf s (railNum r) with status := status } ∧
    (∀ k, k ≠ railNum r → regOf t k = regOf s k) ∧
    t.outputs = (.alertResponse :: statusTraffic r status).reverse ++ s.outputs ∧
    t = { s with power := { s.power with regs := t.power.regs }, outputs := t.outputs })) ∧
  (∀ (s : State) (x : Transition), s.power.trans = some x → s.i2c.pm = .idle →
    (s.i2c.failed = true → Runs (.pmbusRetry true) s (fun t =>
      t.i2c = { s.i2c with failed := false, retries := s.i2c.retries + 1 } ∧
      (transacting s = true → t.outputs =
        .pmbus (railOf (transRail x.kind)) 0x21 (if x.returning then x.fromMv else x.toMv) :: s.outputs) ∧
      t = { s with i2c := t.i2c, outputs := t.outputs })) ∧
    (s.i2c.failed = true → Runs (.pmbusRetry false) s (fun t =>
      t = { s with i2c := { s.i2c with pm := .recovering, pmRounds := 0, pmPulses := 0, pmCause := .retry } })) ∧
    (transacting s = true → s.i2c.failed = false →
      Runs (.pmbusTransactionEnd .stop) s (fun t => t = { s with
        power := { s.power with trans := some { x with stopSeen := true } }, i2c := { s.i2c with retries := 0 } }) ∧
      (∀ o, o ≠ .stop → s.i2c.retries < 3 → Runs (.pmbusTransactionEnd o) s (fun t =>
        t = { s with i2c := { s.i2c with failed := true } })) ∧
      (∀ o, o ≠ .stop → 3 ≤ s.i2c.retries → x.returning = true → Runs (.pmbusTransactionEnd o) s (fun t => t = { s with
        power := { s.power with trans := some { x with lost := true } }, i2c := { s.i2c with retries := 0 } })))) ∧
  (∀ s : State,
    (s.power.trans = none → busReady s = true → Runs .busLend s (fun t =>
      t.i2c = { s.i2c with lent := true, holder := 0x80000000 } ∧ t.pins = { s.pins with pmbReq := true } ∧
      t.outputs = .pmbGnt true :: s.outputs ∧ t = { s with i2c := t.i2c, pins := t.pins, outputs := t.outputs })) ∧
    (s.power.trans ≠ none → Runs .busLend s (fun t => t = { s with pins := { s.pins with pmbReq := true } })) ∧
    (s.i2c.lent = true → valNat s 0x2051 0 0 0 ≠ 1 → s.power.chain = false → Runs (.busTakeBack true) s (fun t =>
      t.i2c = { s.i2c with lent := false, holder := 0x60000000 } ∧ t.pins = { s.pins with pmbReq := false } ∧
      t.outputs = .pmbGnt false :: s.outputs ∧ t = { s with i2c := t.i2c, pins := t.pins, outputs := t.outputs })))

/-- The recovery of an I2C bus: nine pulses at most in each of up to three rounds, event 0x1070 with their number when SDA is free
again. A PMBus that stays stuck is alarm 0x4010 and starts voltage hold, which a recovery on request ends; a module bus that stays
stuck is event 0x3031. Modules that come and go are logged, a removed one's record is forgotten and its up link goes to recovery, and
a read module's record is its 128 bytes, read over the link's channel of its multiplexer, which is then closed (R786; the page-select
writes are log entry 115). -/
def Obligations.I2cAndModules : Prop :=
  (∀ (s : State) (r : I2cRound), r.sdaHighAtStart = false →
    (s.i2c.pm = .idle → s.i2c.lent = false → r.sdaHighAfter = false → Runs (.i2cRecovery .pmbus r) s (fun t =>
      t = { s with i2c := { s.i2c with
        pm := .recovering, pmRounds := 1, pmPulses := min 9 r.pulses.toNat, pmCause := .beforeTransaction } })) ∧
    (s.i2c.pm = .recovering → s.i2c.pmRounds = 2 → r.sdaHighAfter = false → s.power.trans = none →
      s.i2c.pmCause ≠ .request → Runs (.i2cRecoveryRoundWait .pmbus r) s (fun t =>
        t.i2c.pm = .stuck ∧ t.i2c.holder = 0 ∧ t.power = { s.power with hold := true } ∧
        LastEvent t 0x4010 (srcField 2) 3 ∧ t.cores = s.cores ∧ t.mem = s.mem ∧ t.dict = s.dict)) ∧
    (s.i2c.pm = .recovering → s.i2c.pmRounds ≠ 0 → r.sdaHighAfter = true → s.power.hold = true → s.i2c.pmCause = .request →
      s.i2c.failed = false → s.power.chain = false → s.pins.pmbReq = false →
      Runs (.i2cRecoveryRoundWait .pmbus r) s (fun t =>
        t.i2c = { s.i2c with pm := .idle, pmRounds := 0, pmPulses := 0, holder := 0x60000000 } ∧
        t.power = { s.power with hold := false } ∧ LastEvent t 0x1071 (srcField 2) 0)) ∧
    (s.i2c.mod = .idle → r.sdaHighAfter = true → Runs (.i2cRecovery .module r) s (fun t =>
      t.i2c = { s.i2c with mod := .idle, modRounds := 0, modPulses := 0 } ∧
      Logged s t 0x1070 (srcField 3) (min 9 r.pulses.toNat) ∧ t = { s with i2c := t.i2c, log := t.log })) ∧
    (s.i2c.mod = .recovering → s.i2c.modRounds = 2 → r.sdaHighAfter = false →
      Runs (.i2cRecoveryRoundWait .module r) s (fun t =>
        t.i2c = { s.i2c with mod := .stuck, modRounds := 0, modPulses := 0 } ∧ Logged s t 0x3031 (srcField 3) 3 ∧
        t = { s with i2c := t.i2c, log := t.log })) ∧
    (s.i2c.mod = .stuck → r.sdaHighAfter = true → Runs (.moduleBusRetry r) s (fun t =>
      t.i2c = { s.i2c with mod := .idle, modRounds := 0, modPulses := 0 } ∧
      Logged s t 0x1070 (srcField 3) (min 9 r.pulses.toNat) ∧ t = { s with i2c := t.i2c, log := t.log }))) ∧
  (∀ (s : State) (n : LinkId) (l : List Byte),
    (present s n.toNat = false → Runs (.moduleInserted n) s (fun t =>
      present t n.toNat = true ∧ (∀ k, k < 16 → k ≠ n.toNat → present t k = present s k) ∧
      Logged s t 0x1033 (srcLink n.toNat) 0 ∧
      t = { s with log := t.log, i2c := { s.i2c with present := t.i2c.present } })) ∧
    (present s n.toNat = true → (linkOf s n.toNat).state = .up → Runs (.moduleRemoved n) s (fun t =>
      present t n.toNat = false ∧ (∀ k, k < 16 → k ≠ n.toNat → present t k = present s k) ∧
      tfind t.i2c.modules n.toNat = none ∧ (linkOf t n.toNat).state = .recovery ∧
      (linkOf t n.toNat).unacked = (linkOf s n.toNat).unacked ∧ LastEvent t 0x1031 (srcLink n.toNat) 1 ∧
      t.log.next = s.log.next + 2)) ∧
    (present s n.toNat = true → s.i2c.mod = .idle → l.length = 128 → Runs (.moduleRead n l) s (fun t =>
      tfind t.i2c.modules n.toNat = some l ∧
      t.outputs = [.moduleWrite (0x70 + n.toNat / 8) [0x00], .moduleFetch 0x50 128 32, .moduleWrite 0x50 [127, 0x11],
        .moduleFetch 0x50 129 32, .moduleWrite 0x50 [127, 0x00], .moduleFetch 0x50 0 64,
        .moduleWrite (0x70 + n.toNat / 8) [BitVec.ofNat 8 (2 ^ (n.toNat % 8))]] ++ s.outputs ∧
      t = { s with i2c := { s.i2c with modules := t.i2c.modules }, outputs := t.outputs })))

/-! ## Pass links -/

/-- A mode word of a kind is received on link n: its CRC holds and the link is not up. -/
def Sys2Proof.Claims.HearsWord (s : State) (n : LinkId) (w : U64) (kind : Nat) : Prop :=
  mwOk w.toNat = true ∧ mwKind w.toNat = kind ∧ (linkOf s n.toNat).state ≠ .up

/-- Link n became l; the other links stay, and outside links, quads and the power queue only the outputs may have changed. -/
def Sys2Proof.Claims.LinkBecomes (s t : State) (n : Nat) (l : Link) : Prop :=
  linkOf t n = l ∧ (∀ k, k ≠ n → linkOf t k = linkOf s k) ∧
    t = { s with
      net := { s.net with links := t.net.links, quads := t.net.quads }
      power := { s.power with waiting := t.power.waiting }, outputs := t.outputs }

/-- Kickoff (R617 to R622, R659). A link that gets signal holds before bit 4 of 0x1021 and offers after it. An offer records the
partner and chooses the first common candidate, or fails the kickoff; a holding link answers with a hold word of hint 50. The choice
of that candidate starts its training, and one at 224 Gb/s raises its quad's target. After training, confirm words are sent; the
link is up once both sides have confirmed. A timeout goes to the next candidate, or fails. A hold word delays the offers. -/
def Obligations.Kickoff : Prop :=
  ∀ (s : State) (n : LinkId) (w : U64),
    let l := linkOf s n.toNat
    let q := quadOfLink n.toNat
    let offers (t : State) : Prop := LinkBecomes s t n.toNat { l with
        state := .offering, mode := none, cands := [], confirming := false, confirmSeen := false, hinted := false, pause := none
        signal := (linkOf t n.toNat).signal } ∧
      t.outputs = .modeWord n.toNat (modeWord s n.toNat 1 noCand 0) false :: s.outputs
    (HearsWord s n w 1 → l.state = .offering → l.recovering = false →
      (∀ c rest, candidates (offered s n.toNat) (mwOffer w.toNat) = c :: rest → Runs (.modeWordOffer n w) s (fun t =>
        LinkBecomes s t n.toNat { l with partner := mwPartner w.toNat, cands := c :: rest, hinted := false } ∧
        t.outputs = .modeWord n.toNat (modeWord s n.toNat 2 c 0) false :: s.outputs)) ∧
      (candidates (offered s n.toNat) (mwOffer w.toNat) = [] → Runs (.modeWordOffer n w) s (fun t =>
        LinkBecomes s t n.toNat
          { l with partner := mwPartner w.toNat, cands := [], hinted := false, state := .kickoffFailed }))) ∧
    (HearsWord s n w 1 → l.state = .holding → Runs (.modeWordOffer n w) s (fun t =>
      t = { s with outputs := .modeWord n.toNat (modeWord s n.toNat 4 noCand 50) false :: s.outputs })) ∧
    (∀ c rest, HearsWord s n w 2 → l.state = .offering → l.cands = c :: rest → mwChoice w.toNat = c →
      (quadOf s q).synth ≠ .failed → Runs (.modeWordChoice n w) s (fun t =>
        LinkBecomes s t n.toNat { l with
          mode := some c, confirming := false, confirmSeen := false
          state := if (quadOf s q).synth = .tuning then .awaitingTune else .training } ∧
        (c.mode = 3 → (quadOf s q).synth ≠ .tuning → (quadOf s q).stepping = false → (quadOf t q).target = 950))) ∧
    (HearsWord s n w 3 → l.state = .training → l.confirming = false → Runs (.modeWordConfirm n w) s (fun t =>
      LinkBecomes s t n.toNat { l with confirmSeen := true })) ∧
    (HearsWord s n w 3 → l.state = .training → l.confirming = true → l.recovering = false → l.unacked = [] → l.txq = [] →
      Runs (.modeWordConfirm n w) s (fun t =>
        linkOf t n.toNat = { l with
          txSeq := 0, rxSeq := 0, rxAny := false, spent := [], owed := [], taken := [], part := [], skip := [], shareDue := 0
          state := .up, confirming := false, confirmSeen := false, asked := false, pause := none, vc1First := true } ∧
        (∀ k, k ≠ n.toNat → linkOf t k = linkOf s k) ∧
        Logged s t 0x1030 (srcLink n.toNat) ((l.mode.getD noCand).mode + 2 ^ (l.mode.getD noCand).width * 256 +
          b2n (l.mode.getD noCand).deep * 65536))) ∧
    (HearsWord s n w 4 → l.state = .offering → Runs (.modeWordHold n w) s (fun t =>
      LinkBecomes s t n.toNat { l with hinted := true, cands := [] })) ∧
    (l.state = .offering → l.hinted = true → Runs (.holdHintExpiry n) s (fun t =>
      LinkBecomes s t n.toNat { l with hinted := false } ∧
      t.outputs = .modeWord n.toNat (modeWord s n.toNat 1 noCand 0) false :: s.outputs)) ∧
    (∀ c rest, l.state = .training → l.cands = c :: rest →
      (rest = [] → Runs (.kickoffConfirmTimeout n) s (fun t =>
        LinkBecomes s t n.toNat { l with
          cands := [], mode := none, confirming := false, confirmSeen := false, state := .kickoffFailed })) ∧
      (∀ c' rest', rest = c' :: rest' → Runs (.kickoffConfirmTimeout n) s (fun t =>
        LinkBecomes s t n.toNat { l with
          cands := rest, mode := none, confirming := false, confirmSeen := false, state := .offering } ∧
        t.outputs = .modeWord n.toNat (modeWord t n.toNat 2 c' 0) false :: s.outputs))) ∧
    (l.state = .kickoffFailed → Runs (.kickoffRetry n) s offers) ∧
    (l.state = .down → present s n.toNat = true → ready s 4 = true → Runs (.linkSignalDetect n) s offers) ∧
    (l.state = .down → present s n.toNat = true → ready s 4 = false → Runs (.linkSignalDetect n) s (fun t =>
      LinkBecomes s t n.toNat { l with signal := true, state := .holding })) ∧
    (∀ c, l.state = .training → l.mode = some c → (quadOf s q).stepping = false → (c.mode = 3 → quadMv s q = 950) →
      l.confirmSeen = false → Runs (.equalisationTrainingComplete n) s (fun t =>
        LinkBecomes s t n.toNat { l with confirming := true } ∧
        t.outputs = .modeWord n.toNat (modeWord s n.toNat 3 c 0) true :: s.outputs))

/-- A link is up, nothing waits to be sent on it and it owes no credit. -/
def Sys2Proof.Claims.QuietUp (l : Link) : Prop := l.state = .up ∧ l.pause = none ∧ l.txq = [] ∧ l.owed = []

/-- A flit of type ty with a good CRC that carries neither an ack nor a credit. -/
def Sys2Proof.Claims.PlainFlit (bytes : List Byte) (ty : Nat) : Prop :=
  flitOk bytes = true ∧ (flitOf bytes).ftype = ty ∧ (flitOf bytes).ackValid = false ∧ (flitOf bytes).crCount = 0

/-- The flits that go out again on link n when the unacknowledged ones from the k-th on are resent. -/
def Sys2Proof.Claims.resent (l : Link) (n k : Nat) : List Output :=
  (l.unacked.drop k).map (fun x =>
    .flit n { x.flit with ackValid := l.rxAny, ack := l.rxSeq - 1, crPool := 0, crCount := 0 })

/-- Flits of an up link (R624 to R640). The next expected packet flit is taken and acknowledged, and a packet of one flit for this
package is then in its buffer; any other sequence is not taken, and a later one asks for a replay, as a flit with a bad CRC does. An
ack frees what it names and a credit return restores credits. A replay request and the timeout resend the unacknowledged flits in
order; a request outside the window takes the link through recovery, with them kept. A foul is counted, kept and logged. A pause and a down are obeyed, and a pause ends. -/
def Obligations.LinkFlits : Prop :=
  ∀ (s : State) (n : LinkId) (bytes : List Byte),
    let l := linkOf s n.toNat
    let f := flitOf bytes
    (PlainFlit bytes 0 → QuietUp l → f.seq = l.rxSeq → f.first = true → f.last = true → f.dst = ownPkg s →
      ¬(f.response = true ∧ (f.vc = 0 ∨ f.vc = 3)) → tget l.taken f.pool 0 < poolSize f.pool → tget l.part f.pool [] = [] →
      (f.vc = 3 ∨ fieldAt f.payload 4 2 ≤ 224) →
      packetFoul s (packetOf [f]) (if f.vc = 3 then 0 else fieldAt f.payload 4 2) = none →
      tenantResetting s (packetOf [f]).tenant = false → Runs (.packetFlit n bytes) s (fun t =>
        t.net.inbox = s.net.inbox ++ [(n.toNat, packetOf [f])] ∧
        (linkOf t n.toNat).rxSeq = l.rxSeq + 1 ∧ (linkOf t n.toNat).flitsRecv = (l.flitsRecv + 1) % 2 ^ 64 ∧
        t.outputs = .flit n.toNat { blankFlit with ackValid := true, ack := f.seq } :: s.outputs ∧
        (∀ k, k ≠ n.toNat → linkOf t k = linkOf s k) ∧
        t = { s with net := { s.net with links := t.net.links, inbox := t.net.inbox }, outputs := t.outputs })) ∧
    (PlainFlit bytes 0 → QuietUp l → f.seq ≠ l.rxSeq → Runs (.packetFlit n bytes) s (fun t =>
      t.net.inbox = s.net.inbox ∧ (linkOf t n.toNat).rxSeq = l.rxSeq ∧
      t.outputs = (if (l.rxSeq - f.seq).toNat < 2 ^ 15 ∨ l.asked = true then s.outputs
        else .askReplay n.toNat l.rxSeq :: s.outputs))) ∧
    (flitOk bytes = false → l.state = .up → Runs (.nullFlit n bytes) s (fun t =>
      (linkOf t n.toNat).crcErrors = (l.crcErrors + 1) % 2 ^ 64 ∧ (linkOf t n.toNat).asked = true ∧
      t.outputs = (if l.asked then s.outputs else .askReplay n.toNat l.rxSeq :: s.outputs))) ∧
    (flitOk bytes = true → f.ftype = 1 → QuietUp l → f.ackValid = true → (f.ack - baseSeq l + 1).toNat ≤ l.unacked.length →
      f.crPool ≤ 5 → f.crCount ≤ tget l.spent f.crPool 0 →
      Runs (.nullFlit n bytes) s (fun t =>
        (linkOf t n.toNat).unacked = l.unacked.drop (f.ack - baseSeq l + 1).toNat ∧
        tget (linkOf t n.toNat).spent f.crPool 0 = tget l.spent f.crPool 0 - f.crCount ∧
        (∀ p, p ≠ f.crPool → tget (linkOf t n.toNat).spent p 0 = tget l.spent p 0) ∧
        (∀ k, k ≠ n.toNat → linkOf t k = linkOf s k) ∧ t = { s with net := { s.net with links := t.net.links } })) ∧
    (flitOk bytes = true → f.ftype = 2 → QuietUp l → f.crCount = 0 →
      ((f.ack - baseSeq l).toNat ≤ l.unacked.length → Runs (.replayRequest n bytes) s (fun t =>
        t.outputs = (resent l n.toNat (f.ack - baseSeq l).toNat).reverse ++ s.outputs ∧
        (linkOf t n.toNat).unacked = l.unacked)) ∧
      (l.unacked.length < (f.ack - baseSeq l).toNat → Runs (.replayRequest n bytes) s (fun t =>
        (linkOf t n.toNat).state = (if present s n.toNat then .offering else .recovery) ∧
        (present s n.toNat = true → (linkOf t n.toNat).recovering = true) ∧ (linkOf t n.toNat).unacked = l.unacked ∧
        ((eventBudget s l.sentLog).1 = true → Logged s t 0x2031 (srcLink n.toNat) 0x010A)))) ∧
    (QuietUp l → Runs (.replayTimeout n) s (fun t =>
      t.outputs = (resent l n.toNat 0).reverse ++ s.outputs ∧ (linkOf t n.toNat).unacked = l.unacked ∧
      (linkOf t n.toNat).replays % 2 ^ 64 = (l.replays + l.unacked.length) % 2 ^ 64 ∧
      t = { s with net := { s.net with links := t.net.links }, outputs := t.outputs })) ∧
    (PlainFlit bytes 3 → QuietUp l → f.seq = l.rxSeq → Runs (.foulFlit n bytes) s (fun t =>
      (linkOf t n.toNat).fouls = (l.fouls + 1) % 2 ^ 32 ∧
      (linkOf t n.toNat).lastFoul = BitVec.ofNat 16 (fieldAt f.payload 0 2) ∧ (linkOf t n.toNat).rxSeq = l.rxSeq + 1 ∧
      ((eventBudget s l.recvLog).1 = true → Logged s t 0x2030 (srcLink n.toNat) (fieldAt f.payload 0 2)) ∧
      ((eventBudget s l.recvLog).1 = false → t.log = s.log))) ∧
    (PlainFlit bytes 4 → QuietUp l → fieldAt f.payload 0 1 = 1 → Runs (.linkControlPause n bytes) s (fun t =>
      linkOf t n.toNat = { l with state := .paused, pause := some .partner, vc1First := true } ∧
      (∀ k, k ≠ n.toNat → linkOf t k = linkOf s k) ∧ t = { s with net := { s.net with links := t.net.links } })) ∧
    (PlainFlit bytes 4 → QuietUp l → fieldAt f.payload 0 1 = 2 → Runs (.linkControlDown n bytes) s (fun t =>
      (linkOf t n.toNat).state = .down ∧ (linkOf t n.toNat).mode = none ∧ (linkOf t n.toNat).unacked = [] ∧
      Logged s t 0x1031 (srcLink n.toNat) 3)) ∧
    (l.state = .paused → l.pause = some .partner → l.txq = [] → l.owed = [] → Runs (.pauseEnd n) s (fun t =>
      linkOf t n.toNat = { l with state := .up, pause := none, vc1First := true } ∧
      (∀ k, k ≠ n.toNat → linkOf t k = linkOf s k) ∧ t = { s with net := { s.net with links := t.net.links } }))

/-- An up link that loses signal or presence goes to recovery with its replay buffer and logs it; when both return it offers again
with the buffer kept; if they do not, it is down and gives its flits back. A mode word on an up link starts its recovery too. A packet
in the crossbar leaves on its route's link with one more hop, its buffer's credits owed to the link it came in on; it stays while it
would have to cross the field dies and they let no transit through; one without a route is answered undeliverable, with the reason
it carries. -/
def Obligations.RecoveryAndRouting : Prop :=
  (∀ (s : State) (n : LinkId),
    let l := linkOf s n.toNat
    (l.state = .up → ∀ presence : Bool, Runs (.lossOfSignal n presence) s (fun t =>
      linkOf t n.toNat = { l with state := .recovery, signal := false, pause := none } ∧
      (∀ k, k ≠ n.toNat → linkOf t k = linkOf s k) ∧
      Logged s t 0x1031 (srcLink n.toNat) (if presence then 1 else 0) ∧
      t = { s with log := t.log, net := { s.net with links := t.net.links } })) ∧
    (l.state = .recovery → present s n.toNat = true → Runs (.signalReturn n) s (fun t =>
      LinkBecomes s t n.toNat { l with
        state := .offering, mode := none, cands := [], confirming := false, confirmSeen := false, hinted := false
        pause := none, signal := true, recovering := true } ∧
      ∃ w : U64, t.outputs = .modeWord n.toNat w false :: s.outputs ∧ mwKind w.toNat = 1)) ∧
    (∀ w : U64, l.state = .up → mwOk w.toNat = true → Runs (.modeWordOffer n w) s (fun t =>
      (linkOf t n.toNat).state = (if present s n.toNat then .offering else .recovery) ∧
      (linkOf t n.toNat).unacked = l.unacked ∧ (linkOf t n.toNat).txq = l.txq ∧
      (∀ k, k ≠ n.toNat → linkOf t k = linkOf s k) ∧
      ((eventBudget s l.sentLog).1 = true → Logged s t 0x2031 (srcLink n.toNat) 0x0202))) ∧
    (l.state = .recovery → Runs (.recoveryExpiry n) s (fun t =>
      (linkOf t n.toNat).state = .down ∧ (linkOf t n.toNat).unacked = [] ∧ (linkOf t n.toNat).txq = [] ∧
      (linkOf t n.toNat).recovering = false ∧ (∀ k, k ≠ n.toNat → linkOf t k = linkOf s k) ∧
      Logged s t 0x1031 (srcLink n.toNat) 4 ∧
      t = { s with log := t.log, net := t.net, power := { s.power with waiting := t.power.waiting } }))) ∧
  (∀ (s : State) (h : Held) (rest : List Held), s.net.xbar = h :: rest →
    (∀ n, packetRoute s h.packet = .link n → hasQueue s n h.packet = true → h.fromLink ≠ some n →
      (∀ m, h.fromLink = some m → m / 8 = n / 8 ∨ transitPasses s = true) → Runs .flitForward s (fun t =>
        t.net.xbar = rest ∧
        (linkOf t n).unacked.length + (linkOf t n).txq.length =
          (linkOf s n).unacked.length + (linkOf s n).txq.length + (packetFlits h.packet).length ∧
        (∀ m, h.fromLink = some m → m < 16 →
          tget (linkOf t m).owed (poolOf h.packet.vc h.packet.response) 0 =
            tget (linkOf s m).owed (poolOf h.packet.vc h.packet.response) 0 + h.packet.flits) ∧
        t = { s with net := { s.net with xbar := rest, links := t.net.links }, outputs := t.outputs })) ∧
    (∀ n m, rest = [] → packetRoute s h.packet = .link n → h.fromLink = some m → m / 8 ≠ n / 8 → transitPasses s = false →
      exec .flitForward s = .next s) ∧
    (packetRoute s h.packet = .none → h.fromLink = none → h.packet.op = 0x20 → h.packet.vc = 2 →
      tenantResetting s h.packet.tenant = false →
      let p := h.packet
      let a : Packet :=
        { vc := 2, response := true, dst := p.src, src := ownPkg s, hops := 0, op := 0x2F, wantsAnswer := false
          tenant := p.tenant, tag := p.tag, arg := p.arg, body := leBytes 1 h.reason }
      Runs .flitForward s (fun t =>
        (p.src = ownPkg s → t = { s with net := { s.net with xbar := rest, inbox := s.net.inbox ++ [(16, a)] } }) ∧
        (p.src ≠ ownPkg s →
          t = { s with net := { s.net with xbar := rest ++ [{ packet := a, fromLink := none }] } }))))

/-- A quad's synthesiser. When it locks, links that awaited it train, failed ones offer and paused ones go on; when it does not lock
in time, every link that is not disabled fails to tune, with an event each; a failed one is tried again. It recalibrates when the
temperature has moved by more than 8 °C, with a pause of 20 µs at its deadline, and event 0x1032 tells the pause. -/
def Obligations.QuadSynthesisers : Prop :=
  ∀ (s : State) (q : QuadId),
    let k := quadOf s q.toNat
    let links := quadLinks q.toNat
    (k.synth = .tuning → Runs (.synthesiserLocked q) s (fun t =>
      (quadOf t q.toNat).synth = .locked ∧
      (∀ n ∈ links, (linkOf t n).state = match (linkOf s n).state with
        | .awaitingTune => .training
        | .failedToTune => .offering
        | .paused => if (linkOf s n).pause = some .partner then .paused else .up
        | x => x) ∧
      (∀ n, n ∉ links → linkOf t n = linkOf s n) ∧ t.log = s.log)) ∧
    (k.synth = .tuning → Runs (.synthesiserTuneTimeout q) s (fun t =>
      (quadOf t q.toNat).synth = .failed ∧
      (∀ n ∈ links, (linkOf s n).state ≠ .disabled → (linkOf t n).state = .failedToTune ∧ (linkOf t n).unacked = [] ∧
        (linkOf t n).txq = []) ∧
      (∀ n, (n ∉ links ∨ (linkOf s n).state = .disabled) → linkOf t n = linkOf s n) ∧
      t.log.next = s.log.next + BitVec.ofNat 32 (links.filter (fun n => (linkOf s n).state != .disabled)).length)) ∧
    (k.synth = .failed → Runs (.synthesiserRetry q) s (fun t =>
      quadOf t q.toNat = { k with synth := .tuning } ∧ (∀ p, p ≠ q.toNat → quadOf t p = quadOf s p) ∧
      t = { s with net := { s.net with quads := t.net.quads } })) ∧
    (∀ x : Int, k.synth = .locked →
      (80 < (x - k.calTenths).natAbs → Runs (.quadRecalibration q x) s (fun t =>
        quadOf t q.toNat = { k with synth := .recalibrating, calTenths := x } ∧
        (∀ p, p ≠ q.toNat → quadOf t p = quadOf s p) ∧ t = { s with net := { s.net with quads := t.net.quads } })) ∧
      ((x - k.calTenths).natAbs ≤ 80 → exec (.quadRecalibration q x) s = .next s)) ∧
    (k.synth = .recalibrating → Runs (.recalibrationDeadline q) s (fun t =>
      (∀ n ∈ links, (linkOf s n).state = .up →
        linkOf t n = { linkOf s n with state := .paused, pause := some .recalibration } ∧ .control n 1 20 ∈ t.outputs) ∧
      (∀ n, n ∉ links → linkOf t n = linkOf s n) ∧
      t = { s with net := { s.net with links := t.net.links }, outputs := t.outputs })) ∧
    (∀ us, k.synth = .recalibrating → Runs (.recalibrationComplete q us) s (fun t =>
      (quadOf t q.toNat).synth = .locked ∧ (quadOf t q.toNat).recals = (k.recals + 1) % 2 ^ 32 ∧
      (∀ n ∈ links, (linkOf s n).pause = some .recalibration → (linkOf t n).state = .up ∧ (linkOf t n).pause = none) ∧
      Logged s t 0x1032 srcGaffer (if ∃ n ∈ links, (linkOf s n).pause = some .recalibration then us else 0)))

/-! ## Packets of other packages -/

/-- No word of memory is in error, and no stock channel has failed in service. -/
structure Sys2Proof.Claims.MemWhole (s : State) : Prop where
  words : s.mem.bad = []
  channels : ∀ e ∈ s.mem.stock, e.2.failedInService = false

/-- The one packet received is p on a port, from another package, with operation op on virtual channel vc, as a request or a
response; no reset of its tenant runs here. -/
structure Sys2Proof.Claims.Received (s : State) (port : Nat) (p : Packet) (op vc : Nat) (response : Bool) : Prop where
  only : s.net.inbox = [(port, p)]
  op : p.op = op
  channel : p.vc = vc ∧ p.response = response
  away : p.src ≠ ownPkg s
  kept : vc = 0 ∨ tenantResetting s p.tenant = false

/-- The answer to a packet: its virtual channel, tag, tenant and argument, back to its source (R632, R636). -/
def Sys2Proof.Claims.reply (s : State) (p : Packet) (op : Nat) (body : List Byte) : Held :=
  { packet := { vc := p.vc, response := p.vc != 0, dst := p.src, src := ownPkg s, hops := 0, op := op, wantsAnswer := false
                tenant := p.tenant, tag := p.tag, arg := p.arg, body := body }, fromLink := none }

/-- The packet is taken from its buffer, whose credits are owed to the link, and `out` is what goes out. -/
structure Sys2Proof.Claims.Taken (s t : State) (port : Nat) (p : Packet) (out : List Held) : Prop where
  inbox : t.net.inbox = []
  sent : t.net.xbar = s.net.xbar ++ out
  credit : port < 16 → tget (linkOf t port).owed (poolOf p.vc p.response) 0 =
    tget (linkOf s port).owed (poolOf p.vc p.response) 0 + flitsOf p.body.length
  links : ∀ n, n ≠ port → linkOf t n = linkOf s n

/-- Requests of another package (R206 to R213, R260, R636): a message fills its sender's slot, a tile write writes its bytes, a
reservation takes a slot of an open mailbox, an unreserve returns it, a read answers the bytes and a write performs them; the
answer carries the status, and nothing else changes. A message without a slot is refused with 5, a full mailbox with 1, a tile to a
core that takes none with its status. A message is numbered from the start of its receiver's group (log entry 35); a reservation from
another package names no group (log entry 95); reads of the operator context count as loads (log entry 52). -/
def Obligations.PacketRequests : Prop :=
  ∀ (s : State) (port : BitVec 5) (p : Packet),
    let dst := p.arg / 2 ^ 21 % 1024
    let tag := fieldAt p.body 4 4
    let mb := fieldAt p.body 0 1
    let status (v : Nat) : List Held := if p.wantsAnswer then [reply s p 0x18 (leBytes 1 v)] else []
    let boxes (t : State) : Prop := t = { s with cores := t.cores, net := t.net } ∧
      (∀ k, (coreOf t k).regs = (coreOf s k).regs ∧ (coreOf t k).pc = (coreOf s k).pc)
    (Received s port.toNat p 0x10 1 false →
      let m := msgOf p.body
      let b := fieldAt p.body 0xA 1 % 16
      destStatus s dst m.tenant.toNat = 0 →
      (∀ r, findSlot s dst b m.pkg.toNat m.core.toNat = some r → Runs (.messagePacket port) s (fun t =>
        Taken s t port.toNat p (status 0) ∧ boxes t ∧
        boxOf t dst b = { boxOf s dst b with
          reserved := (boxOf s dst b).reserved.erase r, placed := (boxOf s dst b).placed ++
            [{ m with num := m.seq - tget (coreOf s dst).seqBase (senderKey m.pkg.toNat m.core.toNat b) 0 }] } ∧
        ∀ e k, (e, k) ≠ (dst, b) → boxOf t e k = boxOf s e k)) ∧
      (findSlot s dst b m.pkg.toNat m.core.toNat = none → Runs (.messagePacket port) s (fun t =>
        Taken s t port.toNat p (status 5) ∧ t.cores = s.cores))) ∧
    (∀ o, Received s port.toNat p 0x11 1 false → (splitAddr s p.arg).2 = (0, dst * 2 ^ 21 + o) → p.body ≠ [] →
      o + p.body.length ≤ 2 ^ 21 →
      (destStatus s dst p.tenant = 0 → badIn s (scratchKey dst o) p.body.length = [] →
        Runs (.tileWritePacket port) s (fun t =>
          Taken s t port.toNat p (status 0) ∧ cellRead t.mem.cells (scratchKey dst o) p.body.length = p.body ∧
          OtherBytes s t (scratchKey dst o) p.body.length ∧ t = { s with mem := t.mem, net := t.net })) ∧
      (destStatus s dst p.tenant ≠ 0 → Runs (.tileWritePacket port) s (fun t =>
        Taken s t port.toNat p (status (destStatus s dst p.tenant)) ∧ t = { s with net := t.net }))) ∧
    (Received s port.toNat p 0x12 1 false → destStatus s dst p.tenant = 0 →
      ((coreOf s dst).closed = false → (boxOf s dst mb).used < 8 → Runs (.reservePacket port) s (fun t =>
        Taken s t port.toNat p (status 0) ∧ boxes t ∧
        boxOf t dst mb = { boxOf s dst mb with reserved := (boxOf s dst mb).reserved ++
          [(BitVec.ofNat 13 (tag / 2 ^ 10), BitVec.ofNat 10 tag, none, BitVec.ofNat 12 p.tenant)] } ∧
        ∀ e k, (e, k) ≠ (dst, mb) → boxOf t e k = boxOf s e k)) ∧
      (8 ≤ (boxOf s dst mb).used → Runs (.reservePacket port) s (fun t =>
        Taken s t port.toNat p (status 1) ∧ t.cores = s.cores))) ∧
    (∀ r, Received s port.toNat p 0x13 1 false → findSlot s dst mb (tag / 2 ^ 10 % 2 ^ 13) (tag % 2 ^ 10) = some r →
      Runs (.unreservePacket port) s (fun t =>
        Taken s t port.toNat p (status 0) ∧ boxes t ∧
        boxOf t dst mb = { boxOf s dst mb with reserved := (boxOf s dst mb).reserved.erase r } ∧
        ∀ e k, (e, k) ≠ (dst, mb) → boxOf t e k = boxOf s e k)) ∧
    (∀ sp o, p.tenant = 0 → (splitAddr s p.arg).2 = (sp, o) → sp < 3 →
      (let n := fieldAt p.body 0 4
       Received s port.toNat p 0x20 2 false → 0 < n → p.arg % 2 ^ 21 + n ≤ 2 ^ 21 → physCheck s sp o n .operatorLoad = none →
       badIn s (memKey sp o) n = [] → (sp = 2 → failedStock s o n = none) → Runs (.readPacket port) s (fun t =>
        Taken s t port.toNat p [reply s p 0x28 (cellRead s.mem.cells (memKey sp o) n)] ∧ t = { s with net := t.net })) ∧
      (let n := p.body.length
       Received s port.toNat p 0x21 2 false → 0 < n → p.arg % 2 ^ 21 + n ≤ 2 ^ 21 → physCheck s sp o n .engine = none →
       (sp = 2 → drainHolds s o n = false) → badIn s (memKey sp o) n = [] → (sp = 2 → failedStock s o n = none) → NoRelease s (memKey sp o) n →
       (sp = 2 → ∀ k < 8, isHome s k = false) → Runs (.writePacket port) s (fun t =>
        Taken s t port.toNat p (if p.wantsAnswer then [reply s p 0x29 []] else []) ∧
        cellRead t.mem.cells (memKey sp o) n = p.body ∧ OtherBytes s t (memKey sp o) n ∧
        t = { s with mem := t.mem, net := t.net })))

/-- Core c's instruction ends with the answer it waited for: its pc moves on and the answer is no longer awaited. -/
def Sys2Proof.Claims.Ends (s t : State) (c tag : Nat) : Prop :=
  (coreOf t c).pc = (coreOf s c).pc + 4 ∧ (coreOf t c).waiting = [] ∧ tfind t.net.out tag = none ∧
    (∀ k, k ≠ c → coreOf t k = coreOf s k)

/-! ## Notices and the tenant reset -/

/-- Answers that a core waits for: a granted reservation is held and its status is in its register; a load has its bytes; a store
has been performed; an undeliverable transfer raises fault 0x0601 with the package that could not be reached (R644), or 0x0205 where
its reason says that the target refused its rights (the reasons 0x40 to 0x4F are the model's choice, log entry 48). A revocation
notice of a core's tag leaves no slot that the core reserved and no lease it holds, and is acknowledged; the acknowledgement of a
notice is awaited no more (R360, R361). A tenant-gone notice faults the tenant's running groups with 0x0602 and is acknowledged.
Step 4 of a tenant reset ends when every package has answered, or the silent ones are logged; step 5 closes the tenant's streams;
at the end its cores' scratchpads read zero and event 0x1053 is logged (R363 to R371). -/
def Obligations.AnswersAndNotices : Prop :=
  (∀ (s : State) (port : BitVec 5) (p : Packet) (c : CoreId), (coreOf s c.toNat).waiting = [p.tag] →
    let body := fieldAt p.body 0 1
    (∀ d pkg dst mb, Received s port.toNat p 0x18 1 true → tfind s.net.out p.tag = some (.core c (.reserve d pkg dst mb)) →
      Runs (.sendStatusPacket port) s (fun t => Taken s t port.toNat p [] ∧ Ends s t c.toNat p.tag ∧
        (d ≠ 0 → sreg t c.toNat d = BitVec.ofNat 64 body) ∧ (∀ r, r ≠ d → sreg t c.toNat r = sreg s c.toNat r) ∧
        (coreOf t c.toNat).resv = (coreOf s c.toNat).resv ++ (if body = 0 then
          [{ pkg := BitVec.ofNat 13 pkg, core := BitVec.ofNat 10 dst, mailbox := BitVec.ofNat 4 mb }] else []) ∧
        t = { s with cores := t.cores, net := t.net })) ∧
    (∀ d a, Received s port.toNat p 0x28 2 true → tfind s.net.out p.tag = some (.core c (.load d 8 a)) →
      Runs (.readDataPacket port) s (fun t => Taken s t port.toNat p [] ∧ Ends s t c.toNat p.tag ∧
        (d ≠ 0 → sreg t c.toNat d = BitVec.ofNat 64 (leNat p.body)) ∧ (∀ r, r ≠ d → sreg t c.toNat r = sreg s c.toNat r) ∧
        t = { s with cores := t.cores, net := t.net })) ∧
    (∀ a, Received s port.toNat p 0x29 2 true → p.tag ≠ 0 → tfind s.net.out p.tag = some (.core c (.store a)) →
      Runs (.writeDonePacket port) s (fun t => Taken s t port.toNat p [] ∧ Ends s t c.toNat p.tag ∧
        (coreOf t c.toNat).regs = (coreOf s c.toNat).regs ∧ t = { s with cores := t.cores, net := t.net })) ∧
    (∀ d shift a g (code : Nat), Received s port.toNat p 0x2F 2 true → p.tag ≠ 0 →
      tfind s.net.out p.tag = some (.core c (.load d shift a)) → runningGroup s c.toNat = some g → (groupOf s g).saving = false →
      (body < 0x20 ∧ code = 0x0601 ∨ 0x40 ≤ body ∧ body < 0x50 ∧ code = 0x0205) →
      Runs (.undeliverablePacket port) s (fun t =>
        (groupOf t g).state = .fenced ∧ (groupOf t g).lastFault = BitVec.ofNat 16 code ∧ LastEvent t 0x3011 (srcGroup g) code ∧
        (coreOf t c.toNat).waiting = [] ∧ (coreOf t c.toNat).pc = (coreOf s c.toNat).pc ∧ tfind t.net.out p.tag = none))) ∧
  ((∀ (s : State) (port : BitVec 5) (p : Packet),
    (∀ (pkg : Pkg) (c : CoreId), Received s port.toNat p 0x03 0 false →
      p.arg % 2 ^ 32 = 2 ^ 28 + pkg.toNat * 2 ^ 10 + c.toNat → (∀ k ∈ s.mem.leases, k % 8 = 0) → MemWhole s →
      Runs (.revocationNotice port) s (fun t =>
        Taken s t port.toNat p [reply s p 0x04 []] ∧
        (∀ e b, (boxOf t e b).reserved = (boxOf s e b).reserved.filter (fun r => !(r.1 == pkg && r.2.1 == c))) ∧
        (∀ k ∈ s.mem.leases, (leaseHolder (memNat s k 8)).1 = c.toNat → (leaseHolder (memNat s k 8)).2.1 = pkg.toNat →
          k ∉ t.mem.leases ∧ memNat t k 8 = memNat s k 8 % 2 ^ 62 + 2 ^ 62) ∧
        t = { s with cores := t.cores, mem := t.mem, net := t.net })) ∧
    (∀ c : CoreId, Received s port.toNat p 0x04 0 false → p.arg % 2 ^ 32 = (Tag.core (ownPkg s) c.toNat).encode →
      Runs (.revocationAcknowledgement port) s (fun t =>
        Taken s t port.toNat p [] ∧ tfind t.net.out p.tag = none ∧
        (coreOf t c.toNat).revoking = (coreOf s c.toNat).revoking.filter (fun k => k != p.src) ∧
        (∀ k, k < 1024 → k ≠ c.toNat → coreOf t k = coreOf s k) ∧ t = { s with cores := t.cores, net := t.net })) ∧
    (Received s port.toNat p 0x01 0 false →
      let ten := p.arg / 2 ^ 16 % 2 ^ 12
      tenantResetting s ten = false → (∀ g ∈ runningGroups s, (groupOf s g).saving = false) →
      Runs (.tenantGoneNotice port) s (fun t =>
        GroupsFault s t (fun g => groupTenant s g = ten ∧ members s g ≠ []) 0x0602 ∧ t.net.inbox = [] ∧
        t.net.xbar.getLast? = some (reply s p 0x02 []))) ∧
    (Received s port.toNat p 0x02 0 false →
      let ten := p.arg / 2 ^ 16 % 2 ^ 12
      Runs (.tenantGoneAcknowledgement port) s (fun t =>
        Taken s t port.toNat p [] ∧
        (tqOf t ten).awaiting = (tqOf s ten).awaiting.filter (fun k => k != p.src) ∧
        (∀ k, k ≠ ten → tqOf t k = tqOf s k) ∧ t = { s with host := t.host, net := t.net }))) ∧
  (∀ (s : State) (ten : Tenant),
    let q := tqOf s ten.toNat
    (q.resetStep = 4 → q.awaiting = [] → (s.serving.trackers.map (·.1)).Nodup → Runs (.tenantResetAcksComplete ten) s (fun t =>
      (tqOf t ten.toNat).resetStep = 6 ∧ (∀ c ∈ q.former, (coreOf t c).resv = []) ∧
      (∀ i, (trackerOf t i).tenant = ten → (trackerOf t i).state = .closing ∨ (trackerOf t i).state = .free))) ∧
    (q.resetStep = 4 → Runs (.tenantResetAckTimeout ten) s (fun t =>
      tqOf t ten.toNat = { q with awaiting := [] } ∧ (∀ k, k ≠ ten.toNat → tqOf t k = tqOf s k) ∧
      t.log.next = s.log.next + BitVec.ofNat 32 q.awaiting.length ∧ t.cores = s.cores ∧ t.mem = s.mem)) ∧
    (q.resetStep = 6 → Runs (.tenantResetComplete ten) s (fun t =>
      (tqOf t ten.toNat).resetStep = 0 ∧ (tqOf t ten.toNat).former = [] ∧ t.gaffer.wipeKind = 0x20 ∧
      (∀ c ∈ q.former, (coreOf t c).boxes = [] ∧ ∀ o, o < 2 ^ 21 → cellGet t.mem.cells (scratchKey c o) = 0) ∧
      (∀ k, cellGet t.mem.cells k = 0 ∨ cellGet t.mem.cells k = cellGet s.mem.cells k) ∧
      LastEvent t 0x1053 (srcTenant ten.toNat) 0 ∧ t.log.next = s.log.next + 2))))

/-! ## Experience rings -/

/-- Ring k is fed by this package, its home is package src, and a base address names it. -/
def Sys2Proof.Claims.FeedsRing (s : State) (k src base : Nat) : Prop :=
  ringSize s k ≠ 0 ∧ ringHome s k = src ∧ ringBase s k % 2 ^ 47 = base % 2 ^ 47

/-- A home grants a request for n indices from where it stands while the ring has room, and defers it without (R517); a request for
a ring that no ring here matches waits unplaced. A grant sends the queued records to their slots in order. The home's ring port
writes the record at the write index to its slot and moves the write index in the head (R518); a feeder keeps the release index
that it hears. -/
def Obligations.Rings : Prop :=
  (∀ (s : State) (port : BitVec 5) (p : Packet),
    let n := fieldAt p.body 0 2
    (∀ k, k < 8 → Received s port.toNat p 0x22 2 false → homeRing s p.arg = some k → (ringOf s k).deferred = [] →
      MemWhole s → tenantResetting s 0 = false →
      memNat s (ringKey s k - 64 + 8) 8 ≤ (ringOf s k).released →
      let r := ringOf s k
      (r.granted + n ≤ r.released + 2 ^ ringSize s k → Runs (.ringIndexRequest port) s (fun t =>
        ringOf t k = { noteFeeder r p.src with granted := r.granted + n } ∧ (∀ j, j ≠ k → ringOf t j = ringOf s j) ∧
        (∃ x, Taken s t port.toNat p [x] ∧ x.packet.dst = p.src ∧ x.packet.op = 0x2A ∧ x.packet.tag = p.tag ∧
          x.packet.arg = r.granted % 2 ^ 64 ∧ x.packet.body = leBytes 2 n) ∧
        t = { s with reels := { s.reels with rings := t.reels.rings }, net := t.net })) ∧
      (r.released + 2 ^ ringSize s k < r.granted + n → Runs (.ringIndexRequest port) s (fun t =>
        ringOf t k = { noteFeeder r p.src with deferred := [(p.src, n, p.tag, p.arg)] } ∧ Taken s t port.toNat p [] ∧
        t = { s with reels := { s.reels with rings := t.reels.rings }, net := t.net }))) ∧
    (Received s port.toNat p 0x22 2 false → homeRing s p.arg = none → Runs (.ringIndexRequest port) s (fun t =>
      t.reels = { s.reels with unplaced := s.reels.unplaced ++ [(p.src, n, p.tag, p.arg)] } ∧
      Taken s t port.toNat p [] ∧ t = { s with reels := t.reels, net := t.net })) ∧
    (∀ k, k < 8 → Received s port.toNat p 0x2A 2 true → tfind s.net.out p.tag = some (.ringAsk k) →
      (∀ x ∈ s.reels.queue, x.ring = k) → s.reels.queue.length = n → ringHome s k ≠ ownPkg s → ringSize s k ≠ 0 →
      tenantResetting s 0 = false → Runs (.ringGrant port) s (fun t =>
        t.reels.queue = [] ∧ (ringOf t k).asked = 0 ∧ (ringOf t k).written = (ringOf s k).written + n ∧
        (∀ j, j < n → ∃ h r, t.net.xbar[s.net.xbar.length + j]? = some h ∧ s.reels.queue[j]? = some r ∧
          h.packet.op = 0x21 ∧ h.packet.dst = ringHome s k ∧
          h.packet.arg = (ringBase s k + 64 * ((p.arg + j) % 2 ^ ringSize s k)) % 2 ^ 64 ∧
          h.packet.body = putAt r.bytes 0x38 (leBytes 8 (p.arg + j))) ∧
        t.net.xbar.length = s.net.xbar.length + n ∧ t = { s with reels := t.reels, net := t.net })) ∧
    (∀ k, k < 8 → Received s port.toNat p 0x23 2 false → FeedsRing s k p.src p.arg →
      (∀ j, j < 8 → FeedsRing s j p.src p.arg → j = k) → Runs (.releaseIndexReport port) s (fun t =>
        ringOf t k = { ringOf s k with released := fieldAt p.body 0 8 } ∧ (∀ j, j ≠ k → ringOf t j = ringOf s j) ∧
        Taken s t port.toNat p [] ∧ t = { s with reels := { s.reels with rings := t.reels.rings }, net := t.net }))) ∧
  (∀ (s : State) (k : BitVec 3) (record : List Byte),
    let r := ringOf s k.toNat
    let head := ringKey s k.toNat - 64
    let slot := ringKey s k.toNat + 64 * (r.written % 2 ^ ringSize s k.toNat)
    isHome s k.toNat = true → r.arrived = [(r.written, record)] → record.length = 64 → MemWhole s →
    Runs (.ringRecordPublish k) s (fun t =>
      cellRead t.mem.cells slot 64 = record ∧ memNat t head 8 = (memNat s head 8 + 1) % 2 ^ 64 ∧
      (∀ a, (a < slot ∨ slot + 64 ≤ a) → (a < head ∨ head + 8 ≤ a) → cellGet t.mem.cells a = cellGet s.mem.cells a) ∧
      ringOf t k.toNat = { r with written := r.written + 1, arrived := [] } ∧
      t = { s with mem := t.mem, reels := { s.reels with rings := t.reels.rings } }))

/-! ## Reels -/

/-- The one packet received is a reel frame of a kind, p on a link, from another package (R493, R633). -/
structure Sys2Proof.Claims.FrameAt (s : State) (port : Nat) (p : Packet) (kind : Nat) : Prop where
  only : s.net.inbox = [(port, p)]
  channel : p.vc = 3
  kind : fieldAt p.body 0 1 = kind
  away : p.src ≠ ownPkg s
  link : port < 16

/-- A reel frame as it is sent (R493): kind, reel, incoming index, destination slice, value and data. -/
def Sys2Proof.Claims.frameOut (s : State) (dst kind reel inc sl value : Nat) (data : List Byte) : Held :=
  { packet := { vc := 3, response := false, dst := dst, src := ownPkg s, hops := 0, op := 0, wantsAnswer := false, tenant := 0
                tag := 0, arg := 0, body := leBytes 1 kind ++ zeros 1 ++ leBytes 2 reel ++ leBytes 2 inc ++ leBytes 2 sl ++
                  leBytes 4 value ++ zeros 4 ++ data }, fromLink := none }

/-- The frame left its buffer, whose one flit is owed to the link, and the frames `out` are sent. -/
structure Sys2Proof.Claims.FrameTaken (s t : State) (port : Nat) (out : List Held) : Prop where
  inbox : t.net.inbox = []
  sent : t.net.xbar = s.net.xbar ++ out
  credit : tget (linkOf t port).owed 5 0 = tget (linkOf s port).owed 5 0 + 1
  links : ∀ n, n ≠ port → linkOf t n = linkOf s n

/-- The offer of push entry i of slice c (R495), for a reel. -/
def Sys2Proof.Claims.offerOf (s : State) (c i reel : Nat) : Held :=
  frameOut s (pushDst s c i) 1 reel (pushInc s c i) (pushSlice s c i) (pushLen s c i) []

/-- Done bits of the incoming entries of slice x read 0 (false) or 1 (R484). -/
def Sys2Proof.Claims.doneBit (s : State) (x i : Nat) : Bool := dirNat s x (0x46 + 8 * i) 2 % 2 == 1

/-- The answer that tells the source of a data or done frame that it has been performed (R497): a write done with tag 0 that names the
frame (log entry 21). -/
def Sys2Proof.Claims.performedOut (s : State) (src kind reel inc sl value : Nat) : Held :=
  { packet := { vc := 2, response := true, dst := src, src := ownPkg s, hops := 0, op := 0x29, wantsAnswer := false, tenant := 0
                tag := 0, arg := kind + inc % 1024 * 2 ^ 3 + sl * 2 ^ 13 + reel * 2 ^ 23 + value % 2 ^ 25 * 2 ^ 39, body := [] }
    fromLink := none }

/-- Sources (R492, R495): a sealed slice pushes every entry from mark 0 and offers it; an accept sends the bytes of the source
region and the done frame; a hold and a stale answer set the entry's state, and the last stale one ends the push; a held entry's
offer goes out again. The mark passes the bytes that the destination has performed, and the done frame ends the entry (R497; the
answers are log entry 21). -/
def Obligations.ReelSources : Prop :=
  ∀ (s : State) (c : CoreId) (port : BitVec 5) (p : Packet), c ∈ s.reels.sources → dirNat s c.toNat 0x28 4 + 4 ≤ directoryBase →
    MemWhole s →
    let dir := sliceKey c.toNat directoryBase
    let reel := fieldAt p.body 2 2
    let named (i : Nat) : Prop := findPush s p.src (fieldAt p.body 6 2 % 1024) (fieldAt p.body 4 2) reel = some (c.toNat, i)
    (sealState s c.toNat = 1 → 0 < pushCount s c.toNat → (∀ i < pushCount s c.toNat, pushDst s c.toNat i ≠ ownPkg s) →
      Runs (.sealWordSample c) s (fun t =>
        sealState t c.toNat = 2 ∧ sealReel t c.toNat = sealReel s c.toNat ∧
        (∀ i < pushCount s c.toNat, pushState t c.toNat i = 1 ∧ pushMark t c.toNat i = 0 ∧
          pushReel t c.toNat i = sealReel s c.toNat) ∧
        t.net = { s.net with
          xbar := s.net.xbar ++ (List.range (pushCount s c.toNat)).map (fun i => offerOf s c.toNat i (sealReel s c.toNat)) } ∧
        (∀ k, k ≠ sealKey s c.toNat + 2 → k < dir ∨ dir + 2 ^ 16 ≤ k → cellGet t.mem.cells k = cellGet s.mem.cells k) ∧
        t = { s with mem := t.mem, net := t.net })) ∧
    (∀ i, named i → FrameAt s port.toNat p 2 → pushMark s c.toNat i = 0 →
      let len := pushLen s c.toNat i
      let off := dirNat s c.toNat (pushOff i + 0xC) 4
      let start := dirNat s c.toNat (pushOff i) 4
      let key := sliceKey c.toNat (dirNat s c.toNat 0x20 4 + start)
      0 < len → len ≤ 224 → start + len ≤ dirNat s c.toNat 0x24 4 → dirNat s c.toNat 0x20 4 + start + len ≤ directoryBase →
      Runs (.reelAccept port) s (fun t =>
        pushState t c.toNat i = 1 ∧ OtherBytes s t (dir + pushOff i + 0x12) 1 ∧
        FrameTaken s t port.toNat [
          frameOut s p.src 5 reel (pushInc s c.toNat i) (pushSlice s c.toNat i) off (fit 224 (cellRead s.mem.cells key len)),
          frameOut s p.src 6 reel (pushInc s c.toNat i) (pushSlice s c.toNat i) len []] ∧
        t = { s with mem := t.mem, net := t.net })) ∧
    (∀ i, named i → FrameAt s port.toNat p 3 → Runs (.reelHold port) s (fun t =>
      pushState t c.toNat i = 2 ∧ OtherBytes s t (dir + pushOff i + 0x12) 1 ∧ FrameTaken s t port.toNat [] ∧
      t = { s with mem := t.mem, net := t.net })) ∧
    (∀ i, named i → FrameAt s port.toNat p 4 → Runs (.reelStale port) s (fun t =>
      pushState t c.toNat i = 4 ∧ FrameTaken s t port.toNat [] ∧
      (sealState s c.toNat = 2 → (∀ j < pushCount s c.toNat, j ≠ i → pushState s c.toNat j = 3) → sealState t c.toNat = 3) ∧
      (∀ j < pushCount s c.toNat, j ≠ i → pushState t c.toNat j = pushState s c.toNat j) ∧
      t = { s with mem := t.mem, net := t.net })) ∧
    (∀ i, Received s port.toNat p 0x29 2 true → p.tag = 0 →
      findPush s p.src (p.arg / 2 ^ 13 % 1024) (p.arg / 2 ^ 3 % 1024) (p.arg / 2 ^ 23 % 65536) = some (c.toNat, i) →
      pushState s c.toNat i = 1 →
      let v := p.arg / 2 ^ 39 % 2 ^ 25 - dirNat s c.toNat (pushOff i + 0xC) 4
      (p.arg % 8 = 5 → dirNat s c.toNat (pushOff i + 0xC) 4 ≤ p.arg / 2 ^ 39 % 2 ^ 25 → v ≤ pushMark s c.toNat i →
        Runs (.writeDonePacket port) s (fun t =>
          pushMark t c.toNat i = min (pushLen s c.toNat i) (max (pushMark s c.toNat i) (v + 224)) ∧
          OtherBytes s t (dir + pushOff i + 0x14) 4 ∧ t = { s with mem := t.mem, net := t.net })) ∧
      (p.arg % 8 = 6 → Runs (.writeDonePacket port) s (fun t =>
        pushState t c.toNat i = 3 ∧ pushMark t c.toNat i = pushLen s c.toNat i ∧ t = { s with mem := t.mem, net := t.net }))) ∧
    (∀ e : U16, e.toNat < pushCount s c.toNat → pushState s c.toNat e.toNat = 2 → pushDst s c.toNat e.toNat ≠ ownPkg s →
      Runs (.offerResend c e) s (fun t =>
        t = { s with net := { s.net with
          xbar := s.net.xbar ++ [offerOf s c.toNat e.toNat (pushReel s c.toNat e.toNat)] } }))

/-- Destinations (R485, R487, R494, R496, R497, R499): an offer of a newer reel makes the empty other bank fill and is accepted; an
offer while that bank drains is held, and one for a slice of no bank share is stale; each offer of a newer reel is the posted one. A
data frame writes its bytes into the filling bank, and its source hears of it. A done frame whose data has all been performed sets
its entry's done bit and is answered, and the last one makes the bank front, with the share and the policy latched; one whose data
has not is noted (what is known of an entry is log entry 22, the answers are log entry 21). -/
def Obligations.ReelDestinations : Prop :=
  ∀ (s : State) (port : BitVec 5) (p : Packet) (b : Bool),
    let reel := fieldAt p.body 2 2
    let inc := fieldAt p.body 4 2
    let sl := fieldAt p.body 6 2 % 1024
    let value := fieldAt p.body 8 4
    let key := sl * 1024 + inc
    let old := tget s.reels.arriving key Arrival.reset
    let front := (bankOf s (!b)).state = .front ∧ newer reel (bankOf s (!b)).reel.toNat = true
    let inSlices := sl ∈ s.reels.slices.map (fun x => x.toNat)
    let posted (t : State) : Prop := s.reels.anyPosted = false ∨ newer reel s.reels.posted.toNat = true →
      t.reels.anyPosted = true ∧ t.reels.posted.toNat = reel
    MemWhole s → tenantResetting s 0 = false →
    (FrameAt s port.toNat p 1 → inSlices → front → (bankOf s b).state = .empty →
      (∃ x ∈ s.reels.slices, 0 < incomingCount s x.toNat) → Runs (.reelOffer port) s (fun t =>
        bankOf t b = { bankOf s b with state := .filling, reel := BitVec.ofNat 16 reel } ∧ bankOf t (!b) = bankOf s (!b) ∧
        posted t ∧
        (let kept (a : Arrival) : Nat := if (bankOf s b).reel.toNat = reel then a.performed else 0
         tfind t.reels.arriving key = some { old with len := some value, performed := kept old, ended := none } ∧
         ∀ k, k ≠ key → tfind t.reels.arriving k =
           (tfind s.reels.arriving k).map (fun a => { a with performed := kept a, ended := none })) ∧
        (∀ x ∈ s.reels.slices, dirNat t x.toNat (if b then 0x15 else 0x14) 1 = 1 ∧
          dirNat t x.toNat (if b then 0x1A else 0x18) 2 = reel ∧ ∀ i < incomingCount s x.toNat, doneBit t x.toNat i = false) ∧
        FrameTaken s t port.toNat [frameOut s p.src 2 reel inc sl 0 []] ∧
        t = { s with reels := t.reels, mem := t.mem, net := t.net })) ∧
    (FrameAt s port.toNat p 1 → inSlices → front → (bankOf s b).state = .draining → reelHeld s (bankOf s b).reel.toNat = true →
      Runs (.reelOffer port) s (fun t =>
        t.reels = { s.reels with posted := t.reels.posted, anyPosted := t.reels.anyPosted } ∧ posted t ∧
        FrameTaken s t port.toNat [frameOut s p.src 3 reel inc sl 0 []] ∧ t = { s with reels := t.reels, net := t.net })) ∧
    (FrameAt s port.toNat p 1 → ¬ inSlices → NoDrain s → Runs (.reelOffer port) s (fun t =>
      t.reels = { s.reels with posted := t.reels.posted, anyPosted := t.reels.anyPosted } ∧ posted t ∧
      FrameTaken s t port.toNat [frameOut s p.src 4 reel inc sl ((frontReel s).getD 0) []] ∧
      t = { s with reels := t.reels, net := t.net })) ∧
    (∀ len, FrameAt s port.toNat p 5 → (coreOf s sl).revoking = [] → inSlices → fillingBank s = some b →
      (bankOf s b).reel.toNat = reel → old = { len := some len, start := none, performed := 0, ended := none } →
      p.body.length = 240 →
      let n := min (min 224 len) (dirNat s sl 0x10 4 - value)
      let at' := sliceKey sl (dirNat s sl (if b then 0xC else 8) 4 + value)
      Runs (.reelData port) s (fun t =>
        cellRead t.mem.cells at' n = slice p.body 16 n ∧ OtherBytes s t at' n ∧
        FrameTaken s t port.toNat [performedOut s p.src 5 reel inc sl value] ∧
        t.reels = { s.reels with
          arriving := tput s.reels.arriving key { len := some len, start := some value, performed := n, ended := none } } ∧
        t = { s with reels := t.reels, mem := t.mem, net := t.net })) ∧
    (FrameAt s port.toNat p 6 → (coreOf s sl).revoking = [] → inSlices → fillingBank s = some b →
      (bankOf s b).reel.toNat = reel → inc < incomingCount s sl →
      (value ≤ old.performed →
        (∀ x ∈ s.reels.slices, ∀ i < incomingCount s x.toNat, (x.toNat, i) ≠ (sl, inc) → doneBit s x.toNat i = true) →
        Runs (.reelDone port) s (fun t =>
          bankOf t b = { state := .front, reel := (bankOf s b).reel, policy := valNat s 0x7120 2 0 0 } ∧
          (bankOf t (!b)).state ≠ .front ∧ t.reels.share = valNat s 0x7120 1 0 25 ∧
          t.reels.policy = valNat s 0x7120 2 0 0 ∧
          FrameTaken s t port.toNat [performedOut s p.src 6 reel inc sl value])) ∧
      (value ≤ old.performed →
        (∃ x ∈ s.reels.slices, ∃ i < incomingCount s x.toNat, (x.toNat, i) ≠ (sl, inc) ∧ doneBit s x.toNat i = false) →
        Runs (.reelDone port) s (fun t =>
          doneBit t sl inc = true ∧ OtherBytes s t (sliceKey sl (directoryBase + 0x46 + 8 * inc)) 2 ∧
          FrameTaken s t port.toNat [performedOut s p.src 6 reel inc sl value] ∧
          t.reels = { s.reels with arriving := tput s.reels.arriving key { old with ended := none } } ∧
          t = { s with reels := t.reels, mem := t.mem, net := t.net })) ∧
      (old.performed < value → Runs (.reelDone port) s (fun t =>
        FrameTaken s t port.toNat [] ∧
        t.reels = { s.reels with arriving := tput s.reels.arriving key { old with ended := some (value, p.src) } } ∧
        t = { s with reels := t.reels, net := t.net })))

/-! ## Slates -/

/-- The command at index i of a tenant's queue pair finishes with a completion; the other commands and queue pairs stay. -/
def Sys2Proof.Claims.CmdEnds (s t : State) (ten i : Nat) (x : Completion) : Prop :=
  tqOf t ten = { tqOf s ten with cmds := (tqOf s ten).cmds.map (fun c =>
    if c.index = i ∧ c.completion = none then { c with state := .finished x } else c) } ∧
  ∀ k, k ≠ ten → tqOf t k = tqOf s k

/-- The slate word at offset o of stock takes a step, a state and a status; no other byte changes (table Slate word). -/
def Sys2Proof.Claims.WordShows (s t : State) (o step state status : Nat) : Prop :=
  memNat t (memKey 2 o) 8 = step % 2 ^ 48 + state * 2 ^ 48 + status * 2 ^ 56 ∧ OtherBytes s t (memKey 2 o) 8

/-- A package's own bytes of vault or stock that take n bytes at a global address: one granule, no failed channel, no word in error,
no ring of this package's home. -/
structure Sys2Proof.Claims.TakesBytes (s : State) (a n sp o : Nat) : Prop where
  place : splitAddr s a = (ownPkg s, sp, o) ∧ (sp = 1 ∨ sp = 2)
  granule : 0 < n ∧ a % 2 ^ 21 + n ≤ 2 ^ 21
  target : physCheck s sp o n .slate = none ∧ (sp = 2 → failedStock s o n = none)
  clean : badIn s (memKey sp o) n = []
  rings : ∀ k < 8, isHome s k = false

/-- A request of the slate engine to package k: operation, tag, argument and body, on virtual channel 2. -/
def Sys2Proof.Claims.slateRequest (s : State) (k op tag arg : Nat) (body : List Byte) : Held :=
  { packet := { vc := 2, response := false, dst := k, src := ownPkg s, hops := 0, op := op, wantsAnswer := true, tenant := 0
                tag := tag, arg := arg, body := body }, fromLink := none }

/-- Takes and the keeper (R577 to R586): a slate word that reads 1 starts a take; a take with no keeper ends with status 5, one whose
keeper is not claimed claims it, one that has read the headers writes state 0 to the generation that is not the newest complete, one
whose manifest is performed writes state 1, and then ends in state 4 with the newest reel that the manifest records; a claim is
granted to the first source alone; a release zeroes both headers and frees the region; a drain notice is kept. (The numbering of
operations, and what a package knows of another one's lent region, are the model's choice, log entry 51.) -/
def Obligations.SlateTakes : Prop :=
  (∀ (s : State) (o : Nat), s.slate.word ≠ 0 → splitAddr s s.slate.word.toNat = (ownPkg s, 2, o) → MemWhole s →
    (let w := memNat s (memKey 2 o) 8
     w / 2 ^ 48 % 256 = 1 → s.slate.take = none → s.slate.restore = none → ready s 7 = true →
     Runs .slateWordSample s (fun t =>
      t.slate = { s.slate with
        ops := s.slate.ops + 1
        take := some { cmd := { op := 1, pkg := 0, step := w % 2 ^ 48, addr := BitVec.ofNat 64 (memNat s (memKey 2 o + 8) 8)
                                length := 0 }, origin := .word, id := s.slate.ops, phase := .requested, gen := 0, acks := 0
                       buf := [], mark := 0, template := [], reels := [] } } ∧
      WordShows s t o w 2 0 ∧ t = { s with slate := t.slate, mem := t.mem })) ∧
    (∀ k : SlateOp, s.slate.take = some k → k.acks = 0 → k.origin = .word →
      (k.phase = .requested → keeperPkg s = 0x1FFF → Runs .slateTake s (fun t =>
        t.slate = { s.slate with take := none } ∧ WordShows s t o k.cmd.step 5 5 ∧
        t = { s with slate := t.slate, mem := t.mem })) ∧
      (k.phase = .closing → Runs .slateTake s (fun t =>
        t.slate = { s.slate with
          take := none, lastStep := k.cmd.step
          lastReel := BitVec.ofNat 16 ((newestReel k.reels).getD s.slate.lastReel.toNat) } ∧
        WordShows s t o k.cmd.step 4 0 ∧ t = { s with slate := t.slate, mem := t.mem })) ∧
      (∀ (port : BitVec 5) (p : Packet) (n : Nat), k.phase = .claiming → Received s port.toNat p 0x2B 2 true →
        tfind s.net.out p.tag = some (.slate k.id n) →
        (fieldAt p.body 0 1 = 0 → Runs (.claimStatus port) s (fun t =>
          t.slate = { s.slate with claimed := some p.src, take := some { k with phase := .requested } } ∧
          Taken s t port.toNat p [] ∧ tfind t.net.out p.tag = none ∧ t = { s with slate := t.slate, net := t.net })) ∧
        (fieldAt p.body 0 1 ≠ 0 → Runs (.claimStatus port) s (fun t =>
          t.slate = { s.slate with take := none } ∧ WordShows s t o k.cmd.step 5 11 ∧ Taken s t port.toNat p [] ∧
          t = { s with slate := t.slate, net := t.net, mem := t.mem }))))) ∧
  (∀ (s : State) (k : SlateOp), s.slate.take = some k → k.acks = 0 → keeperPkg s ≠ 0x1FFF → keeperPkg s ≠ ownPkg s →
    tenantResetting s 0 = false →
    let kp := keeperPkg s
    let asks (t : State) (op arg : Nat) (body : List Byte) (n : Nat) (k' : SlateOp) : Prop :=
      t.slate = { s.slate with take := some k' } ∧
      t.net.xbar = s.net.xbar ++ [slateRequest s kp op s.net.nextTag arg body] ∧
      tfind t.net.out s.net.nextTag = some (.slate k.id n) ∧ t = { s with slate := t.slate, net := t.net }
    (k.phase = .requested → s.slate.claimed ≠ some kp → Runs .slateTake s (fun t =>
      asks t 0x25 (9 * 2 ^ 28 + ownPkg s) [] 0 { k with phase := .claiming })) ∧
    (k.phase = .choosing →
      let g := targetGen (slateGot k (genBase s kp 0) 128) (slateGot k (genBase s kp 1) 128)
      Runs .slateTake s (fun t => asks t 0x21 (kp * 2 ^ 51 + memKey 2 (genBase s kp g + 6)) [0] 1
        { k with phase := .opening, gen := g, acks := 1 })) ∧
    (k.phase = .manifest → Runs .slateTake s (fun t => asks t 0x21 (kp * 2 ^ 51 + memKey 2 (genBase s kp k.gen + 6)) [1] 1
      { k with phase := .closing, acks := 1 }))) ∧
  (∀ (s : State) (port : BitVec 5) (p : Packet),
    (Received s port.toNat p 0x25 2 false →
      let src := p.arg % 2 ^ 13
      (lentSize s ≠ 0 → s.slate.revoked = false → (s.slate.keeperOf = none ∨ s.slate.keeperOf = some src) →
        Runs (.keeperClaim port) s (fun t => t.slate = { s.slate with keeperOf := some src } ∧
          Taken s t port.toNat p [reply s p 0x2B [0]] ∧ t = { s with slate := t.slate, net := t.net })) ∧
      ((lentSize s = 0 ∨ s.slate.revoked = true ∨ ∃ q, s.slate.keeperOf = some q ∧ q ≠ src) →
        Runs (.keeperClaim port) s (fun t => Taken s t port.toNat p [reply s p 0x2B [11]] ∧ t = { s with net := t.net }))) ∧
    (Received s port.toNat p 0x24 2 false → Runs (.drainNotice port) s (fun t =>
      t.slate = { s.slate with lastDrained := p.arg } ∧ Taken s t port.toNat p [] ∧
      t = { s with slate := t.slate, net := t.net }))) ∧
  (∀ (s : State) (k : SlateOp) (i : Nat), s.slate.release = some k → k.origin = .host i →
    let base (g : Nat) : Nat := memKey 2 (genBase s (ownPkg s) g)
    (s.slate.keeperOf = some (resolvePkg s k.cmd.pkg) → MemWhole s → Runs .releaseDailies s (fun t =>
      t.slate = { s.slate with
        release := none, keeperOf := none, revoked := false
        claimed := if s.slate.claimed = some (ownPkg s) then none else s.slate.claimed } ∧
      (∀ g < 2, cellRead t.mem.cells (base g) 128 = zeros 128) ∧
      (∀ a, (∀ g < 2, a < base g ∨ base g + 128 ≤ a) → cellGet t.mem.cells a = cellGet s.mem.cells a) ∧
      CmdEnds s t 0 i (plainDone 0) ∧ t = { s with slate := t.slate, mem := t.mem, host := t.host })) ∧
    (s.slate.keeperOf ≠ some (resolvePkg s k.cmd.pkg) → Runs .releaseDailies s (fun t =>
      t.slate = { s.slate with release := none } ∧ CmdEnds s t 0 i { plainDone 0xA with result := 6 } ∧
      t = { s with slate := t.slate, host := t.host })))

/-- Drains, restores and shard loads (R587 to R604), and the host command that starts an operation (R569): a drain of dailies held
for another source ends with status 6, else the generation goes to host memory, its state last; of one that is an alias of another
image only the manifest goes, so marked; a restore asks for both headers and
writes each extent's widened bytes to its source's address; a restore from the host writes the elements of a list's item; a shard
load writes the shard's extents, its directories and banks, and the address of the slate word. -/
def Obligations.SlateTransfers : Prop :=
  (∀ (s : State) (k : SlateOp) (i : Nat), s.slate.drain = some k → k.origin = .host i →
    let src := resolvePkg s k.cmd.pkg
    (s.slate.keeperOf ≠ some src → Runs .slateDrain s (fun t =>
      t.slate = { s.slate with drain := none } ∧ CmdEnds s t 0 i { plainDone 0xA with result := 6 } ∧
      t = { s with slate := t.slate, host := t.host })) ∧
    (∀ g m l, s.slate.keeperOf = some src → src ≠ ownPkg s → heldGen s src k.cmd.step = some g → tenantResetting s 0 = false →
      let at' (off : Nat) : Nat := stockAddr s (genBase s (ownPkg s) g + off)
      let h := genHeader s g
      let marked := (fieldAt h 7 1).testBit 0 || fieldAt h 0x16 2 % 2 ^ 13 != fieldAt h 0x10 2 % 2 ^ 13
      let n := if marked then 0 else extentsSize (manifestExtents m)
      let host := k.cmd.addr.toNat
      (∀ g' < 2, ∃ l', slateRead s (stockAddr s (genBase s (ownPkg s) g')) 128 = (s, .ok l')) →
      slateRead s (at' 0) (2 ^ 20) = (s, .ok m) → 2 ^ 20 + n ≤ k.cmd.length.toNat → (fnOf s 0).busMaster = true →
      slateRead s (at' (2 ^ 20)) n = (s, .ok l) → Runs .slateDrain s (fun t =>
        t.outputs = .hostWrite 0 (host + 6) [1] ::
          .hostWrite 0 host (putAt (putAt m 6 [0]) 7 [BitVec.ofNat 8 (withBit (fieldAt h 7 1) 0 marked)]) ::
          (if n = 0 then s.outputs else .hostWrite 0 (host + 2 ^ 20) l :: s.outputs) ∧
        Logged s t 0x1062 srcGaffer (k.cmd.step % 2 ^ 32) ∧
        t.net.xbar = s.net.xbar ++ [{ slateRequest s src 0x24 0 k.cmd.step [] with
          packet := { (slateRequest s src 0x24 0 k.cmd.step []).packet with wantsAnswer := false } }] ∧
        t.slate = { s.slate with drain := none } ∧ CmdEnds s t 0 i (plainDone 0) ∧ t.mem = s.mem))) ∧
  (∀ (s : State) (k : SlateOp) (i : Nat), s.slate.restore = some k → k.origin = .host i →
    let from' := resolvePkg s k.cmd.pkg
    MemWhole s →
    (k.cmd.op = 3 → k.acks = 0 → from' ≠ ownPkg s →
      (k.phase = .requested → tenantResetting s 0 = false → Runs .restoreFromDailies s (fun t =>
        let ask (g tag : Nat) : Held :=
          slateRequest s from' 0x20 tag (from' * 2 ^ 51 + memKey 2 (genBase s from' g)) (leBytes 4 128)
        t.net.xbar = s.net.xbar ++ [ask 0 s.net.nextTag, ask 1 (s.net.nextTag % 65535 + 1)] ∧
        t.slate = { s.slate with restore := some { k with phase := .headers, gen := 0, acks := 2 } } ∧
        t = { s with slate := t.slate, net := t.net })) ∧
      (∀ e sp o, k.phase = .data →
        let base := genBase s from' k.gen
        let b := widenBytes e (slateGot k (base + 2 ^ 20 + 64 * e.data) (storedSize e))
        fieldAt (slateGot k base 128) 0x1E 2 = 1 → manifestExtents (slateGot k base 160) = [e] →
        TakesBytes s e.source b.length sp o → Runs .restoreFromDailies s (fun t =>
          cellRead t.mem.cells (memKey sp o) b.length = b ∧ OtherBytes s t (memKey sp o) b.length ∧
          t.slate = { s.slate with
            restore := none, claimed := if s.slate.claimed = some from' then none else s.slate.claimed } ∧ CmdEnds s t 0 i (plainDone 0) ∧
          t = { s with slate := t.slate, mem := t.mem, host := t.host }))) ∧
    (∀ h l e sp o a, k.cmd.op = 4 → k.cmd.length = 1 → splitAddr s k.cmd.addr.toNat = (ownPkg s, 2, a) →
      slateRead s k.cmd.addr.toNat 32 = (s, .ok l) → (fnOf s 0).busMaster = true →
      let x : RestoreItem := { image := fieldAt l 0 8, element := fieldAt l 8 8, count := fieldAt l 0x10 4
                               tensor := fieldAt l 0x14 4, dest := fieldAt l 0x18 8 }
      let stored := hostBytes h (x.image + 2 ^ 20 + 64 * e.data) (storedSize e)
      let b := (List.range x.count).flatMap (fun j => widenElem e stored (x.element + j - e.element))
      itemExtents h x = .ok [e] → 0 < x.count → e.element ≤ x.element → x.element + x.count ≤ e.element + e.count →
      stored.length = storedSize e → TakesBytes s x.dest b.length sp o → Runs (.restoreFromHost h) s (fun t =>
        cellRead t.mem.cells (memKey sp o) b.length = b ∧ OtherBytes s t (memKey sp o) b.length ∧
        t.slate = { s.slate with restore := none } ∧ CmdEnds s t 0 i (plainDone 0) ∧
        t = { s with slate := t.slate, mem := t.mem, host := t.host })) ∧
    (∀ h, k.cmd.op = 5 → (fnOf s 0).busMaster = true →
      let a := k.cmd.addr.toNat
      let l := hostBytes h a 64
      let bank (b : Bool) (t : State) : Prop :=
        ((fieldAt l 6 2).testBit 1 = false → (bankOf t b).state = .empty ∧ (bankOf t (!b)).state = .empty) ∧
        ((fieldAt l 6 2).testBit 1 = true → (bankOf t b).state = .front ∧ (bankOf t b).reel = BitVec.ofNat 16 (fieldAt l 0xC 2) ∧
          (bankOf t (!b)).state = .empty ∧ t.reels.posted = BitVec.ofNat 16 (fieldAt l 0xC 2) ∧ t.reels.anyPosted = true)
      l.length = 64 → shardOk s l = true → ownImage s (fieldAt l 8 2 % 2 ^ 13) = true →
      (∀ sp o, (fieldAt l 6 2).testBit 0 = false → fieldAt l 0xE 2 = 1 →
        let x := hostBytes h (a + 64) 32
        let n := fieldAt x 0x10 8
        let d := hostBytes h (fieldAt x 0 8) n
        x.length = 32 → fieldAt x 0x18 8 = 0 → d.length = n → TakesBytes s (fieldAt x 8 8) n sp o → Runs (.shardLoad h) s (fun t =>
          cellRead t.mem.cells (memKey sp o) n = d ∧ t.slate.word = BitVec.ofNat 64 (fieldAt l 0x18 8) ∧
          (∀ q, (q < memKey sp o ∨ memKey sp o + n ≤ q) →
            (∀ c ∈ s.reels.slices, q < sliceKey c.toNat directoryBase ∨ sliceKey c.toNat (2 ^ 25) ≤ q) →
            cellGet t.mem.cells q = cellGet s.mem.cells q) ∧
          bank (fieldAt l 0xA 1 == 1) t ∧ t.slate.restore = none ∧ CmdEnds s t 0 i (plainDone 0))) ∧
      (∀ r blocks, (fieldAt l 6 2).testBit 0 = true → fieldAt l 0xE 2 = 0 → layoutOf h (fieldAt l 0x10 8) = .ok (r, blocks) →
        let listed := bitmapCores (slice r 0x40 128)
        Runs (.shardLoad h) s (fun t =>
          t.reels.slices.map (fun c => c.toNat) = (if (fieldAt r 6 1).testBit 0 then listed else []) ∧
          t.reels.sources.map (fun c => c.toNat) = (if (fieldAt r 6 1).testBit 1 then listed else []) ∧
          (∀ c ∈ listed, cellRead t.mem.cells (sliceKey c directoryBase) 0x14 = (directoryBytes r blocks c).take 0x14) ∧
          bank (fieldAt l 0xA 1 == 1) t ∧ t.slate.word = BitVec.ofNat 64 (fieldAt l 0x18 8) ∧
          t.slate.restore = none ∧ CmdEnds s t 0 i (plainDone 0))))) ∧
  (∀ (s : State) (ten : Tenant) (c : HostCmd), nextCmd s ten.toNat 4 = some c →
    let k := slateCmdOf c.entry.body
    let op : SlateOp :=
      { cmd := k, origin := .host c.index, id := s.slate.ops, phase := .requested, gen := 0, acks := 0, buf := [], mark := 0
        template := [], reels := [] }
    let runs : Slate := { s.slate with ops := s.slate.ops + 1 }
    (ten ≠ 0 → Runs (.hostSlateOperation ten) s (fun t =>
      CmdEnds s t ten.toNat c.index (plainDone 3) ∧ t = { s with host := t.host })) ∧
    (ten = 0 → slateCmdOk c.entry.body = true → slateRefusal s k ≠ 0 → Runs (.hostSlateOperation ten) s (fun t =>
      CmdEnds s t 0 c.index { plainDone 0xA with result := slateRefusal s k } ∧ t = { s with host := t.host })) ∧
    (ten = 0 → slateCmdOk c.entry.body = false → ready s 7 = true → Runs (.hostSlateOperation ten) s (fun t =>
      CmdEnds s t 0 c.index { plainDone 0xA with result := 8 } ∧ t = { s with host := t.host })) ∧
    (ten = 0 → slateCmdOk c.entry.body = true → slateRefusal s k = 0 → (k.op = 1 → MemWhole s) → Runs (.hostSlateOperation ten) s (fun t =>
      tqOf t 0 = { tqOf s 0 with
        cmds := (tqOf s 0).cmds.map (fun x => if x.index = c.index then { x with state := .running } else x) } ∧
      (k.op = 1 → t.slate = { runs with take := some op }) ∧ (k.op = 2 → t.slate = { runs with drain := some op }) ∧
      (3 ≤ k.op ∧ k.op ≤ 5 → t.slate = { runs with restore := some op }) ∧
      (k.op = 6 → t.slate = { runs with release := some op }) ∧ (k.op ≠ 1 → t.mem = s.mem) ∧
      t = { s with host := t.host, slate := t.slate, mem := t.mem })))

/-! ## The host port -/

/-- A tenant's address reaches n bytes of this package at offset o of space sp: one granule, translated and granted, in reach, no
word in error. -/
structure Sys2Proof.Claims.CopyAt (s : State) (ten a n right sp o : Nat) : Prop where
  place : (splitAddr s a).1 = ownPkg s ∧ (splitAddr s a).2.1 = sp ∧ sp < 3
  translated : translateAt s ten (ownPkg s) sp (splitAddr s a).2.2 right = .ok o
  granule : 0 < n ∧ a % 2 ^ 21 + n ≤ 2 ^ 21
  target : physCheck s sp o n .engine = none ∧ (sp = 2 → failedStock s o n = none)
  clean : badIn s (memKey sp o) n = []
  rings : ∀ k < 8, isHome s k = false

/-- Function f's registers become k; the other functions and the rest of the machine stay. -/
def Sys2Proof.Claims.FnBecomes (s t : State) (f : Nat) (k : Fn) : Prop :=
  fnOf t f = k ∧ (∀ g, g ≠ f → fnOf t g = fnOf s g) ∧ t = { s with host := { s.host with fns := t.host.fns } }

/-- The queue pair of a tenant is off and every command of it is discarded when it finishes (R737, R742). -/
def Sys2Proof.Claims.QueueOff (t : State) (ten : Nat) : Prop :=
  queueOn t ten = false ∧ ∀ c ∈ (tqOf t ten).cmds, c.discard = true

/-- What a configuration read answers of a function (table Configuration space, R698 to R702, R738, R744, R745). Of a capability it tells
whether the function has it, of a BAR its size (log entry 15); the serial number's bytes are log entry 116. -/
def Sys2Proof.Claims.registerValue (s : State) (f : Nat) : ConfigReg → Nat
  | .vendorDevice => Config.vendorId.toNat + (if f = 0 then 0x4C06 else 0x4C07) * 2 ^ 16
  | .classCode => 0x120000
  | .command => (if (fnOf s f).memSpace then 2 else 0) + (if (fnOf s f).busMaster then 4 else 0)
  | .vfEnable => if s.host.vfEnable then 1 else 0
  | .numVfs => s.host.numVfs
  | .powerState => if (fnOf s f).d3hot then 3 else 0
  | .msixControl => (if f = 0 then 2047 else 63) + (if (fnOf s f).fnMask then 2 ^ 14 else 0) +
      (if (fnOf s f).msixEnable then 2 ^ 15 else 0)
  | .completionTimeout => (fnOf s f).timeout
  | .capability c =>
    if c ∈ [PcieCap.powerManagement, .pciExpress, .msix] ∨ f = 0 ∧ c ∈ [PcieCap.advancedErrors, .alternativeRouting, .virtualization,
      .accessControl, .serialNumber, .secondary, .dataLinkFeature, .physical16, .physical32, .physical64, .laneMargining] then 1 else 0
  | .serialNumber high =>
    if f ≠ 0 then 0
    else if high then leNat ((List.range 8).map Config.serialByte) / 2 ^ 32
    else leNat ((List.range 8).map Config.serialByte) % 2 ^ 32
  | .barSize n =>
    if n = 0 then 16 else if n = 2 then (if f = 0 then 24 else 12) else if n = 4 ∧ f = 0 ∧ s.host.bar4 = true then 36 else 0
  | .totalVfs => if f = 0 then 31 else 0
  | .firstVfOffset => if f = 0 then 1 else 0
  | .vfStride => if f = 0 then 1 else 0
  | .maxPayload => 512
  | .maxReadRequest => 4096
  | .functionReset => 1
  | .tagBits => 10
  | .timeoutRanges => 15
  | .aspm => 0
  | .other => 0

/-- The link, configuration space and MSI-X (R696 to R701, R729, R733, R737, R738, R742): a link that comes up has its rate, width
and mode, and event 0x1041; configuration is retried until its time has come, then reads answer each register and writes set it; a
written MSI-X entry holds its value, and one unmasked with its pending bit sends its message; a reset of a function or of the port
leaves its registers and windows as after reset and its queue pairs off. -/
def Obligations.HostPort : Prop :=
  (∀ (s : State) (rate width : Byte) (flit : Bool), Runs (.pcieLinkUp rate width flit) s (fun t =>
    t.host = { s.host with rate := rate, width := width, flitMode := flit || rate == 6 } ∧
    Logged s t 0x1041 srcGaffer rate.toNat ∧ t = { s with host := t.host, log := t.log })) ∧
  (∀ s : State, s.gaffer.diesReleased = true → s.pins.pwrOk = true → Runs .pcieCrsEnd s (fun t =>
    t.host = { s.host with retryStatus := false } ∧ ready t 3 = true ∧ (ready s 3 = false → Logged s t 0x1003 srcGaffer 3) ∧
    t = { s with host := t.host, log := t.log, gaffer := { s.gaffer with readiness := t.gaffer.readiness } })) ∧
  (∀ (s : State) (f : FnId) (w : Option U32) (r : ConfigReg), s.host.retryStatus = true →
    Runs (.configurationRequest f r w) s (fun t => t = { s with outputs := .pcieConfig none :: s.outputs })) ∧
  (∀ (s : State) (f : FnId) (v : U32), s.host.retryStatus = false →
    let k := fnOf s f.toNat
    (∀ r, r ≠ .other → Runs (.configurationRequest f r none) s (fun t =>
      t = { s with outputs := .pcieConfig (some (BitVec.ofNat 32 (registerValue s f.toNat r))) :: s.outputs })) ∧
    Runs (.configurationRequest f .command (some v)) s (fun t =>
      FnBecomes s t f.toNat { k with memSpace := v.toNat.testBit 1, busMaster := v.toNat.testBit 2 }) ∧
    Runs (.configurationRequest f .completionTimeout (some v)) s (fun t =>
      FnBecomes s t f.toNat { k with timeout := v.toNat % 16 }) ∧
    (v.toNat % 4 = 3 → Runs (.configurationRequest f .powerState (some v)) s (fun t =>
      FnBecomes s t f.toNat { k with d3hot := true })) ∧
    (v.toNat % 4 = 0 → k.d3hot = true → Runs (.configurationRequest f .powerState (some v)) s (fun t =>
      fnOf t f.toNat = Fn.reset ∧ ∀ ten ∈ fnTenants s f.toNat, QueueOff t ten)) ∧
    ((∀ e ∈ k.msix, e.2.pendingBit = false) → Runs (.configurationRequest f .msixControl (some v)) s (fun t =>
      FnBecomes s t f.toNat { k with msixEnable := v.toNat.testBit 15, fnMask := v.toNat.testBit 14 })) ∧
    (f = 0 → v.toNat.testBit 0 = true → Runs (.configurationRequest f .vfEnable (some v)) s (fun t =>
      t = { s with host := { s.host with vfEnable := true } })) ∧
    (f = 0 → v.toNat.testBit 0 = false → s.host.vfEnable = true → Runs (.configurationRequest f .vfEnable (some v)) s (fun t =>
      t.host.vfEnable = false ∧ ∀ g, 1 ≤ g → g < 32 → fnOf t g = Fn.reset)) ∧
    (f = 0 → s.host.vfEnable = false → v.toNat ≤ 31 → Runs (.configurationRequest f .numVfs (some v)) s (fun t =>
      t = { s with host := { s.host with numVfs := v.toNat } }))) ∧
  (∀ (s : State) (f : FnId) (e : U16) (d : BitVec 2) (v : U32), e.toNat < (if f = 0 then 2048 else 64) →
    let k := fnOf s f.toNat
    let x := tget k.msix e.toNat MsixEntry.reset
    (x.pendingBit = false → Runs (.msiXTableWrite f e d v) s (fun t =>
      let y := tget (fnOf t f.toNat).msix e.toNat MsixEntry.reset
      FnBecomes s t f.toNat { k with msix := tput k.msix e.toNat y } ∧ y.pendingBit = false ∧
      y.addr = (if d = 0 then BitVec.ofNat 64 (x.addr.toNat / 2 ^ 32 * 2 ^ 32 + v.toNat) else
        if d = 1 then BitVec.ofNat 64 (x.addr.toNat % 2 ^ 32 + v.toNat * 2 ^ 32) else x.addr) ∧
      y.data = (if d = 2 then v else x.data) ∧ y.masked = (if d = 3 then v.toNat.testBit 0 else x.masked))) ∧
    (x.pendingBit = true → d = 3 → v.toNat.testBit 0 = false → k.msixEnable = true → k.fnMask = false →
      Runs (.msiXTableWrite f e d v) s (fun t =>
        t.outputs = .msix f x.addr x.data :: s.outputs ∧
        tget (fnOf t f.toNat).msix e.toNat MsixEntry.reset = { x with masked := false, pendingBit := false }))) ∧
  (∀ (s : State) (f : FnId), Runs (.functionLevelReset f) s (fun t =>
    fnOf t f.toNat = Fn.reset ∧ winOf t f.toNat = Window.reset ∧ (∀ ten ∈ fnTenants s f.toNat, QueueOff t ten) ∧
    (∀ g, g ≠ f.toNat → fnOf t g = fnOf s g ∧ winOf t g = winOf s g))) ∧
  (∀ (s : State) (cause : HostResetCause), Runs (.hostPortReset cause) s (fun t =>
    t.host.rate = 0 ∧ t.host.width = 0 ∧ t.host.flitMode = false ∧ t.host.vfEnable = false ∧ t.host.numVfs = 0 ∧
    (∀ f, fnOf t f = Fn.reset) ∧ (∀ f < 32, winOf t f = Window.reset) ∧ (∀ g, winOf t (256 + g) = winOf s (256 + g)) ∧
    (∀ e ∈ s.host.tenants, QueueOff t e.1) ∧ t.mem = s.mem ∧ t.cores = s.cores))

/-- BAR4 reads and writes bytes of stock (R702); a copy moves bytes between host memory and this package under its tenant, in
either direction (R722); a queue entry that comes from host memory joins its queue's commands (R716, R718), and a request that fails
or times out stops the queue with cause 3 (R743). -/
def Obligations.HostMemory : Prop :=
  (∀ (s : State) (off : U64) (len : U16) (bytes : List Byte) (n : Nat), s.host.bar4 = true → ready s 7 = true →
    off.toNat + n ≤ 2 ^ 36 → off.toNat + n ≤ capacityGiB s * 2 ^ 30 → failedStock s off.toNat n = none →
    badIn s (memKey 2 off.toNat) n = [] →
    (n = len.toNat → Runs (.bar4Read off len) s (fun t =>
      t = { s with outputs := .pcieRead (some (cellRead s.mem.cells (memKey 2 off.toNat) n)) false :: s.outputs })) ∧
    (n = bytes.length → (∀ k < 8, isHome s k = false) → Runs (.bar4Write off bytes) s (fun t =>
      cellRead t.mem.cells (memKey 2 off.toNat) n = bytes ∧ OtherBytes s t (memKey 2 off.toNat) n ∧
      t = { s with mem := t.mem }))) ∧
  (∀ (s : State) (ten : Tenant) (h : HostBytes) (c : HostCmd) (sp o : Nat), nextCmd s ten.toNat 3 = some c →
    let n := c.entry.dataLen
    let a := fieldAt c.entry.body 8 8
    let f := queueFn s ten.toNat
    (∀ b ∈ slice c.entry.body 1 7 ++ slice c.entry.body 0x10 48, b = 0) → n ≤ 2 ^ 26 → (fnOf s f).busMaster = true →
    (fieldAt c.entry.body 0 1 = 0 → CopyAt s ten.toNat a n rightWrite sp o →
      let l := hostBytes h c.entry.dataAddr n
      l.length = n → Runs (.hostCopy ten h) s (fun t =>
        cellRead t.mem.cells (memKey sp o) n = l ∧ OtherBytes s t (memKey sp o) n ∧
        CmdEnds s t ten.toNat c.index { plainDone 0 with length := n } ∧ t = { s with mem := t.mem, host := t.host })) ∧
    (fieldAt c.entry.body 0 1 = 1 → CopyAt s ten.toNat a n rightRead sp o → Runs (.hostCopy ten h) s (fun t =>
      t.outputs = .hostWrite (BitVec.ofNat 5 f) c.entry.dataAddr (cellRead s.mem.cells (memKey sp o) n) :: s.outputs ∧
      CmdEnds s t ten.toNat c.index { plainDone 0 with length := n } ∧
      t = { s with outputs := t.outputs, host := t.host }))) ∧
  (∀ (s : State) (req : Nat) (ten : Tenant), tfind s.host.reads req = some (.entry ten) →
    let q := tqOf s ten.toNat
    (∀ l, l.length = 128 → fieldAt l 1 1 < 4 → (∀ b ∈ slice l 4 4 ++ slice l 0x14 44, b = 0) →
      let op := fieldAt l 0 1
      let e : Entry := { opcode := op, flags := fieldAt l 1 1, cid := fieldAt l 2 2, dataAddr := fieldAt l 8 8
                         dataLen := fieldAt l 0x10 4, body := l.drop 64, reservedSet := false }
      Runs (.hostReadCompletion req (.data l)) s (fun t =>
        tqOf t ten.toNat = { q with
          cmds := q.cmds ++ [{ index := q.subHead, entry := e, discard := false
                               state := if 1 ≤ op ∧ op ≤ 5 then .fetched else .finished (plainDone 2) }]
          subHead := (q.subHead + 1) % queueSize s ten.toNat, fetching := 0 } ∧
        (∀ k, k ≠ ten.toNat → tqOf t k = tqOf s k) ∧ tfind t.host.reads req = none ∧ t = { s with host := t.host })) ∧
    (∀ i ∈ [Instr.hostReadCompletion req .unsupportedRequest, .hostReadCompletion req .completerAbort,
        .hostReadCompletion req .poisoned, .completionTimeout req], q.error = false → Runs i s (fun t =>
      tqOf t ten.toNat = { q with error := true, cause := 3, fetching := 0 } ∧
      (∀ k, k ≠ ten.toNat → tqOf t k = tqOf s k) ∧ tfind t.host.reads req = none ∧ t = { s with host := t.host })))

/-! ## The object dictionary -/

/-- The dictionary is ready and no other access waits or is being journalled (R108). -/
def Sys2Proof.Claims.DictIdle (s : State) : Prop :=
  s.gaffer.dictReady = true ∧ s.dict.queued = [] ∧ s.dict.awaiting = none

/-- The access is answered with a status and data (R103). -/
def Sys2Proof.Claims.Answers (t : State) (op : Byte) (a : Access) (status : Nat) (data : List Byte) : Prop :=
  ∃ r, t.dict.response = some r ∧ r.opcode = op ||| 0x80 ∧ r.index = a.index ∧ r.sub = a.sub ∧ r.tag = a.tag ∧
    r.status = BitVec.ofNat 16 status ∧ r.data = data ∧ r.length = BitVec.ofNat 16 data.length

/-- Nothing but the response changes. -/
def Sys2Proof.Claims.OnlyAnswers (s t : State) (op : Byte) (a : Access) (status : Nat) (data : List Byte) : Prop :=
  Answers t op a status data ∧ t = { s with dict := { s.dict with response := t.dict.response } }

/-- A write by a role that may write the entry d, which its block accepts as it stands (R79, R78, R132, R137). -/
structure Sys2Proof.Claims.WriteReaches (s : State) (a : Access) (d : Desc) : Prop where
  idle : DictIdle s
  body : bodyCode 2 a = 0
  entry : findEntry s a = .ok d
  block : accessCode s 2 a d = 0
  right : (pathRole s a.path).map (rightOf d.rights) = some 2
  alive : lifeState s ≠ 4
  tenant : instanceOf s a d < 4096 ∧ (a.index = 0xA030 → instanceOf s a d ≠ 0)

/-- The entries that stand alone and whose value is only kept. -/
def Sys2Proof.Claims.keptScalar (i : Nat) : Prop :=
  i ∈ [0x2003, 0x2021, 0x3031, 0x6030, 0x7200, 0xA030] ∨ 0x8011 ≤ i ∧ i < 0x8030

/-- The records whose fields are only kept until a huddle or a start takes them up. -/
def Sys2Proof.Claims.keptRecord (i : Nat) : Prop := 0x4100 ≤ i ∧ i < 0x4300 ∨ i = 0x7120 ∨ i = 0x7210

/-- Writes of entries that stand alone (R84, R85, R99, R100, R116): a volatile write or restore takes effect at once; a persistent
one waits for its journal record; a value out of its limits changes nothing; the pieces of a BLOB gather under a claim, and the
final one gives the value. -/
def Obligations.DictionaryWrites : Prop :=
  ∀ (s : State) (a : Access) (d : Desc), WriteReaches s a d →
    let i := a.index.toNat
    let ten := instanceOf s a d
    let v := a.data.take a.length.toNat
    (keptScalar i → a.flags.toNat.testBit 2 = false → v.length = d.dflt.length → a.offset = 0 →
      quietBusy s i ten [(0, v)] = false →
      (valueCheck i 0 d v = 0 → entryCode s i (leNat v) = 0 → (a.flags.toNat.testBit 0 = true ∨ d.persist = false) →
        Runs (.dictWrite a) s (fun t => Answers t 2 a 0 [] ∧ t.dict.vals = tput s.dict.vals (dictKey i 0 ten) v ∧
          t = { s with dict := { s.dict with vals := t.dict.vals, response := t.dict.response } })) ∧
      (∀ s' r, valueCheck i 0 d v = 0 → entryCode s i (leNat v) = 0 → a.flags.toNat.testBit 0 = false → d.persist = true →
        beginRecord s (newRecord s i 0 ten false v) = some (s', r) → Runs (.dictWrite a) s (fun t =>
          (∃ w, t.dict.awaiting = some w ∧ w.rec' = r ∧ w.effect.fields = [(0, v)] ∧ w.effect.index = a.index ∧
            w.carrier = .direct) ∧ t.dict.response = s.dict.response ∧ t.dict.vals = s'.dict.vals)) ∧
      (valueCheck i 0 d v ≠ 0 → Runs (.dictWrite a) s (fun t => OnlyAnswers s t 2 a (valueCheck i 0 d v) []))) ∧
    (keptScalar i → a.flags.toNat.testBit 2 = true → quietBusy s i ten [(0, d.dflt)] = false →
      (a.flags.toNat.testBit 0 = true ∨ d.persist = false) →
      Runs (.restoreDefault a) s (fun t => Answers t 2 a 0 [] ∧ t.dict.vals = tput s.dict.vals (dictKey i 0 ten) d.dflt ∧
        t = { s with dict := { s.dict with vals := t.dict.vals, response := t.dict.response } })) ∧
    (i = 0x3030 → a.flags.toNat.testBit 2 = false → quietBusy s i ten [] = false →
      let c := claimOf s a ten
      let sofar := (c.map (fun x => x.bytes)).getD []
      (∀ x, c = some x → x.holder = holderOf s a.path) → a.offset.toNat = sofar.length → sofar.length + v.length ≤ 1024 →
      (a.flags.toNat.testBit 3 = false → Runs (.writePiece a) s (fun t => Answers t 2 a 0 [] ∧
        (∃ x, claimOf t a ten = some x ∧ x.bytes = sofar ++ v ∧ x.holder = holderOf s a.path) ∧ t.dict.vals = s.dict.vals ∧
        t = { s with dict := { s.dict with claims := t.dict.claims, response := t.dict.response } })) ∧
      (a.flags.toNat.testBit 3 = true → sofar.length + v.length = 1024 → Runs (.writePiece a) s (fun t => Answers t 2 a 0 [] ∧
        claimOf t a ten = none ∧ t.dict.vals = tput s.dict.vals (dictKey i 0 ten) (sofar ++ v) ∧
        t = { s with
          dict := { s.dict with vals := t.dict.vals, claims := t.dict.claims, response := t.dict.response } })))

/-- Staged writes, commits and their end (R90 to R96): a field is staged for its holder and its value stays; a write of the next
count commits every staged field together; a write of the count discards the stage; a stage that expires is gone and event 0x1012 is
logged; another holder meets 0x0011. -/
def Obligations.StagesAndCommits : Prop :=
  (∀ (s : State) (a : Access) (d : Desc), WriteReaches s a d → isRecord a.index.toNat = true →
    let i := a.index.toNat
    let ten := instanceOf s a d
    let h := holderOf s a.path
    let v := a.data.take a.length.toNat
    let mine : Prop := ∀ x ∈ s.dict.stages, x.index = a.index → x.ten.toNat = ten → x.holder = h
    (a.sub ≠ 0 → a.flags.toNat.testBit 2 = false → v.length = d.dflt.length → a.offset = 0 →
      i ≠ 0xA010 → i ≠ 0xA021 →
      (mine → Runs (.stagedWrite a) s (fun t => Answers t 2 a 0 [] ∧
        (∃ st, ownStage t i ten h = some st ∧ tfind st.fields a.sub.toNat = some v ∧
          ∀ k, k ≠ a.sub.toNat → tfind st.fields k = (ownStage s i ten h).bind (fun x => tfind x.fields k)) ∧
        t = { s with
          dict := { s.dict with stages := t.dict.stages, expired := t.dict.expired, response := t.dict.response } })) ∧
      (∀ x, s.dict.stages = [x] → x.index = a.index → x.ten.toNat = ten → x.holder ≠ h →
        Runs (.stagedWrite a) s (fun t => OnlyAnswers s t 2 a 0x0011 []))) ∧
    (∀ st, a.sub = 0 → keptRecord i → a.flags.toNat.testBit 2 = false → a.offset = 0 →
      v = [BitVec.ofNat 8 (countOf s i ten + 1)] → ownStage s i ten h = some st → st.fields ≠ [] →
      (st.fields.map (fun f => f.1)).Nodup → quietBusy s i ten st.fields = false →
      (∀ f ∈ st.fields, ∀ e, desc i f.1 = some e → valueCheck i f.1 e f.2 = 0) → recordCode s i ten st.fields a.pre = 0 →
      (a.flags.toNat.testBit 0 = true ∨ i ≠ 0x7120) → Runs (.commit a) s (fun t => Answers t 2 a 0 [] ∧
        (∀ f ∈ st.fields, tfind t.dict.vals (dictKey i f.1 ten) = some f.2) ∧
        (∀ k, (∀ f ∈ st.fields, k ≠ dictKey i f.1 ten) → tfind t.dict.vals k = tfind s.dict.vals k) ∧
        countOf t i ten = (countOf s i ten + 1) % 256 ∧ ownStage t i ten h = none ∧
        t = { s with dict := { s.dict with
          vals := t.dict.vals, counts := t.dict.counts, stages := t.dict.stages, response := t.dict.response } })) ∧
    (a.sub = 0 → a.flags.toNat.testBit 2 = false → a.offset = 0 → v = [BitVec.ofNat 8 (countOf s i ten)] →
      i ≠ 0xA010 → i ≠ 0xA021 → Runs (.discardStage a) s (fun t => Answers t 2 a 0 [] ∧ ownStage t i ten h = none ∧
        t = { s with
          dict := { s.dict with stages := t.dict.stages, expired := t.dict.expired, response := t.dict.response } }))) ∧
  (∀ (s : State) (i : U16) (sub : Byte) (ten : Tenant) (st : Stage), isRecord i.toNat = true → s.dict.stages = [st] →
    st.index = i → st.ten = ten → Runs (.stageExpiry i sub ten) s (fun t =>
      t.dict = { s.dict with stages := [], expired := (i, ten, st.holder) :: s.dict.expired } ∧
      Logged s t 0x1012 srcGaffer (i.toNat * 65536) ∧ t = { s with dict := t.dict, log := t.log }))

/-! ## Host queues -/

/-- A tenant's queue pair becomes q; the other queue pairs and the rest of the machine stay. -/
def Sys2Proof.Claims.QueueBecomes (s t : State) (ten : Nat) (q : TenantQ) : Prop :=
  tqOf t ten = q ∧ (∀ k, k ≠ ten → tqOf t k = tqOf s k) ∧ t = { s with host := { s.host with tenants := t.host.tenants } }

/-- The 32 bytes of a completion entry (table Completion entry). -/
def Sys2Proof.Claims.completionEntry (c : HostCmd) (x : Completion) (head : Nat) (phase : Bool) : List Byte :=
  leBytes 2 c.entry.cid ++ leBytes 2 head ++ leBytes 2 x.status ++ [if phase then 1 else 0, 0] ++ leBytes 4 x.result ++
    leBytes 4 x.length ++ leBytes 4 x.second ++ fit 12 x.inline

/-- Doorbells (R713, R715): a tail within the room and a head within what was posted are taken, others are sticky errors; a
disabled queue ignores them, and the PF page of a bound tenant takes cause 5. A fetch asks host memory for the entry at the head
(R714). A finished command's completion is written with its phase, then its interrupt goes out (R717, R728, R729); a failed write
is cause 4. -/
def Obligations.HostQueueFlow : Prop :=
  ∀ (s : State) (ten : Tenant),
    let q := tqOf s ten.toNat
    let n := queueSize s ten.toNat
    let f := queueFn s ten.toNat
    (∀ (page : DoorbellPage) (v : U32), pageTenant s page = some ten.toNat → queueOn s ten.toNat = true →
      (∀ x, page = .pf x → boundVf s ten.toNat = none) →
      (v.toNat < n → ahead n q.subTail v.toNat + ahead n q.subHead q.subTail ≤ n - 1 →
        Runs (.submissionTailDoorbell page v) s (fun t => QueueBecomes s t ten.toNat { q with subTail := v.toNat })) ∧
      (v.toNat < n → ahead n q.compHead v.toNat ≤ ahead n q.compHead q.compTail →
        Runs (.completionHeadDoorbell page v) s (fun t => QueueBecomes s t ten.toNat { q with compHead := v.toNat })) ∧
      (n ≤ v.toNat → q.error = false →
        Runs (.submissionTailDoorbell page v) s (fun t => QueueBecomes s t ten.toNat { q with error := true, cause := 1 }) ∧
        Runs (.completionHeadDoorbell page v) s (fun t => QueueBecomes s t ten.toNat { q with error := true, cause := 6 }))) ∧
    (∀ (page : DoorbellPage) (v : U32), pageTenant s page = some ten.toNat → queueOn s ten.toNat = false →
      Runs (.submissionTailDoorbell page v) s (fun t => t = s) ∧ Runs (.completionHeadDoorbell page v) s (fun t => t = s)) ∧
    (∀ v : U32, queueOn s ten.toNat = true → boundVf s ten.toNat ≠ none →
      Runs (.submissionTailDoorbell (.pf ten) v) s (fun t => QueueBecomes s t ten.toNat { q with wrongFunction := true })) ∧
    (queueOn s ten.toNat = true → q.error = false → q.fetching = 0 → q.subHead ≠ q.subTail → (fnOf s f).busMaster = true →
      Runs (.submissionFetch ten) s (fun t =>
        tqOf t ten.toNat = { q with fetching := 1 } ∧ (∀ k, k ≠ ten.toNat → tqOf t k = tqOf s k) ∧
        t.outputs = .hostRead (BitVec.ofNat 5 f) (subBase s ten.toNat + 128 * q.subHead) 128 s.host.nextReq :: s.outputs ∧
        tfind t.host.reads s.host.nextReq = some (.entry ten) ∧ t = { s with host := t.host, outputs := t.outputs })) ∧
    (∀ c x, (∀ y ∈ q.cmds, y.discard = false) → postable q.cmds false = some c → c.state = .finished x →
      (q.compTail + 1) % n ≠ q.compHead →
      let entry := Output.hostWrite (BitVec.ofNat 5 f) (compBase s ten.toNat + 32 * q.compTail)
        (completionEntry c x q.subHead q.phase)
      let posted : TenantQ := { q with
        cmds := q.cmds.erase c, compTail := (q.compTail + 1) % n, completions := (q.completions + 1) % 2 ^ 64
        phase := if (q.compTail + 1) % n = 0 then !q.phase else q.phase }
      ((fnOf s f).busMaster = true → c.entry.flags.testBit 1 = true → Runs (.completionPost ten true) s (fun t =>
        t.outputs = entry :: s.outputs ∧ QueueBecomes { s with outputs := t.outputs } t ten.toNat posted)) ∧
      (∀ g e, (fnOf s f).busMaster = true → c.entry.flags.testBit 1 = false →
        vectorPlace (queueVector s ten.toNat) = some (g, e) → (fnOf s g).msixEnable = true → (fnOf s g).fnMask = false →
        let m := tget (fnOf s g).msix e MsixEntry.reset
        m.masked = false → Runs (.completionPost ten true) s (fun t =>
          t.outputs = .msix (BitVec.ofNat 5 g) m.addr m.data :: entry :: s.outputs ∧ tqOf t ten.toNat = posted)) ∧
      (q.error = false → Runs (.completionPost ten false) s (fun t =>
        QueueBecomes s t ten.toNat { q with error := true, cause := 4 })))

/-- Host commands (R720 to R724): a no operation finishes, with 2 where its body is not zero; a dictionary read of a short value
answers it in the completion; a group request is carried out by its group and the completion names its code and the group's
state, unless the command is to wait; and a command that waits finishes when its group is where the request leads. -/
def Obligations.HostCommands : Prop :=
  ∀ (s : State) (ten : Tenant) (c : HostCmd),
    let running := runCmd s ten.toNat c.index
    let alone : Prop := ∀ x ∈ (tqOf s ten.toNat).cmds, x.index = c.index → x = c
    (nextCmd s ten.toNat 5 = some c → Runs (.hostNoOperation ten) s (fun t =>
      CmdEnds s t ten.toNat c.index (plainDone (if ∀ b ∈ c.entry.body, b = 0 then 0 else 2)) ∧
      t = { s with host := { s.host with tenants := t.host.tenants } })) ∧
    (∀ h pre d, nextCmd s ten.toNat 1 = some c → alone →
      let a : Access := { accessOf (.queue ten) pre (c.entry.body.take 16) with data := [] }
      let value := readValue running a.index.toNat a.sub.toNat (instanceOf running a d) a.flags.toNat
      (∀ b ∈ c.entry.body.drop 16, b = 0) → bodyOp c.entry.body = 1 → c.entry.dataAddr = 0 → a.tag.toNat = c.entry.cid →
      DictIdle running → bodyCode 1 a = 0 → findEntry running a = .ok d → accessCode running 1 a d = 0 →
      isText d.ty = false → a.offset = 0 → d.dflt.length ≤ a.length.toNat → a.length.toNat ≤ 12 →
      (a.index = 0x7000 → a.sub ≠ 4) → Runs (.hostDictionaryAccess ten h pre) s (fun t =>
        (∃ x, CmdEnds s t ten.toNat c.index x ∧ x.status = 0 ∧ x.inline = slice value 0 a.length.toNat ∧
          x.length = (slice value 0 a.length.toNat).length) ∧
        t = { s with dict := { s.dict with response := t.dict.response }, host := { s.host with tenants := t.host.tenants } })) ∧
    (∀ pre v d code, nextCmd s ten.toNat 2 = some c → alone →
      let g := fieldAt c.entry.body 0 1
      let r := fieldAt c.entry.body 1 1
      let a : Access := { path := .queue ten, flags := 0, index := BitVec.ofNat 16 (0x4300 + g), sub := 0, sel := 0, offset := 0
                          length := 1, tag := 0, data := [BitVec.ofNat 8 r], pre := pre }
      1 ≤ r → r ≤ 4 → fieldAt c.entry.body 2 1 < 2 → (∀ b ∈ c.entry.body.drop 3, b = 0) → c.entry.body.length = 64 →
      WriteReaches running a d → groupRequest running g r = (v, code) → code < 2 ^ 16 →
      (tqOf v ten.toNat).cmds = (tqOf running ten.toNat).cmds →
      Runs (.hostGroupControl ten pre) s (fun t =>
        t.groups = v.groups ∧ t.cores = v.cores ∧ t.mem = v.mem ∧
        (code = 0 ∧ fieldAt c.entry.body 2 1 = 1 → (tqOf t ten.toNat).cmds = (tqOf running ten.toNat).cmds) ∧
        (code ≠ 0 ∨ fieldAt c.entry.body 2 1 = 0 → (tqOf t ten.toNat).cmds = (tqOf s ten.toNat).cmds.map (fun x =>
          if x.index = c.index then { x with state := .finished { plainDone (if code = 0 then 0 else if code = 0x000E then 1 else 4)
            with result := code + (groupOf v g).state.code * 2 ^ 16, second := (groupOf v g).lastFault.toNat } } else x)))) ∧
    (∀ slot : U16, (tqOf s ten.toNat).cmds.find?
        (fun x => x.index == slot.toNat && x.state == .running && x.entry.opcode == 2) = some c →
      let k := groupOf s (fieldAt c.entry.body 0 1)
      let r := fieldAt c.entry.body 1 1
      let ends (status state : Nat) : Prop := Runs (.groupWaitComplete ten slot) s (fun t =>
        CmdEnds s t ten.toNat slot.toNat { plainDone status with result := state * 2 ^ 16, second := k.lastFault.toNat } ∧
        t = { s with host := { s.host with tenants := t.host.tenants } })
      (k.state = .running → (r = 1 ∨ r = 3) → k.restoring = false → ends 0 1) ∧ (k.state = .preempted → r = 2 → ends 0 2) ∧
      (k.state = .fenced → ends 0xB 3) ∧ (k.state = .lost → ends 9 4) ∧ (k.state = .idle → k.request = 4 → ends 8 0))

/-! ## The field port -/

/-- The field port becomes c; nothing else changes but what the log, the pins, the outputs and the readiness bits take of it. -/
def Sys2Proof.Claims.CanBecomes (s t : State) (c : Can) : Prop :=
  t.can = c ∧ t = { s with
    can := t.can, log := t.log, pins := t.pins, outputs := t.outputs, freeCount := t.freeCount
    gaffer := { s.gaffer with readiness := t.gaffer.readiness } }

/-- A heartbeat of the package with a field time (R754, table Heartbeat payload). -/
def Sys2Proof.Claims.heartbeat (s : State) (time : Nat) : Output :=
  .can (fieldIdent 6 0 s.can.node 4 s.can.hbTag) true (s.can.data != 0)
    ([BitVec.ofNat 8 (lifeState s), BitVec.ofNat 8 ((if s.gaffer.dictReady then 1 else 0) + (if s.power.hold then 2 else 0) +
        (if s.can.alarms = [] then 0 else 4))] ++
      leBytes 2 (BitVec.ofInt 16 s.power.junction).toNat ++ leBytes 4 s.gaffer.readiness.toNat ++ leBytes 8 time)

/-- The next set of rates of an automatic search (R759): data codes within each nominal code. -/
def Sys2Proof.Claims.nextRates (c : Can) : Can :=
  { c with nominal := if c.data = 4 then c.nominal % 4 + 1 else c.nominal, data := c.data % 4 + 1, valid := 0, sawBrs := false }

/-- Automatic rate detection and bus faults (R759, R760): the port leaves standby at the first rate set, tries the next on an error
or a timeout, and locks on three valid frames with bit-rate switch; a data search ends at the data code 0 on its timeout; a frame
with bit-rate switch restarts it; bus-off and error-passive are logged, and a recovered port is active with a heartbeat. -/
def Obligations.CanDetection : Prop :=
  ∀ s : State,
    let c := s.can
    (c.state = .standby → s.pins.pwrOk = true → s.gaffer.inReset = false → c.fixedNominal = 0 → c.fixedData = 0 →
      Runs .canStandbyExit s (fun t => t.pins = { s.pins with canStby := false } ∧ t.log = s.log ∧ CanBecomes s t { c with
        state := .nominalSearch, nominal := 1, data := 1, valid := 0, errors := 0, sawBrs := false, fromActive := false })) ∧
    (c.state = .nominalSearch → c.fixedData = 0 →
      Runs .canNominalSearchTimeout s (fun t => t = { s with can := nextRates c }) ∧
      (∀ brs, Runs (.canSearchFrame false brs) s (fun t => t = { s with can := nextRates c })) ∧
      (∀ brs, c.valid < 2 → Runs (.canSearchFrame true brs) s (fun t =>
        t = { s with can := { c with valid := c.valid + 1, sawBrs := c.sawBrs || brs } })) ∧
      (∀ brs, 2 ≤ c.valid → (c.sawBrs || brs) = true → s.gaffer.dictReady = false → Runs (.canSearchFrame true brs) s (fun t =>
        Logged s t 0x1040 (srcField 0) (c.nominal + 16 * c.data) ∧
        CanBecomes s t { c with state := .lockedSilent, valid := 0, errors := 0, sawBrs := false, fromActive := false })) ∧
      (2 ≤ c.valid → c.sawBrs = false → Runs (.canSearchFrame true false) s (fun t =>
        t = { s with can := { c with state := .dataSearch, data := 1, valid := 0, errors := 0 } }))) ∧
    (c.state = .dataSearch → s.gaffer.dictReady = false →
      (2 ≤ c.valid → Runs (.canSearchFrame true true) s (fun t =>
        Logged s t 0x1040 (srcField 0) (c.nominal + 16 * c.data) ∧
        CanBecomes s t { c with state := .lockedSilent, valid := 0, errors := 0, sawBrs := false, fromActive := false })) ∧
      Runs (.canSearchFrame false true) s (fun t =>
        t = { s with can := { c with data := c.data % 4 + 1, valid := 0, errors := 0 } }) ∧
      Runs .canDataSearchTimeout s (fun t => Logged s t 0x1040 (srcField 0) c.nominal ∧ CanBecomes s t { c with
        state := .lockedSilent, data := 0, valid := 0, errors := 0, sawBrs := false, fromActive := false })) ∧
    (c.state = .active → c.data = 0 → Runs .activeBitRateSwitchFrame s (fun t => t = { s with can := { c with
      state := .dataSearch, data := 1, valid := 0, errors := 0, sawBrs := false, fromActive := true } })) ∧
    (c.state = .active → c.busOffs = [] → Runs .canBusOff s (fun t =>
      Logged s t 0x2040 (srcField 0) 0 ∧ CanBecomes s t { c with state := .busOff, busOffs := [s.log.ms.toNat / 1000] })) ∧
    (∀ tec rec' : Byte, c.state = .active → Runs (.canErrorPassive tec rec') s (fun t =>
      Logged s t 0x2040 (srcField 0) 0 ∧ CanBecomes s t { c with txErr := tec, rxErr := rec' })) ∧
    (c.state = .busOff → c.time = none → ready s 2 = true → Runs .canBusOffRecovery s (fun t =>
      t.outputs = heartbeat s 0 :: s.outputs ∧ t.log = s.log ∧ CanBecomes s t { c with
        state := .active, txErr := 0, rxErr := 0, fromActive := false, hbTag := (c.hbTag + 1) % 256 }))

/-- Frames (R751 to R758, R761): a heartbeat carries the life-cycle state, the flags, the temperature, the readiness and the field
time; a time sync sets that time; an alarm of another node joins the buffer, which holds eight; a read on the field bus is answered
with its class, tag and data; a frame that breaks the protocol is logged, and rejected where the table says so. -/
def Obligations.CanFrames : Prop :=
  ∀ (s : State) (f : CanFrame),
    let c := s.can
    (∀ us, c.state = .active → Runs (.canHeartbeat us) s (fun t =>
      t.outputs = heartbeat s (match c.time with | some x => (x + us) % 2 ^ 64 | none => 0) :: s.outputs ∧
      CanBecomes s t { c with hbTag := (c.hbTag + 1) % 256 })) ∧
    (c.state = .active → f.extended = false → f.ident = 0x100 → f.data.length = 8 → Runs (.canTimeSync f) s (fun t =>
      t = { s with can := { c with time := some (leNat f.data) } })) ∧
    (c.state = .active → canMatches s f = true → idClass f = 0 → f.data.length ≤ 64 → (fnOf s 0).msixEnable = false →
      (∀ x ∈ c.alarms, x.dropped ≤ 0xFFFF) →
      let r : AlarmRec := { ident := f.ident, fd := f.fd, brs := f.brs, dropped := 0, data := f.data }
      (c.alarms.length < 8 → Runs (.canAlarmFrame f) s (fun t => t = { s with can := { c with alarms := c.alarms ++ [r] } })) ∧
      (∀ a b l, c.alarms = a :: b :: l → 8 ≤ c.alarms.length → Runs (.canAlarmFrame f) s (fun t =>
        t = { s with can := { c with
          alarms := { b with dropped := min 0xFFFF (b.dropped + min 0xFFFF (a.dropped + 1)) } :: (l ++ [r]) } }))) ∧
    (∀ pre d, c.state = .active → canMatches s f = true → violationOf s f = none → idSvc f = 1 → idClass f ≠ 0 →
      let held : State := { s with can := { c with pending := c.pending ++ [f.ident] } }
      let a := accessOf (.field (BitVec.ofNat 7 (idSrc f))) pre f.data
      let n := min a.length.toNat 48
      DictIdle held → bodyOp f.data = 1 → a.tag.toNat = idTag f → bodyCode 1 a = 0 → findEntry held a = .ok d →
      accessCode held 1 a d = 0 → isText d.ty = false → a.offset = 0 → d.dflt.length ≤ n → (a.index = 0x7000 → a.sub ≠ 4) →
      Runs (.canDictionaryRequest f pre) s (fun t => ∃ r, t.dict.response = some r ∧ r.status = 0 ∧ r.tag = a.tag ∧
        r.data = slice (readValue held a.index.toNat a.sub.toNat (instanceOf held a d) a.flags.toNat) 0 n ∧
        t.outputs = .can (fieldIdent (idClass f) (idSrc f) c.node 2 (idTag f)) true (c.data != 0) (fdPad r.bytes) :: s.outputs ∧
        t = { s with dict := { s.dict with response := t.dict.response }, outputs := t.outputs })) ∧
    (c.state = .active → f.extended = true → idClass f ≠ 0 →
      let now := s.log.ms.toNat / 1000
      let count := if c.violLog.1 = now then c.violLog.2 else 0
      count < 16 →
      (idSrc f = c.node → Runs (.fieldViolationFrame f) s (fun t =>
        Logged s t 0x2041 (srcField 0) f.ident.toNat ∧ t.outputs = s.outputs ∧
        CanBecomes s t { c with violLog := (now, count + 1) })) ∧
      (canMatches s f = true → idSrc f ≠ c.node → idSrc f ≠ 0 → (idSvc f = 0 ∨ 6 ≤ idSvc f) → tfind c.rejectMs (idSrc f) = none →
        Runs (.fieldViolationFrame f) s (fun t =>
          Logged s t 0x2041 (srcField 0) f.ident.toNat ∧
          t.outputs = .can (fieldIdent (idClass f) (idSrc f) c.node 5 (idTag f)) false false
            (leBytes 4 f.ident.toNat ++ [1, BitVec.ofNat 8 (outstandingFrom s (idSrc f)).length] ++ zeros 2) :: s.outputs ∧
          CanBecomes s t { c with
            violLog := (now, count + 1), rejectMs := tput c.rejectMs (idSrc f) s.log.ms.toNat })))

/-! ## The SPI target port and the boot flash -/

/-- The status word of a port that is not busy: whether a response waits, the sticky bits, and the pattern (table SPI status
word). -/
def Sys2Proof.Claims.idleStatus (s : State) : U32 :=
  BitVec.ofNat 32 ((if s.spi.response.isSome then 2 else 0) + 4 * (s.spi.sticky % 64) + 2 ^ 24 * 0xA5)

/-- The port shifts words out; besides, only what the statement says of the port changes. -/
def Sys2Proof.Claims.Shifts (s t : State) (words : List U32) (p : Spi) : Prop :=
  t = { s with spi := p, freeCount := s.freeCount + 1, outputs := .miso words :: s.outputs }

/-- The record that waits is a scalar's and its carrier is none but the command itself. -/
structure Sys2Proof.Claims.WaitsForSeal (s : State) (w : Awaiting) (i : Nat) (v : List Byte) : Prop where
  waits : s.dict.awaiting = some w
  alone : s.dict.queued = []
  carrier : w.carrier = .direct
  entry : w.effect.index.toNat = i ∧ keptScalar i ∧ w.effect.record = false ∧ w.effect.fields = [(0, v)]

/-- A compaction from s has left the other half authoritative, with the next generation and the latest values of the records that
were sealed (R126, R937). -/
structure Sys2Proof.Claims.Compacted (s t : State) (g : U32) : Prop where
  half : t.dict.journal.authB = !s.dict.journal.authB
  header : (authHalf t).header = headerBytes (g + 1)
  generation : (authHalf t).generation = some (g + 1) ∧ (authHalf t).committed = true ∧ (authHalf t).skipped = []
  records : (authHalf t).recs.map (fun r => { r with offset := 0 }) =
    (compacted (authHalf s).recs).map (fun r => { r with offset := 0 })
  ended : t.dict.journal.compacting = false ∧ t.dict.journal.abandoned = 0
  logged : LastEvent t 0x1011 srcGaffer (g + 1).toNat
  rest : t = { s with
    log := t.log, ageing := { s.ageing with erases := t.ageing.erases }
    dict := { s.dict with journal := t.dict.journal } }

/-- SPI transactions (R763 to R773): each shifts the status word out; a request whose CRC is right is executed and its response
waits, one whose CRC is wrong sets CRC_ERR alone; a fetch shifts out a zero word, the response and its CRC; a no operation nothing
more; a reserved opcode sets BAD_CMD. The port answers from 60 ms after PWR_OK. Flash (R116, R126, R140, R778, R938): the sealed
record's commit takes effect and is acknowledged; a failed program leaves the record behind and rewrites it, and a poll that finds
the failure does the same; a compaction moves the latest values to the other half; one whose block 0 fails is abandoned, and
retried while its trigger holds. -/
def Obligations.SpiAndFlash : Prop :=
  ((∀ s : State, s.pins.pwrOk = true → s.gaffer.inReset = false → Runs .spiReadyTimer s (fun t =>
    t.pins = { s.pins with misoHiZ := false } ∧ ready t 1 = true ∧ (ready s 1 = false → Logged s t 0x1003 srcGaffer 1) ∧
    t = { s with pins := t.pins, log := t.log, gaffer := { s.gaffer with readiness := t.gaffer.readiness } })) ∧
  (∀ (s : State) (x : SpiTransaction) (c : U32), s.pins.misoHiZ = false → s.gaffer.dictReady = true → s.spi.waiting = false →
    x.extraEdges = 0 →
    (x.words = [c] → c = 0 → Runs (.spiNoOperation x) s (fun t => Shifts s t [idleStatus s] s.spi)) ∧
    (x.words = [c] → 3 ≤ c.toNat / 2 ^ 24 → s.spi.sticky.testBit 3 = false → Runs (.spiNoOperation x) s (fun t =>
      Shifts s t [idleStatus s] { s.spi with sticky := s.spi.sticky + 8 })) ∧
    (∀ r more, c.toNat / 2 ^ 24 = 2 → c.toNat / 2 ^ 12 % 2 ^ 12 = 0 → x.words = c :: crcWord [c] :: more →
      s.spi.response = some r →
      let out := toWords r.bytes ++ [crcWord (toWords r.bytes)]
      more.length = out.length → Runs (.spiFetch x) s (fun t => Shifts s t (idleStatus s :: 0 :: out) s.spi)) ∧
    (∀ l k pre, c.toNat / 2 ^ 24 = 1 → c.toNat / 2 ^ 12 % 2 ^ 12 = l.length → 4 ≤ l.length → l.length ≤ 260 →
      x.words = c :: (l ++ [k]) →
      (k ≠ crcWord (c :: l) → s.spi.sticky.testBit 1 = false → Runs (.spiRequest x pre) s (fun t =>
        Shifts s t [idleStatus s] { s.spi with sticky := s.spi.sticky + 2 })) ∧
      (∀ d, k = crcWord (c :: l) →
        let held : State := { s with
          spi := { s.spi with waiting := true, response := none }, freeCount := s.freeCount + 1
          outputs := .miso [idleStatus s] :: s.outputs }
        let body := wordBytes' l
        let a := accessOf .spi pre body
        let n := min a.length.toNat 1024
        spiLengthOk body = true → DictIdle held → bodyOp body = 1 → bodyCode 1 a = 0 → findEntry held a = .ok d →
        accessCode held 1 a d = 0 → isText d.ty = false → a.offset = 0 → d.dflt.length ≤ n →
        (a.index = 0x7000 → a.sub ≠ 4) → Runs (.spiRequest x pre) s (fun t => ∃ r,
          t.spi = { s.spi with waiting := false, response := some r } ∧ r.status = 0 ∧ r.tag = a.tag ∧
          r.data = slice (readValue held a.index.toNat a.sub.toNat (instanceOf held a d) a.flags.toNat) 0 n ∧
          t = { held with spi := t.spi, dict := { s.dict with response := some r } }))))) ∧
  ((∀ (s : State) (w : Awaiting) (i : Nat) (v : List Byte), WaitsForSeal s w i v →
    ((authHalf s).fill + w.rec'.len < compactAt → Runs (.journalRecordSealed .ok) s (fun t =>
      t.dict.vals = tput s.dict.vals (dictKey i 0 w.effect.ten.toNat) v ∧ t.dict.response = some w.resp ∧
      t.dict.awaiting = none ∧ (authHalf t).recs = (authHalf s).recs ++ [w.rec'.withSeal true] ∧
      t = { s with dict := { s.dict with
        vals := t.dict.vals, response := t.dict.response, awaiting := none, journal := t.dict.journal } })) ∧
    (∀ page u r, recordFailed s w.rec' page = (u, some r) →
      (∀ x ∈ [Instr.journalRecordSealed (.failed page), .flashStatusPoll (.failed page)], Runs x s (fun t =>
        t = { u with dict := { u.dict with awaiting := some { w with rec' := r } } } ∧
        (∃ a, place (authHalf s).skipped w.rec'.len
            (afterFailure (w.rec'.offset - halfBase s.dict.journal.authB) w.rec'.len page) = some a ∧
          r = { w.rec' with offset := halfBase s.dict.journal.authB + a } ∧ (authHalf t).next = a + w.rec'.len) ∧
        LastEvent t 0x2002 (srcField 4) w.rec'.offset ∧
        (authHalf t).recs = (authHalf s).recs ++ [w.rec'.withSeal false] ∧ t.dict.vals = s.dict.vals)))) ∧
  (∀ s : State, Runs (.flashStatusPoll .ok) s (fun t => t = s)) ∧
  (∀ (s : State) (o : HalfOutcome) (g : U32), s.dict.awaiting = none → (authHalf s).generation = some g →
    (o.block0Ok = true → o.failedBlocks = [] → o.failedPrograms = [] → (∀ r ∈ (authHalf s).recs, r.kind = kEntry) → compactedSize (authHalf s).recs ≤ compactedLimit →
      (s.dict.journal.compacting = true → Runs (.journalCompaction o) s (fun t => Compacted s t g)) ∧
      (s.dict.journal.compacting = false → s.dict.journal.abandoned ≠ 0 → s.dict.journal.unwritable = false →
        compactAt ≤ (authHalf s).fill → Runs (.compactionRetry o) s (fun t =>
          Compacted s t g ∧ t.log.next = s.log.next + 2))) ∧
    (o.block0Ok = false → s.dict.journal.compacting = true → s.dict.journal.abandoned < 3 →
      Runs (.journalCompaction o) s (fun t =>
        t.dict.journal = { s.dict.journal with compacting := false, abandoned := s.dict.journal.abandoned + 1 } ∧
        LastEvent t 0x2002 (srcField 4) (halfBase (!s.dict.journal.authB)) ∧
        t = { s with
          log := t.log, ageing := { s.ageing with erases := t.ageing.erases }
          dict := { s.dict with journal := t.dict.journal } }))))

/-! ## Entries with an effect of their own -/

/-- A whole write of v to an entry that stands alone, which the dictionary and its block accept and which no journal record holds
up. -/
structure Sys2Proof.Claims.ScalarWrite (s : State) (a : Access) (d : Desc) (i : Nat) (v : List Byte) : Prop where
  reaches : WriteReaches s a d
  index : a.index.toNat = i
  plain : a.flags.toNat.testBit 2 = false ∧ a.offset = 0 ∧ a.data.take a.length.toNat = v ∧ v.length = d.dflt.length
  free : quietBusy s i (instanceOf s a d) [(0, v)] = false
  value : valueCheck i 0 d v = 0 ∧ entryCode s i (leNat v) = 0
  kept : a.flags.toNat.testBit 0 = true ∨ d.persist = false

/-- A commit of a record whose holder has staged the fields fs, which the dictionary and its block accept and which no journal record
holds up. -/
structure Sys2Proof.Claims.RecordCommit (s : State) (a : Access) (d : Desc) (i : Nat) (fs : Tbl (List Byte)) : Prop where
  reaches : WriteReaches s a d
  index : a.index.toNat = i ∧ a.sub = 0
  plain : a.flags.toNat.testBit 2 = false ∧ a.offset = 0 ∧
    a.data.take a.length.toNat = [BitVec.ofNat 8 (countOf s i (instanceOf s a d) + 1)]
  staged : ∃ st, ownStage s i (instanceOf s a d) (holderOf s a.path) = some st ∧ st.fields = fs
  free : quietBusy s i (instanceOf s a d) fs = false
  values : ∀ f ∈ fs, ∀ e, desc i f.1 = some e → valueCheck i f.1 e f.2 = 0
  block : recordCode s i (instanceOf s a d) fs a.pre = 0
  kept : a.flags.toNat.testBit 0 = true ∨ persistFields i = []

/-- Every compute domain is on and requested on. -/
def Sys2Proof.Claims.AllOn (s : State) : Prop := ∀ d < 16, (domOf s d).state = .on ∧ (domOf s d).request = 0

/-- Life cycle, power and groups: a life-cycle transition burns its fuse and restarts the package in the new state (R879); a setpoint
commit starts its chain (R811); a power request takes its domain through staging, or drains it (R828); a hold recovery request starts
one PMBus recovery (R790); a start enters kernel 0, a pre-emption stays pending, a resume starts the restore and an abort leaves the
group idle (R153, R217, R341, R346, R347). -/
def Obligations.ControlEntries : Prop :=
  ∀ (s : State) (a : Access) (d : Desc),
    (∀ new : Byte, RecordCommit s a d 0x1011 [(1, [new]), (2, leBytes 4 0x4C435452)] → Runs (.lifeCycleTransition a) s (fun t =>
      lifeState t = new.toNat ∧ t.gaffer.resetKind = 0x10 + new ∧ t.gaffer.loading = true ∧ t.gaffer.dictReady = false ∧
      t.cores = [] ∧ t.groups = [])) ∧
    (∀ v, ScalarWrite s a d 0x2000 v → ChainMay s → s.power.trans = none →
      let e := min (leNat v) s.power.cap
      (regOf s 0).stable ≠ e → Runs (.vcoreFSetpointCommit a) s (fun t =>
        Answers t 2 a 0 [] ∧ valOf t 0x2000 0 0 [] = v ∧
        t.power.trans = some (chainStep true (regOf s 0).stable e) ∧ t.power.committed = true ∧
        t.outputs = .pmbus .vcoreF 0x21 (chainStep true (regOf s 0).stable e).toMv :: s.outputs ∧
        t = { s with power := t.power, outputs := t.outputs, dict := t.dict })) ∧
    (∀ (m : DomainId) (v : Byte), RecordCommit s a d (0x2010 + m.toNat) [(1, [v])] → SettledBut s m.toNat → (regOf s 0).on = true →
      (v = 0 → (domOf s m.toNat).state = .off → domCause s m.toNat = false → stagingCount s < 2 →
        Runs (.powerStateRequest a) s (fun t =>
          domOf t m.toNat = { domOf s m.toNat with request := 0, state := .staging, fromOff := true, stage := 0 } ∧
          (∀ e, e ≠ m.toNat → domOf t e = domOf s e) ∧ Logged s t 0x1023 (srcDomain m.toNat) 3 ∧ Answers t 2 a 0 [])) ∧
      (v = 1 → (domOf s m.toNat).state = .on → (domOf s m.toNat).drain = none → Runs (.powerStateRequest a) s (fun t =>
        domOf t m.toNat = { domOf s m.toNat with request := 1, drain := some .retention } ∧
        (∀ e, e ≠ m.toNat → domOf t e = domOf s e) ∧ Answers t 2 a 0 [] ∧ t = { s with power := t.power, dict := t.dict }))) ∧
    (ScalarWrite s a d 0x2051 [1] → s.i2c.lent = false → s.i2c.pm ≠ .recovering → Runs (.holdRecoveryRequest a) s (fun t =>
      t.i2c = { s.i2c with pm := .recovering, pmRounds := 0, pmPulses := 0, pmCause := .request } ∧
      valOf t 0x2051 0 0 [] = [1] ∧ Answers t 2 a 0 [] ∧ t = { s with i2c := t.i2c, dict := t.dict })) ∧
    (∀ g : GroupId, AllOn s →
      let k := groupOf s g.toNat
      let others (t : State) : Prop := ∀ h, h ≠ g.toNat → groupOf t h = groupOf s h
      (∀ h o, ScalarWrite s a d (0x4300 + g.toNat) [1] → startCheck s g.toNat = .inr h → KernelAt s g.toNat 0 o →
        Runs (.groupStart a) s (fun t =>
          (groupOf t g.toNat).state = .running ∧ (groupOf t g.toNat).request = 1 ∧ (groupOf t g.toNat).kernel = 0 ∧
          (groupOf t g.toNat).huddles = 0 ∧ (groupOf t g.toNat).header = h ∧ others t ∧ Answers t 2 a 0 [] ∧
          Entered (modGroup s g.toNat (fun x => { x with header := h })) t g.toNat 0 (cellRead s.mem.cells (memKey 1 o) 32))) ∧
      (ScalarWrite s a d (0x4300 + g.toNat) [2] → preemptAllowed s g.toNat = true → Runs (.groupPreempt a) s (fun t =>
        groupOf t g.toNat = { k with request := 2, pending := !k.saving } ∧ others t ∧ Answers t 2 a 0 [] ∧
        t = { s with groups := t.groups, dict := t.dict })) ∧
      (ScalarWrite s a d (0x4300 + g.toNat) [3] → (∀ m ∈ members s g.toNat, (coreOf s m).revoking = []) →
        resumeCheck s g.toNat = (0, false) → Runs (.groupResume a) s (fun t =>
          groupOf t g.toNat = { k with request := 3, restoring := true } ∧ others t ∧ Answers t 2 a 0 [] ∧
          t = { s with groups := t.groups, dict := t.dict })) ∧
      (ScalarWrite s a d (0x4300 + g.toNat) [4] → abortAllowed s g.toNat = true → Runs (.groupAbort a) s (fun t =>
        groupOf t g.toNat = { k with
          request := 4, state := .idle, pending := false, saving := false, restoring := false, savedMail := [] } ∧
        others t ∧ Answers t 2 a 0 [] ∧
        (∀ c, (coreOf t c).regs = (coreOf s c).regs ∧ (coreOf t c).vregs = (coreOf s c).vregs ∧
          (coreOf t c).acc = (coreOf s c).acc) ∧
        (∀ i, (trackerOf t i).group = g → (trackerOf t i).state ≠ .running ∧ (trackerOf t i).state ≠ .open'))))

/-- Routes, the bench, links, rings, queues, alarms, keys, tenants and clears: a route table's last piece and a substitution take
effect with their events (R666, R677); a link is disabled and enabled (R623); a ring is configured, its home's head cleared
(R515); a queue pair is enabled from its start and disabled (R712, R736); the oldest alarms, every event record and every counter
are cleared (R157, R162, R168); the key digest is burned once, a challenge is made, and a response uses it up (R160, R889); a
tenant reset cancels the tenant's commands and awaits every package (R363). -/
def Obligations.SystemEntries : Prop :=
  ∀ (s : State) (a : Access) (d : Desc),
    let ten := instanceOf s a d
    let v := a.data.take a.length.toNat
    let sofar := ((claimOf s a ten).map (fun x => x.bytes)).getD []
    let lastPiece (n : Nat) : Prop := WriteReaches s a d ∧ a.flags.toNat.testBit 2 = false ∧ a.flags.toNat.testBit 3 = true ∧
      (∀ x, claimOf s a ten = some x → x.holder = holderOf s a.path) ∧ a.offset.toNat = sofar.length ∧ sofar.length + v.length = n
    (a.index = 0x5000 → lastPiece 8192 → Runs (.routeTableWrite a) s (fun t =>
      valOf t 0x5000 0 0 [] = sofar ++ v ∧ Logged s t 0x1061 srcGaffer 0 ∧ claimOf t a ten = none ∧ Answers t 2 a 0 [] ∧
      t = { s with dict := t.dict, log := t.log })) ∧
    (∀ slot bench : Byte, RecordCommit s a d 0x5001 [(1, [slot]), (2, [bench]), (3, [1])] → s.reels.sources = [] →
      Runs (.benchSubstitution a) s (fun t =>
        let moved (k : Nat) : Prop := ringSize s k ≠ 0 ∧ ringHome t k = ownPkg t / 128 * 128 + slot.toNat
        substitution t = some (slot.toNat, bench.toNat) ∧ Logged s t 0x1060 srcGaffer (slot.toNat + bench.toNat * 256) ∧
        Answers t 2 a 0 [] ∧
        (∀ k < 8, moved k → (∀ e ∈ t.net.out, ∀ i b, e.2 ≠ .record k i b) ∧
          queuedFor t k = (recordsOut s k).map (fun x => { ring := k, bytes := x.2 }) ++ queuedFor s k) ∧
        (s.reels.queue = [] → (∀ k < 8, ¬moved k) → t = { s with dict := t.dict, log := t.log }) ∧
        t = { s with dict := t.dict, log := t.log, net := t.net, reels := t.reels })) ∧
    (∀ n : LinkId,
      (RecordCommit s a d (0x5100 + n.toNat) [(4, [0])] → Runs (.linkDisable a) s (fun t =>
        (linkOf t n.toNat).state = .disabled ∧ valOf t (0x5100 + n.toNat) 4 0 [] = [0] ∧
        ((linkOf s n.toNat).state = .up → .control n.toNat 2 0 ∈ t.outputs ∧ LastEvent t 0x1031 (srcLink n.toNat) 2))) ∧
      (RecordCommit s a d (0x5100 + n.toNat) [(4, [1])] → (linkOf s n.toNat).state = .disabled → Runs (.linkEnable a) s (fun t =>
        linkOf t n.toNat = { linkOf s n.toNat with state := .down } ∧ (∀ m, m ≠ n.toNat → linkOf t m = linkOf s m) ∧
        valOf t (0x5100 + n.toNat) 4 0 [] = [1] ∧ Answers t 2 a 0 [] ∧ t = { s with net := t.net, dict := t.dict }))) ∧
    (∀ (k : BitVec 3) (base : Nat) (size : Byte), base < 2 ^ 64 → size ≠ 0 →
      RecordCommit s a d (0x7130 + k.toNat) [(1, leBytes 8 base), (2, [size])] → s.reels.queue = [] →
      (resolvePkg s (base / 2 ^ 51) = ownPkg s → s.reels.unplaced = [] ∧ (ringOf s k.toNat).deferred = [] ∧ MemWhole s) →
      Runs (.ringConfigure a) s (fun t =>
        ringBase t k.toNat = base ∧ ringSize t k.toNat = size.toNat ∧
        ringOf t k.toNat = { RingUse.reset with asked := (ringOf s k.toNat).asked } ∧
        (∀ j, j ≠ k.toNat → ringOf t j = ringOf s j) ∧ Answers t 2 a 0 [] ∧
        (resolvePkg s (base / 2 ^ 51) = ownPkg s →
          cellRead t.mem.cells (memKey 2 (base % 2 ^ 47) - 64) 64 = zeros 16 ++ [size] ++ zeros 47 ∧
          OtherBytes s t (memKey 2 (base % 2 ^ 47) - 64) 64 ∧ t.reels.unplaced = []) ∧
        (resolvePkg s (base / 2 ^ 51) ≠ ownPkg s → t.mem = s.mem ∧
          t.reels.unplaced = s.reels.unplaced ++ (ringOf s k.toNat).deferred) ∧
        t = { s with
          reels := { s.reels with rings := t.reels.rings, unplaced := t.reels.unplaced }, mem := t.mem, dict := t.dict })) ∧
    (RecordCommit s a d 0x8100 [(5, [1])] → Runs (.queueEnable a) s (fun t =>
      queueOn t ten = true ∧ tqOf t ten = { tqOf s ten with
        subHead := 0, subTail := 0, compHead := 0, compTail := 0, phase := true, error := false, cause := 0
        wrongFunction := false, fetching := 0 } ∧
      (∀ k, k ≠ ten → tqOf t k = tqOf s k) ∧ Answers t 2 a 0 [] ∧ t = { s with host := t.host, dict := t.dict })) ∧
    (RecordCommit s a d 0x8100 [(5, [0])] → Runs (.queueDisable a) s (fun t =>
      queueOn t ten = false ∧ tqOf t ten = { tqOf s ten with fetching := 0 } ∧ (∀ k, k ≠ ten → tqOf t k = tqOf s k) ∧
      (∀ e ∈ t.host.reads, e.2 ≠ .entry (BitVec.ofNat 12 ten)) ∧ Answers t 2 a 0 [] ∧
      t = { s with host := t.host, dict := t.dict })) ∧
    (∀ m : Byte, ScalarWrite s a d 0x9005 [m] → Runs (.alarmClear a) s (fun t =>
      t.can = { s.can with alarms := s.can.alarms.drop m.toNat } ∧ Answers t 2 a 0 [] ∧ t = { s with can := t.can, dict := t.dict })) ∧
    (a.index = 0xA010 → lifeState s = 0 → s.fuses.keyDigest = none → lastPiece 48 → Runs (.keyDigestWrite a) s (fun t =>
      t.fuses = { s.fuses with keyDigest := some (sofar ++ v) } ∧ Answers t 2 a 0 [] ∧
      t = { s with fuses := t.fuses, dict := t.dict })) ∧
    (a.index = 0xA020 → DictIdle s → bodyCode 1 a = 0 → findEntry s a = .ok d → accessCode s 1 a d = 0 →
      a.flags.toNat.testBit 1 = false → a.flags.toNat.testBit 2 = false → a.offset = 0 →
      48 ≤ min a.length.toNat (pathLimit a.path) → Runs (.unlockChallengeRead a) s (fun t =>
        t.gaffer = { s.gaffer with challenges := s.gaffer.challenges + 1, challengeLive := true } ∧
        Answers t 1 a 0 ((List.range 48).map (Config.challengeByte (s.gaffer.challenges + 1))) ∧
        t = { s with gaffer := t.gaffer, dict := t.dict })) ∧
    (a.index = 0xA021 → lastPiece 96 →
      let valid := s.gaffer.challengeLive && ecdsaVerify (imageOf s s.gaffer.slotB).key
        (sha384 ((List.range 48).map (Config.challengeByte s.gaffer.challenges) ++ serialBytes)) (sofar ++ v)
      Runs (.unlockResponseWrite a) s (fun t =>
        t.gaffer = { s.gaffer with debug := s.gaffer.debug || valid, challengeLive := false } ∧
        (valid = true → Logged s t 0x1052 srcGaffer 0 ∧ Answers t 2 a 0 []) ∧ (valid = false → t.log = s.log ∧ Answers t 2 a 8 []) ∧
        t = { s with gaffer := t.gaffer, log := t.log, dict := t.dict })) ∧
    (ScalarWrite s a d 0xA031 [1] → (tqOf s ten).resetStep = 0 → Runs (.tenantReset a) s (fun t =>
      (tqOf t ten).resetStep = 4 ∧ (tqOf t ten).awaiting = noticeSet s ∧ (tqOf t ten).former = formerCores s ten ∧
      queueOn t ten = false ∧ (∀ c ∈ (tqOf t ten).cmds, c.completion.isSome = true) ∧
      (∀ g ∈ tenantGroups s ten, (groupOf t g).state = .idle) ∧ Answers t 2 a 0 [])) ∧
    (ScalarWrite s a d 0xF002 [1] → Runs (.eventLogClear a) s (fun t =>
      Logged { s with log := { s.log with recs := [] } } t 0x1073 srcGaffer 0 ∧ Answers t 2 a 0 [] ∧
      t = { s with log := t.log, dict := t.dict })) ∧
    (ScalarWrite s a d 0xF003 [1] → Runs (.counterClear a) s (fun t =>
      (∀ n, let l := linkOf t n
        l.flitsSent = 0 ∧ l.flitsRecv = 0 ∧ l.replays = 0 ∧ l.crcErrors = 0 ∧ l.fouls = 0) ∧
      (∀ k, let q := tqOf t k
        q.misses = 0 ∧ q.kernels = 0 ∧ q.completions = 0) ∧
      Logged s t 0x1072 srcGaffer 0 ∧ Answers t 2 a 0 [] ∧
      t = { s with net := { s.net with links := t.net.links }, host := { s.host with tenants := t.host.tenants }, log := t.log
                   dict := t.dict }))

/-! ## Windows, start-up and resets -/

/-- Reads (R97, R103 to R106): a scalar's value, and a slice of a text's, with status 0; the record of read information; 0x0001
for an index that the map does not hold; 0x000E while the dictionary is not ready. Host windows and core groups' windows (R109,
R110): a doorbell of a slot that is not busy takes the request body stored there, and the response comes to the slot's response
half with its completion bit; one of a busy slot sets the overrun bit; writes of ones clear the overrun bit and completion bits.
-/
def Obligations.DictionaryReads : Prop :=
  (∀ (s : State) (a : Access) (d : Desc),
    let i := a.index.toNat
    let n := min a.length.toNat (pathLimit a.path)
    let off := a.offset.toNat
    let value := readValue s i a.sub.toNat (instanceOf s a d) a.flags.toNat
    (DictIdle s → bodyCode 1 a = 0 → findEntry s a = .ok d → accessCode s 1 a d = 0 →
      (isText d.ty = false → off = 0 → d.dflt.length ≤ n → (i = 0x7000 → a.sub ≠ 4) → Runs (.dictRead a) s (fun t =>
        OnlyAnswers s t 1 a 0 (slice value 0 n))) ∧
      (isText d.ty = true → off ≤ valueLen s i d → i ≠ 0xA020 → Runs (.dictRead a) s (fun t => OnlyAnswers s t 1 a 0
        (if i = 0xF001 ∧ a.flags.toNat.testBit 2 = false then logSlice s off (min n (65536 - off)) else slice value off n)))) ∧
    (DictIdle s → bodyCode 3 a = 0 → findEntry s a = .ok d → Runs (.dictReadInformation a) s (fun t =>
      OnlyAnswers s t 3 a 0 ([BitVec.ofNat 8 d.ty, BitVec.ofNat 8 d.cls,
          BitVec.ofNat 8 ((if d.persist then 1 else 0) + (if d.perTen then 2 else 0) + (if d.once then 4 else 0)), 0] ++
        rightBytes d.rights ++ zeros 3 ++ leBytes 4 d.dflt.length))) ∧
    (∀ x ∈ [((1 : Byte), Instr.dictRead a), (3, .dictReadInformation a), (2, .dictWrite a)],
      (DictIdle s → bodyCode x.1 a = 0 → entryAt i = none → Runs x.2 s (fun t => OnlyAnswers s t x.1 a 1 [])) ∧
      (s.gaffer.dictReady = false → s.dict.queued = [] → s.dict.awaiting = none → a.path ≠ .gaffer →
        Runs x.2 s (fun t => OnlyAnswers s t x.1 a 0x000E [])))) ∧
  (∀ (s : State) (win : WindowId) (v : U32),
    let w := winNum win
    let n := v.toNat
    let only (t : State) : Prop := (∀ k, k ≠ w → winOf t k = winOf s k) ∧ t = { s with host := { s.host with windows := t.host.windows } }
    (∀ written pre,
      (n = 0 ∨ 15 < n → Runs (.windowSlotDoorbell win v written pre) s (fun t => t = s)) ∧
      (1 ≤ n → n ≤ 15 →
        let u := storeBody s win n written
        ((winOf s w).busy.toNat.testBit n = true → Runs (.windowSlotDoorbell win v written pre) s (fun t =>
          winOf t w = { winOf u w with overrun := true } ∧ only t)) ∧
        ((winOf s w).busy.toNat.testBit n = false → ∀ d,
          let held := takeSlot u w n
          let body := cellRead (winOf u w).bytes (n * 0x1000) 2048
          let a := accessOf (windowPath win) pre body
          let m := min a.length.toNat (pathLimit a.path)
          DictIdle held → bodyOp body = 1 → bodyCode 1 a = 0 → findEntry held a = .ok d → accessCode held 1 a d = 0 →
          isText d.ty = false → a.offset = 0 → d.dflt.length ≤ m → (a.index = 0x7000 → a.sub ≠ 4) →
          Runs (.windowSlotDoorbell win v written pre) s (fun t => ∃ r,
            t.dict = { s.dict with response := some r } ∧ r.status = 0 ∧ r.tag = a.tag ∧
            r.data = slice (readValue held a.index.toNat a.sub.toNat (instanceOf held a d) a.flags.toNat) 0 m ∧
            cellRead (winOf t w).bytes (n * 0x1000 + 0x800) r.bytes.length = r.bytes ∧
            (winOf t w).busy.toNat.testBit n = false ∧ (winOf t w).done.toNat.testBit n = true ∧
            (winOf t w).overrun = (winOf s w).overrun ∧ (∀ k, k ≠ w → winOf t k = winOf s k) ∧
            t.mem = s.mem ∧ t.cores = s.cores ∧ t.groups = s.groups)))) ∧
    (n.testBit 3 = true → Runs (.windowCompletionClear win 0 v) s (fun t =>
      winOf t w = { winOf s w with overrun := false } ∧ only t)) ∧
    Runs (.windowCompletionClear win 8 v) s (fun t =>
      (∀ i < 16, (winOf t w).done.toNat.testBit i = ((winOf s w).done.toNat.testBit i && !n.testBit i)) ∧
      winOf t w = { winOf s w with done := (winOf t w).done } ∧ only t))

/-- The whole fabric as after a reset: no core, group, stream, reel, slate engine or memory holds anything. -/
structure Sys2Proof.Claims.FabricGone (t : State) : Prop where
  cores : t.cores = [] ∧ t.groups = []
  serving : t.serving = Serving.reset ∧ t.reels = Reels.reset ∧ t.slate = Slate.reset
  memory : t.mem.cells = [] ∧ t.mem.bad = [] ∧ t.mem.leases = []

/-- Start-up has released the dies: stock trains, synthesisers tune, the first two domains stage, and the ROM loads the start-up
block's slot. -/
structure Sys2Proof.Claims.Released (s t : State) : Prop where
  gaffer : t.gaffer.loading = true ∧ t.gaffer.running = false ∧ t.gaffer.dictReady = false ∧ t.gaffer.diesReleased = true ∧
    t.gaffer.inReset = false ∧ t.gaffer.readiness = 0 ∧ t.gaffer.resetKind = s.gaffer.resetKind ∧
    t.gaffer.slotB = (s.gaffer.block.getD blockDefault).1
  pins : t.pins.pwrOk = true ∧ t.pins.stkResetLow = false ∧ t.pins.canStby = true ∧ t.pins.misoHiZ = true
  stock : ∀ c < 16, stockOf t c = { StockChannel.reset with state := 1 }
  quads : ∀ q < 4, (quadOf t q).synth = .tuning
  domains : ∀ d < 16, (domOf t d).state = if d < 2 then .staging else .off
  logged : t.log.next = s.log.next + 2 ∧ LastEvent t 0x1023 (srcDomain 1) 3
  fabric : FabricGone t
  kept : t.fuses = s.fuses ∧ t.dict.journal.halfA = s.dict.journal.halfA ∧ t.dict.journal.halfB = s.dict.journal.halfB

/-- The OPERATION commands that turn a rail to v, newest first. -/
def Sys2Proof.Claims.railCommands (l : List Output) (v : Nat) : List Output :=
  l.filter (fun o => (List.range 8).any (fun r => o == .pmbus (railOf r) pmOperation v))

/-- Power-up and what follows it (R857 to R862, R865, R866, R885, R886, R887, R891): the rails come on in their order at their
nominal settings, or go off again when one fails; stock trains and is wiped; the image of the chosen slot starts, or that of the
other one, or the ROM halts; a comparator's trip that came meanwhile is answered
once the firmware runs (R874); the dictionary becomes ready from a blank journal or a sealed one; the links are released;
SYS_RESET_N's rise starts up with the rails kept. The OPERATION values are the model's (log entry 58). -/
def Obligations.StartUp : Prop :=
  (∀ (s : State) (o : PowerUpOutcome), s.pins.vstby = true → s.pins.pwrOk = false → s.gaffer.inReset = false →
    s.dict.awaiting = none → (∀ r < 8, (regOf s r).on = false) →
    (lifeState s ≠ 4 → o.pmbusOk = true → o.failedRail = none → Runs (.powerUp o) s (fun t =>
      Released s t ∧ (∀ r < 8, (regOf t r).on = true ∧ (regOf t r).stable = nominalMv r) ∧
      railCommands t.outputs operationOn =
        railOrder.reverse.map (fun r => .pmbus (railOf r) pmOperation operationOn) ++ railCommands s.outputs operationOn)) ∧
    (∀ r, lifeState s ≠ 4 → o.pmbusOk = true → o.failedRail = some r → Runs (.powerUp o) s (fun t =>
      (∀ k < 8, (regOf t k).on = false) ∧ t.gaffer.diesReleased = false ∧ t.gaffer.loading = true ∧ FabricGone t)) ∧
    (lifeState s ≠ 4 → o.pmbusOk = false → Runs (.powerUp o) s (fun t =>
      t.power.hold = true ∧ t.i2c.pm = .stuck ∧ (∀ k < 8, (regOf t k).on = false) ∧ t.gaffer.diesReleased = false ∧
      LastEvent t 0x4010 (srcField 2) 3)) ∧
    (lifeState s = 4 → Runs (.powerUp o) s (fun t =>
      (∀ k < 8, (regOf t k).on = false) ∧ t.gaffer.diesReleased = false ∧ t.gaffer.loading = true))) ∧
  (∀ s : State, s.gaffer.inReset = true →
    (s.pins.pwrOk = false → Runs .sysResetNRise s (fun t => t = { s with
      pins := { s.pins with sysResetN := true }, gaffer := { s.gaffer with inReset := false } })) ∧
    (s.pins.pwrOk = true → (regOf s 0).on = true → s.dict.awaiting = none → s.power.trans = none → s.i2c.lent = false →
      lifeState s ≠ 4 → Runs .sysResetNRise s (fun t =>
        Released s t ∧ t.pins.sysResetN = true ∧ t.power.regs = s.power.regs ∧ t.outputs = s.outputs))) ∧
  (∀ (s : State) (l : List ChannelFinding), s.gaffer.diesReleased = true → ready s 6 = false →
    let fine (f : ChannelFinding) (c g : Nat) : Prop :=
      16 ≤ f.density ∧ f.density ≤ 32 ∧ (densities l (c / 8)).length = 1 ∧ g ∈ [6400, 7500, 8533] ∧ g ≤ trainCap s ∧
      gradePassed f g = true ∧ ∀ g' ∈ [6400, 7500, 8533], g' ≤ trainCap s → gradePassed f g' = true → g' ≤ g
    Runs (.stockTrainingComplete l) s (fun t =>
      ready t 6 = true ∧ LastEvent t 0x1003 srcGaffer 6 ∧
      (∀ c < 16, ∀ f, l[c]? = some f →
        (f.density = 0 → stockOf t c = StockChannel.reset) ∧
        (∀ g, fine f c g → stockOf t c = { density := f.density, state := 2, rate := g, failedInService := false }) ∧
        (f.density ≠ 0 → (∀ g, ¬ fine f c g) → stockOf t c = { density := f.density, state := 3, rate := 0, failedInService := false })) ∧
      t = { s with
        log := t.log, mem := { s.mem with stock := t.mem.stock }
        gaffer := { s.gaffer with readiness := t.gaffer.readiness } })) ∧
  (∀ s : State, ready s 6 = true → ready s 7 = false → Runs .stockWipeComplete s (fun t =>
    ready t 7 = true ∧ (∀ i < 7, ready t i = ready s i) ∧ t.log.next = s.log.next + 2 ∧ LastEvent t 0x1051 srcGaffer 7 ∧
    t = { s with
      log := t.log
      gaffer := { s.gaffer with wipeKind := s.gaffer.resetKind, wipedTiers := 7, readiness := t.gaffer.readiness } })) ∧
  (∀ s : State, s.gaffer.loading = true → ready s 0 = false →
    let b := s.gaffer.slotB
    (slotValid s b = true → s.power.heldTrips = [] → Runs .firmwareStart s (fun t =>
      t.gaffer = { s.gaffer with running := true, loading := false, fallback := none, readiness := t.gaffer.readiness } ∧
      ready t 0 = true ∧ t.log.next = s.log.next + 2 ∧ LastEvent t 0x1003 srcGaffer 0 ∧
      (tfind s.dict.pend (dictKey 0xA002 0 0) = none ∨ s.gaffer.warm = true → t = { s with gaffer := t.gaffer, log := t.log }) ∧
      (∀ p, s.gaffer.warm = false → tfind s.dict.pend (dictKey 0xA002 0 0) = some p → s.fuses.floor.toNat < leNat p.bytes →
        leNat p.bytes ≤ (imageOf s b).version → s.fuses.floorWords < 64 →
        t.fuses = { s.fuses with floor := BitVec.ofNat 32 (leNat p.bytes), floorWords := s.fuses.floorWords + 1 }))) ∧
    (slotValid s b = false → slotValid s (!b) = true → s.power.heldTrips = [] → Runs .firmwareStart s (fun t =>
      t.gaffer = { s.gaffer with
        running := true, loading := false, slotB := !b, fallback := some b, readiness := t.gaffer.readiness } ∧
      t.log.next = s.log.next + 3 ∧ LastEvent t 0x2050 srcGaffer (b2n b))) ∧
    (∀ site mv u, (slotValid s b || slotValid s (!b)) = true → s.power.heldTrips = [(site, mv)] →
      exec .firmwareStart { s with power := { s.power with heldTrips := [] } } = .next u →
      Runs .firmwareStart s (fun t => exec (.droopTrip site mv) u = .next t)) ∧
    (slotValid s b = false → slotValid s (!b) = false → s.power.hold = false → s.dict.awaiting = none →
      Runs .firmwareStart s (fun t =>
        t.gaffer.halted = true ∧ t.gaffer.loading = false ∧ t.gaffer.running = false ∧ t.pins.romFault = true ∧
        t.pins.flashHiZ = true ∧ (∀ r < 8, (regOf t r).on = false) ∧ LastEvent t 0x4020 srcGaffer 0 ∧ FabricGone t))) ∧
  (∀ (s : State) (f : FlashFinding) (oa ob : HalfOutcome), s.gaffer.running = true → s.gaffer.dictReady = false →
    s.gaffer.warm = false → f.readable = true → f.sfdpOk = true → s.ageing.store = [] →
    let found : Flash := { identity := f.identity, sizeMib := f.sizeMib, width := f.width, writable := s.pins.pwrOk }
    let fits (u : State) : Prop := valOf u 0x8002 0 0 [1] = leBytes 1 (b2n s.host.bar4) ∧
      (valNat u 0xA001 0 0 0 == 1) = s.gaffer.used.1 ∧ (∀ e ∈ s.mem.stock, e.2.rate ≤ valNat u 0x3010 0 0 8533)
    (lifeState s < 3 → chooseHalf s.dict.journal = none → s.pins.pwrOk = true → oa.block0Ok = true → oa.failedBlocks = [] → oa.failedPrograms = [] →
      fits { s with dict := { s.dict with vals := [] } } → Runs (.dictionaryReady f oa ob) s (fun t =>
        t.gaffer.dictReady = true ∧ t.flash = found ∧ t.dict.vals = [] ∧ t.dict.journal.authB = false ∧
        (authHalf t).generation = some 1 ∧ (authHalf t).committed = true ∧ (authHalf t).recs = [] ∧
        tfind t.log.recs ((s.log.next + 1).toNat % 4096) = some
          { seq := s.log.next + 1, time := s.log.ms, code := 0x1002, source := srcGaffer, detail := 0 })) ∧
    (∀ b, lifeState s = 3 → chooseHalf s.dict.journal = some b →
      let h := halfOf s.dict.journal b
      let vals := (h.recs.filter (fun r => r.good && r.kind == kEntry && !inSkipped h b r)).foldl (applyRecord (fun _ _ => true)) []
      let u : State := { s with dict := { s.dict with vals := vals } }
      fits u → Runs (.dictionaryReady f oa ob) s (fun t =>
        t.gaffer.dictReady = true ∧ t.flash = found ∧ t.dict.vals = vals ∧ t.dict.journal.authB = b ∧
        t.dict.journal.seq = max s.dict.journal.halfA.topSeq s.dict.journal.halfB.topSeq + 1 ∧
        t.can.node = valNat u 0x9000 0 0 127 ∧ t.reels.share = valNat u 0x7120 1 0 25 ∧
        (∀ n < 16, valNat u (0x5100 + n) 4 0 1 = 0 → (linkOf t n).state = .disabled)))) ∧
  (∀ s : State, s.gaffer.dictReady = true → s.gaffer.diesReleased = true → ready s 4 = false → Runs .linksReleased s (fun t =>
    ready t 4 = true ∧ ready t 5 = true ∧
    (∀ n < 16, (linkOf t n).state = if (linkOf s n).state = .holding then .offering else (linkOf s n).state) ∧
    t.mem = s.mem ∧ t.cores = s.cores ∧ t.dict = s.dict)) ∧
  (∀ s : State,
    ((regOf s 7).on = true → Runs (.tapInstruction .idcode) s (fun t => t = { s with outputs := .idcode idcode :: s.outputs })) ∧
    (∀ i, i ≠ .idcode → Runs (.tapInstruction i) s (fun t => t = s)))

/-- Everything of the package but its standby side is as after a reset: the Gaffer, the dictionary, the fabric and the ports. The
journal's records, the fuses and the image slots stay, and the rails stand. -/
structure Sys2Proof.Claims.EnteredReset (s t : State) (kind : Byte) : Prop where
  gaffer : t.gaffer.resetKind = kind ∧ t.gaffer.running = false ∧ t.gaffer.loading = false ∧ t.gaffer.dictReady = false ∧
    t.gaffer.readiness = 0 ∧ t.gaffer.diesReleased = false ∧ t.gaffer.debug = false ∧ t.gaffer.challengeLive = false
  dictionary : t.dict.vals = [] ∧ t.dict.stages = [] ∧ t.dict.claims = [] ∧ t.dict.queued = [] ∧ t.dict.awaiting = none
  fabric : FabricGone t ∧ t.net.links = []
  ports : t.can = Can.reset ∧ t.spi = Spi.reset ∧ t.host.windows = [] ∧ t.host.tenants = [] ∧ t.pins.canStby = true ∧
    t.pins.misoHiZ = true ∧ t.pins.stkResetLow = true
  kept : t.fuses = s.fuses ∧ t.gaffer.imageA = s.gaffer.imageA ∧ t.gaffer.imageB = s.gaffer.imageB ∧
    t.dict.journal.halfA = s.dict.journal.halfA ∧ t.dict.journal.halfB = s.dict.journal.halfB ∧
    (∀ r, regOf t r = regOf s r)

/-- Resets (R853, R858, R867 to R869, R871 to R873, R898, R926, R940): power-on, loss of the standby rail, package reset, loss of
main power with its rails off in reverse order, a rail beyond its band for longer than 1 ms, the watchdog and the Gaffer's own
reset, which leaves the fabric, the dictionary's values and the rails as they are. -/
def Obligations.Resets : Prop :=
  (∀ s : State, s.dict.awaiting = none → s.power.trans = none →
    Runs .powerOnReset s (fun t => EnteredReset s t 0x01 ∧ t.log = EventLog.reset ∧ t.dict.pend = [] ∧ t.gaffer.block = none ∧
      t.pins.vstby = true ∧ t.pins.pwrOk = false ∧ t.gaffer.inReset = !s.pins.sysResetN) ∧
    Runs .vstbyLoss s (fun t => EnteredReset s t 0x01 ∧ t.log = EventLog.reset ∧ t.dict.pend = [] ∧ t.gaffer.block = none ∧
      t.pins.vstby = false ∧ t.pins.pwrOk = false) ∧
    (s.pins.vstby = true → Runs .packageReset s (fun t =>
      EnteredReset s t (if s.pins.pwrOk then 0x03 else s.gaffer.resetKind) ∧ t.log = s.log ∧ t.gaffer.inReset = true ∧
      t.gaffer.block = s.gaffer.block ∧ t.pins.sysResetN = false ∧ t.pins.pwrOk = s.pins.pwrOk))) ∧
  (∀ s : State, s.pins.pwrOk = true → s.dict.awaiting = none → s.power.trans = none → Runs .mainPowerLoss s (fun t =>
    t.pins = { s.pins with pwrOk := false, stkResetLow := true } ∧ t.gaffer.resetKind = 0x02 ∧ t.gaffer.diesReleased = false ∧
    t.gaffer.running = (s.gaffer.running && s.gaffer.dictReady) ∧ t.gaffer.readiness = s.gaffer.readiness &&& 7 ∧
    t.flash = { s.flash with writable := false } ∧ FabricGone t ∧ t.log = s.log ∧ t.dict.vals = s.dict.vals ∧ t.fuses = s.fuses ∧
    (s.power.hold = false → (∀ r < 8, (regOf t r).on = false) ∧
      t.outputs = (railOrder.filter (fun r => (regOf s r).on)).map (fun r => .pmbus (railOf r) pmOperation operationOff) ++
        s.outputs) ∧
    (s.power.hold = true → (∀ r, regOf t r = regOf s r) ∧ t.outputs = s.outputs))) ∧
  (∀ (s : State) (r : Rail) (mv : Int) (long : Bool),
    let c := bandCentre s r
    let inBand : Prop := c - bandOf r ≤ mv ∧ mv ≤ c + bandOf r
    (-300 : Int) ≤ mv → mv ≤ absMax r →
    (long = false ∨ r = .vcoreF ∨ (regOf s (railNum r)).on = false ∨ inBand → Runs (.railExcursion r mv long) s (fun t => t = s)) ∧
    (long = true → r ≠ .vcoreF → (regOf s (railNum r)).on = true → ¬ inBand →
      Runs (.railExcursion r mv long) s (fun t => exec .mainPowerLoss s = .next t))) ∧
  (∀ s : State, s.dict.awaiting = none → s.dict.queued = [] → s.power.trans = none →
    (s.gaffer.running = true ∨ s.gaffer.loading = true → Runs .gafferReset s (fun t =>
      t.gaffer = { s.gaffer with
        running := false, loading := true, warm := s.gaffer.warm || s.gaffer.dictReady, dictReady := false, debug := false,
        challengeLive := false, fallback := none, readiness := t.gaffer.readiness } ∧
      ready t 0 = false ∧ (∀ i, 1 ≤ i → i < 32 → ready t i = ready s i) ∧
      t.dict.vals = s.dict.vals ∧ t.dict.stages = [] ∧ t.dict.claims = [] ∧ (∀ e ∈ t.dict.pend, e.2.persistent = true) ∧
      t.power.regs = s.power.regs ∧ t.power.cap = 880 ∧ t.power.domains = s.power.domains ∧
      t.i2c.pm = .recovering ∧ t.i2c.mod = .recovering ∧ t.i2c.lent = false ∧ t.pins = { s.pins with canStby := true } ∧
      t.can.state = Can.reset.state ∧ t.spi.response = none ∧ t.log = s.log ∧
      t.mem = s.mem ∧ t.cores = s.cores ∧ t.groups = s.groups ∧ t.serving = s.serving ∧ t.reels = s.reels ∧ t.slate = s.slate ∧
      t.net = s.net ∧ t.host = s.host ∧ t.fuses = s.fuses ∧ t.flash = s.flash)) ∧
    (s.gaffer.running = true → ∀ again,
      (again = false ∨ slotValid s (!s.gaffer.slotB) = false → Runs (.gafferWatchdogExpiry again) s (fun t =>
        exec .gafferReset s = .next t)) ∧
      (again = true → slotValid s (!s.gaffer.slotB) = true → Runs (.gafferWatchdogExpiry again) s (fun t =>
        t.gaffer.slotB = !s.gaffer.slotB ∧ t.gaffer.loading = true ∧ t.gaffer.running = false ∧
        Logged s t 0x2050 srcGaffer (b2n s.gaffer.slotB) ∧ t.mem = s.mem ∧ t.cores = s.cores))))
end

