-- ==== Sys2Proof/Laws/State.lean ====
section
/-!
SUPPORT. One lemma for each update of Ops.lean and each field of State: what the update writes, and that it leaves every other field
as it was.
-/
set_option Elab.async false
set_option linter.all false
namespace Sys2Proof.Machine

/-! ### setCore -/

@[simp] theorem setCore_pending (s : State) (c : Nat) (k : Core) : (setCore s c k).pending = s.pending := rfl
@[simp] theorem setCore_freeCount (s : State) (c : Nat) (k : Core) : (setCore s c k).freeCount = s.freeCount := rfl
@[simp] theorem setCore_outputs (s : State) (c : Nat) (k : Core) : (setCore s c k).outputs = s.outputs := rfl
@[simp] theorem setCore_pins (s : State) (c : Nat) (k : Core) : (setCore s c k).pins = s.pins := rfl
@[simp] theorem setCore_gaffer (s : State) (c : Nat) (k : Core) : (setCore s c k).gaffer = s.gaffer := rfl
@[simp] theorem setCore_fuses (s : State) (c : Nat) (k : Core) : (setCore s c k).fuses = s.fuses := rfl
@[simp] theorem setCore_log (s : State) (c : Nat) (k : Core) : (setCore s c k).log = s.log := rfl
@[simp] theorem setCore_dict (s : State) (c : Nat) (k : Core) : (setCore s c k).dict = s.dict := rfl
@[simp] theorem setCore_power (s : State) (c : Nat) (k : Core) : (setCore s c k).power = s.power := rfl
@[simp] theorem setCore_ageing (s : State) (c : Nat) (k : Core) : (setCore s c k).ageing = s.ageing := rfl
@[simp] theorem setCore_fabric (s : State) (c : Nat) (k : Core) : (setCore s c k).fabric = s.fabric := rfl
@[simp] theorem setCore_mem (s : State) (c : Nat) (k : Core) : (setCore s c k).mem = s.mem := rfl
@[simp] theorem setCore_groups (s : State) (c : Nat) (k : Core) : (setCore s c k).groups = s.groups := rfl
@[simp] theorem setCore_serving (s : State) (c : Nat) (k : Core) : (setCore s c k).serving = s.serving := rfl
@[simp] theorem setCore_reels (s : State) (c : Nat) (k : Core) : (setCore s c k).reels = s.reels := rfl
@[simp] theorem setCore_slate (s : State) (c : Nat) (k : Core) : (setCore s c k).slate = s.slate := rfl
@[simp] theorem setCore_net (s : State) (c : Nat) (k : Core) : (setCore s c k).net = s.net := rfl
@[simp] theorem setCore_host (s : State) (c : Nat) (k : Core) : (setCore s c k).host = s.host := rfl
@[simp] theorem setCore_can (s : State) (c : Nat) (k : Core) : (setCore s c k).can = s.can := rfl
@[simp] theorem setCore_spi (s : State) (c : Nat) (k : Core) : (setCore s c k).spi = s.spi := rfl
@[simp] theorem setCore_flash (s : State) (c : Nat) (k : Core) : (setCore s c k).flash = s.flash := rfl
@[simp] theorem setCore_i2c (s : State) (c : Nat) (k : Core) : (setCore s c k).i2c = s.i2c := rfl
@[simp] theorem setCore_cores (s : State) (c : Nat) (k : Core) : (setCore s c k).cores = tput s.cores c k := rfl

/-! ### modCore -/

@[simp] theorem modCore_pending (s : State) (c : Nat) (f : Core → Core) : (modCore s c f).pending = s.pending := rfl
@[simp] theorem modCore_freeCount (s : State) (c : Nat) (f : Core → Core) : (modCore s c f).freeCount = s.freeCount := rfl
@[simp] theorem modCore_outputs (s : State) (c : Nat) (f : Core → Core) : (modCore s c f).outputs = s.outputs := rfl
@[simp] theorem modCore_pins (s : State) (c : Nat) (f : Core → Core) : (modCore s c f).pins = s.pins := rfl
@[simp] theorem modCore_gaffer (s : State) (c : Nat) (f : Core → Core) : (modCore s c f).gaffer = s.gaffer := rfl
@[simp] theorem modCore_fuses (s : State) (c : Nat) (f : Core → Core) : (modCore s c f).fuses = s.fuses := rfl
@[simp] theorem modCore_log (s : State) (c : Nat) (f : Core → Core) : (modCore s c f).log = s.log := rfl
@[simp] theorem modCore_dict (s : State) (c : Nat) (f : Core → Core) : (modCore s c f).dict = s.dict := rfl
@[simp] theorem modCore_power (s : State) (c : Nat) (f : Core → Core) : (modCore s c f).power = s.power := rfl
@[simp] theorem modCore_ageing (s : State) (c : Nat) (f : Core → Core) : (modCore s c f).ageing = s.ageing := rfl
@[simp] theorem modCore_fabric (s : State) (c : Nat) (f : Core → Core) : (modCore s c f).fabric = s.fabric := rfl
@[simp] theorem modCore_mem (s : State) (c : Nat) (f : Core → Core) : (modCore s c f).mem = s.mem := rfl
@[simp] theorem modCore_groups (s : State) (c : Nat) (f : Core → Core) : (modCore s c f).groups = s.groups := rfl
@[simp] theorem modCore_serving (s : State) (c : Nat) (f : Core → Core) : (modCore s c f).serving = s.serving := rfl
@[simp] theorem modCore_reels (s : State) (c : Nat) (f : Core → Core) : (modCore s c f).reels = s.reels := rfl
@[simp] theorem modCore_slate (s : State) (c : Nat) (f : Core → Core) : (modCore s c f).slate = s.slate := rfl
@[simp] theorem modCore_net (s : State) (c : Nat) (f : Core → Core) : (modCore s c f).net = s.net := rfl
@[simp] theorem modCore_host (s : State) (c : Nat) (f : Core → Core) : (modCore s c f).host = s.host := rfl
@[simp] theorem modCore_can (s : State) (c : Nat) (f : Core → Core) : (modCore s c f).can = s.can := rfl
@[simp] theorem modCore_spi (s : State) (c : Nat) (f : Core → Core) : (modCore s c f).spi = s.spi := rfl
@[simp] theorem modCore_flash (s : State) (c : Nat) (f : Core → Core) : (modCore s c f).flash = s.flash := rfl
@[simp] theorem modCore_i2c (s : State) (c : Nat) (f : Core → Core) : (modCore s c f).i2c = s.i2c := rfl
@[simp] theorem modCore_cores (s : State) (c : Nat) (f : Core → Core) : (modCore s c f).cores = tput s.cores c (f (coreOf s c)) := rfl

/-! ### modGroup -/

@[simp] theorem modGroup_pending (s : State) (g : Nat) (f : Group → Group) : (modGroup s g f).pending = s.pending := rfl
@[simp] theorem modGroup_freeCount (s : State) (g : Nat) (f : Group → Group) : (modGroup s g f).freeCount = s.freeCount := rfl
@[simp] theorem modGroup_outputs (s : State) (g : Nat) (f : Group → Group) : (modGroup s g f).outputs = s.outputs := rfl
@[simp] theorem modGroup_pins (s : State) (g : Nat) (f : Group → Group) : (modGroup s g f).pins = s.pins := rfl
@[simp] theorem modGroup_gaffer (s : State) (g : Nat) (f : Group → Group) : (modGroup s g f).gaffer = s.gaffer := rfl
@[simp] theorem modGroup_fuses (s : State) (g : Nat) (f : Group → Group) : (modGroup s g f).fuses = s.fuses := rfl
@[simp] theorem modGroup_log (s : State) (g : Nat) (f : Group → Group) : (modGroup s g f).log = s.log := rfl
@[simp] theorem modGroup_dict (s : State) (g : Nat) (f : Group → Group) : (modGroup s g f).dict = s.dict := rfl
@[simp] theorem modGroup_power (s : State) (g : Nat) (f : Group → Group) : (modGroup s g f).power = s.power := rfl
@[simp] theorem modGroup_ageing (s : State) (g : Nat) (f : Group → Group) : (modGroup s g f).ageing = s.ageing := rfl
@[simp] theorem modGroup_fabric (s : State) (g : Nat) (f : Group → Group) : (modGroup s g f).fabric = s.fabric := rfl
@[simp] theorem modGroup_mem (s : State) (g : Nat) (f : Group → Group) : (modGroup s g f).mem = s.mem := rfl
@[simp] theorem modGroup_cores (s : State) (g : Nat) (f : Group → Group) : (modGroup s g f).cores = s.cores := rfl
@[simp] theorem modGroup_serving (s : State) (g : Nat) (f : Group → Group) : (modGroup s g f).serving = s.serving := rfl
@[simp] theorem modGroup_reels (s : State) (g : Nat) (f : Group → Group) : (modGroup s g f).reels = s.reels := rfl
@[simp] theorem modGroup_slate (s : State) (g : Nat) (f : Group → Group) : (modGroup s g f).slate = s.slate := rfl
@[simp] theorem modGroup_net (s : State) (g : Nat) (f : Group → Group) : (modGroup s g f).net = s.net := rfl
@[simp] theorem modGroup_host (s : State) (g : Nat) (f : Group → Group) : (modGroup s g f).host = s.host := rfl
@[simp] theorem modGroup_can (s : State) (g : Nat) (f : Group → Group) : (modGroup s g f).can = s.can := rfl
@[simp] theorem modGroup_spi (s : State) (g : Nat) (f : Group → Group) : (modGroup s g f).spi = s.spi := rfl
@[simp] theorem modGroup_flash (s : State) (g : Nat) (f : Group → Group) : (modGroup s g f).flash = s.flash := rfl
@[simp] theorem modGroup_i2c (s : State) (g : Nat) (f : Group → Group) : (modGroup s g f).i2c = s.i2c := rfl
@[simp] theorem modGroup_groups (s : State) (g : Nat) (f : Group → Group) : (modGroup s g f).groups = tput s.groups g (f (groupOf s g)) := rfl

/-! ### modDom -/

@[simp] theorem modDom_pending (s : State) (d : Nat) (f : Domain → Domain) : (modDom s d f).pending = s.pending := rfl
@[simp] theorem modDom_freeCount (s : State) (d : Nat) (f : Domain → Domain) : (modDom s d f).freeCount = s.freeCount := rfl
@[simp] theorem modDom_outputs (s : State) (d : Nat) (f : Domain → Domain) : (modDom s d f).outputs = s.outputs := rfl
@[simp] theorem modDom_pins (s : State) (d : Nat) (f : Domain → Domain) : (modDom s d f).pins = s.pins := rfl
@[simp] theorem modDom_gaffer (s : State) (d : Nat) (f : Domain → Domain) : (modDom s d f).gaffer = s.gaffer := rfl
@[simp] theorem modDom_fuses (s : State) (d : Nat) (f : Domain → Domain) : (modDom s d f).fuses = s.fuses := rfl
@[simp] theorem modDom_log (s : State) (d : Nat) (f : Domain → Domain) : (modDom s d f).log = s.log := rfl
@[simp] theorem modDom_dict (s : State) (d : Nat) (f : Domain → Domain) : (modDom s d f).dict = s.dict := rfl
@[simp] theorem modDom_ageing (s : State) (d : Nat) (f : Domain → Domain) : (modDom s d f).ageing = s.ageing := rfl
@[simp] theorem modDom_fabric (s : State) (d : Nat) (f : Domain → Domain) : (modDom s d f).fabric = s.fabric := rfl
@[simp] theorem modDom_mem (s : State) (d : Nat) (f : Domain → Domain) : (modDom s d f).mem = s.mem := rfl
@[simp] theorem modDom_cores (s : State) (d : Nat) (f : Domain → Domain) : (modDom s d f).cores = s.cores := rfl
@[simp] theorem modDom_groups (s : State) (d : Nat) (f : Domain → Domain) : (modDom s d f).groups = s.groups := rfl
@[simp] theorem modDom_serving (s : State) (d : Nat) (f : Domain → Domain) : (modDom s d f).serving = s.serving := rfl
@[simp] theorem modDom_reels (s : State) (d : Nat) (f : Domain → Domain) : (modDom s d f).reels = s.reels := rfl
@[simp] theorem modDom_slate (s : State) (d : Nat) (f : Domain → Domain) : (modDom s d f).slate = s.slate := rfl
@[simp] theorem modDom_net (s : State) (d : Nat) (f : Domain → Domain) : (modDom s d f).net = s.net := rfl
@[simp] theorem modDom_host (s : State) (d : Nat) (f : Domain → Domain) : (modDom s d f).host = s.host := rfl
@[simp] theorem modDom_can (s : State) (d : Nat) (f : Domain → Domain) : (modDom s d f).can = s.can := rfl
@[simp] theorem modDom_spi (s : State) (d : Nat) (f : Domain → Domain) : (modDom s d f).spi = s.spi := rfl
@[simp] theorem modDom_flash (s : State) (d : Nat) (f : Domain → Domain) : (modDom s d f).flash = s.flash := rfl
@[simp] theorem modDom_i2c (s : State) (d : Nat) (f : Domain → Domain) : (modDom s d f).i2c = s.i2c := rfl
@[simp] theorem modDom_power_regs (s : State) (d : Nat) (f : Domain → Domain) : (modDom s d f).power.regs = s.power.regs := rfl
@[simp] theorem modDom_power_trans (s : State) (d : Nat) (f : Domain → Domain) : (modDom s d f).power.trans = s.power.trans := rfl
@[simp] theorem modDom_power_waiting (s : State) (d : Nat) (f : Domain → Domain) : (modDom s d f).power.waiting = s.power.waiting := rfl
@[simp] theorem modDom_power_chain (s : State) (d : Nat) (f : Domain → Domain) : (modDom s d f).power.chain = s.power.chain := rfl
@[simp] theorem modDom_power_committed (s : State) (d : Nat) (f : Domain → Domain) : (modDom s d f).power.committed = s.power.committed := rfl
@[simp] theorem modDom_power_retry (s : State) (d : Nat) (f : Domain → Domain) : (modDom s d f).power.retry = s.power.retry := rfl
@[simp] theorem modDom_power_second (s : State) (d : Nat) (f : Domain → Domain) : (modDom s d f).power.second = s.power.second := rfl
@[simp] theorem modDom_power_cap (s : State) (d : Nat) (f : Domain → Domain) : (modDom s d f).power.cap = s.power.cap := rfl
@[simp] theorem modDom_power_goodWindows (s : State) (d : Nat) (f : Domain → Domain) : (modDom s d f).power.goodWindows = s.power.goodWindows := rfl
@[simp] theorem modDom_power_currents (s : State) (d : Nat) (f : Domain → Domain) : (modDom s d f).power.currents = s.power.currents := rfl
@[simp] theorem modDom_power_packageMw (s : State) (d : Nat) (f : Domain → Domain) : (modDom s d f).power.packageMw = s.power.packageMw := rfl
@[simp] theorem modDom_power_spineMa (s : State) (d : Nat) (f : Domain → Domain) : (modDom s d f).power.spineMa = s.power.spineMa := rfl
@[simp] theorem modDom_power_otherUw (s : State) (d : Nat) (f : Domain → Domain) : (modDom s d f).power.otherUw = s.power.otherUw := rfl
@[simp] theorem modDom_power_vcoreMv (s : State) (d : Nat) (f : Domain → Domain) : (modDom s d f).power.vcoreMv = s.power.vcoreMv := rfl
@[simp] theorem modDom_power_railMv (s : State) (d : Nat) (f : Domain → Domain) : (modDom s d f).power.railMv = s.power.railMv := rfl
@[simp] theorem modDom_power_again (s : State) (d : Nat) (f : Domain → Domain) : (modDom s d f).power.again = s.power.again := rfl
@[simp] theorem modDom_power_junction (s : State) (d : Nat) (f : Domain → Domain) : (modDom s d f).power.junction = s.power.junction := rfl
@[simp] theorem modDom_power_aboveAlarm (s : State) (d : Nat) (f : Domain → Domain) : (modDom s d f).power.aboveAlarm = s.power.aboveAlarm := rfl
@[simp] theorem modDom_power_spineHeld (s : State) (d : Nat) (f : Domain → Domain) : (modDom s d f).power.spineHeld = s.power.spineHeld := rfl
@[simp] theorem modDom_power_dieDroop (s : State) (d : Nat) (f : Domain → Domain) : (modDom s d f).power.dieDroop = s.power.dieDroop := rfl
@[simp] theorem modDom_power_domains (s : State) (d : Nat) (f : Domain → Domain) : (modDom s d f).power.domains = tput s.power.domains d (f (domOf s d)) := rfl
@[simp] theorem modDom_power_hold (s : State) (d : Nat) (f : Domain → Domain) : (modDom s d f).power.hold = s.power.hold := rfl

/-! ### modReg -/

@[simp] theorem modReg_pending (s : State) (r : Nat) (f : Regulator → Regulator) : (modReg s r f).pending = s.pending := rfl
@[simp] theorem modReg_freeCount (s : State) (r : Nat) (f : Regulator → Regulator) : (modReg s r f).freeCount = s.freeCount := rfl
@[simp] theorem modReg_outputs (s : State) (r : Nat) (f : Regulator → Regulator) : (modReg s r f).outputs = s.outputs := rfl
@[simp] theorem modReg_pins (s : State) (r : Nat) (f : Regulator → Regulator) : (modReg s r f).pins = s.pins := rfl
@[simp] theorem modReg_gaffer (s : State) (r : Nat) (f : Regulator → Regulator) : (modReg s r f).gaffer = s.gaffer := rfl
@[simp] theorem modReg_fuses (s : State) (r : Nat) (f : Regulator → Regulator) : (modReg s r f).fuses = s.fuses := rfl
@[simp] theorem modReg_log (s : State) (r : Nat) (f : Regulator → Regulator) : (modReg s r f).log = s.log := rfl
@[simp] theorem modReg_dict (s : State) (r : Nat) (f : Regulator → Regulator) : (modReg s r f).dict = s.dict := rfl
@[simp] theorem modReg_ageing (s : State) (r : Nat) (f : Regulator → Regulator) : (modReg s r f).ageing = s.ageing := rfl
@[simp] theorem modReg_fabric (s : State) (r : Nat) (f : Regulator → Regulator) : (modReg s r f).fabric = s.fabric := rfl
@[simp] theorem modReg_mem (s : State) (r : Nat) (f : Regulator → Regulator) : (modReg s r f).mem = s.mem := rfl
@[simp] theorem modReg_cores (s : State) (r : Nat) (f : Regulator → Regulator) : (modReg s r f).cores = s.cores := rfl
@[simp] theorem modReg_groups (s : State) (r : Nat) (f : Regulator → Regulator) : (modReg s r f).groups = s.groups := rfl
@[simp] theorem modReg_serving (s : State) (r : Nat) (f : Regulator → Regulator) : (modReg s r f).serving = s.serving := rfl
@[simp] theorem modReg_reels (s : State) (r : Nat) (f : Regulator → Regulator) : (modReg s r f).reels = s.reels := rfl
@[simp] theorem modReg_slate (s : State) (r : Nat) (f : Regulator → Regulator) : (modReg s r f).slate = s.slate := rfl
@[simp] theorem modReg_net (s : State) (r : Nat) (f : Regulator → Regulator) : (modReg s r f).net = s.net := rfl
@[simp] theorem modReg_host (s : State) (r : Nat) (f : Regulator → Regulator) : (modReg s r f).host = s.host := rfl
@[simp] theorem modReg_can (s : State) (r : Nat) (f : Regulator → Regulator) : (modReg s r f).can = s.can := rfl
@[simp] theorem modReg_spi (s : State) (r : Nat) (f : Regulator → Regulator) : (modReg s r f).spi = s.spi := rfl
@[simp] theorem modReg_flash (s : State) (r : Nat) (f : Regulator → Regulator) : (modReg s r f).flash = s.flash := rfl
@[simp] theorem modReg_i2c (s : State) (r : Nat) (f : Regulator → Regulator) : (modReg s r f).i2c = s.i2c := rfl
@[simp] theorem modReg_power_regs (s : State) (r : Nat) (f : Regulator → Regulator) : (modReg s r f).power.regs = tput s.power.regs r (f (regOf s r)) := rfl
@[simp] theorem modReg_power_trans (s : State) (r : Nat) (f : Regulator → Regulator) : (modReg s r f).power.trans = s.power.trans := rfl
@[simp] theorem modReg_power_waiting (s : State) (r : Nat) (f : Regulator → Regulator) : (modReg s r f).power.waiting = s.power.waiting := rfl
@[simp] theorem modReg_power_chain (s : State) (r : Nat) (f : Regulator → Regulator) : (modReg s r f).power.chain = s.power.chain := rfl
@[simp] theorem modReg_power_committed (s : State) (r : Nat) (f : Regulator → Regulator) : (modReg s r f).power.committed = s.power.committed := rfl
@[simp] theorem modReg_power_retry (s : State) (r : Nat) (f : Regulator → Regulator) : (modReg s r f).power.retry = s.power.retry := rfl
@[simp] theorem modReg_power_second (s : State) (r : Nat) (f : Regulator → Regulator) : (modReg s r f).power.second = s.power.second := rfl
@[simp] theorem modReg_power_cap (s : State) (r : Nat) (f : Regulator → Regulator) : (modReg s r f).power.cap = s.power.cap := rfl
@[simp] theorem modReg_power_goodWindows (s : State) (r : Nat) (f : Regulator → Regulator) : (modReg s r f).power.goodWindows = s.power.goodWindows := rfl
@[simp] theorem modReg_power_currents (s : State) (r : Nat) (f : Regulator → Regulator) : (modReg s r f).power.currents = s.power.currents := rfl
@[simp] theorem modReg_power_packageMw (s : State) (r : Nat) (f : Regulator → Regulator) : (modReg s r f).power.packageMw = s.power.packageMw := rfl
@[simp] theorem modReg_power_spineMa (s : State) (r : Nat) (f : Regulator → Regulator) : (modReg s r f).power.spineMa = s.power.spineMa := rfl
@[simp] theorem modReg_power_otherUw (s : State) (r : Nat) (f : Regulator → Regulator) : (modReg s r f).power.otherUw = s.power.otherUw := rfl
@[simp] theorem modReg_power_vcoreMv (s : State) (r : Nat) (f : Regulator → Regulator) : (modReg s r f).power.vcoreMv = s.power.vcoreMv := rfl
@[simp] theorem modReg_power_railMv (s : State) (r : Nat) (f : Regulator → Regulator) : (modReg s r f).power.railMv = s.power.railMv := rfl
@[simp] theorem modReg_power_again (s : State) (r : Nat) (f : Regulator → Regulator) : (modReg s r f).power.again = s.power.again := rfl
@[simp] theorem modReg_power_junction (s : State) (r : Nat) (f : Regulator → Regulator) : (modReg s r f).power.junction = s.power.junction := rfl
@[simp] theorem modReg_power_aboveAlarm (s : State) (r : Nat) (f : Regulator → Regulator) : (modReg s r f).power.aboveAlarm = s.power.aboveAlarm := rfl
@[simp] theorem modReg_power_spineHeld (s : State) (r : Nat) (f : Regulator → Regulator) : (modReg s r f).power.spineHeld = s.power.spineHeld := rfl
@[simp] theorem modReg_power_dieDroop (s : State) (r : Nat) (f : Regulator → Regulator) : (modReg s r f).power.dieDroop = s.power.dieDroop := rfl
@[simp] theorem modReg_power_domains (s : State) (r : Nat) (f : Regulator → Regulator) : (modReg s r f).power.domains = s.power.domains := rfl
@[simp] theorem modReg_power_hold (s : State) (r : Nat) (f : Regulator → Regulator) : (modReg s r f).power.hold = s.power.hold := rfl

/-! ### modLink -/

@[simp] theorem modLink_pending (s : State) (n : Nat) (f : Link → Link) : (modLink s n f).pending = s.pending := rfl
@[simp] theorem modLink_freeCount (s : State) (n : Nat) (f : Link → Link) : (modLink s n f).freeCount = s.freeCount := rfl
@[simp] theorem modLink_outputs (s : State) (n : Nat) (f : Link → Link) : (modLink s n f).outputs = s.outputs := rfl
@[simp] theorem modLink_pins (s : State) (n : Nat) (f : Link → Link) : (modLink s n f).pins = s.pins := rfl
@[simp] theorem modLink_gaffer (s : State) (n : Nat) (f : Link → Link) : (modLink s n f).gaffer = s.gaffer := rfl
@[simp] theorem modLink_fuses (s : State) (n : Nat) (f : Link → Link) : (modLink s n f).fuses = s.fuses := rfl
@[simp] theorem modLink_log (s : State) (n : Nat) (f : Link → Link) : (modLink s n f).log = s.log := rfl
@[simp] theorem modLink_dict (s : State) (n : Nat) (f : Link → Link) : (modLink s n f).dict = s.dict := rfl
@[simp] theorem modLink_power (s : State) (n : Nat) (f : Link → Link) : (modLink s n f).power = s.power := rfl
@[simp] theorem modLink_ageing (s : State) (n : Nat) (f : Link → Link) : (modLink s n f).ageing = s.ageing := rfl
@[simp] theorem modLink_fabric (s : State) (n : Nat) (f : Link → Link) : (modLink s n f).fabric = s.fabric := rfl
@[simp] theorem modLink_mem (s : State) (n : Nat) (f : Link → Link) : (modLink s n f).mem = s.mem := rfl
@[simp] theorem modLink_cores (s : State) (n : Nat) (f : Link → Link) : (modLink s n f).cores = s.cores := rfl
@[simp] theorem modLink_groups (s : State) (n : Nat) (f : Link → Link) : (modLink s n f).groups = s.groups := rfl
@[simp] theorem modLink_serving (s : State) (n : Nat) (f : Link → Link) : (modLink s n f).serving = s.serving := rfl
@[simp] theorem modLink_reels (s : State) (n : Nat) (f : Link → Link) : (modLink s n f).reels = s.reels := rfl
@[simp] theorem modLink_slate (s : State) (n : Nat) (f : Link → Link) : (modLink s n f).slate = s.slate := rfl
@[simp] theorem modLink_host (s : State) (n : Nat) (f : Link → Link) : (modLink s n f).host = s.host := rfl
@[simp] theorem modLink_can (s : State) (n : Nat) (f : Link → Link) : (modLink s n f).can = s.can := rfl
@[simp] theorem modLink_spi (s : State) (n : Nat) (f : Link → Link) : (modLink s n f).spi = s.spi := rfl
@[simp] theorem modLink_flash (s : State) (n : Nat) (f : Link → Link) : (modLink s n f).flash = s.flash := rfl
@[simp] theorem modLink_i2c (s : State) (n : Nat) (f : Link → Link) : (modLink s n f).i2c = s.i2c := rfl
@[simp] theorem modLink_net_links (s : State) (n : Nat) (f : Link → Link) : (modLink s n f).net.links = tput s.net.links n (f (linkOf s n)) := rfl
@[simp] theorem modLink_net_quads (s : State) (n : Nat) (f : Link → Link) : (modLink s n f).net.quads = s.net.quads := rfl
@[simp] theorem modLink_net_xbar (s : State) (n : Nat) (f : Link → Link) : (modLink s n f).net.xbar = s.net.xbar := rfl
@[simp] theorem modLink_net_inbox (s : State) (n : Nat) (f : Link → Link) : (modLink s n f).net.inbox = s.net.inbox := rfl
@[simp] theorem modLink_net_nextTag (s : State) (n : Nat) (f : Link → Link) : (modLink s n f).net.nextTag = s.net.nextTag := rfl
@[simp] theorem modLink_net_out (s : State) (n : Nat) (f : Link → Link) : (modLink s n f).net.out = s.net.out := rfl
@[simp] theorem modLink_net_remoteSeq (s : State) (n : Nat) (f : Link → Link) : (modLink s n f).net.remoteSeq = s.net.remoteSeq := rfl

/-! ### modQuad -/

@[simp] theorem modQuad_pending (s : State) (q : Nat) (f : Quad → Quad) : (modQuad s q f).pending = s.pending := rfl
@[simp] theorem modQuad_freeCount (s : State) (q : Nat) (f : Quad → Quad) : (modQuad s q f).freeCount = s.freeCount := rfl
@[simp] theorem modQuad_outputs (s : State) (q : Nat) (f : Quad → Quad) : (modQuad s q f).outputs = s.outputs := rfl
@[simp] theorem modQuad_pins (s : State) (q : Nat) (f : Quad → Quad) : (modQuad s q f).pins = s.pins := rfl
@[simp] theorem modQuad_gaffer (s : State) (q : Nat) (f : Quad → Quad) : (modQuad s q f).gaffer = s.gaffer := rfl
@[simp] theorem modQuad_fuses (s : State) (q : Nat) (f : Quad → Quad) : (modQuad s q f).fuses = s.fuses := rfl
@[simp] theorem modQuad_log (s : State) (q : Nat) (f : Quad → Quad) : (modQuad s q f).log = s.log := rfl
@[simp] theorem modQuad_dict (s : State) (q : Nat) (f : Quad → Quad) : (modQuad s q f).dict = s.dict := rfl
@[simp] theorem modQuad_power (s : State) (q : Nat) (f : Quad → Quad) : (modQuad s q f).power = s.power := rfl
@[simp] theorem modQuad_ageing (s : State) (q : Nat) (f : Quad → Quad) : (modQuad s q f).ageing = s.ageing := rfl
@[simp] theorem modQuad_fabric (s : State) (q : Nat) (f : Quad → Quad) : (modQuad s q f).fabric = s.fabric := rfl
@[simp] theorem modQuad_mem (s : State) (q : Nat) (f : Quad → Quad) : (modQuad s q f).mem = s.mem := rfl
@[simp] theorem modQuad_cores (s : State) (q : Nat) (f : Quad → Quad) : (modQuad s q f).cores = s.cores := rfl
@[simp] theorem modQuad_groups (s : State) (q : Nat) (f : Quad → Quad) : (modQuad s q f).groups = s.groups := rfl
@[simp] theorem modQuad_serving (s : State) (q : Nat) (f : Quad → Quad) : (modQuad s q f).serving = s.serving := rfl
@[simp] theorem modQuad_reels (s : State) (q : Nat) (f : Quad → Quad) : (modQuad s q f).reels = s.reels := rfl
@[simp] theorem modQuad_slate (s : State) (q : Nat) (f : Quad → Quad) : (modQuad s q f).slate = s.slate := rfl
@[simp] theorem modQuad_host (s : State) (q : Nat) (f : Quad → Quad) : (modQuad s q f).host = s.host := rfl
@[simp] theorem modQuad_can (s : State) (q : Nat) (f : Quad → Quad) : (modQuad s q f).can = s.can := rfl
@[simp] theorem modQuad_spi (s : State) (q : Nat) (f : Quad → Quad) : (modQuad s q f).spi = s.spi := rfl
@[simp] theorem modQuad_flash (s : State) (q : Nat) (f : Quad → Quad) : (modQuad s q f).flash = s.flash := rfl
@[simp] theorem modQuad_i2c (s : State) (q : Nat) (f : Quad → Quad) : (modQuad s q f).i2c = s.i2c := rfl
@[simp] theorem modQuad_net_links (s : State) (q : Nat) (f : Quad → Quad) : (modQuad s q f).net.links = s.net.links := rfl
@[simp] theorem modQuad_net_quads (s : State) (q : Nat) (f : Quad → Quad) : (modQuad s q f).net.quads = tput s.net.quads q (f (quadOf s q)) := rfl
@[simp] theorem modQuad_net_xbar (s : State) (q : Nat) (f : Quad → Quad) : (modQuad s q f).net.xbar = s.net.xbar := rfl
@[simp] theorem modQuad_net_inbox (s : State) (q : Nat) (f : Quad → Quad) : (modQuad s q f).net.inbox = s.net.inbox := rfl
@[simp] theorem modQuad_net_nextTag (s : State) (q : Nat) (f : Quad → Quad) : (modQuad s q f).net.nextTag = s.net.nextTag := rfl
@[simp] theorem modQuad_net_out (s : State) (q : Nat) (f : Quad → Quad) : (modQuad s q f).net.out = s.net.out := rfl
@[simp] theorem modQuad_net_remoteSeq (s : State) (q : Nat) (f : Quad → Quad) : (modQuad s q f).net.remoteSeq = s.net.remoteSeq := rfl

/-! ### modFn -/

@[simp] theorem modFn_pending (s : State) (n : Nat) (f : Fn → Fn) : (modFn s n f).pending = s.pending := rfl
@[simp] theorem modFn_freeCount (s : State) (n : Nat) (f : Fn → Fn) : (modFn s n f).freeCount = s.freeCount := rfl
@[simp] theorem modFn_outputs (s : State) (n : Nat) (f : Fn → Fn) : (modFn s n f).outputs = s.outputs := rfl
@[simp] theorem modFn_pins (s : State) (n : Nat) (f : Fn → Fn) : (modFn s n f).pins = s.pins := rfl
@[simp] theorem modFn_gaffer (s : State) (n : Nat) (f : Fn → Fn) : (modFn s n f).gaffer = s.gaffer := rfl
@[simp] theorem modFn_fuses (s : State) (n : Nat) (f : Fn → Fn) : (modFn s n f).fuses = s.fuses := rfl
@[simp] theorem modFn_log (s : State) (n : Nat) (f : Fn → Fn) : (modFn s n f).log = s.log := rfl
@[simp] theorem modFn_dict (s : State) (n : Nat) (f : Fn → Fn) : (modFn s n f).dict = s.dict := rfl
@[simp] theorem modFn_power (s : State) (n : Nat) (f : Fn → Fn) : (modFn s n f).power = s.power := rfl
@[simp] theorem modFn_ageing (s : State) (n : Nat) (f : Fn → Fn) : (modFn s n f).ageing = s.ageing := rfl
@[simp] theorem modFn_fabric (s : State) (n : Nat) (f : Fn → Fn) : (modFn s n f).fabric = s.fabric := rfl
@[simp] theorem modFn_mem (s : State) (n : Nat) (f : Fn → Fn) : (modFn s n f).mem = s.mem := rfl
@[simp] theorem modFn_cores (s : State) (n : Nat) (f : Fn → Fn) : (modFn s n f).cores = s.cores := rfl
@[simp] theorem modFn_groups (s : State) (n : Nat) (f : Fn → Fn) : (modFn s n f).groups = s.groups := rfl
@[simp] theorem modFn_serving (s : State) (n : Nat) (f : Fn → Fn) : (modFn s n f).serving = s.serving := rfl
@[simp] theorem modFn_reels (s : State) (n : Nat) (f : Fn → Fn) : (modFn s n f).reels = s.reels := rfl
@[simp] theorem modFn_slate (s : State) (n : Nat) (f : Fn → Fn) : (modFn s n f).slate = s.slate := rfl
@[simp] theorem modFn_net (s : State) (n : Nat) (f : Fn → Fn) : (modFn s n f).net = s.net := rfl
@[simp] theorem modFn_can (s : State) (n : Nat) (f : Fn → Fn) : (modFn s n f).can = s.can := rfl
@[simp] theorem modFn_spi (s : State) (n : Nat) (f : Fn → Fn) : (modFn s n f).spi = s.spi := rfl
@[simp] theorem modFn_flash (s : State) (n : Nat) (f : Fn → Fn) : (modFn s n f).flash = s.flash := rfl
@[simp] theorem modFn_i2c (s : State) (n : Nat) (f : Fn → Fn) : (modFn s n f).i2c = s.i2c := rfl
@[simp] theorem modFn_host_rate (s : State) (n : Nat) (f : Fn → Fn) : (modFn s n f).host.rate = s.host.rate := rfl
@[simp] theorem modFn_host_width (s : State) (n : Nat) (f : Fn → Fn) : (modFn s n f).host.width = s.host.width := rfl
@[simp] theorem modFn_host_flitMode (s : State) (n : Nat) (f : Fn → Fn) : (modFn s n f).host.flitMode = s.host.flitMode := rfl
@[simp] theorem modFn_host_retryStatus (s : State) (n : Nat) (f : Fn → Fn) : (modFn s n f).host.retryStatus = s.host.retryStatus := rfl
@[simp] theorem modFn_host_vfEnable (s : State) (n : Nat) (f : Fn → Fn) : (modFn s n f).host.vfEnable = s.host.vfEnable := rfl
@[simp] theorem modFn_host_numVfs (s : State) (n : Nat) (f : Fn → Fn) : (modFn s n f).host.numVfs = s.host.numVfs := rfl
@[simp] theorem modFn_host_bar4 (s : State) (n : Nat) (f : Fn → Fn) : (modFn s n f).host.bar4 = s.host.bar4 := rfl
@[simp] theorem modFn_host_fns (s : State) (n : Nat) (f : Fn → Fn) : (modFn s n f).host.fns = tput s.host.fns n (f (fnOf s n)) := rfl
@[simp] theorem modFn_host_windows (s : State) (n : Nat) (f : Fn → Fn) : (modFn s n f).host.windows = s.host.windows := rfl
@[simp] theorem modFn_host_tenants (s : State) (n : Nat) (f : Fn → Fn) : (modFn s n f).host.tenants = s.host.tenants := rfl
@[simp] theorem modFn_host_reads (s : State) (n : Nat) (f : Fn → Fn) : (modFn s n f).host.reads = s.host.reads := rfl
@[simp] theorem modFn_host_nextReq (s : State) (n : Nat) (f : Fn → Fn) : (modFn s n f).host.nextReq = s.host.nextReq := rfl

/-! ### modTq -/

@[simp] theorem modTq_pending (s : State) (n : Nat) (f : TenantQ → TenantQ) : (modTq s n f).pending = s.pending := rfl
@[simp] theorem modTq_freeCount (s : State) (n : Nat) (f : TenantQ → TenantQ) : (modTq s n f).freeCount = s.freeCount := rfl
@[simp] theorem modTq_outputs (s : State) (n : Nat) (f : TenantQ → TenantQ) : (modTq s n f).outputs = s.outputs := rfl
@[simp] theorem modTq_pins (s : State) (n : Nat) (f : TenantQ → TenantQ) : (modTq s n f).pins = s.pins := rfl
@[simp] theorem modTq_gaffer (s : State) (n : Nat) (f : TenantQ → TenantQ) : (modTq s n f).gaffer = s.gaffer := rfl
@[simp] theorem modTq_fuses (s : State) (n : Nat) (f : TenantQ → TenantQ) : (modTq s n f).fuses = s.fuses := rfl
@[simp] theorem modTq_log (s : State) (n : Nat) (f : TenantQ → TenantQ) : (modTq s n f).log = s.log := rfl
@[simp] theorem modTq_dict (s : State) (n : Nat) (f : TenantQ → TenantQ) : (modTq s n f).dict = s.dict := rfl
@[simp] theorem modTq_power (s : State) (n : Nat) (f : TenantQ → TenantQ) : (modTq s n f).power = s.power := rfl
@[simp] theorem modTq_ageing (s : State) (n : Nat) (f : TenantQ → TenantQ) : (modTq s n f).ageing = s.ageing := rfl
@[simp] theorem modTq_fabric (s : State) (n : Nat) (f : TenantQ → TenantQ) : (modTq s n f).fabric = s.fabric := rfl
@[simp] theorem modTq_mem (s : State) (n : Nat) (f : TenantQ → TenantQ) : (modTq s n f).mem = s.mem := rfl
@[simp] theorem modTq_cores (s : State) (n : Nat) (f : TenantQ → TenantQ) : (modTq s n f).cores = s.cores := rfl
@[simp] theorem modTq_groups (s : State) (n : Nat) (f : TenantQ → TenantQ) : (modTq s n f).groups = s.groups := rfl
@[simp] theorem modTq_serving (s : State) (n : Nat) (f : TenantQ → TenantQ) : (modTq s n f).serving = s.serving := rfl
@[simp] theorem modTq_reels (s : State) (n : Nat) (f : TenantQ → TenantQ) : (modTq s n f).reels = s.reels := rfl
@[simp] theorem modTq_slate (s : State) (n : Nat) (f : TenantQ → TenantQ) : (modTq s n f).slate = s.slate := rfl
@[simp] theorem modTq_net (s : State) (n : Nat) (f : TenantQ → TenantQ) : (modTq s n f).net = s.net := rfl
@[simp] theorem modTq_can (s : State) (n : Nat) (f : TenantQ → TenantQ) : (modTq s n f).can = s.can := rfl
@[simp] theorem modTq_spi (s : State) (n : Nat) (f : TenantQ → TenantQ) : (modTq s n f).spi = s.spi := rfl
@[simp] theorem modTq_flash (s : State) (n : Nat) (f : TenantQ → TenantQ) : (modTq s n f).flash = s.flash := rfl
@[simp] theorem modTq_i2c (s : State) (n : Nat) (f : TenantQ → TenantQ) : (modTq s n f).i2c = s.i2c := rfl
@[simp] theorem modTq_host_rate (s : State) (n : Nat) (f : TenantQ → TenantQ) : (modTq s n f).host.rate = s.host.rate := rfl
@[simp] theorem modTq_host_width (s : State) (n : Nat) (f : TenantQ → TenantQ) : (modTq s n f).host.width = s.host.width := rfl
@[simp] theorem modTq_host_flitMode (s : State) (n : Nat) (f : TenantQ → TenantQ) : (modTq s n f).host.flitMode = s.host.flitMode := rfl
@[simp] theorem modTq_host_retryStatus (s : State) (n : Nat) (f : TenantQ → TenantQ) : (modTq s n f).host.retryStatus = s.host.retryStatus := rfl
@[simp] theorem modTq_host_vfEnable (s : State) (n : Nat) (f : TenantQ → TenantQ) : (modTq s n f).host.vfEnable = s.host.vfEnable := rfl
@[simp] theorem modTq_host_numVfs (s : State) (n : Nat) (f : TenantQ → TenantQ) : (modTq s n f).host.numVfs = s.host.numVfs := rfl
@[simp] theorem modTq_host_bar4 (s : State) (n : Nat) (f : TenantQ → TenantQ) : (modTq s n f).host.bar4 = s.host.bar4 := rfl
@[simp] theorem modTq_host_fns (s : State) (n : Nat) (f : TenantQ → TenantQ) : (modTq s n f).host.fns = s.host.fns := rfl
@[simp] theorem modTq_host_windows (s : State) (n : Nat) (f : TenantQ → TenantQ) : (modTq s n f).host.windows = s.host.windows := rfl
@[simp] theorem modTq_host_tenants (s : State) (n : Nat) (f : TenantQ → TenantQ) : (modTq s n f).host.tenants = tput s.host.tenants n (f (tqOf s n)) := rfl
@[simp] theorem modTq_host_reads (s : State) (n : Nat) (f : TenantQ → TenantQ) : (modTq s n f).host.reads = s.host.reads := rfl
@[simp] theorem modTq_host_nextReq (s : State) (n : Nat) (f : TenantQ → TenantQ) : (modTq s n f).host.nextReq = s.host.nextReq := rfl

/-! ### modWin -/

@[simp] theorem modWin_pending (s : State) (n : Nat) (f : Window → Window) : (modWin s n f).pending = s.pending := rfl
@[simp] theorem modWin_freeCount (s : State) (n : Nat) (f : Window → Window) : (modWin s n f).freeCount = s.freeCount := rfl
@[simp] theorem modWin_outputs (s : State) (n : Nat) (f : Window → Window) : (modWin s n f).outputs = s.outputs := rfl
@[simp] theorem modWin_pins (s : State) (n : Nat) (f : Window → Window) : (modWin s n f).pins = s.pins := rfl
@[simp] theorem modWin_gaffer (s : State) (n : Nat) (f : Window → Window) : (modWin s n f).gaffer = s.gaffer := rfl
@[simp] theorem modWin_fuses (s : State) (n : Nat) (f : Window → Window) : (modWin s n f).fuses = s.fuses := rfl
@[simp] theorem modWin_log (s : State) (n : Nat) (f : Window → Window) : (modWin s n f).log = s.log := rfl
@[simp] theorem modWin_dict (s : State) (n : Nat) (f : Window → Window) : (modWin s n f).dict = s.dict := rfl
@[simp] theorem modWin_power (s : State) (n : Nat) (f : Window → Window) : (modWin s n f).power = s.power := rfl
@[simp] theorem modWin_ageing (s : State) (n : Nat) (f : Window → Window) : (modWin s n f).ageing = s.ageing := rfl
@[simp] theorem modWin_fabric (s : State) (n : Nat) (f : Window → Window) : (modWin s n f).fabric = s.fabric := rfl
@[simp] theorem modWin_mem (s : State) (n : Nat) (f : Window → Window) : (modWin s n f).mem = s.mem := rfl
@[simp] theorem modWin_cores (s : State) (n : Nat) (f : Window → Window) : (modWin s n f).cores = s.cores := rfl
@[simp] theorem modWin_groups (s : State) (n : Nat) (f : Window → Window) : (modWin s n f).groups = s.groups := rfl
@[simp] theorem modWin_serving (s : State) (n : Nat) (f : Window → Window) : (modWin s n f).serving = s.serving := rfl
@[simp] theorem modWin_reels (s : State) (n : Nat) (f : Window → Window) : (modWin s n f).reels = s.reels := rfl
@[simp] theorem modWin_slate (s : State) (n : Nat) (f : Window → Window) : (modWin s n f).slate = s.slate := rfl
@[simp] theorem modWin_net (s : State) (n : Nat) (f : Window → Window) : (modWin s n f).net = s.net := rfl
@[simp] theorem modWin_can (s : State) (n : Nat) (f : Window → Window) : (modWin s n f).can = s.can := rfl
@[simp] theorem modWin_spi (s : State) (n : Nat) (f : Window → Window) : (modWin s n f).spi = s.spi := rfl
@[simp] theorem modWin_flash (s : State) (n : Nat) (f : Window → Window) : (modWin s n f).flash = s.flash := rfl
@[simp] theorem modWin_i2c (s : State) (n : Nat) (f : Window → Window) : (modWin s n f).i2c = s.i2c := rfl
@[simp] theorem modWin_host_rate (s : State) (n : Nat) (f : Window → Window) : (modWin s n f).host.rate = s.host.rate := rfl
@[simp] theorem modWin_host_width (s : State) (n : Nat) (f : Window → Window) : (modWin s n f).host.width = s.host.width := rfl
@[simp] theorem modWin_host_flitMode (s : State) (n : Nat) (f : Window → Window) : (modWin s n f).host.flitMode = s.host.flitMode := rfl
@[simp] theorem modWin_host_retryStatus (s : State) (n : Nat) (f : Window → Window) : (modWin s n f).host.retryStatus = s.host.retryStatus := rfl
@[simp] theorem modWin_host_vfEnable (s : State) (n : Nat) (f : Window → Window) : (modWin s n f).host.vfEnable = s.host.vfEnable := rfl
@[simp] theorem modWin_host_numVfs (s : State) (n : Nat) (f : Window → Window) : (modWin s n f).host.numVfs = s.host.numVfs := rfl
@[simp] theorem modWin_host_bar4 (s : State) (n : Nat) (f : Window → Window) : (modWin s n f).host.bar4 = s.host.bar4 := rfl
@[simp] theorem modWin_host_fns (s : State) (n : Nat) (f : Window → Window) : (modWin s n f).host.fns = s.host.fns := rfl
@[simp] theorem modWin_host_windows (s : State) (n : Nat) (f : Window → Window) : (modWin s n f).host.windows = tput s.host.windows n (f (winOf s n)) := rfl
@[simp] theorem modWin_host_tenants (s : State) (n : Nat) (f : Window → Window) : (modWin s n f).host.tenants = s.host.tenants := rfl
@[simp] theorem modWin_host_reads (s : State) (n : Nat) (f : Window → Window) : (modWin s n f).host.reads = s.host.reads := rfl
@[simp] theorem modWin_host_nextReq (s : State) (n : Nat) (f : Window → Window) : (modWin s n f).host.nextReq = s.host.nextReq := rfl

/-! ### setTracker -/

@[simp] theorem setTracker_pending (s : State) (i : Nat) (x : Tracker) : (setTracker s i x).pending = s.pending := rfl
@[simp] theorem setTracker_freeCount (s : State) (i : Nat) (x : Tracker) : (setTracker s i x).freeCount = s.freeCount := rfl
@[simp] theorem setTracker_outputs (s : State) (i : Nat) (x : Tracker) : (setTracker s i x).outputs = s.outputs := rfl
@[simp] theorem setTracker_pins (s : State) (i : Nat) (x : Tracker) : (setTracker s i x).pins = s.pins := rfl
@[simp] theorem setTracker_gaffer (s : State) (i : Nat) (x : Tracker) : (setTracker s i x).gaffer = s.gaffer := rfl
@[simp] theorem setTracker_fuses (s : State) (i : Nat) (x : Tracker) : (setTracker s i x).fuses = s.fuses := rfl
@[simp] theorem setTracker_log (s : State) (i : Nat) (x : Tracker) : (setTracker s i x).log = s.log := rfl
@[simp] theorem setTracker_dict (s : State) (i : Nat) (x : Tracker) : (setTracker s i x).dict = s.dict := rfl
@[simp] theorem setTracker_power (s : State) (i : Nat) (x : Tracker) : (setTracker s i x).power = s.power := rfl
@[simp] theorem setTracker_ageing (s : State) (i : Nat) (x : Tracker) : (setTracker s i x).ageing = s.ageing := rfl
@[simp] theorem setTracker_fabric (s : State) (i : Nat) (x : Tracker) : (setTracker s i x).fabric = s.fabric := rfl
@[simp] theorem setTracker_mem (s : State) (i : Nat) (x : Tracker) : (setTracker s i x).mem = s.mem := rfl
@[simp] theorem setTracker_cores (s : State) (i : Nat) (x : Tracker) : (setTracker s i x).cores = s.cores := rfl
@[simp] theorem setTracker_groups (s : State) (i : Nat) (x : Tracker) : (setTracker s i x).groups = s.groups := rfl
@[simp] theorem setTracker_reels (s : State) (i : Nat) (x : Tracker) : (setTracker s i x).reels = s.reels := rfl
@[simp] theorem setTracker_slate (s : State) (i : Nat) (x : Tracker) : (setTracker s i x).slate = s.slate := rfl
@[simp] theorem setTracker_net (s : State) (i : Nat) (x : Tracker) : (setTracker s i x).net = s.net := rfl
@[simp] theorem setTracker_host (s : State) (i : Nat) (x : Tracker) : (setTracker s i x).host = s.host := rfl
@[simp] theorem setTracker_can (s : State) (i : Nat) (x : Tracker) : (setTracker s i x).can = s.can := rfl
@[simp] theorem setTracker_spi (s : State) (i : Nat) (x : Tracker) : (setTracker s i x).spi = s.spi := rfl
@[simp] theorem setTracker_flash (s : State) (i : Nat) (x : Tracker) : (setTracker s i x).flash = s.flash := rfl
@[simp] theorem setTracker_i2c (s : State) (i : Nat) (x : Tracker) : (setTracker s i x).i2c = s.i2c := rfl
@[simp] theorem setTracker_serving_used (s : State) (i : Nat) (x : Tracker) : (setTracker s i x).serving.used = s.serving.used := rfl
@[simp] theorem setTracker_serving_bounds (s : State) (i : Nat) (x : Tracker) : (setTracker s i x).serving.bounds = s.serving.bounds := rfl
@[simp] theorem setTracker_serving_pools (s : State) (i : Nat) (x : Tracker) : (setTracker s i x).serving.pools = s.serving.pools := rfl
@[simp] theorem setTracker_serving_ticket (s : State) (i : Nat) (x : Tracker) : (setTracker s i x).serving.ticket = s.serving.ticket := rfl
@[simp] theorem setTracker_serving_boards (s : State) (i : Nat) (x : Tracker) : (setTracker s i x).serving.boards = s.serving.boards := rfl

/-! ### modTracker -/

@[simp] theorem modTracker_pending (s : State) (i : Nat) (f : Tracker → Tracker) : (modTracker s i f).pending = s.pending := rfl
@[simp] theorem modTracker_freeCount (s : State) (i : Nat) (f : Tracker → Tracker) : (modTracker s i f).freeCount = s.freeCount := rfl
@[simp] theorem modTracker_outputs (s : State) (i : Nat) (f : Tracker → Tracker) : (modTracker s i f).outputs = s.outputs := rfl
@[simp] theorem modTracker_pins (s : State) (i : Nat) (f : Tracker → Tracker) : (modTracker s i f).pins = s.pins := rfl
@[simp] theorem modTracker_gaffer (s : State) (i : Nat) (f : Tracker → Tracker) : (modTracker s i f).gaffer = s.gaffer := rfl
@[simp] theorem modTracker_fuses (s : State) (i : Nat) (f : Tracker → Tracker) : (modTracker s i f).fuses = s.fuses := rfl
@[simp] theorem modTracker_log (s : State) (i : Nat) (f : Tracker → Tracker) : (modTracker s i f).log = s.log := rfl
@[simp] theorem modTracker_dict (s : State) (i : Nat) (f : Tracker → Tracker) : (modTracker s i f).dict = s.dict := rfl
@[simp] theorem modTracker_power (s : State) (i : Nat) (f : Tracker → Tracker) : (modTracker s i f).power = s.power := rfl
@[simp] theorem modTracker_ageing (s : State) (i : Nat) (f : Tracker → Tracker) : (modTracker s i f).ageing = s.ageing := rfl
@[simp] theorem modTracker_fabric (s : State) (i : Nat) (f : Tracker → Tracker) : (modTracker s i f).fabric = s.fabric := rfl
@[simp] theorem modTracker_mem (s : State) (i : Nat) (f : Tracker → Tracker) : (modTracker s i f).mem = s.mem := rfl
@[simp] theorem modTracker_cores (s : State) (i : Nat) (f : Tracker → Tracker) : (modTracker s i f).cores = s.cores := rfl
@[simp] theorem modTracker_groups (s : State) (i : Nat) (f : Tracker → Tracker) : (modTracker s i f).groups = s.groups := rfl
@[simp] theorem modTracker_reels (s : State) (i : Nat) (f : Tracker → Tracker) : (modTracker s i f).reels = s.reels := rfl
@[simp] theorem modTracker_slate (s : State) (i : Nat) (f : Tracker → Tracker) : (modTracker s i f).slate = s.slate := rfl
@[simp] theorem modTracker_net (s : State) (i : Nat) (f : Tracker → Tracker) : (modTracker s i f).net = s.net := rfl
@[simp] theorem modTracker_host (s : State) (i : Nat) (f : Tracker → Tracker) : (modTracker s i f).host = s.host := rfl
@[simp] theorem modTracker_can (s : State) (i : Nat) (f : Tracker → Tracker) : (modTracker s i f).can = s.can := rfl
@[simp] theorem modTracker_spi (s : State) (i : Nat) (f : Tracker → Tracker) : (modTracker s i f).spi = s.spi := rfl
@[simp] theorem modTracker_flash (s : State) (i : Nat) (f : Tracker → Tracker) : (modTracker s i f).flash = s.flash := rfl
@[simp] theorem modTracker_i2c (s : State) (i : Nat) (f : Tracker → Tracker) : (modTracker s i f).i2c = s.i2c := rfl
@[simp] theorem modTracker_serving_used (s : State) (i : Nat) (f : Tracker → Tracker) : (modTracker s i f).serving.used = s.serving.used := rfl
@[simp] theorem modTracker_serving_bounds (s : State) (i : Nat) (f : Tracker → Tracker) : (modTracker s i f).serving.bounds = s.serving.bounds := rfl
@[simp] theorem modTracker_serving_pools (s : State) (i : Nat) (f : Tracker → Tracker) : (modTracker s i f).serving.pools = s.serving.pools := rfl
@[simp] theorem modTracker_serving_ticket (s : State) (i : Nat) (f : Tracker → Tracker) : (modTracker s i f).serving.ticket = s.serving.ticket := rfl
@[simp] theorem modTracker_serving_boards (s : State) (i : Nat) (f : Tracker → Tracker) : (modTracker s i f).serving.boards = s.serving.boards := rfl

/-! ### modRing -/

@[simp] theorem modRing_pending (s : State) (k : Nat) (f : RingUse → RingUse) : (modRing s k f).pending = s.pending := rfl
@[simp] theorem modRing_freeCount (s : State) (k : Nat) (f : RingUse → RingUse) : (modRing s k f).freeCount = s.freeCount := rfl
@[simp] theorem modRing_outputs (s : State) (k : Nat) (f : RingUse → RingUse) : (modRing s k f).outputs = s.outputs := rfl
@[simp] theorem modRing_pins (s : State) (k : Nat) (f : RingUse → RingUse) : (modRing s k f).pins = s.pins := rfl
@[simp] theorem modRing_gaffer (s : State) (k : Nat) (f : RingUse → RingUse) : (modRing s k f).gaffer = s.gaffer := rfl
@[simp] theorem modRing_fuses (s : State) (k : Nat) (f : RingUse → RingUse) : (modRing s k f).fuses = s.fuses := rfl
@[simp] theorem modRing_log (s : State) (k : Nat) (f : RingUse → RingUse) : (modRing s k f).log = s.log := rfl
@[simp] theorem modRing_dict (s : State) (k : Nat) (f : RingUse → RingUse) : (modRing s k f).dict = s.dict := rfl
@[simp] theorem modRing_power (s : State) (k : Nat) (f : RingUse → RingUse) : (modRing s k f).power = s.power := rfl
@[simp] theorem modRing_ageing (s : State) (k : Nat) (f : RingUse → RingUse) : (modRing s k f).ageing = s.ageing := rfl
@[simp] theorem modRing_fabric (s : State) (k : Nat) (f : RingUse → RingUse) : (modRing s k f).fabric = s.fabric := rfl
@[simp] theorem modRing_mem (s : State) (k : Nat) (f : RingUse → RingUse) : (modRing s k f).mem = s.mem := rfl
@[simp] theorem modRing_cores (s : State) (k : Nat) (f : RingUse → RingUse) : (modRing s k f).cores = s.cores := rfl
@[simp] theorem modRing_groups (s : State) (k : Nat) (f : RingUse → RingUse) : (modRing s k f).groups = s.groups := rfl
@[simp] theorem modRing_serving (s : State) (k : Nat) (f : RingUse → RingUse) : (modRing s k f).serving = s.serving := rfl
@[simp] theorem modRing_slate (s : State) (k : Nat) (f : RingUse → RingUse) : (modRing s k f).slate = s.slate := rfl
@[simp] theorem modRing_net (s : State) (k : Nat) (f : RingUse → RingUse) : (modRing s k f).net = s.net := rfl
@[simp] theorem modRing_host (s : State) (k : Nat) (f : RingUse → RingUse) : (modRing s k f).host = s.host := rfl
@[simp] theorem modRing_can (s : State) (k : Nat) (f : RingUse → RingUse) : (modRing s k f).can = s.can := rfl
@[simp] theorem modRing_spi (s : State) (k : Nat) (f : RingUse → RingUse) : (modRing s k f).spi = s.spi := rfl
@[simp] theorem modRing_flash (s : State) (k : Nat) (f : RingUse → RingUse) : (modRing s k f).flash = s.flash := rfl
@[simp] theorem modRing_i2c (s : State) (k : Nat) (f : RingUse → RingUse) : (modRing s k f).i2c = s.i2c := rfl
@[simp] theorem modRing_reels_slices (s : State) (k : Nat) (f : RingUse → RingUse) : (modRing s k f).reels.slices = s.reels.slices := rfl
@[simp] theorem modRing_reels_sources (s : State) (k : Nat) (f : RingUse → RingUse) : (modRing s k f).reels.sources = s.reels.sources := rfl
@[simp] theorem modRing_reels_bankA (s : State) (k : Nat) (f : RingUse → RingUse) : (modRing s k f).reels.bankA = s.reels.bankA := rfl
@[simp] theorem modRing_reels_bankB (s : State) (k : Nat) (f : RingUse → RingUse) : (modRing s k f).reels.bankB = s.reels.bankB := rfl
@[simp] theorem modRing_reels_posted (s : State) (k : Nat) (f : RingUse → RingUse) : (modRing s k f).reels.posted = s.reels.posted := rfl
@[simp] theorem modRing_reels_anyPosted (s : State) (k : Nat) (f : RingUse → RingUse) : (modRing s k f).reels.anyPosted = s.reels.anyPosted := rfl
@[simp] theorem modRing_reels_share (s : State) (k : Nat) (f : RingUse → RingUse) : (modRing s k f).reels.share = s.reels.share := rfl
@[simp] theorem modRing_reels_policy (s : State) (k : Nat) (f : RingUse → RingUse) : (modRing s k f).reels.policy = s.reels.policy := rfl
@[simp] theorem modRing_reels_queue (s : State) (k : Nat) (f : RingUse → RingUse) : (modRing s k f).reels.queue = s.reels.queue := rfl
@[simp] theorem modRing_reels_rings (s : State) (k : Nat) (f : RingUse → RingUse) : (modRing s k f).reels.rings = tput s.reels.rings k (f (ringOf s k)) := rfl
@[simp] theorem modRing_reels_arriving (s : State) (k : Nat) (f : RingUse → RingUse) : (modRing s k f).reels.arriving = s.reels.arriving := rfl
@[simp] theorem modRing_reels_unplaced (s : State) (k : Nat) (f : RingUse → RingUse) : (modRing s k f).reels.unplaced = s.reels.unplaced := rfl

/-! ### modMem -/

@[simp] theorem modMem_pending (s : State) (f : Mem → Mem) : (modMem s f).pending = s.pending := rfl
@[simp] theorem modMem_freeCount (s : State) (f : Mem → Mem) : (modMem s f).freeCount = s.freeCount := rfl
@[simp] theorem modMem_outputs (s : State) (f : Mem → Mem) : (modMem s f).outputs = s.outputs := rfl
@[simp] theorem modMem_pins (s : State) (f : Mem → Mem) : (modMem s f).pins = s.pins := rfl
@[simp] theorem modMem_gaffer (s : State) (f : Mem → Mem) : (modMem s f).gaffer = s.gaffer := rfl
@[simp] theorem modMem_fuses (s : State) (f : Mem → Mem) : (modMem s f).fuses = s.fuses := rfl
@[simp] theorem modMem_log (s : State) (f : Mem → Mem) : (modMem s f).log = s.log := rfl
@[simp] theorem modMem_dict (s : State) (f : Mem → Mem) : (modMem s f).dict = s.dict := rfl
@[simp] theorem modMem_power (s : State) (f : Mem → Mem) : (modMem s f).power = s.power := rfl
@[simp] theorem modMem_ageing (s : State) (f : Mem → Mem) : (modMem s f).ageing = s.ageing := rfl
@[simp] theorem modMem_fabric (s : State) (f : Mem → Mem) : (modMem s f).fabric = s.fabric := rfl
@[simp] theorem modMem_cores (s : State) (f : Mem → Mem) : (modMem s f).cores = s.cores := rfl
@[simp] theorem modMem_groups (s : State) (f : Mem → Mem) : (modMem s f).groups = s.groups := rfl
@[simp] theorem modMem_serving (s : State) (f : Mem → Mem) : (modMem s f).serving = s.serving := rfl
@[simp] theorem modMem_reels (s : State) (f : Mem → Mem) : (modMem s f).reels = s.reels := rfl
@[simp] theorem modMem_slate (s : State) (f : Mem → Mem) : (modMem s f).slate = s.slate := rfl
@[simp] theorem modMem_net (s : State) (f : Mem → Mem) : (modMem s f).net = s.net := rfl
@[simp] theorem modMem_host (s : State) (f : Mem → Mem) : (modMem s f).host = s.host := rfl
@[simp] theorem modMem_can (s : State) (f : Mem → Mem) : (modMem s f).can = s.can := rfl
@[simp] theorem modMem_spi (s : State) (f : Mem → Mem) : (modMem s f).spi = s.spi := rfl
@[simp] theorem modMem_flash (s : State) (f : Mem → Mem) : (modMem s f).flash = s.flash := rfl
@[simp] theorem modMem_i2c (s : State) (f : Mem → Mem) : (modMem s f).i2c = s.i2c := rfl
@[simp] theorem modMem_mem (s : State) (f : Mem → Mem) : (modMem s f).mem = f s.mem := rfl

/-! ### modDict -/

@[simp] theorem modDict_pending (s : State) (f : Dict → Dict) : (modDict s f).pending = s.pending := rfl
@[simp] theorem modDict_freeCount (s : State) (f : Dict → Dict) : (modDict s f).freeCount = s.freeCount := rfl
@[simp] theorem modDict_outputs (s : State) (f : Dict → Dict) : (modDict s f).outputs = s.outputs := rfl
@[simp] theorem modDict_pins (s : State) (f : Dict → Dict) : (modDict s f).pins = s.pins := rfl
@[simp] theorem modDict_gaffer (s : State) (f : Dict → Dict) : (modDict s f).gaffer = s.gaffer := rfl
@[simp] theorem modDict_fuses (s : State) (f : Dict → Dict) : (modDict s f).fuses = s.fuses := rfl
@[simp] theorem modDict_log (s : State) (f : Dict → Dict) : (modDict s f).log = s.log := rfl
@[simp] theorem modDict_power (s : State) (f : Dict → Dict) : (modDict s f).power = s.power := rfl
@[simp] theorem modDict_ageing (s : State) (f : Dict → Dict) : (modDict s f).ageing = s.ageing := rfl
@[simp] theorem modDict_fabric (s : State) (f : Dict → Dict) : (modDict s f).fabric = s.fabric := rfl
@[simp] theorem modDict_mem (s : State) (f : Dict → Dict) : (modDict s f).mem = s.mem := rfl
@[simp] theorem modDict_cores (s : State) (f : Dict → Dict) : (modDict s f).cores = s.cores := rfl
@[simp] theorem modDict_groups (s : State) (f : Dict → Dict) : (modDict s f).groups = s.groups := rfl
@[simp] theorem modDict_serving (s : State) (f : Dict → Dict) : (modDict s f).serving = s.serving := rfl
@[simp] theorem modDict_reels (s : State) (f : Dict → Dict) : (modDict s f).reels = s.reels := rfl
@[simp] theorem modDict_slate (s : State) (f : Dict → Dict) : (modDict s f).slate = s.slate := rfl
@[simp] theorem modDict_net (s : State) (f : Dict → Dict) : (modDict s f).net = s.net := rfl
@[simp] theorem modDict_host (s : State) (f : Dict → Dict) : (modDict s f).host = s.host := rfl
@[simp] theorem modDict_can (s : State) (f : Dict → Dict) : (modDict s f).can = s.can := rfl
@[simp] theorem modDict_spi (s : State) (f : Dict → Dict) : (modDict s f).spi = s.spi := rfl
@[simp] theorem modDict_flash (s : State) (f : Dict → Dict) : (modDict s f).flash = s.flash := rfl
@[simp] theorem modDict_i2c (s : State) (f : Dict → Dict) : (modDict s f).i2c = s.i2c := rfl
@[simp] theorem modDict_dict (s : State) (f : Dict → Dict) : (modDict s f).dict = f s.dict := rfl

/-! ### modJournal -/

@[simp] theorem modJournal_pending (s : State) (f : Journal → Journal) : (modJournal s f).pending = s.pending := rfl
@[simp] theorem modJournal_freeCount (s : State) (f : Journal → Journal) : (modJournal s f).freeCount = s.freeCount := rfl
@[simp] theorem modJournal_outputs (s : State) (f : Journal → Journal) : (modJournal s f).outputs = s.outputs := rfl
@[simp] theorem modJournal_pins (s : State) (f : Journal → Journal) : (modJournal s f).pins = s.pins := rfl
@[simp] theorem modJournal_gaffer (s : State) (f : Journal → Journal) : (modJournal s f).gaffer = s.gaffer := rfl
@[simp] theorem modJournal_fuses (s : State) (f : Journal → Journal) : (modJournal s f).fuses = s.fuses := rfl
@[simp] theorem modJournal_log (s : State) (f : Journal → Journal) : (modJournal s f).log = s.log := rfl
@[simp] theorem modJournal_power (s : State) (f : Journal → Journal) : (modJournal s f).power = s.power := rfl
@[simp] theorem modJournal_ageing (s : State) (f : Journal → Journal) : (modJournal s f).ageing = s.ageing := rfl
@[simp] theorem modJournal_fabric (s : State) (f : Journal → Journal) : (modJournal s f).fabric = s.fabric := rfl
@[simp] theorem modJournal_mem (s : State) (f : Journal → Journal) : (modJournal s f).mem = s.mem := rfl
@[simp] theorem modJournal_cores (s : State) (f : Journal → Journal) : (modJournal s f).cores = s.cores := rfl
@[simp] theorem modJournal_groups (s : State) (f : Journal → Journal) : (modJournal s f).groups = s.groups := rfl
@[simp] theorem modJournal_serving (s : State) (f : Journal → Journal) : (modJournal s f).serving = s.serving := rfl
@[simp] theorem modJournal_reels (s : State) (f : Journal → Journal) : (modJournal s f).reels = s.reels := rfl
@[simp] theorem modJournal_slate (s : State) (f : Journal → Journal) : (modJournal s f).slate = s.slate := rfl
@[simp] theorem modJournal_net (s : State) (f : Journal → Journal) : (modJournal s f).net = s.net := rfl
@[simp] theorem modJournal_host (s : State) (f : Journal → Journal) : (modJournal s f).host = s.host := rfl
@[simp] theorem modJournal_can (s : State) (f : Journal → Journal) : (modJournal s f).can = s.can := rfl
@[simp] theorem modJournal_spi (s : State) (f : Journal → Journal) : (modJournal s f).spi = s.spi := rfl
@[simp] theorem modJournal_flash (s : State) (f : Journal → Journal) : (modJournal s f).flash = s.flash := rfl
@[simp] theorem modJournal_i2c (s : State) (f : Journal → Journal) : (modJournal s f).i2c = s.i2c := rfl
@[simp] theorem modJournal_dict_vals (s : State) (f : Journal → Journal) : (modJournal s f).dict.vals = s.dict.vals := rfl
@[simp] theorem modJournal_dict_pend (s : State) (f : Journal → Journal) : (modJournal s f).dict.pend = s.dict.pend := rfl
@[simp] theorem modJournal_dict_counts (s : State) (f : Journal → Journal) : (modJournal s f).dict.counts = s.dict.counts := rfl
@[simp] theorem modJournal_dict_latched (s : State) (f : Journal → Journal) : (modJournal s f).dict.latched = s.dict.latched := rfl
@[simp] theorem modJournal_dict_stages (s : State) (f : Journal → Journal) : (modJournal s f).dict.stages = s.dict.stages := rfl
@[simp] theorem modJournal_dict_expired (s : State) (f : Journal → Journal) : (modJournal s f).dict.expired = s.dict.expired := rfl
@[simp] theorem modJournal_dict_claims (s : State) (f : Journal → Journal) : (modJournal s f).dict.claims = s.dict.claims := rfl
@[simp] theorem modJournal_dict_response (s : State) (f : Journal → Journal) : (modJournal s f).dict.response = s.dict.response := rfl
@[simp] theorem modJournal_dict_awaiting (s : State) (f : Journal → Journal) : (modJournal s f).dict.awaiting = s.dict.awaiting := rfl
@[simp] theorem modJournal_dict_queued (s : State) (f : Journal → Journal) : (modJournal s f).dict.queued = s.dict.queued := rfl
@[simp] theorem modJournal_dict_journal (s : State) (f : Journal → Journal) : (modJournal s f).dict.journal = f s.dict.journal := rfl

/-! ### modPower -/

@[simp] theorem modPower_pending (s : State) (f : Power → Power) : (modPower s f).pending = s.pending := rfl
@[simp] theorem modPower_freeCount (s : State) (f : Power → Power) : (modPower s f).freeCount = s.freeCount := rfl
@[simp] theorem modPower_outputs (s : State) (f : Power → Power) : (modPower s f).outputs = s.outputs := rfl
@[simp] theorem modPower_pins (s : State) (f : Power → Power) : (modPower s f).pins = s.pins := rfl
@[simp] theorem modPower_gaffer (s : State) (f : Power → Power) : (modPower s f).gaffer = s.gaffer := rfl
@[simp] theorem modPower_fuses (s : State) (f : Power → Power) : (modPower s f).fuses = s.fuses := rfl
@[simp] theorem modPower_log (s : State) (f : Power → Power) : (modPower s f).log = s.log := rfl
@[simp] theorem modPower_dict (s : State) (f : Power → Power) : (modPower s f).dict = s.dict := rfl
@[simp] theorem modPower_ageing (s : State) (f : Power → Power) : (modPower s f).ageing = s.ageing := rfl
@[simp] theorem modPower_fabric (s : State) (f : Power → Power) : (modPower s f).fabric = s.fabric := rfl
@[simp] theorem modPower_mem (s : State) (f : Power → Power) : (modPower s f).mem = s.mem := rfl
@[simp] theorem modPower_cores (s : State) (f : Power → Power) : (modPower s f).cores = s.cores := rfl
@[simp] theorem modPower_groups (s : State) (f : Power → Power) : (modPower s f).groups = s.groups := rfl
@[simp] theorem modPower_serving (s : State) (f : Power → Power) : (modPower s f).serving = s.serving := rfl
@[simp] theorem modPower_reels (s : State) (f : Power → Power) : (modPower s f).reels = s.reels := rfl
@[simp] theorem modPower_slate (s : State) (f : Power → Power) : (modPower s f).slate = s.slate := rfl
@[simp] theorem modPower_net (s : State) (f : Power → Power) : (modPower s f).net = s.net := rfl
@[simp] theorem modPower_host (s : State) (f : Power → Power) : (modPower s f).host = s.host := rfl
@[simp] theorem modPower_can (s : State) (f : Power → Power) : (modPower s f).can = s.can := rfl
@[simp] theorem modPower_spi (s : State) (f : Power → Power) : (modPower s f).spi = s.spi := rfl
@[simp] theorem modPower_flash (s : State) (f : Power → Power) : (modPower s f).flash = s.flash := rfl
@[simp] theorem modPower_i2c (s : State) (f : Power → Power) : (modPower s f).i2c = s.i2c := rfl
@[simp] theorem modPower_power (s : State) (f : Power → Power) : (modPower s f).power = f s.power := rfl

/-! ### modGaffer -/

@[simp] theorem modGaffer_pending (s : State) (f : Gaffer → Gaffer) : (modGaffer s f).pending = s.pending := rfl
@[simp] theorem modGaffer_freeCount (s : State) (f : Gaffer → Gaffer) : (modGaffer s f).freeCount = s.freeCount := rfl
@[simp] theorem modGaffer_outputs (s : State) (f : Gaffer → Gaffer) : (modGaffer s f).outputs = s.outputs := rfl
@[simp] theorem modGaffer_pins (s : State) (f : Gaffer → Gaffer) : (modGaffer s f).pins = s.pins := rfl
@[simp] theorem modGaffer_fuses (s : State) (f : Gaffer → Gaffer) : (modGaffer s f).fuses = s.fuses := rfl
@[simp] theorem modGaffer_log (s : State) (f : Gaffer → Gaffer) : (modGaffer s f).log = s.log := rfl
@[simp] theorem modGaffer_dict (s : State) (f : Gaffer → Gaffer) : (modGaffer s f).dict = s.dict := rfl
@[simp] theorem modGaffer_power (s : State) (f : Gaffer → Gaffer) : (modGaffer s f).power = s.power := rfl
@[simp] theorem modGaffer_ageing (s : State) (f : Gaffer → Gaffer) : (modGaffer s f).ageing = s.ageing := rfl
@[simp] theorem modGaffer_fabric (s : State) (f : Gaffer → Gaffer) : (modGaffer s f).fabric = s.fabric := rfl
@[simp] theorem modGaffer_mem (s : State) (f : Gaffer → Gaffer) : (modGaffer s f).mem = s.mem := rfl
@[simp] theorem modGaffer_cores (s : State) (f : Gaffer → Gaffer) : (modGaffer s f).cores = s.cores := rfl
@[simp] theorem modGaffer_groups (s : State) (f : Gaffer → Gaffer) : (modGaffer s f).groups = s.groups := rfl
@[simp] theorem modGaffer_serving (s : State) (f : Gaffer → Gaffer) : (modGaffer s f).serving = s.serving := rfl
@[simp] theorem modGaffer_reels (s : State) (f : Gaffer → Gaffer) : (modGaffer s f).reels = s.reels := rfl
@[simp] theorem modGaffer_slate (s : State) (f : Gaffer → Gaffer) : (modGaffer s f).slate = s.slate := rfl
@[simp] theorem modGaffer_net (s : State) (f : Gaffer → Gaffer) : (modGaffer s f).net = s.net := rfl
@[simp] theorem modGaffer_host (s : State) (f : Gaffer → Gaffer) : (modGaffer s f).host = s.host := rfl
@[simp] theorem modGaffer_can (s : State) (f : Gaffer → Gaffer) : (modGaffer s f).can = s.can := rfl
@[simp] theorem modGaffer_spi (s : State) (f : Gaffer → Gaffer) : (modGaffer s f).spi = s.spi := rfl
@[simp] theorem modGaffer_flash (s : State) (f : Gaffer → Gaffer) : (modGaffer s f).flash = s.flash := rfl
@[simp] theorem modGaffer_i2c (s : State) (f : Gaffer → Gaffer) : (modGaffer s f).i2c = s.i2c := rfl
@[simp] theorem modGaffer_gaffer (s : State) (f : Gaffer → Gaffer) : (modGaffer s f).gaffer = f s.gaffer := rfl

/-! ### modFabric -/

@[simp] theorem modFabric_pending (s : State) (f : Fabric → Fabric) : (modFabric s f).pending = s.pending := rfl
@[simp] theorem modFabric_freeCount (s : State) (f : Fabric → Fabric) : (modFabric s f).freeCount = s.freeCount := rfl
@[simp] theorem modFabric_outputs (s : State) (f : Fabric → Fabric) : (modFabric s f).outputs = s.outputs := rfl
@[simp] theorem modFabric_pins (s : State) (f : Fabric → Fabric) : (modFabric s f).pins = s.pins := rfl
@[simp] theorem modFabric_gaffer (s : State) (f : Fabric → Fabric) : (modFabric s f).gaffer = s.gaffer := rfl
@[simp] theorem modFabric_fuses (s : State) (f : Fabric → Fabric) : (modFabric s f).fuses = s.fuses := rfl
@[simp] theorem modFabric_log (s : State) (f : Fabric → Fabric) : (modFabric s f).log = s.log := rfl
@[simp] theorem modFabric_dict (s : State) (f : Fabric → Fabric) : (modFabric s f).dict = s.dict := rfl
@[simp] theorem modFabric_power (s : State) (f : Fabric → Fabric) : (modFabric s f).power = s.power := rfl
@[simp] theorem modFabric_ageing (s : State) (f : Fabric → Fabric) : (modFabric s f).ageing = s.ageing := rfl
@[simp] theorem modFabric_mem (s : State) (f : Fabric → Fabric) : (modFabric s f).mem = s.mem := rfl
@[simp] theorem modFabric_cores (s : State) (f : Fabric → Fabric) : (modFabric s f).cores = s.cores := rfl
@[simp] theorem modFabric_groups (s : State) (f : Fabric → Fabric) : (modFabric s f).groups = s.groups := rfl
@[simp] theorem modFabric_serving (s : State) (f : Fabric → Fabric) : (modFabric s f).serving = s.serving := rfl
@[simp] theorem modFabric_reels (s : State) (f : Fabric → Fabric) : (modFabric s f).reels = s.reels := rfl
@[simp] theorem modFabric_slate (s : State) (f : Fabric → Fabric) : (modFabric s f).slate = s.slate := rfl
@[simp] theorem modFabric_net (s : State) (f : Fabric → Fabric) : (modFabric s f).net = s.net := rfl
@[simp] theorem modFabric_host (s : State) (f : Fabric → Fabric) : (modFabric s f).host = s.host := rfl
@[simp] theorem modFabric_can (s : State) (f : Fabric → Fabric) : (modFabric s f).can = s.can := rfl
@[simp] theorem modFabric_spi (s : State) (f : Fabric → Fabric) : (modFabric s f).spi = s.spi := rfl
@[simp] theorem modFabric_flash (s : State) (f : Fabric → Fabric) : (modFabric s f).flash = s.flash := rfl
@[simp] theorem modFabric_i2c (s : State) (f : Fabric → Fabric) : (modFabric s f).i2c = s.i2c := rfl
@[simp] theorem modFabric_fabric (s : State) (f : Fabric → Fabric) : (modFabric s f).fabric = f s.fabric := rfl

/-! ### modReels -/

@[simp] theorem modReels_pending (s : State) (f : Reels → Reels) : (modReels s f).pending = s.pending := rfl
@[simp] theorem modReels_freeCount (s : State) (f : Reels → Reels) : (modReels s f).freeCount = s.freeCount := rfl
@[simp] theorem modReels_outputs (s : State) (f : Reels → Reels) : (modReels s f).outputs = s.outputs := rfl
@[simp] theorem modReels_pins (s : State) (f : Reels → Reels) : (modReels s f).pins = s.pins := rfl
@[simp] theorem modReels_gaffer (s : State) (f : Reels → Reels) : (modReels s f).gaffer = s.gaffer := rfl
@[simp] theorem modReels_fuses (s : State) (f : Reels → Reels) : (modReels s f).fuses = s.fuses := rfl
@[simp] theorem modReels_log (s : State) (f : Reels → Reels) : (modReels s f).log = s.log := rfl
@[simp] theorem modReels_dict (s : State) (f : Reels → Reels) : (modReels s f).dict = s.dict := rfl
@[simp] theorem modReels_power (s : State) (f : Reels → Reels) : (modReels s f).power = s.power := rfl
@[simp] theorem modReels_ageing (s : State) (f : Reels → Reels) : (modReels s f).ageing = s.ageing := rfl
@[simp] theorem modReels_fabric (s : State) (f : Reels → Reels) : (modReels s f).fabric = s.fabric := rfl
@[simp] theorem modReels_mem (s : State) (f : Reels → Reels) : (modReels s f).mem = s.mem := rfl
@[simp] theorem modReels_cores (s : State) (f : Reels → Reels) : (modReels s f).cores = s.cores := rfl
@[simp] theorem modReels_groups (s : State) (f : Reels → Reels) : (modReels s f).groups = s.groups := rfl
@[simp] theorem modReels_serving (s : State) (f : Reels → Reels) : (modReels s f).serving = s.serving := rfl
@[simp] theorem modReels_slate (s : State) (f : Reels → Reels) : (modReels s f).slate = s.slate := rfl
@[simp] theorem modReels_net (s : State) (f : Reels → Reels) : (modReels s f).net = s.net := rfl
@[simp] theorem modReels_host (s : State) (f : Reels → Reels) : (modReels s f).host = s.host := rfl
@[simp] theorem modReels_can (s : State) (f : Reels → Reels) : (modReels s f).can = s.can := rfl
@[simp] theorem modReels_spi (s : State) (f : Reels → Reels) : (modReels s f).spi = s.spi := rfl
@[simp] theorem modReels_flash (s : State) (f : Reels → Reels) : (modReels s f).flash = s.flash := rfl
@[simp] theorem modReels_i2c (s : State) (f : Reels → Reels) : (modReels s f).i2c = s.i2c := rfl
@[simp] theorem modReels_reels (s : State) (f : Reels → Reels) : (modReels s f).reels = f s.reels := rfl

/-! ### modSlate -/

@[simp] theorem modSlate_pending (s : State) (f : Slate → Slate) : (modSlate s f).pending = s.pending := rfl
@[simp] theorem modSlate_freeCount (s : State) (f : Slate → Slate) : (modSlate s f).freeCount = s.freeCount := rfl
@[simp] theorem modSlate_outputs (s : State) (f : Slate → Slate) : (modSlate s f).outputs = s.outputs := rfl
@[simp] theorem modSlate_pins (s : State) (f : Slate → Slate) : (modSlate s f).pins = s.pins := rfl
@[simp] theorem modSlate_gaffer (s : State) (f : Slate → Slate) : (modSlate s f).gaffer = s.gaffer := rfl
@[simp] theorem modSlate_fuses (s : State) (f : Slate → Slate) : (modSlate s f).fuses = s.fuses := rfl
@[simp] theorem modSlate_log (s : State) (f : Slate → Slate) : (modSlate s f).log = s.log := rfl
@[simp] theorem modSlate_dict (s : State) (f : Slate → Slate) : (modSlate s f).dict = s.dict := rfl
@[simp] theorem modSlate_power (s : State) (f : Slate → Slate) : (modSlate s f).power = s.power := rfl
@[simp] theorem modSlate_ageing (s : State) (f : Slate → Slate) : (modSlate s f).ageing = s.ageing := rfl
@[simp] theorem modSlate_fabric (s : State) (f : Slate → Slate) : (modSlate s f).fabric = s.fabric := rfl
@[simp] theorem modSlate_mem (s : State) (f : Slate → Slate) : (modSlate s f).mem = s.mem := rfl
@[simp] theorem modSlate_cores (s : State) (f : Slate → Slate) : (modSlate s f).cores = s.cores := rfl
@[simp] theorem modSlate_groups (s : State) (f : Slate → Slate) : (modSlate s f).groups = s.groups := rfl
@[simp] theorem modSlate_serving (s : State) (f : Slate → Slate) : (modSlate s f).serving = s.serving := rfl
@[simp] theorem modSlate_reels (s : State) (f : Slate → Slate) : (modSlate s f).reels = s.reels := rfl
@[simp] theorem modSlate_net (s : State) (f : Slate → Slate) : (modSlate s f).net = s.net := rfl
@[simp] theorem modSlate_host (s : State) (f : Slate → Slate) : (modSlate s f).host = s.host := rfl
@[simp] theorem modSlate_can (s : State) (f : Slate → Slate) : (modSlate s f).can = s.can := rfl
@[simp] theorem modSlate_spi (s : State) (f : Slate → Slate) : (modSlate s f).spi = s.spi := rfl
@[simp] theorem modSlate_flash (s : State) (f : Slate → Slate) : (modSlate s f).flash = s.flash := rfl
@[simp] theorem modSlate_i2c (s : State) (f : Slate → Slate) : (modSlate s f).i2c = s.i2c := rfl
@[simp] theorem modSlate_slate (s : State) (f : Slate → Slate) : (modSlate s f).slate = f s.slate := rfl

/-! ### modNet -/

@[simp] theorem modNet_pending (s : State) (f : Net → Net) : (modNet s f).pending = s.pending := rfl
@[simp] theorem modNet_freeCount (s : State) (f : Net → Net) : (modNet s f).freeCount = s.freeCount := rfl
@[simp] theorem modNet_outputs (s : State) (f : Net → Net) : (modNet s f).outputs = s.outputs := rfl
@[simp] theorem modNet_pins (s : State) (f : Net → Net) : (modNet s f).pins = s.pins := rfl
@[simp] theorem modNet_gaffer (s : State) (f : Net → Net) : (modNet s f).gaffer = s.gaffer := rfl
@[simp] theorem modNet_fuses (s : State) (f : Net → Net) : (modNet s f).fuses = s.fuses := rfl
@[simp] theorem modNet_log (s : State) (f : Net → Net) : (modNet s f).log = s.log := rfl
@[simp] theorem modNet_dict (s : State) (f : Net → Net) : (modNet s f).dict = s.dict := rfl
@[simp] theorem modNet_power (s : State) (f : Net → Net) : (modNet s f).power = s.power := rfl
@[simp] theorem modNet_ageing (s : State) (f : Net → Net) : (modNet s f).ageing = s.ageing := rfl
@[simp] theorem modNet_fabric (s : State) (f : Net → Net) : (modNet s f).fabric = s.fabric := rfl
@[simp] theorem modNet_mem (s : State) (f : Net → Net) : (modNet s f).mem = s.mem := rfl
@[simp] theorem modNet_cores (s : State) (f : Net → Net) : (modNet s f).cores = s.cores := rfl
@[simp] theorem modNet_groups (s : State) (f : Net → Net) : (modNet s f).groups = s.groups := rfl
@[simp] theorem modNet_serving (s : State) (f : Net → Net) : (modNet s f).serving = s.serving := rfl
@[simp] theorem modNet_reels (s : State) (f : Net → Net) : (modNet s f).reels = s.reels := rfl
@[simp] theorem modNet_slate (s : State) (f : Net → Net) : (modNet s f).slate = s.slate := rfl
@[simp] theorem modNet_host (s : State) (f : Net → Net) : (modNet s f).host = s.host := rfl
@[simp] theorem modNet_can (s : State) (f : Net → Net) : (modNet s f).can = s.can := rfl
@[simp] theorem modNet_spi (s : State) (f : Net → Net) : (modNet s f).spi = s.spi := rfl
@[simp] theorem modNet_flash (s : State) (f : Net → Net) : (modNet s f).flash = s.flash := rfl
@[simp] theorem modNet_i2c (s : State) (f : Net → Net) : (modNet s f).i2c = s.i2c := rfl
@[simp] theorem modNet_net (s : State) (f : Net → Net) : (modNet s f).net = f s.net := rfl

/-! ### modHost -/

@[simp] theorem modHost_pending (s : State) (f : HostPort → HostPort) : (modHost s f).pending = s.pending := rfl
@[simp] theorem modHost_freeCount (s : State) (f : HostPort → HostPort) : (modHost s f).freeCount = s.freeCount := rfl
@[simp] theorem modHost_outputs (s : State) (f : HostPort → HostPort) : (modHost s f).outputs = s.outputs := rfl
@[simp] theorem modHost_pins (s : State) (f : HostPort → HostPort) : (modHost s f).pins = s.pins := rfl
@[simp] theorem modHost_gaffer (s : State) (f : HostPort → HostPort) : (modHost s f).gaffer = s.gaffer := rfl
@[simp] theorem modHost_fuses (s : State) (f : HostPort → HostPort) : (modHost s f).fuses = s.fuses := rfl
@[simp] theorem modHost_log (s : State) (f : HostPort → HostPort) : (modHost s f).log = s.log := rfl
@[simp] theorem modHost_dict (s : State) (f : HostPort → HostPort) : (modHost s f).dict = s.dict := rfl
@[simp] theorem modHost_power (s : State) (f : HostPort → HostPort) : (modHost s f).power = s.power := rfl
@[simp] theorem modHost_ageing (s : State) (f : HostPort → HostPort) : (modHost s f).ageing = s.ageing := rfl
@[simp] theorem modHost_fabric (s : State) (f : HostPort → HostPort) : (modHost s f).fabric = s.fabric := rfl
@[simp] theorem modHost_mem (s : State) (f : HostPort → HostPort) : (modHost s f).mem = s.mem := rfl
@[simp] theorem modHost_cores (s : State) (f : HostPort → HostPort) : (modHost s f).cores = s.cores := rfl
@[simp] theorem modHost_groups (s : State) (f : HostPort → HostPort) : (modHost s f).groups = s.groups := rfl
@[simp] theorem modHost_serving (s : State) (f : HostPort → HostPort) : (modHost s f).serving = s.serving := rfl
@[simp] theorem modHost_reels (s : State) (f : HostPort → HostPort) : (modHost s f).reels = s.reels := rfl
@[simp] theorem modHost_slate (s : State) (f : HostPort → HostPort) : (modHost s f).slate = s.slate := rfl
@[simp] theorem modHost_net (s : State) (f : HostPort → HostPort) : (modHost s f).net = s.net := rfl
@[simp] theorem modHost_can (s : State) (f : HostPort → HostPort) : (modHost s f).can = s.can := rfl
@[simp] theorem modHost_spi (s : State) (f : HostPort → HostPort) : (modHost s f).spi = s.spi := rfl
@[simp] theorem modHost_flash (s : State) (f : HostPort → HostPort) : (modHost s f).flash = s.flash := rfl
@[simp] theorem modHost_i2c (s : State) (f : HostPort → HostPort) : (modHost s f).i2c = s.i2c := rfl
@[simp] theorem modHost_host (s : State) (f : HostPort → HostPort) : (modHost s f).host = f s.host := rfl

/-! ### modCan -/

@[simp] theorem modCan_pending (s : State) (f : Can → Can) : (modCan s f).pending = s.pending := rfl
@[simp] theorem modCan_freeCount (s : State) (f : Can → Can) : (modCan s f).freeCount = s.freeCount := rfl
@[simp] theorem modCan_outputs (s : State) (f : Can → Can) : (modCan s f).outputs = s.outputs := rfl
@[simp] theorem modCan_pins (s : State) (f : Can → Can) : (modCan s f).pins = s.pins := rfl
@[simp] theorem modCan_gaffer (s : State) (f : Can → Can) : (modCan s f).gaffer = s.gaffer := rfl
@[simp] theorem modCan_fuses (s : State) (f : Can → Can) : (modCan s f).fuses = s.fuses := rfl
@[simp] theorem modCan_log (s : State) (f : Can → Can) : (modCan s f).log = s.log := rfl
@[simp] theorem modCan_dict (s : State) (f : Can → Can) : (modCan s f).dict = s.dict := rfl
@[simp] theorem modCan_power (s : State) (f : Can → Can) : (modCan s f).power = s.power := rfl
@[simp] theorem modCan_ageing (s : State) (f : Can → Can) : (modCan s f).ageing = s.ageing := rfl
@[simp] theorem modCan_fabric (s : State) (f : Can → Can) : (modCan s f).fabric = s.fabric := rfl
@[simp] theorem modCan_mem (s : State) (f : Can → Can) : (modCan s f).mem = s.mem := rfl
@[simp] theorem modCan_cores (s : State) (f : Can → Can) : (modCan s f).cores = s.cores := rfl
@[simp] theorem modCan_groups (s : State) (f : Can → Can) : (modCan s f).groups = s.groups := rfl
@[simp] theorem modCan_serving (s : State) (f : Can → Can) : (modCan s f).serving = s.serving := rfl
@[simp] theorem modCan_reels (s : State) (f : Can → Can) : (modCan s f).reels = s.reels := rfl
@[simp] theorem modCan_slate (s : State) (f : Can → Can) : (modCan s f).slate = s.slate := rfl
@[simp] theorem modCan_net (s : State) (f : Can → Can) : (modCan s f).net = s.net := rfl
@[simp] theorem modCan_host (s : State) (f : Can → Can) : (modCan s f).host = s.host := rfl
@[simp] theorem modCan_spi (s : State) (f : Can → Can) : (modCan s f).spi = s.spi := rfl
@[simp] theorem modCan_flash (s : State) (f : Can → Can) : (modCan s f).flash = s.flash := rfl
@[simp] theorem modCan_i2c (s : State) (f : Can → Can) : (modCan s f).i2c = s.i2c := rfl
@[simp] theorem modCan_can (s : State) (f : Can → Can) : (modCan s f).can = f s.can := rfl

/-! ### modSpi -/

@[simp] theorem modSpi_pending (s : State) (f : Spi → Spi) : (modSpi s f).pending = s.pending := rfl
@[simp] theorem modSpi_freeCount (s : State) (f : Spi → Spi) : (modSpi s f).freeCount = s.freeCount := rfl
@[simp] theorem modSpi_outputs (s : State) (f : Spi → Spi) : (modSpi s f).outputs = s.outputs := rfl
@[simp] theorem modSpi_pins (s : State) (f : Spi → Spi) : (modSpi s f).pins = s.pins := rfl
@[simp] theorem modSpi_gaffer (s : State) (f : Spi → Spi) : (modSpi s f).gaffer = s.gaffer := rfl
@[simp] theorem modSpi_fuses (s : State) (f : Spi → Spi) : (modSpi s f).fuses = s.fuses := rfl
@[simp] theorem modSpi_log (s : State) (f : Spi → Spi) : (modSpi s f).log = s.log := rfl
@[simp] theorem modSpi_dict (s : State) (f : Spi → Spi) : (modSpi s f).dict = s.dict := rfl
@[simp] theorem modSpi_power (s : State) (f : Spi → Spi) : (modSpi s f).power = s.power := rfl
@[simp] theorem modSpi_ageing (s : State) (f : Spi → Spi) : (modSpi s f).ageing = s.ageing := rfl
@[simp] theorem modSpi_fabric (s : State) (f : Spi → Spi) : (modSpi s f).fabric = s.fabric := rfl
@[simp] theorem modSpi_mem (s : State) (f : Spi → Spi) : (modSpi s f).mem = s.mem := rfl
@[simp] theorem modSpi_cores (s : State) (f : Spi → Spi) : (modSpi s f).cores = s.cores := rfl
@[simp] theorem modSpi_groups (s : State) (f : Spi → Spi) : (modSpi s f).groups = s.groups := rfl
@[simp] theorem modSpi_serving (s : State) (f : Spi → Spi) : (modSpi s f).serving = s.serving := rfl
@[simp] theorem modSpi_reels (s : State) (f : Spi → Spi) : (modSpi s f).reels = s.reels := rfl
@[simp] theorem modSpi_slate (s : State) (f : Spi → Spi) : (modSpi s f).slate = s.slate := rfl
@[simp] theorem modSpi_net (s : State) (f : Spi → Spi) : (modSpi s f).net = s.net := rfl
@[simp] theorem modSpi_host (s : State) (f : Spi → Spi) : (modSpi s f).host = s.host := rfl
@[simp] theorem modSpi_can (s : State) (f : Spi → Spi) : (modSpi s f).can = s.can := rfl
@[simp] theorem modSpi_flash (s : State) (f : Spi → Spi) : (modSpi s f).flash = s.flash := rfl
@[simp] theorem modSpi_i2c (s : State) (f : Spi → Spi) : (modSpi s f).i2c = s.i2c := rfl
@[simp] theorem modSpi_spi (s : State) (f : Spi → Spi) : (modSpi s f).spi = f s.spi := rfl

/-! ### modI2c -/

@[simp] theorem modI2c_pending (s : State) (f : I2c → I2c) : (modI2c s f).pending = s.pending := rfl
@[simp] theorem modI2c_freeCount (s : State) (f : I2c → I2c) : (modI2c s f).freeCount = s.freeCount := rfl
@[simp] theorem modI2c_outputs (s : State) (f : I2c → I2c) : (modI2c s f).outputs = s.outputs := rfl
@[simp] theorem modI2c_pins (s : State) (f : I2c → I2c) : (modI2c s f).pins = s.pins := rfl
@[simp] theorem modI2c_gaffer (s : State) (f : I2c → I2c) : (modI2c s f).gaffer = s.gaffer := rfl
@[simp] theorem modI2c_fuses (s : State) (f : I2c → I2c) : (modI2c s f).fuses = s.fuses := rfl
@[simp] theorem modI2c_log (s : State) (f : I2c → I2c) : (modI2c s f).log = s.log := rfl
@[simp] theorem modI2c_dict (s : State) (f : I2c → I2c) : (modI2c s f).dict = s.dict := rfl
@[simp] theorem modI2c_power (s : State) (f : I2c → I2c) : (modI2c s f).power = s.power := rfl
@[simp] theorem modI2c_ageing (s : State) (f : I2c → I2c) : (modI2c s f).ageing = s.ageing := rfl
@[simp] theorem modI2c_fabric (s : State) (f : I2c → I2c) : (modI2c s f).fabric = s.fabric := rfl
@[simp] theorem modI2c_mem (s : State) (f : I2c → I2c) : (modI2c s f).mem = s.mem := rfl
@[simp] theorem modI2c_cores (s : State) (f : I2c → I2c) : (modI2c s f).cores = s.cores := rfl
@[simp] theorem modI2c_groups (s : State) (f : I2c → I2c) : (modI2c s f).groups = s.groups := rfl
@[simp] theorem modI2c_serving (s : State) (f : I2c → I2c) : (modI2c s f).serving = s.serving := rfl
@[simp] theorem modI2c_reels (s : State) (f : I2c → I2c) : (modI2c s f).reels = s.reels := rfl
@[simp] theorem modI2c_slate (s : State) (f : I2c → I2c) : (modI2c s f).slate = s.slate := rfl
@[simp] theorem modI2c_net (s : State) (f : I2c → I2c) : (modI2c s f).net = s.net := rfl
@[simp] theorem modI2c_host (s : State) (f : I2c → I2c) : (modI2c s f).host = s.host := rfl
@[simp] theorem modI2c_can (s : State) (f : I2c → I2c) : (modI2c s f).can = s.can := rfl
@[simp] theorem modI2c_spi (s : State) (f : I2c → I2c) : (modI2c s f).spi = s.spi := rfl
@[simp] theorem modI2c_flash (s : State) (f : I2c → I2c) : (modI2c s f).flash = s.flash := rfl
@[simp] theorem modI2c_i2c (s : State) (f : I2c → I2c) : (modI2c s f).i2c = f s.i2c := rfl

/-! ### modPins -/

@[simp] theorem modPins_pending (s : State) (f : Pins → Pins) : (modPins s f).pending = s.pending := rfl
@[simp] theorem modPins_freeCount (s : State) (f : Pins → Pins) : (modPins s f).freeCount = s.freeCount := rfl
@[simp] theorem modPins_outputs (s : State) (f : Pins → Pins) : (modPins s f).outputs = s.outputs := rfl
@[simp] theorem modPins_gaffer (s : State) (f : Pins → Pins) : (modPins s f).gaffer = s.gaffer := rfl
@[simp] theorem modPins_fuses (s : State) (f : Pins → Pins) : (modPins s f).fuses = s.fuses := rfl
@[simp] theorem modPins_log (s : State) (f : Pins → Pins) : (modPins s f).log = s.log := rfl
@[simp] theorem modPins_dict (s : State) (f : Pins → Pins) : (modPins s f).dict = s.dict := rfl
@[simp] theorem modPins_power (s : State) (f : Pins → Pins) : (modPins s f).power = s.power := rfl
@[simp] theorem modPins_ageing (s : State) (f : Pins → Pins) : (modPins s f).ageing = s.ageing := rfl
@[simp] theorem modPins_fabric (s : State) (f : Pins → Pins) : (modPins s f).fabric = s.fabric := rfl
@[simp] theorem modPins_mem (s : State) (f : Pins → Pins) : (modPins s f).mem = s.mem := rfl
@[simp] theorem modPins_cores (s : State) (f : Pins → Pins) : (modPins s f).cores = s.cores := rfl
@[simp] theorem modPins_groups (s : State) (f : Pins → Pins) : (modPins s f).groups = s.groups := rfl
@[simp] theorem modPins_serving (s : State) (f : Pins → Pins) : (modPins s f).serving = s.serving := rfl
@[simp] theorem modPins_reels (s : State) (f : Pins → Pins) : (modPins s f).reels = s.reels := rfl
@[simp] theorem modPins_slate (s : State) (f : Pins → Pins) : (modPins s f).slate = s.slate := rfl
@[simp] theorem modPins_net (s : State) (f : Pins → Pins) : (modPins s f).net = s.net := rfl
@[simp] theorem modPins_host (s : State) (f : Pins → Pins) : (modPins s f).host = s.host := rfl
@[simp] theorem modPins_can (s : State) (f : Pins → Pins) : (modPins s f).can = s.can := rfl
@[simp] theorem modPins_spi (s : State) (f : Pins → Pins) : (modPins s f).spi = s.spi := rfl
@[simp] theorem modPins_flash (s : State) (f : Pins → Pins) : (modPins s f).flash = s.flash := rfl
@[simp] theorem modPins_i2c (s : State) (f : Pins → Pins) : (modPins s f).i2c = s.i2c := rfl
@[simp] theorem modPins_pins (s : State) (f : Pins → Pins) : (modPins s f).pins = f s.pins := rfl

/-! ### modAgeing -/

@[simp] theorem modAgeing_pending (s : State) (f : Ageing → Ageing) : (modAgeing s f).pending = s.pending := rfl
@[simp] theorem modAgeing_freeCount (s : State) (f : Ageing → Ageing) : (modAgeing s f).freeCount = s.freeCount := rfl
@[simp] theorem modAgeing_outputs (s : State) (f : Ageing → Ageing) : (modAgeing s f).outputs = s.outputs := rfl
@[simp] theorem modAgeing_pins (s : State) (f : Ageing → Ageing) : (modAgeing s f).pins = s.pins := rfl
@[simp] theorem modAgeing_gaffer (s : State) (f : Ageing → Ageing) : (modAgeing s f).gaffer = s.gaffer := rfl
@[simp] theorem modAgeing_fuses (s : State) (f : Ageing → Ageing) : (modAgeing s f).fuses = s.fuses := rfl
@[simp] theorem modAgeing_log (s : State) (f : Ageing → Ageing) : (modAgeing s f).log = s.log := rfl
@[simp] theorem modAgeing_dict (s : State) (f : Ageing → Ageing) : (modAgeing s f).dict = s.dict := rfl
@[simp] theorem modAgeing_power (s : State) (f : Ageing → Ageing) : (modAgeing s f).power = s.power := rfl
@[simp] theorem modAgeing_fabric (s : State) (f : Ageing → Ageing) : (modAgeing s f).fabric = s.fabric := rfl
@[simp] theorem modAgeing_mem (s : State) (f : Ageing → Ageing) : (modAgeing s f).mem = s.mem := rfl
@[simp] theorem modAgeing_cores (s : State) (f : Ageing → Ageing) : (modAgeing s f).cores = s.cores := rfl
@[simp] theorem modAgeing_groups (s : State) (f : Ageing → Ageing) : (modAgeing s f).groups = s.groups := rfl
@[simp] theorem modAgeing_serving (s : State) (f : Ageing → Ageing) : (modAgeing s f).serving = s.serving := rfl
@[simp] theorem modAgeing_reels (s : State) (f : Ageing → Ageing) : (modAgeing s f).reels = s.reels := rfl
@[simp] theorem modAgeing_slate (s : State) (f : Ageing → Ageing) : (modAgeing s f).slate = s.slate := rfl
@[simp] theorem modAgeing_net (s : State) (f : Ageing → Ageing) : (modAgeing s f).net = s.net := rfl
@[simp] theorem modAgeing_host (s : State) (f : Ageing → Ageing) : (modAgeing s f).host = s.host := rfl
@[simp] theorem modAgeing_can (s : State) (f : Ageing → Ageing) : (modAgeing s f).can = s.can := rfl
@[simp] theorem modAgeing_spi (s : State) (f : Ageing → Ageing) : (modAgeing s f).spi = s.spi := rfl
@[simp] theorem modAgeing_flash (s : State) (f : Ageing → Ageing) : (modAgeing s f).flash = s.flash := rfl
@[simp] theorem modAgeing_i2c (s : State) (f : Ageing → Ageing) : (modAgeing s f).i2c = s.i2c := rfl
@[simp] theorem modAgeing_ageing (s : State) (f : Ageing → Ageing) : (modAgeing s f).ageing = f s.ageing := rfl

/-! ### useFree -/

@[simp] theorem useFree_pending (s : State) (n : Nat) : (useFree s n).pending = s.pending := rfl
@[simp] theorem useFree_outputs (s : State) (n : Nat) : (useFree s n).outputs = s.outputs := rfl
@[simp] theorem useFree_pins (s : State) (n : Nat) : (useFree s n).pins = s.pins := rfl
@[simp] theorem useFree_gaffer (s : State) (n : Nat) : (useFree s n).gaffer = s.gaffer := rfl
@[simp] theorem useFree_fuses (s : State) (n : Nat) : (useFree s n).fuses = s.fuses := rfl
@[simp] theorem useFree_log (s : State) (n : Nat) : (useFree s n).log = s.log := rfl
@[simp] theorem useFree_dict (s : State) (n : Nat) : (useFree s n).dict = s.dict := rfl
@[simp] theorem useFree_power (s : State) (n : Nat) : (useFree s n).power = s.power := rfl
@[simp] theorem useFree_ageing (s : State) (n : Nat) : (useFree s n).ageing = s.ageing := rfl
@[simp] theorem useFree_fabric (s : State) (n : Nat) : (useFree s n).fabric = s.fabric := rfl
@[simp] theorem useFree_mem (s : State) (n : Nat) : (useFree s n).mem = s.mem := rfl
@[simp] theorem useFree_cores (s : State) (n : Nat) : (useFree s n).cores = s.cores := rfl
@[simp] theorem useFree_groups (s : State) (n : Nat) : (useFree s n).groups = s.groups := rfl
@[simp] theorem useFree_serving (s : State) (n : Nat) : (useFree s n).serving = s.serving := rfl
@[simp] theorem useFree_reels (s : State) (n : Nat) : (useFree s n).reels = s.reels := rfl
@[simp] theorem useFree_slate (s : State) (n : Nat) : (useFree s n).slate = s.slate := rfl
@[simp] theorem useFree_net (s : State) (n : Nat) : (useFree s n).net = s.net := rfl
@[simp] theorem useFree_host (s : State) (n : Nat) : (useFree s n).host = s.host := rfl
@[simp] theorem useFree_can (s : State) (n : Nat) : (useFree s n).can = s.can := rfl
@[simp] theorem useFree_spi (s : State) (n : Nat) : (useFree s n).spi = s.spi := rfl
@[simp] theorem useFree_flash (s : State) (n : Nat) : (useFree s n).flash = s.flash := rfl
@[simp] theorem useFree_i2c (s : State) (n : Nat) : (useFree s n).i2c = s.i2c := rfl
@[simp] theorem useFree_freeCount (s : State) (n : Nat) : (useFree s n).freeCount = s.freeCount + n := rfl

/-! ### emit -/

@[simp] theorem emit_pending (s : State) (o : Output) : (emit s o).pending = s.pending := rfl
@[simp] theorem emit_freeCount (s : State) (o : Output) : (emit s o).freeCount = s.freeCount := rfl
@[simp] theorem emit_pins (s : State) (o : Output) : (emit s o).pins = s.pins := rfl
@[simp] theorem emit_gaffer (s : State) (o : Output) : (emit s o).gaffer = s.gaffer := rfl
@[simp] theorem emit_fuses (s : State) (o : Output) : (emit s o).fuses = s.fuses := rfl
@[simp] theorem emit_log (s : State) (o : Output) : (emit s o).log = s.log := rfl
@[simp] theorem emit_dict (s : State) (o : Output) : (emit s o).dict = s.dict := rfl
@[simp] theorem emit_power (s : State) (o : Output) : (emit s o).power = s.power := rfl
@[simp] theorem emit_ageing (s : State) (o : Output) : (emit s o).ageing = s.ageing := rfl
@[simp] theorem emit_fabric (s : State) (o : Output) : (emit s o).fabric = s.fabric := rfl
@[simp] theorem emit_mem (s : State) (o : Output) : (emit s o).mem = s.mem := rfl
@[simp] theorem emit_cores (s : State) (o : Output) : (emit s o).cores = s.cores := rfl
@[simp] theorem emit_groups (s : State) (o : Output) : (emit s o).groups = s.groups := rfl
@[simp] theorem emit_serving (s : State) (o : Output) : (emit s o).serving = s.serving := rfl
@[simp] theorem emit_reels (s : State) (o : Output) : (emit s o).reels = s.reels := rfl
@[simp] theorem emit_slate (s : State) (o : Output) : (emit s o).slate = s.slate := rfl
@[simp] theorem emit_net (s : State) (o : Output) : (emit s o).net = s.net := rfl
@[simp] theorem emit_host (s : State) (o : Output) : (emit s o).host = s.host := rfl
@[simp] theorem emit_can (s : State) (o : Output) : (emit s o).can = s.can := rfl
@[simp] theorem emit_spi (s : State) (o : Output) : (emit s o).spi = s.spi := rfl
@[simp] theorem emit_flash (s : State) (o : Output) : (emit s o).flash = s.flash := rfl
@[simp] theorem emit_i2c (s : State) (o : Output) : (emit s o).i2c = s.i2c := rfl
@[simp] theorem emit_outputs (s : State) (o : Output) : (emit s o).outputs = o :: s.outputs := rfl

/-! ### setVal -/

@[simp] theorem setVal_pending (s : State) (i j t : Nat) (v : List Byte) : (setVal s i j t v).pending = s.pending := rfl
@[simp] theorem setVal_freeCount (s : State) (i j t : Nat) (v : List Byte) : (setVal s i j t v).freeCount = s.freeCount := rfl
@[simp] theorem setVal_outputs (s : State) (i j t : Nat) (v : List Byte) : (setVal s i j t v).outputs = s.outputs := rfl
@[simp] theorem setVal_pins (s : State) (i j t : Nat) (v : List Byte) : (setVal s i j t v).pins = s.pins := rfl
@[simp] theorem setVal_gaffer (s : State) (i j t : Nat) (v : List Byte) : (setVal s i j t v).gaffer = s.gaffer := rfl
@[simp] theorem setVal_fuses (s : State) (i j t : Nat) (v : List Byte) : (setVal s i j t v).fuses = s.fuses := rfl
@[simp] theorem setVal_log (s : State) (i j t : Nat) (v : List Byte) : (setVal s i j t v).log = s.log := rfl
@[simp] theorem setVal_power (s : State) (i j t : Nat) (v : List Byte) : (setVal s i j t v).power = s.power := rfl
@[simp] theorem setVal_ageing (s : State) (i j t : Nat) (v : List Byte) : (setVal s i j t v).ageing = s.ageing := rfl
@[simp] theorem setVal_fabric (s : State) (i j t : Nat) (v : List Byte) : (setVal s i j t v).fabric = s.fabric := rfl
@[simp] theorem setVal_mem (s : State) (i j t : Nat) (v : List Byte) : (setVal s i j t v).mem = s.mem := rfl
@[simp] theorem setVal_cores (s : State) (i j t : Nat) (v : List Byte) : (setVal s i j t v).cores = s.cores := rfl
@[simp] theorem setVal_groups (s : State) (i j t : Nat) (v : List Byte) : (setVal s i j t v).groups = s.groups := rfl
@[simp] theorem setVal_serving (s : State) (i j t : Nat) (v : List Byte) : (setVal s i j t v).serving = s.serving := rfl
@[simp] theorem setVal_reels (s : State) (i j t : Nat) (v : List Byte) : (setVal s i j t v).reels = s.reels := rfl
@[simp] theorem setVal_slate (s : State) (i j t : Nat) (v : List Byte) : (setVal s i j t v).slate = s.slate := rfl
@[simp] theorem setVal_net (s : State) (i j t : Nat) (v : List Byte) : (setVal s i j t v).net = s.net := rfl
@[simp] theorem setVal_host (s : State) (i j t : Nat) (v : List Byte) : (setVal s i j t v).host = s.host := rfl
@[simp] theorem setVal_can (s : State) (i j t : Nat) (v : List Byte) : (setVal s i j t v).can = s.can := rfl
@[simp] theorem setVal_spi (s : State) (i j t : Nat) (v : List Byte) : (setVal s i j t v).spi = s.spi := rfl
@[simp] theorem setVal_flash (s : State) (i j t : Nat) (v : List Byte) : (setVal s i j t v).flash = s.flash := rfl
@[simp] theorem setVal_i2c (s : State) (i j t : Nat) (v : List Byte) : (setVal s i j t v).i2c = s.i2c := rfl
@[simp] theorem setVal_dict_vals (s : State) (i j t : Nat) (v : List Byte) : (setVal s i j t v).dict.vals = tput s.dict.vals (dictKey i j t) v := rfl
@[simp] theorem setVal_dict_pend (s : State) (i j t : Nat) (v : List Byte) : (setVal s i j t v).dict.pend = s.dict.pend := rfl
@[simp] theorem setVal_dict_counts (s : State) (i j t : Nat) (v : List Byte) : (setVal s i j t v).dict.counts = s.dict.counts := rfl
@[simp] theorem setVal_dict_latched (s : State) (i j t : Nat) (v : List Byte) : (setVal s i j t v).dict.latched = s.dict.latched := rfl
@[simp] theorem setVal_dict_stages (s : State) (i j t : Nat) (v : List Byte) : (setVal s i j t v).dict.stages = s.dict.stages := rfl
@[simp] theorem setVal_dict_expired (s : State) (i j t : Nat) (v : List Byte) : (setVal s i j t v).dict.expired = s.dict.expired := rfl
@[simp] theorem setVal_dict_claims (s : State) (i j t : Nat) (v : List Byte) : (setVal s i j t v).dict.claims = s.dict.claims := rfl
@[simp] theorem setVal_dict_response (s : State) (i j t : Nat) (v : List Byte) : (setVal s i j t v).dict.response = s.dict.response := rfl
@[simp] theorem setVal_dict_awaiting (s : State) (i j t : Nat) (v : List Byte) : (setVal s i j t v).dict.awaiting = s.dict.awaiting := rfl
@[simp] theorem setVal_dict_queued (s : State) (i j t : Nat) (v : List Byte) : (setVal s i j t v).dict.queued = s.dict.queued := rfl
@[simp] theorem setVal_dict_journal (s : State) (i j t : Nat) (v : List Byte) : (setVal s i j t v).dict.journal = s.dict.journal := rfl

/-! ### clearVal -/

@[simp] theorem clearVal_pending (s : State) (i j t : Nat) : (clearVal s i j t).pending = s.pending := rfl
@[simp] theorem clearVal_freeCount (s : State) (i j t : Nat) : (clearVal s i j t).freeCount = s.freeCount := rfl
@[simp] theorem clearVal_outputs (s : State) (i j t : Nat) : (clearVal s i j t).outputs = s.outputs := rfl
@[simp] theorem clearVal_pins (s : State) (i j t : Nat) : (clearVal s i j t).pins = s.pins := rfl
@[simp] theorem clearVal_gaffer (s : State) (i j t : Nat) : (clearVal s i j t).gaffer = s.gaffer := rfl
@[simp] theorem clearVal_fuses (s : State) (i j t : Nat) : (clearVal s i j t).fuses = s.fuses := rfl
@[simp] theorem clearVal_log (s : State) (i j t : Nat) : (clearVal s i j t).log = s.log := rfl
@[simp] theorem clearVal_power (s : State) (i j t : Nat) : (clearVal s i j t).power = s.power := rfl
@[simp] theorem clearVal_ageing (s : State) (i j t : Nat) : (clearVal s i j t).ageing = s.ageing := rfl
@[simp] theorem clearVal_fabric (s : State) (i j t : Nat) : (clearVal s i j t).fabric = s.fabric := rfl
@[simp] theorem clearVal_mem (s : State) (i j t : Nat) : (clearVal s i j t).mem = s.mem := rfl
@[simp] theorem clearVal_cores (s : State) (i j t : Nat) : (clearVal s i j t).cores = s.cores := rfl
@[simp] theorem clearVal_groups (s : State) (i j t : Nat) : (clearVal s i j t).groups = s.groups := rfl
@[simp] theorem clearVal_serving (s : State) (i j t : Nat) : (clearVal s i j t).serving = s.serving := rfl
@[simp] theorem clearVal_reels (s : State) (i j t : Nat) : (clearVal s i j t).reels = s.reels := rfl
@[simp] theorem clearVal_slate (s : State) (i j t : Nat) : (clearVal s i j t).slate = s.slate := rfl
@[simp] theorem clearVal_net (s : State) (i j t : Nat) : (clearVal s i j t).net = s.net := rfl
@[simp] theorem clearVal_host (s : State) (i j t : Nat) : (clearVal s i j t).host = s.host := rfl
@[simp] theorem clearVal_can (s : State) (i j t : Nat) : (clearVal s i j t).can = s.can := rfl
@[simp] theorem clearVal_spi (s : State) (i j t : Nat) : (clearVal s i j t).spi = s.spi := rfl
@[simp] theorem clearVal_flash (s : State) (i j t : Nat) : (clearVal s i j t).flash = s.flash := rfl
@[simp] theorem clearVal_i2c (s : State) (i j t : Nat) : (clearVal s i j t).i2c = s.i2c := rfl
@[simp] theorem clearVal_dict_vals (s : State) (i j t : Nat) : (clearVal s i j t).dict.vals = tdel s.dict.vals (dictKey i j t) := rfl
@[simp] theorem clearVal_dict_pend (s : State) (i j t : Nat) : (clearVal s i j t).dict.pend = s.dict.pend := rfl
@[simp] theorem clearVal_dict_counts (s : State) (i j t : Nat) : (clearVal s i j t).dict.counts = s.dict.counts := rfl
@[simp] theorem clearVal_dict_latched (s : State) (i j t : Nat) : (clearVal s i j t).dict.latched = s.dict.latched := rfl
@[simp] theorem clearVal_dict_stages (s : State) (i j t : Nat) : (clearVal s i j t).dict.stages = s.dict.stages := rfl
@[simp] theorem clearVal_dict_expired (s : State) (i j t : Nat) : (clearVal s i j t).dict.expired = s.dict.expired := rfl
@[simp] theorem clearVal_dict_claims (s : State) (i j t : Nat) : (clearVal s i j t).dict.claims = s.dict.claims := rfl
@[simp] theorem clearVal_dict_response (s : State) (i j t : Nat) : (clearVal s i j t).dict.response = s.dict.response := rfl
@[simp] theorem clearVal_dict_awaiting (s : State) (i j t : Nat) : (clearVal s i j t).dict.awaiting = s.dict.awaiting := rfl
@[simp] theorem clearVal_dict_queued (s : State) (i j t : Nat) : (clearVal s i j t).dict.queued = s.dict.queued := rfl
@[simp] theorem clearVal_dict_journal (s : State) (i j t : Nat) : (clearVal s i j t).dict.journal = s.dict.journal := rfl

/-! ### appendEvent -/

@[simp] theorem appendEvent_pending (s : State) (e : EventRec) : (appendEvent s e).pending = s.pending := rfl
@[simp] theorem appendEvent_freeCount (s : State) (e : EventRec) : (appendEvent s e).freeCount = s.freeCount := rfl
@[simp] theorem appendEvent_outputs (s : State) (e : EventRec) : (appendEvent s e).outputs = s.outputs := rfl
@[simp] theorem appendEvent_pins (s : State) (e : EventRec) : (appendEvent s e).pins = s.pins := rfl
@[simp] theorem appendEvent_gaffer (s : State) (e : EventRec) : (appendEvent s e).gaffer = s.gaffer := rfl
@[simp] theorem appendEvent_fuses (s : State) (e : EventRec) : (appendEvent s e).fuses = s.fuses := rfl
@[simp] theorem appendEvent_dict (s : State) (e : EventRec) : (appendEvent s e).dict = s.dict := rfl
@[simp] theorem appendEvent_power (s : State) (e : EventRec) : (appendEvent s e).power = s.power := rfl
@[simp] theorem appendEvent_ageing (s : State) (e : EventRec) : (appendEvent s e).ageing = s.ageing := rfl
@[simp] theorem appendEvent_fabric (s : State) (e : EventRec) : (appendEvent s e).fabric = s.fabric := rfl
@[simp] theorem appendEvent_mem (s : State) (e : EventRec) : (appendEvent s e).mem = s.mem := rfl
@[simp] theorem appendEvent_cores (s : State) (e : EventRec) : (appendEvent s e).cores = s.cores := rfl
@[simp] theorem appendEvent_groups (s : State) (e : EventRec) : (appendEvent s e).groups = s.groups := rfl
@[simp] theorem appendEvent_serving (s : State) (e : EventRec) : (appendEvent s e).serving = s.serving := rfl
@[simp] theorem appendEvent_reels (s : State) (e : EventRec) : (appendEvent s e).reels = s.reels := rfl
@[simp] theorem appendEvent_slate (s : State) (e : EventRec) : (appendEvent s e).slate = s.slate := rfl
@[simp] theorem appendEvent_net (s : State) (e : EventRec) : (appendEvent s e).net = s.net := rfl
@[simp] theorem appendEvent_host (s : State) (e : EventRec) : (appendEvent s e).host = s.host := rfl
@[simp] theorem appendEvent_can (s : State) (e : EventRec) : (appendEvent s e).can = s.can := rfl
@[simp] theorem appendEvent_spi (s : State) (e : EventRec) : (appendEvent s e).spi = s.spi := rfl
@[simp] theorem appendEvent_flash (s : State) (e : EventRec) : (appendEvent s e).flash = s.flash := rfl
@[simp] theorem appendEvent_i2c (s : State) (e : EventRec) : (appendEvent s e).i2c = s.i2c := rfl

end Sys2Proof.Machine
end

