-- ==== Sys2Proof/Laws/Exec.lean ====
section
/-!
SUPPORT. One lemma for each command: exec is its meaning, and which operands are well formed. They spare every proof the match over
all commands.
-/
set_option Elab.async false
set_option linter.all false
namespace Sys2Proof.Machine

/-! ### The meaning of each command -/

@[simp] theorem exec_dictRead (a : Access) (s : State) : exec (.dictRead a) s = execDictRead a s := rfl
@[simp] theorem exec_dictReadInformation (a : Access) (s : State) : exec (.dictReadInformation a) s = execDictReadInformation a s := rfl
@[simp] theorem exec_dictWrite (a : Access) (s : State) : exec (.dictWrite a) s = execDictWrite a s := rfl
@[simp] theorem exec_stagedWrite (a : Access) (s : State) : exec (.stagedWrite a) s = execStagedWrite a s := rfl
@[simp] theorem exec_commit (a : Access) (s : State) : exec (.commit a) s = execCommit a s := rfl
@[simp] theorem exec_discardStage (a : Access) (s : State) : exec (.discardStage a) s = execDiscardStage a s := rfl
@[simp] theorem exec_restoreDefault (a : Access) (s : State) : exec (.restoreDefault a) s = execRestoreDefault a s := rfl
@[simp] theorem exec_writePiece (a : Access) (s : State) : exec (.writePiece a) s = execWritePiece a s := rfl
@[simp] theorem exec_stageExpiry (index : U16) (sub : Byte) (sel : Tenant) (s : State) : exec (.stageExpiry index sub sel) s = execStageExpiry index sub sel s := rfl
@[simp] theorem exec_windowSlotDoorbell (win : WindowId) (value : U32) (written : List Byte) (pre : PreCheck) (s : State) : exec (.windowSlotDoorbell win value written pre) s = execWindowSlotDoorbell win value written pre s := rfl
@[simp] theorem exec_windowCompletionClear (win : WindowId) (off : U16) (value : U32) (s : State) : exec (.windowCompletionClear win off value) s = execWindowCompletionClear win off value s := rfl
@[simp] theorem exec_journalRecordSealed (o : FlashOutcome) (s : State) : exec (.journalRecordSealed o) s = execJournalRecordSealed o s := rfl
@[simp] theorem exec_journalCompaction (h : HalfOutcome) (s : State) : exec (.journalCompaction h) s = execJournalCompaction h s := rfl
@[simp] theorem exec_compactionRetry (h : HalfOutcome) (s : State) : exec (.compactionRetry h) s = execCompactionRetry h s := rfl
@[simp] theorem exec_lifeCycleTransition (a : Access) (s : State) : exec (.lifeCycleTransition a) s = execLifeCycleTransition a s := rfl
@[simp] theorem exec_vcoreFSetpointCommit (a : Access) (s : State) : exec (.vcoreFSetpointCommit a) s = execVcoreFSetpointCommit a s := rfl
@[simp] theorem exec_powerStateRequest (a : Access) (s : State) : exec (.powerStateRequest a) s = execPowerStateRequest a s := rfl
@[simp] theorem exec_holdRecoveryRequest (a : Access) (s : State) : exec (.holdRecoveryRequest a) s = execHoldRecoveryRequest a s := rfl
@[simp] theorem exec_groupStart (a : Access) (s : State) : exec (.groupStart a) s = execGroupStart a s := rfl
@[simp] theorem exec_groupPreempt (a : Access) (s : State) : exec (.groupPreempt a) s = execGroupPreempt a s := rfl
@[simp] theorem exec_groupResume (a : Access) (s : State) : exec (.groupResume a) s = execGroupResume a s := rfl
@[simp] theorem exec_groupAbort (a : Access) (s : State) : exec (.groupAbort a) s = execGroupAbort a s := rfl
@[simp] theorem exec_routeTableWrite (a : Access) (s : State) : exec (.routeTableWrite a) s = execRouteTableWrite a s := rfl
@[simp] theorem exec_benchSubstitution (a : Access) (s : State) : exec (.benchSubstitution a) s = execBenchSubstitution a s := rfl
@[simp] theorem exec_linkDisable (a : Access) (s : State) : exec (.linkDisable a) s = execLinkDisable a s := rfl
@[simp] theorem exec_linkEnable (a : Access) (s : State) : exec (.linkEnable a) s = execLinkEnable a s := rfl
@[simp] theorem exec_ringConfigure (a : Access) (s : State) : exec (.ringConfigure a) s = execRingConfigure a s := rfl
@[simp] theorem exec_queueEnable (a : Access) (s : State) : exec (.queueEnable a) s = execQueueEnable a s := rfl
@[simp] theorem exec_queueDisable (a : Access) (s : State) : exec (.queueDisable a) s = execQueueDisable a s := rfl
@[simp] theorem exec_alarmClear (a : Access) (s : State) : exec (.alarmClear a) s = execAlarmClear a s := rfl
@[simp] theorem exec_keyDigestWrite (a : Access) (s : State) : exec (.keyDigestWrite a) s = execKeyDigestWrite a s := rfl
@[simp] theorem exec_unlockChallengeRead (a : Access) (s : State) : exec (.unlockChallengeRead a) s = execUnlockChallengeRead a s := rfl
@[simp] theorem exec_unlockResponseWrite (a : Access) (s : State) : exec (.unlockResponseWrite a) s = execUnlockResponseWrite a s := rfl
@[simp] theorem exec_tenantReset (a : Access) (s : State) : exec (.tenantReset a) s = execTenantReset a s := rfl
@[simp] theorem exec_tenantResetAcksComplete (t : Tenant) (s : State) : exec (.tenantResetAcksComplete t) s = execTenantResetAcksComplete t s := rfl
@[simp] theorem exec_tenantResetAckTimeout (t : Tenant) (s : State) : exec (.tenantResetAckTimeout t) s = execTenantResetAckTimeout t s := rfl
@[simp] theorem exec_tenantResetComplete (t : Tenant) (s : State) : exec (.tenantResetComplete t) s = execTenantResetComplete t s := rfl
@[simp] theorem exec_eventLogClear (a : Access) (s : State) : exec (.eventLogClear a) s = execEventLogClear a s := rfl
@[simp] theorem exec_counterClear (a : Access) (s : State) : exec (.counterClear a) s = execCounterClear a s := rfl
@[simp] theorem exec_bridgeFlitArrival (b : BridgeId) (ch : BitVec 5) (flit : FabricFlit) (crc : U16) (s : State) : exec (.bridgeFlitArrival b ch flit crc) s = execBridgeFlitArrival b ch flit crc s := rfl
@[simp] theorem exec_bridgeChannelOutOfService (b : BridgeId) (ch : BitVec 5) (s : State) : exec (.bridgeChannelOutOfService b ch) s = execBridgeChannelOutOfService b ch s := rfl
@[simp] theorem exec_bridgeStall (e : EdgeDie) (ch : BitVec 4) (s : State) : exec (.bridgeStall e ch) s = execBridgeStall e ch s := rfl
@[simp] theorem exec_linkReferenceStop (e : EdgeDie) (s : State) : exec (.linkReferenceStop e) s = execLinkReferenceStop e s := rfl
@[simp] theorem exec_meshFlitArrival (hop : RouterFlit) (found : List EccFinding) (s : State) : exec (.meshFlitArrival hop found) s = execMeshFlitArrival hop found s := rfl
@[simp] theorem exec_refreshTimebaseCalibration (die : FieldDie) (s : State) : exec (.refreshTimebaseCalibration die) s = execRefreshTimebaseCalibration die s := rfl
@[simp] theorem exec_vaultRefresh (slice : CoreId) (bank : BitVec 4) (s : State) : exec (.vaultRefresh slice bank) s = execVaultRefresh slice bank s := rfl
@[simp] theorem exec_refreshPeriodChange (die : FieldDie) (hottestTenths : Int) (s : State) : exec (.refreshPeriodChange die hottestTenths) s = execRefreshPeriodChange die hottestTenths s := rfl
@[simp] theorem exec_vaultScrub (slice : CoreId) (s : State) : exec (.vaultScrub slice) s = execVaultScrub slice s := rfl
@[simp] theorem exec_droopTrip (site : DroopSite) (senseMv : Nat) (s : State) : exec (.droopTrip site senseMv) s = execDroopTrip site senseMv s := rfl
@[simp] theorem exec_droopCauseClear (die : FieldDie) (s : State) : exec (.droopCauseClear die) s = execDroopCauseClear die s := rfl
@[simp] theorem exec_senseSample (r : SenseReadings) (s : State) : exec (.senseSample r) s = execSenseSample r s := rfl
@[simp] theorem exec_msWindowEnd (r : WindowReadings) (s : State) : exec (.msWindowEnd r) s = execMsWindowEnd r s := rfl
@[simp] theorem exec_intAdd (c : CoreId) (w : U32) (s : State) : exec (.intAdd c w) s = execIntAdd c w s := rfl
@[simp] theorem exec_intSubtract (c : CoreId) (w : U32) (s : State) : exec (.intSubtract c w) s = execIntSubtract c w s := rfl
@[simp] theorem exec_intAnd (c : CoreId) (w : U32) (s : State) : exec (.intAnd c w) s = execIntAnd c w s := rfl
@[simp] theorem exec_intOr (c : CoreId) (w : U32) (s : State) : exec (.intOr c w) s = execIntOr c w s := rfl
@[simp] theorem exec_intExclusiveOr (c : CoreId) (w : U32) (s : State) : exec (.intExclusiveOr c w) s = execIntExclusiveOr c w s := rfl
@[simp] theorem exec_intShiftLeft (c : CoreId) (w : U32) (s : State) : exec (.intShiftLeft c w) s = execIntShiftLeft c w s := rfl
@[simp] theorem exec_intLogicalRight (c : CoreId) (w : U32) (s : State) : exec (.intLogicalRight c w) s = execIntLogicalRight c w s := rfl
@[simp] theorem exec_intArithmeticRight (c : CoreId) (w : U32) (s : State) : exec (.intArithmeticRight c w) s = execIntArithmeticRight c w s := rfl
@[simp] theorem exec_intProductLow (c : CoreId) (w : U32) (s : State) : exec (.intProductLow c w) s = execIntProductLow c w s := rfl
@[simp] theorem exec_intProductHighUnsigned (c : CoreId) (w : U32) (s : State) : exec (.intProductHighUnsigned c w) s = execIntProductHighUnsigned c w s := rfl
@[simp] theorem exec_intLessSigned (c : CoreId) (w : U32) (s : State) : exec (.intLessSigned c w) s = execIntLessSigned c w s := rfl
@[simp] theorem exec_intLessUnsigned (c : CoreId) (w : U32) (s : State) : exec (.intLessUnsigned c w) s = execIntLessUnsigned c w s := rfl
@[simp] theorem exec_intSignedMinimum (c : CoreId) (w : U32) (s : State) : exec (.intSignedMinimum c w) s = execIntSignedMinimum c w s := rfl
@[simp] theorem exec_intSignedMaximum (c : CoreId) (w : U32) (s : State) : exec (.intSignedMaximum c w) s = execIntSignedMaximum c w s := rfl
@[simp] theorem exec_intLeadingZeros (c : CoreId) (w : U32) (s : State) : exec (.intLeadingZeros c w) s = execIntLeadingZeros c w s := rfl
@[simp] theorem exec_intSetBits (c : CoreId) (w : U32) (s : State) : exec (.intSetBits c w) s = execIntSetBits c w s := rfl
@[simp] theorem exec_addImmediate (c : CoreId) (w : U32) (s : State) : exec (.addImmediate c w) s = execAddImmediate c w s := rfl
@[simp] theorem exec_andImmediate (c : CoreId) (w : U32) (s : State) : exec (.andImmediate c w) s = execAndImmediate c w s := rfl
@[simp] theorem exec_orImmediate (c : CoreId) (w : U32) (s : State) : exec (.orImmediate c w) s = execOrImmediate c w s := rfl
@[simp] theorem exec_shiftOrImmediate (c : CoreId) (w : U32) (s : State) : exec (.shiftOrImmediate c w) s = execShiftOrImmediate c w s := rfl
@[simp] theorem exec_load (c : CoreId) (w : U32) (s : State) : exec (.load c w) s = execLoad c w s := rfl
@[simp] theorem exec_store (c : CoreId) (w : U32) (s : State) : exec (.store c w) s = execStore c w s := rfl
@[simp] theorem exec_branch (c : CoreId) (w : U32) (s : State) : exec (.branch c w) s = execBranch c w s := rfl
@[simp] theorem exec_jumpAndLink (c : CoreId) (w : U32) (s : State) : exec (.jumpAndLink c w) s = execJumpAndLink c w s := rfl
@[simp] theorem exec_arrayProduct (c : CoreId) (w : U32) (s : State) : exec (.arrayProduct c w) s = execArrayProduct c w s := rfl
@[simp] theorem exec_attention (c : CoreId) (w : U32) (s : State) : exec (.attention c w) s = execAttention c w s := rfl
@[simp] theorem exec_streamOpen (c : CoreId) (w : U32) (s : State) : exec (.streamOpen c w) s = execStreamOpen c w s := rfl
@[simp] theorem exec_streamCommit (c : CoreId) (w : U32) (s : State) : exec (.streamCommit c w) s = execStreamCommit c w s := rfl
@[simp] theorem exec_storyboardCompaction (c : CoreId) (s : State) : exec (.storyboardCompaction c) s = execStoryboardCompaction c s := rfl
@[simp] theorem exec_streamPark (c : CoreId) (w : U32) (s : State) : exec (.streamPark c w) s = execStreamPark c w s := rfl
@[simp] theorem exec_streamUnpark (c : CoreId) (w : U32) (s : State) : exec (.streamUnpark c w) s = execStreamUnpark c w s := rfl
@[simp] theorem exec_streamClose (c : CoreId) (w : U32) (s : State) : exec (.streamClose c w) s = execStreamClose c w s := rfl
@[simp] theorem exec_streamRead (c : CoreId) (w : U32) (s : State) : exec (.streamRead c w) s = execStreamRead c w s := rfl
@[simp] theorem exec_streamRoster (c : CoreId) (w : U32) (s : State) : exec (.streamRoster c w) s = execStreamRoster c w s := rfl
@[simp] theorem exec_streamAdopt (c : CoreId) (w : U32) (s : State) : exec (.streamAdopt c w) s = execStreamAdopt c w s := rfl
@[simp] theorem exec_followReelWaitEnd (c : CoreId) (s : State) : exec (.followReelWaitEnd c) s = execFollowReelWaitEnd c s := rfl
@[simp] theorem exec_ringQueueWaitEnd (c : CoreId) (s : State) : exec (.ringQueueWaitEnd c) s = execRingQueueWaitEnd c s := rfl
@[simp] theorem exec_arrWait (c : CoreId) (w : U32) (s : State) : exec (.arrWait c w) s = execArrWait c w s := rfl
@[simp] theorem exec_epilogueBlock (c : CoreId) (s : State) : exec (.epilogueBlock c) s = execEpilogueBlock c s := rfl
@[simp] theorem exec_deferredSweep (c : CoreId) (s : State) : exec (.deferredSweep c) s = execDeferredSweep c s := rfl
@[simp] theorem exec_tileSendBlock (c : CoreId) (s : State) : exec (.tileSendBlock c) s = execTileSendBlock c s := rfl
@[simp] theorem exec_arrayCommandComplete (c : CoreId) (s : State) : exec (.arrayCommandComplete c) s = execArrayCommandComplete c s := rfl
@[simp] theorem exec_attentionComplete (c : CoreId) (s : State) : exec (.attentionComplete c) s = execAttentionComplete c s := rfl
@[simp] theorem exec_vectorAdd (c : CoreId) (w : U32) (s : State) : exec (.vectorAdd c w) s = execVectorAdd c w s := rfl
@[simp] theorem exec_vectorSubtract (c : CoreId) (w : U32) (s : State) : exec (.vectorSubtract c w) s = execVectorSubtract c w s := rfl
@[simp] theorem exec_vectorMultiply (c : CoreId) (w : U32) (s : State) : exec (.vectorMultiply c w) s = execVectorMultiply c w s := rfl
@[simp] theorem exec_vectorFusedMultiplyAdd (c : CoreId) (w : U32) (s : State) : exec (.vectorFusedMultiplyAdd c w) s = execVectorFusedMultiplyAdd c w s := rfl
@[simp] theorem exec_vectorMinimum (c : CoreId) (w : U32) (s : State) : exec (.vectorMinimum c w) s = execVectorMinimum c w s := rfl
@[simp] theorem exec_vectorMaximum (c : CoreId) (w : U32) (s : State) : exec (.vectorMaximum c w) s = execVectorMaximum c w s := rfl
@[simp] theorem exec_vectorCompare (c : CoreId) (w : U32) (p : CmpPred) (s : State) : exec (.vectorCompare c w p) s = execVectorCompare c w p s := rfl
@[simp] theorem exec_vectorSelect (c : CoreId) (w : U32) (s : State) : exec (.vectorSelect c w) s = execVectorSelect c w s := rfl
@[simp] theorem exec_vectorExp2 (c : CoreId) (w : U32) (s : State) : exec (.vectorExp2 c w) s = execVectorExp2 c w s := rfl
@[simp] theorem exec_vectorLog2 (c : CoreId) (w : U32) (s : State) : exec (.vectorLog2 c w) s = execVectorLog2 c w s := rfl
@[simp] theorem exec_vectorReciprocal (c : CoreId) (w : U32) (s : State) : exec (.vectorReciprocal c w) s = execVectorReciprocal c w s := rfl
@[simp] theorem exec_vectorReciprocalSquareRoot (c : CoreId) (w : U32) (s : State) : exec (.vectorReciprocalSquareRoot c w) s = execVectorReciprocalSquareRoot c w s := rfl
@[simp] theorem exec_vectorSquareRoot (c : CoreId) (w : U32) (s : State) : exec (.vectorSquareRoot c w) s = execVectorSquareRoot c w s := rfl
@[simp] theorem exec_vectorExp (c : CoreId) (w : U32) (s : State) : exec (.vectorExp c w) s = execVectorExp c w s := rfl
@[simp] theorem exec_vectorSigmoid (c : CoreId) (w : U32) (s : State) : exec (.vectorSigmoid c w) s = execVectorSigmoid c w s := rfl
@[simp] theorem exec_vectorTanh (c : CoreId) (w : U32) (s : State) : exec (.vectorTanh c w) s = execVectorTanh c w s := rfl
@[simp] theorem exec_laneSum (c : CoreId) (w : U32) (s : State) : exec (.laneSum c w) s = execLaneSum c w s := rfl
@[simp] theorem exec_laneMaximum (c : CoreId) (w : U32) (s : State) : exec (.laneMaximum c w) s = execLaneMaximum c w s := rfl
@[simp] theorem exec_vectorLoad (c : CoreId) (w : U32) (s : State) : exec (.vectorLoad c w) s = execVectorLoad c w s := rfl
@[simp] theorem exec_vectorStore (c : CoreId) (w : U32) (s : State) : exec (.vectorStore c w) s = execVectorStore c w s := rfl
@[simp] theorem exec_vSoftmax (c : CoreId) (w : U32) (s : State) : exec (.vSoftmax c w) s = execVSoftmax c w s := rfl
@[simp] theorem exec_msgRsv (c : CoreId) (w : U32) (s : State) : exec (.msgRsv c w) s = execMsgRsv c w s := rfl
@[simp] theorem exec_msgSend (c : CoreId) (w : U32) (s : State) : exec (.msgSend c w) s = execMsgSend c w s := rfl
@[simp] theorem exec_msgRecv (c : CoreId) (w : U32) (s : State) : exec (.msgRecv c w) s = execMsgRecv c w s := rfl
@[simp] theorem exec_msgPoll (c : CoreId) (w : U32) (s : State) : exec (.msgPoll c w) s = execMsgPoll c w s := rfl
@[simp] theorem exec_msgUnrsv (c : CoreId) (w : U32) (s : State) : exec (.msgUnrsv c w) s = execMsgUnrsv c w s := rfl
@[simp] theorem exec_messageArrival (dst : CoreId) (mailbox : BitVec 4) (srcPkg : Pkg) (srcCore : CoreId) (s : State) : exec (.messageArrival dst mailbox srcPkg srcCore) s = execMessageArrival dst mailbox srcPkg srcCore s := rfl
@[simp] theorem exec_dmaCopy (c : CoreId) (w : U32) (s : State) : exec (.dmaCopy c w) s = execDmaCopy c w s := rfl
@[simp] theorem exec_dmaFill (c : CoreId) (w : U32) (s : State) : exec (.dmaFill c w) s = execDmaFill c w s := rfl
@[simp] theorem exec_dmaWait (c : CoreId) (w : U32) (s : State) : exec (.dmaWait c w) s = execDmaWait c w s := rfl
@[simp] theorem exec_dmaCommandComplete (c : CoreId) (tag : Byte) (s : State) : exec (.dmaCommandComplete c tag) s = execDmaCommandComplete c tag s := rfl
@[simp] theorem exec_rngGen (c : CoreId) (w : RngIssue) (s : State) : exec (.rngGen c w) s = execRngGen c w s := rfl
@[simp] theorem exec_rngVfill (c : CoreId) (w : RngIssue) (s : State) : exec (.rngVfill c w) s = execRngVfill c w s := rfl
@[simp] theorem exec_hud (c : CoreId) (w : U32) (s : State) : exec (.hud c w) s = execHud c w s := rfl
@[simp] theorem exec_huddleRelease (g : GroupId) (s : State) : exec (.huddleRelease g) s = execHuddleRelease g s := rfl
@[simp] theorem exec_snapshotCopyComplete (c : CoreId) (fault : Option SaveFault) (s : State) : exec (.snapshotCopyComplete c fault) s = execSnapshotCopyComplete c fault s := rfl
@[simp] theorem exec_preemptSaveComplete (g : GroupId) (fault : Option SaveFault) (s : State) : exec (.preemptSaveComplete g fault) s = execPreemptSaveComplete g fault s := rfl
@[simp] theorem exec_resumeRestoreComplete (g : GroupId) (fault : Option SaveFault) (s : State) : exec (.resumeRestoreComplete g fault) s = execResumeRestoreComplete g fault s := rfl
@[simp] theorem exec_hudLocal (c : CoreId) (w : U32) (s : State) : exec (.hudLocal c w) s = execHudLocal c w s := rfl
@[simp] theorem exec_nop (c : CoreId) (w : U32) (s : State) : exec (.nop c w) s = execNop c w s := rfl
@[simp] theorem exec_beats (c : CoreId) (w : U32) (s : State) : exec (.beats c w) s = execBeats c w s := rfl
@[simp] theorem exec_softwareFault (c : CoreId) (w : U32) (s : State) : exec (.softwareFault c w) s = execSoftwareFault c w s := rfl
@[simp] theorem exec_engineStall (c : CoreId) (e : Engine) (found : EngineFinding) (s : State) : exec (.engineStall c e found) s = execEngineStall c e found s := rfl
@[simp] theorem exec_atomicRead (c : CoreId) (w : U32) (s : State) : exec (.atomicRead c w) s = execAtomicRead c w s := rfl
@[simp] theorem exec_atomicSwap (c : CoreId) (w : U32) (s : State) : exec (.atomicSwap c w) s = execAtomicSwap c w s := rfl
@[simp] theorem exec_compareAndSwap (c : CoreId) (w : U32) (s : State) : exec (.compareAndSwap c w) s = execCompareAndSwap c w s := rfl
@[simp] theorem exec_atomicAdd (c : CoreId) (w : U32) (s : State) : exec (.atomicAdd c w) s = execAtomicAdd c w s := rfl
@[simp] theorem exec_atomicAnd (c : CoreId) (w : U32) (s : State) : exec (.atomicAnd c w) s = execAtomicAnd c w s := rfl
@[simp] theorem exec_atomicOr (c : CoreId) (w : U32) (s : State) : exec (.atomicOr c w) s = execAtomicOr c w s := rfl
@[simp] theorem exec_atomicExclusiveOr (c : CoreId) (w : U32) (s : State) : exec (.atomicExclusiveOr c w) s = execAtomicExclusiveOr c w s := rfl
@[simp] theorem exec_atomicSignedMinimum (c : CoreId) (w : U32) (s : State) : exec (.atomicSignedMinimum c w) s = execAtomicSignedMinimum c w s := rfl
@[simp] theorem exec_atomicSignedMaximum (c : CoreId) (w : U32) (s : State) : exec (.atomicSignedMaximum c w) s = execAtomicSignedMaximum c w s := rfl
@[simp] theorem exec_atomicUnsignedMinimum (c : CoreId) (w : U32) (s : State) : exec (.atomicUnsignedMinimum c w) s = execAtomicUnsignedMinimum c w s := rfl
@[simp] theorem exec_atomicUnsignedMaximum (c : CoreId) (w : U32) (s : State) : exec (.atomicUnsignedMaximum c w) s = execAtomicUnsignedMaximum c w s := rfl
@[simp] theorem exec_atomicFp32Add (c : CoreId) (w : U32) (s : State) : exec (.atomicFp32Add c w) s = execAtomicFp32Add c w s := rfl
@[simp] theorem exec_leaseTake (c : CoreId) (w : U32) (s : State) : exec (.leaseTake c w) s = execLeaseTake c w s := rfl
@[simp] theorem exec_leaseRelease (c : CoreId) (w : U32) (s : State) : exec (.leaseRelease c w) s = execLeaseRelease c w s := rfl
@[simp] theorem exec_stockChannelFailure (ch : ChannelId) (s : State) : exec (.stockChannelFailure ch) s = execStockChannelFailure ch s := rfl
@[simp] theorem exec_domainDrainComplete (d : DomainId) (s : State) : exec (.domainDrainComplete d) s = execDomainDrainComplete d s := rfl
@[simp] theorem exec_headerStage (d : DomainId) (s : State) : exec (.headerStage d) s = execHeaderStage d s := rfl
@[simp] theorem exec_domainStagingComplete (d : DomainId) (s : State) : exec (.domainStagingComplete d) s = execDomainStagingComplete d s := rfl
@[simp] theorem exec_sealWordSample (slice : CoreId) (s : State) : exec (.sealWordSample slice) s = execSealWordSample slice s := rfl
@[simp] theorem exec_reelOffer (port : BitVec 5) (s : State) : exec (.reelOffer port) s = execReelOffer port s := rfl
@[simp] theorem exec_reelAccept (port : BitVec 5) (s : State) : exec (.reelAccept port) s = execReelAccept port s := rfl
@[simp] theorem exec_reelHold (port : BitVec 5) (s : State) : exec (.reelHold port) s = execReelHold port s := rfl
@[simp] theorem exec_offerResend (slice : CoreId) (entry : U16) (s : State) : exec (.offerResend slice entry) s = execOfferResend slice entry s := rfl
@[simp] theorem exec_reelStale (port : BitVec 5) (s : State) : exec (.reelStale port) s = execReelStale port s := rfl
@[simp] theorem exec_reelData (port : BitVec 5) (s : State) : exec (.reelData port) s = execReelData port s := rfl
@[simp] theorem exec_reelDone (port : BitVec 5) (s : State) : exec (.reelDone port) s = execReelDone port s := rfl
@[simp] theorem exec_slateTake (s : State) : exec (.slateTake) s = execSlateTake s := rfl
@[simp] theorem exec_slateWordSample (s : State) : exec (.slateWordSample) s = execSlateWordSample s := rfl
@[simp] theorem exec_slateDrain (s : State) : exec (.slateDrain) s = execSlateDrain s := rfl
@[simp] theorem exec_restoreFromDailies (s : State) : exec (.restoreFromDailies) s = execRestoreFromDailies s := rfl
@[simp] theorem exec_restoreFromHost (h : HostBytes) (s : State) : exec (.restoreFromHost h) s = execRestoreFromHost h s := rfl
@[simp] theorem exec_shardLoad (h : HostBytes) (s : State) : exec (.shardLoad h) s = execShardLoad h s := rfl
@[simp] theorem exec_releaseDailies (s : State) : exec (.releaseDailies) s = execReleaseDailies s := rfl
@[simp] theorem exec_modeWordOffer (n : LinkId) (word : U64) (s : State) : exec (.modeWordOffer n word) s = execModeWordOffer n word s := rfl
@[simp] theorem exec_modeWordChoice (n : LinkId) (word : U64) (s : State) : exec (.modeWordChoice n word) s = execModeWordChoice n word s := rfl
@[simp] theorem exec_modeWordConfirm (n : LinkId) (word : U64) (s : State) : exec (.modeWordConfirm n word) s = execModeWordConfirm n word s := rfl
@[simp] theorem exec_modeWordHold (n : LinkId) (word : U64) (s : State) : exec (.modeWordHold n word) s = execModeWordHold n word s := rfl
@[simp] theorem exec_holdHintExpiry (n : LinkId) (s : State) : exec (.holdHintExpiry n) s = execHoldHintExpiry n s := rfl
@[simp] theorem exec_kickoffConfirmTimeout (n : LinkId) (s : State) : exec (.kickoffConfirmTimeout n) s = execKickoffConfirmTimeout n s := rfl
@[simp] theorem exec_kickoffRetry (n : LinkId) (s : State) : exec (.kickoffRetry n) s = execKickoffRetry n s := rfl
@[simp] theorem exec_linkSignalDetect (n : LinkId) (s : State) : exec (.linkSignalDetect n) s = execLinkSignalDetect n s := rfl
@[simp] theorem exec_packetFlit (n : LinkId) (flit : List Byte) (s : State) : exec (.packetFlit n flit) s = execPacketFlit n flit s := rfl
@[simp] theorem exec_nullFlit (n : LinkId) (flit : List Byte) (s : State) : exec (.nullFlit n flit) s = execNullFlit n flit s := rfl
@[simp] theorem exec_replayRequest (n : LinkId) (flit : List Byte) (s : State) : exec (.replayRequest n flit) s = execReplayRequest n flit s := rfl
@[simp] theorem exec_replayTimeout (n : LinkId) (s : State) : exec (.replayTimeout n) s = execReplayTimeout n s := rfl
@[simp] theorem exec_foulFlit (n : LinkId) (flit : List Byte) (s : State) : exec (.foulFlit n flit) s = execFoulFlit n flit s := rfl
@[simp] theorem exec_linkControlPause (n : LinkId) (flit : List Byte) (s : State) : exec (.linkControlPause n flit) s = execLinkControlPause n flit s := rfl
@[simp] theorem exec_linkControlDown (n : LinkId) (flit : List Byte) (s : State) : exec (.linkControlDown n flit) s = execLinkControlDown n flit s := rfl
@[simp] theorem exec_pauseEnd (n : LinkId) (s : State) : exec (.pauseEnd n) s = execPauseEnd n s := rfl
@[simp] theorem exec_flitForward (s : State) : exec (.flitForward) s = execFlitForward s := rfl
@[simp] theorem exec_lossOfSignal (n : LinkId) (presence : Bool) (s : State) : exec (.lossOfSignal n presence) s = execLossOfSignal n presence s := rfl
@[simp] theorem exec_signalReturn (n : LinkId) (s : State) : exec (.signalReturn n) s = execSignalReturn n s := rfl
@[simp] theorem exec_recoveryExpiry (n : LinkId) (s : State) : exec (.recoveryExpiry n) s = execRecoveryExpiry n s := rfl
@[simp] theorem exec_synthesiserLocked (q : QuadId) (s : State) : exec (.synthesiserLocked q) s = execSynthesiserLocked q s := rfl
@[simp] theorem exec_synthesiserTuneTimeout (q : QuadId) (s : State) : exec (.synthesiserTuneTimeout q) s = execSynthesiserTuneTimeout q s := rfl
@[simp] theorem exec_synthesiserRetry (q : QuadId) (s : State) : exec (.synthesiserRetry q) s = execSynthesiserRetry q s := rfl
@[simp] theorem exec_quadRecalibration (q : QuadId) (tenths : Int) (s : State) : exec (.quadRecalibration q tenths) s = execQuadRecalibration q tenths s := rfl
@[simp] theorem exec_recalibrationDeadline (q : QuadId) (s : State) : exec (.recalibrationDeadline q) s = execRecalibrationDeadline q s := rfl
@[simp] theorem exec_quadRailStep (q : QuadId) (s : State) : exec (.quadRailStep q) s = execQuadRailStep q s := rfl
@[simp] theorem exec_tenantGoneNotice (port : BitVec 5) (s : State) : exec (.tenantGoneNotice port) s = execTenantGoneNotice port s := rfl
@[simp] theorem exec_tenantGoneAcknowledgement (port : BitVec 5) (s : State) : exec (.tenantGoneAcknowledgement port) s = execTenantGoneAcknowledgement port s := rfl
@[simp] theorem exec_revocationNotice (port : BitVec 5) (s : State) : exec (.revocationNotice port) s = execRevocationNotice port s := rfl
@[simp] theorem exec_revocationAcknowledgement (port : BitVec 5) (s : State) : exec (.revocationAcknowledgement port) s = execRevocationAcknowledgement port s := rfl
@[simp] theorem exec_messagePacket (port : BitVec 5) (s : State) : exec (.messagePacket port) s = execMessagePacket port s := rfl
@[simp] theorem exec_tileWritePacket (port : BitVec 5) (s : State) : exec (.tileWritePacket port) s = execTileWritePacket port s := rfl
@[simp] theorem exec_reservePacket (port : BitVec 5) (s : State) : exec (.reservePacket port) s = execReservePacket port s := rfl
@[simp] theorem exec_unreservePacket (port : BitVec 5) (s : State) : exec (.unreservePacket port) s = execUnreservePacket port s := rfl
@[simp] theorem exec_sendStatusPacket (port : BitVec 5) (s : State) : exec (.sendStatusPacket port) s = execSendStatusPacket port s := rfl
@[simp] theorem exec_readPacket (port : BitVec 5) (s : State) : exec (.readPacket port) s = execReadPacket port s := rfl
@[simp] theorem exec_writePacket (port : BitVec 5) (s : State) : exec (.writePacket port) s = execWritePacket port s := rfl
@[simp] theorem exec_ringIndexRequest (port : BitVec 5) (s : State) : exec (.ringIndexRequest port) s = execRingIndexRequest port s := rfl
@[simp] theorem exec_ringGrant (port : BitVec 5) (s : State) : exec (.ringGrant port) s = execRingGrant port s := rfl
@[simp] theorem exec_ringRecordPublish (ring : BitVec 3) (s : State) : exec (.ringRecordPublish ring) s = execRingRecordPublish ring s := rfl
@[simp] theorem exec_releaseIndexReport (port : BitVec 5) (s : State) : exec (.releaseIndexReport port) s = execReleaseIndexReport port s := rfl
@[simp] theorem exec_drainNotice (port : BitVec 5) (s : State) : exec (.drainNotice port) s = execDrainNotice port s := rfl
@[simp] theorem exec_keeperClaim (port : BitVec 5) (s : State) : exec (.keeperClaim port) s = execKeeperClaim port s := rfl
@[simp] theorem exec_claimStatus (port : BitVec 5) (s : State) : exec (.claimStatus port) s = execClaimStatus port s := rfl
@[simp] theorem exec_readDataPacket (port : BitVec 5) (s : State) : exec (.readDataPacket port) s = execReadDataPacket port s := rfl
@[simp] theorem exec_writeDonePacket (port : BitVec 5) (s : State) : exec (.writeDonePacket port) s = execWriteDonePacket port s := rfl
@[simp] theorem exec_undeliverablePacket (port : BitVec 5) (s : State) : exec (.undeliverablePacket port) s = execUndeliverablePacket port s := rfl
@[simp] theorem exec_pcieLinkUp (rate : Byte) (width : Byte) (bothFlit : Bool) (s : State) : exec (.pcieLinkUp rate width bothFlit) s = execPcieLinkUp rate width bothFlit s := rfl
@[simp] theorem exec_configurationRequest (f : FnId) (reg : ConfigReg) (write : Option U32) (s : State) : exec (.configurationRequest f reg write) s = execConfigurationRequest f reg write s := rfl
@[simp] theorem exec_submissionTailDoorbell (page : DoorbellPage) (value : U32) (s : State) : exec (.submissionTailDoorbell page value) s = execSubmissionTailDoorbell page value s := rfl
@[simp] theorem exec_completionHeadDoorbell (page : DoorbellPage) (value : U32) (s : State) : exec (.completionHeadDoorbell page value) s = execCompletionHeadDoorbell page value s := rfl
@[simp] theorem exec_submissionFetch (t : Tenant) (s : State) : exec (.submissionFetch t) s = execSubmissionFetch t s := rfl
@[simp] theorem exec_hostDictionaryAccess (t : Tenant) (h : HostBytes) (pre : PreCheck) (s : State) : exec (.hostDictionaryAccess t h pre) s = execHostDictionaryAccess t h pre s := rfl
@[simp] theorem exec_hostGroupControl (t : Tenant) (pre : PreCheck) (s : State) : exec (.hostGroupControl t pre) s = execHostGroupControl t pre s := rfl
@[simp] theorem exec_groupWaitComplete (t : Tenant) (slot : U16) (s : State) : exec (.groupWaitComplete t slot) s = execGroupWaitComplete t slot s := rfl
@[simp] theorem exec_hostCopy (t : Tenant) (h : HostBytes) (s : State) : exec (.hostCopy t h) s = execHostCopy t h s := rfl
@[simp] theorem exec_hostSlateOperation (t : Tenant) (s : State) : exec (.hostSlateOperation t) s = execHostSlateOperation t s := rfl
@[simp] theorem exec_hostNoOperation (t : Tenant) (s : State) : exec (.hostNoOperation t) s = execHostNoOperation t s := rfl
@[simp] theorem exec_completionPost (t : Tenant) (writeOk : Bool) (s : State) : exec (.completionPost t writeOk) s = execCompletionPost t writeOk s := rfl
@[simp] theorem exec_bar4Read (off : U64) (len : U16) (s : State) : exec (.bar4Read off len) s = execBar4Read off len s := rfl
@[simp] theorem exec_bar4Write (off : U64) (bytes : List Byte) (s : State) : exec (.bar4Write off bytes) s = execBar4Write off bytes s := rfl
@[simp] theorem exec_functionLevelReset (f : FnId) (s : State) : exec (.functionLevelReset f) s = execFunctionLevelReset f s := rfl
@[simp] theorem exec_hostPortReset (cause : HostResetCause) (s : State) : exec (.hostPortReset cause) s = execHostPortReset cause s := rfl
@[simp] theorem exec_canStandbyExit (s : State) : exec (.canStandbyExit) s = execCanStandbyExit s := rfl
@[simp] theorem exec_canSearchFrame (valid : Bool) (brs : Bool) (s : State) : exec (.canSearchFrame valid brs) s = execCanSearchFrame valid brs s := rfl
@[simp] theorem exec_canNominalSearchTimeout (s : State) : exec (.canNominalSearchTimeout) s = execCanNominalSearchTimeout s := rfl
@[simp] theorem exec_canDataSearchTimeout (s : State) : exec (.canDataSearchTimeout) s = execCanDataSearchTimeout s := rfl
@[simp] theorem exec_canBusOff (s : State) : exec (.canBusOff) s = execCanBusOff s := rfl
@[simp] theorem exec_canBusOffRecovery (s : State) : exec (.canBusOffRecovery) s = execCanBusOffRecovery s := rfl
@[simp] theorem exec_canDictionaryRequest (f : CanFrame) (pre : PreCheck) (s : State) : exec (.canDictionaryRequest f pre) s = execCanDictionaryRequest f pre s := rfl
@[simp] theorem exec_canAlarmFrame (f : CanFrame) (s : State) : exec (.canAlarmFrame f) s = execCanAlarmFrame f s := rfl
@[simp] theorem exec_canTimeSync (f : CanFrame) (s : State) : exec (.canTimeSync f) s = execCanTimeSync f s := rfl
@[simp] theorem exec_canHeartbeat (elapsedUs : Nat) (s : State) : exec (.canHeartbeat elapsedUs) s = execCanHeartbeat elapsedUs s := rfl
@[simp] theorem exec_spiRequest (x : SpiTransaction) (pre : PreCheck) (s : State) : exec (.spiRequest x pre) s = execSpiRequest x pre s := rfl
@[simp] theorem exec_spiFetch (x : SpiTransaction) (s : State) : exec (.spiFetch x) s = execSpiFetch x s := rfl
@[simp] theorem exec_spiNoOperation (x : SpiTransaction) (s : State) : exec (.spiNoOperation x) s = execSpiNoOperation x s := rfl
@[simp] theorem exec_spiReadyTimer (s : State) : exec (.spiReadyTimer) s = execSpiReadyTimer s := rfl
@[simp] theorem exec_flashStatusPoll (o : FlashOutcome) (s : State) : exec (.flashStatusPoll o) s = execFlashStatusPoll o s := rfl
@[simp] theorem exec_pmbusPoll (reading : List RegulatorReading) (s : State) : exec (.pmbusPoll reading) s = execPmbusPoll reading s := rfl
@[simp] theorem exec_pmbusAlert (rail : Rail) (status : U16) (s : State) : exec (.pmbusAlert rail status) s = execPmbusAlert rail status s := rfl
@[simp] theorem exec_pmbusRetry (sdaHigh : Bool) (s : State) : exec (.pmbusRetry sdaHigh) s = execPmbusRetry sdaHigh s := rfl
@[simp] theorem exec_busLend (s : State) : exec (.busLend) s = execBusLend s := rfl
@[simp] theorem exec_busTakeBack (sdaHigh : Bool) (s : State) : exec (.busTakeBack sdaHigh) s = execBusTakeBack sdaHigh s := rfl
@[simp] theorem exec_i2cRecovery (bus : I2cBus) (round : I2cRound) (s : State) : exec (.i2cRecovery bus round) s = execI2cRecovery bus round s := rfl
@[simp] theorem exec_i2cRecoveryRoundWait (bus : I2cBus) (round : I2cRound) (s : State) : exec (.i2cRecoveryRoundWait bus round) s = execI2cRecoveryRoundWait bus round s := rfl
@[simp] theorem exec_moduleBusRetry (round : I2cRound) (s : State) : exec (.moduleBusRetry round) s = execModuleBusRetry round s := rfl
@[simp] theorem exec_moduleInserted (n : LinkId) (s : State) : exec (.moduleInserted n) s = execModuleInserted n s := rfl
@[simp] theorem exec_moduleRemoved (n : LinkId) (s : State) : exec (.moduleRemoved n) s = execModuleRemoved n s := rfl
@[simp] theorem exec_moduleRead (n : LinkId) (bytes : List Byte) (s : State) : exec (.moduleRead n bytes) s = execModuleRead n bytes s := rfl
@[simp] theorem exec_transitionComplete (s : State) : exec (.transitionComplete) s = execTransitionComplete s := rfl
@[simp] theorem exec_transitionDeadline (s : State) : exec (.transitionDeadline) s = execTransitionDeadline s := rfl
@[simp] theorem exec_transitionReverted (s : State) : exec (.transitionReverted) s = execTransitionReverted s := rfl
@[simp] theorem exec_returningCommandSettle (mv : Nat) (s : State) : exec (.returningCommandSettle mv) s = execReturningCommandSettle mv s := rfl
@[simp] theorem exec_chainRetry (s : State) : exec (.chainRetry) s = execChainRetry s := rfl
@[simp] theorem exec_canaryMeasure (d : DomainId) (stressed : Nat) (twin : Nat) (s : State) : exec (.canaryMeasure d stressed twin) s = execCanaryMeasure d stressed twin s := rfl
@[simp] theorem exec_vaultRetentionMeasure (sliceTimesUs : List Nat) (s : State) : exec (.vaultRetentionMeasure sliceTimesUs) s = execVaultRetentionMeasure sliceTimesUs s := rfl
@[simp] theorem exec_ageingRecord (meanTenths : Int) (meanMv : Nat) (writeOk : List Bool) (s : State) : exec (.ageingRecord meanTenths meanMv writeOk) s = execAgeingRecord meanTenths meanMv writeOk s := rfl
@[simp] theorem exec_powerOnReset (s : State) : exec (.powerOnReset) s = execPowerOnReset s := rfl
@[simp] theorem exec_powerUp (o : PowerUpOutcome) (s : State) : exec (.powerUp o) s = execPowerUp o s := rfl
@[simp] theorem exec_stockTrainingComplete (found : List ChannelFinding) (s : State) : exec (.stockTrainingComplete found) s = execStockTrainingComplete found s := rfl
@[simp] theorem exec_stockWipeComplete (s : State) : exec (.stockWipeComplete) s = execStockWipeComplete s := rfl
@[simp] theorem exec_pcieCrsEnd (s : State) : exec (.pcieCrsEnd) s = execPcieCrsEnd s := rfl
@[simp] theorem exec_firmwareStart (s : State) : exec (.firmwareStart) s = execFirmwareStart s := rfl
@[simp] theorem exec_dictionaryReady (flash : FlashFinding) (h : HalfOutcome) (h2 : HalfOutcome) (s : State) : exec (.dictionaryReady flash h h2) s = execDictionaryReady flash h h2 s := rfl
@[simp] theorem exec_linksReleased (s : State) : exec (.linksReleased) s = execLinksReleased s := rfl
@[simp] theorem exec_mainPowerLoss (s : State) : exec (.mainPowerLoss) s = execMainPowerLoss s := rfl
@[simp] theorem exec_vstbyLoss (s : State) : exec (.vstbyLoss) s = execVstbyLoss s := rfl
@[simp] theorem exec_packageReset (s : State) : exec (.packageReset) s = execPackageReset s := rfl
@[simp] theorem exec_gafferWatchdogExpiry (within60s : Bool) (s : State) : exec (.gafferWatchdogExpiry within60s) s = execGafferWatchdogExpiry within60s s := rfl
@[simp] theorem exec_gafferReset (s : State) : exec (.gafferReset) s = execGafferReset s := rfl
@[simp] theorem exec_tapInstruction (tap : TapInstr) (s : State) : exec (.tapInstruction tap) s = execTapInstruction tap s := rfl
@[simp] theorem exec_railExcursion (rail : Rail) (mv : Int) (longerThan1ms : Bool) (s : State) : exec (.railExcursion rail mv longerThan1ms) s = execRailExcursion rail mv longerThan1ms s := rfl
@[simp] theorem exec_linkReferenceReturn (e : EdgeDie) (s : State) : exec (.linkReferenceReturn e) s = execLinkReferenceReturn e s := rfl
@[simp] theorem exec_equalisationTrainingComplete (n : LinkId) (s : State) : exec (.equalisationTrainingComplete n) s = execEqualisationTrainingComplete n s := rfl
@[simp] theorem exec_recalibrationComplete (q : QuadId) (pausedUs : Nat) (s : State) : exec (.recalibrationComplete q pausedUs) s = execRecalibrationComplete q pausedUs s := rfl
@[simp] theorem exec_canErrorPassive (tec : Byte) (rec : Byte) (s : State) : exec (.canErrorPassive tec rec) s = execCanErrorPassive tec rec s := rfl
@[simp] theorem exec_activeBitRateSwitchFrame (s : State) : exec (.activeBitRateSwitchFrame) s = execActiveBitRateSwitchFrame s := rfl
@[simp] theorem exec_fieldViolationFrame (f : CanFrame) (s : State) : exec (.fieldViolationFrame f) s = execFieldViolationFrame f s := rfl
@[simp] theorem exec_msiXTableWrite (f : FnId) (entry : U16) (dword : BitVec 2) (value : U32) (s : State) : exec (.msiXTableWrite f entry dword value) s = execMsiXTableWrite f entry dword value s := rfl
@[simp] theorem exec_hostReadCompletion (req : Nat) (r : HostReadResult) (s : State) : exec (.hostReadCompletion req r) s = execHostReadCompletion req r s := rfl
@[simp] theorem exec_completionTimeout (req : Nat) (s : State) : exec (.completionTimeout req) s = execCompletionTimeout req s := rfl
@[simp] theorem exec_sysResetNRise (s : State) : exec (.sysResetNRise) s = execSysResetNRise s := rfl
@[simp] theorem exec_pmbusTransactionEnd (o : BusOutcome) (s : State) : exec (.pmbusTransactionEnd o) s = execPmbusTransactionEnd o s := rfl

/-! ### Which operands are well formed -/

@[simp] theorem wellFormed_dictRead (a : Access) : wellFormed (.dictRead a) = (true) := rfl
@[simp] theorem wellFormed_dictReadInformation (a : Access) : wellFormed (.dictReadInformation a) = (true) := rfl
@[simp] theorem wellFormed_dictWrite (a : Access) : wellFormed (.dictWrite a) = (true) := rfl
@[simp] theorem wellFormed_stagedWrite (a : Access) : wellFormed (.stagedWrite a) = (true) := rfl
@[simp] theorem wellFormed_commit (a : Access) : wellFormed (.commit a) = (true) := rfl
@[simp] theorem wellFormed_discardStage (a : Access) : wellFormed (.discardStage a) = (true) := rfl
@[simp] theorem wellFormed_restoreDefault (a : Access) : wellFormed (.restoreDefault a) = (true) := rfl
@[simp] theorem wellFormed_writePiece (a : Access) : wellFormed (.writePiece a) = (true) := rfl
@[simp] theorem wellFormed_stageExpiry (index : U16) (sub : Byte) (sel : Tenant) : wellFormed (.stageExpiry index sub sel) = (true) := rfl
@[simp] theorem wellFormed_windowSlotDoorbell (win : WindowId) (value : U32) (written : List Byte) (pre : PreCheck) : wellFormed (.windowSlotDoorbell win value written pre) = (true) := rfl
@[simp] theorem wellFormed_windowCompletionClear (win : WindowId) (off : U16) (value : U32) : wellFormed (.windowCompletionClear win off value) = (true) := rfl
@[simp] theorem wellFormed_journalRecordSealed (o : FlashOutcome) : wellFormed (.journalRecordSealed o) = (true) := rfl
@[simp] theorem wellFormed_journalCompaction (h : HalfOutcome) : wellFormed (.journalCompaction h) = (true) := rfl
@[simp] theorem wellFormed_compactionRetry (h : HalfOutcome) : wellFormed (.compactionRetry h) = (true) := rfl
@[simp] theorem wellFormed_lifeCycleTransition (a : Access) : wellFormed (.lifeCycleTransition a) = (baseOf a.index.toNat == some 0x1011) := rfl
@[simp] theorem wellFormed_vcoreFSetpointCommit (a : Access) : wellFormed (.vcoreFSetpointCommit a) = (baseOf a.index.toNat == some 0x2000) := rfl
@[simp] theorem wellFormed_powerStateRequest (a : Access) : wellFormed (.powerStateRequest a) = (baseOf a.index.toNat == some 0x2010) := rfl
@[simp] theorem wellFormed_holdRecoveryRequest (a : Access) : wellFormed (.holdRecoveryRequest a) = (baseOf a.index.toNat == some 0x2051) := rfl
@[simp] theorem wellFormed_groupStart (a : Access) : wellFormed (.groupStart a) = (baseOf a.index.toNat == some 0x4300) := rfl
@[simp] theorem wellFormed_groupPreempt (a : Access) : wellFormed (.groupPreempt a) = (baseOf a.index.toNat == some 0x4300) := rfl
@[simp] theorem wellFormed_groupResume (a : Access) : wellFormed (.groupResume a) = (baseOf a.index.toNat == some 0x4300) := rfl
@[simp] theorem wellFormed_groupAbort (a : Access) : wellFormed (.groupAbort a) = (baseOf a.index.toNat == some 0x4300) := rfl
@[simp] theorem wellFormed_routeTableWrite (a : Access) : wellFormed (.routeTableWrite a) = (baseOf a.index.toNat == some 0x5000) := rfl
@[simp] theorem wellFormed_benchSubstitution (a : Access) : wellFormed (.benchSubstitution a) = (baseOf a.index.toNat == some 0x5001) := rfl
@[simp] theorem wellFormed_linkDisable (a : Access) : wellFormed (.linkDisable a) = (baseOf a.index.toNat == some 0x5100) := rfl
@[simp] theorem wellFormed_linkEnable (a : Access) : wellFormed (.linkEnable a) = (baseOf a.index.toNat == some 0x5100) := rfl
@[simp] theorem wellFormed_ringConfigure (a : Access) : wellFormed (.ringConfigure a) = (baseOf a.index.toNat == some 0x7130) := rfl
@[simp] theorem wellFormed_queueEnable (a : Access) : wellFormed (.queueEnable a) = (baseOf a.index.toNat == some 0x8100) := rfl
@[simp] theorem wellFormed_queueDisable (a : Access) : wellFormed (.queueDisable a) = (baseOf a.index.toNat == some 0x8100) := rfl
@[simp] theorem wellFormed_alarmClear (a : Access) : wellFormed (.alarmClear a) = (baseOf a.index.toNat == some 0x9005) := rfl
@[simp] theorem wellFormed_keyDigestWrite (a : Access) : wellFormed (.keyDigestWrite a) = (baseOf a.index.toNat == some 0xA010) := rfl
@[simp] theorem wellFormed_unlockChallengeRead (a : Access) : wellFormed (.unlockChallengeRead a) = (baseOf a.index.toNat == some 0xA020) := rfl
@[simp] theorem wellFormed_unlockResponseWrite (a : Access) : wellFormed (.unlockResponseWrite a) = (baseOf a.index.toNat == some 0xA021) := rfl
@[simp] theorem wellFormed_tenantReset (a : Access) : wellFormed (.tenantReset a) = (baseOf a.index.toNat == some 0xA031) := rfl
@[simp] theorem wellFormed_tenantResetAcksComplete (t : Tenant) : wellFormed (.tenantResetAcksComplete t) = (true) := rfl
@[simp] theorem wellFormed_tenantResetAckTimeout (t : Tenant) : wellFormed (.tenantResetAckTimeout t) = (true) := rfl
@[simp] theorem wellFormed_tenantResetComplete (t : Tenant) : wellFormed (.tenantResetComplete t) = (true) := rfl
@[simp] theorem wellFormed_eventLogClear (a : Access) : wellFormed (.eventLogClear a) = (baseOf a.index.toNat == some 0xF002) := rfl
@[simp] theorem wellFormed_counterClear (a : Access) : wellFormed (.counterClear a) = (baseOf a.index.toNat == some 0xF003) := rfl
@[simp] theorem wellFormed_bridgeFlitArrival (b : BridgeId) (ch : BitVec 5) (flit : FabricFlit) (crc : U16) : wellFormed (.bridgeFlitArrival b ch flit crc) = (true) := rfl
@[simp] theorem wellFormed_bridgeChannelOutOfService (b : BridgeId) (ch : BitVec 5) : wellFormed (.bridgeChannelOutOfService b ch) = (true) := rfl
@[simp] theorem wellFormed_bridgeStall (e : EdgeDie) (ch : BitVec 4) : wellFormed (.bridgeStall e ch) = (true) := rfl
@[simp] theorem wellFormed_linkReferenceStop (e : EdgeDie) : wellFormed (.linkReferenceStop e) = (true) := rfl
@[simp] theorem wellFormed_meshFlitArrival (hop : RouterFlit) (found : List EccFinding) : wellFormed (.meshFlitArrival hop found) = (true) := rfl
@[simp] theorem wellFormed_refreshTimebaseCalibration (die : FieldDie) : wellFormed (.refreshTimebaseCalibration die) = (true) := rfl
@[simp] theorem wellFormed_vaultRefresh (slice : CoreId) (bank : BitVec 4) : wellFormed (.vaultRefresh slice bank) = (true) := rfl
@[simp] theorem wellFormed_refreshPeriodChange (die : FieldDie) (hottestTenths : Int) : wellFormed (.refreshPeriodChange die hottestTenths) = (true) := rfl
@[simp] theorem wellFormed_vaultScrub (slice : CoreId) : wellFormed (.vaultScrub slice) = (true) := rfl
@[simp] theorem wellFormed_droopTrip (site : DroopSite) (senseMv : Nat) : wellFormed (.droopTrip site senseMv) = (true) := rfl
@[simp] theorem wellFormed_droopCauseClear (die : FieldDie) : wellFormed (.droopCauseClear die) = (true) := rfl
@[simp] theorem wellFormed_senseSample (r : SenseReadings) : wellFormed (.senseSample r) = (true) := rfl
@[simp] theorem wellFormed_msWindowEnd (r : WindowReadings) : wellFormed (.msWindowEnd r) = (true) := rfl
@[simp] theorem wellFormed_intAdd (c : CoreId) (w : U32) : wellFormed (.intAdd c w) = (wordFor w (fun p => p == .integer 0x0)) := rfl
@[simp] theorem wellFormed_intSubtract (c : CoreId) (w : U32) : wellFormed (.intSubtract c w) = (wordFor w (fun p => p == .integer 0x1)) := rfl
@[simp] theorem wellFormed_intAnd (c : CoreId) (w : U32) : wellFormed (.intAnd c w) = (wordFor w (fun p => p == .integer 0x2)) := rfl
@[simp] theorem wellFormed_intOr (c : CoreId) (w : U32) : wellFormed (.intOr c w) = (wordFor w (fun p => p == .integer 0x3)) := rfl
@[simp] theorem wellFormed_intExclusiveOr (c : CoreId) (w : U32) : wellFormed (.intExclusiveOr c w) = (wordFor w (fun p => p == .integer 0x4)) := rfl
@[simp] theorem wellFormed_intShiftLeft (c : CoreId) (w : U32) : wellFormed (.intShiftLeft c w) = (wordFor w (fun p => p == .integer 0x5)) := rfl
@[simp] theorem wellFormed_intLogicalRight (c : CoreId) (w : U32) : wellFormed (.intLogicalRight c w) = (wordFor w (fun p => p == .integer 0x6)) := rfl
@[simp] theorem wellFormed_intArithmeticRight (c : CoreId) (w : U32) : wellFormed (.intArithmeticRight c w) = (wordFor w (fun p => p == .integer 0x7)) := rfl
@[simp] theorem wellFormed_intProductLow (c : CoreId) (w : U32) : wellFormed (.intProductLow c w) = (wordFor w (fun p => p == .integer 0x8)) := rfl
@[simp] theorem wellFormed_intProductHighUnsigned (c : CoreId) (w : U32) : wellFormed (.intProductHighUnsigned c w) = (wordFor w (fun p => p == .integer 0x9)) := rfl
@[simp] theorem wellFormed_intLessSigned (c : CoreId) (w : U32) : wellFormed (.intLessSigned c w) = (wordFor w (fun p => p == .integer 0xA)) := rfl
@[simp] theorem wellFormed_intLessUnsigned (c : CoreId) (w : U32) : wellFormed (.intLessUnsigned c w) = (wordFor w (fun p => p == .integer 0xB)) := rfl
@[simp] theorem wellFormed_intSignedMinimum (c : CoreId) (w : U32) : wellFormed (.intSignedMinimum c w) = (wordFor w (fun p => p == .integer 0xC)) := rfl
@[simp] theorem wellFormed_intSignedMaximum (c : CoreId) (w : U32) : wellFormed (.intSignedMaximum c w) = (wordFor w (fun p => p == .integer 0xD)) := rfl
@[simp] theorem wellFormed_intLeadingZeros (c : CoreId) (w : U32) : wellFormed (.intLeadingZeros c w) = (wordFor w (fun p => p == .integer 0xE)) := rfl
@[simp] theorem wellFormed_intSetBits (c : CoreId) (w : U32) : wellFormed (.intSetBits c w) = (wordFor w (fun p => p == .integer 0xF)) := rfl
@[simp] theorem wellFormed_addImmediate (c : CoreId) (w : U32) : wellFormed (.addImmediate c w) = (wordFor w (fun p => p == .immediate 0)) := rfl
@[simp] theorem wellFormed_andImmediate (c : CoreId) (w : U32) : wellFormed (.andImmediate c w) = (wordFor w (fun p => p == .immediate 1)) := rfl
@[simp] theorem wellFormed_orImmediate (c : CoreId) (w : U32) : wellFormed (.orImmediate c w) = (wordFor w (fun p => p == .immediate 2)) := rfl
@[simp] theorem wellFormed_shiftOrImmediate (c : CoreId) (w : U32) : wellFormed (.shiftOrImmediate c w) = (wordFor w (fun p => p == .immediate 3)) := rfl
@[simp] theorem wellFormed_load (c : CoreId) (w : U32) : wellFormed (.load c w) = (wordFor w (fun p => p == .load (lsWidth w))) := rfl
@[simp] theorem wellFormed_store (c : CoreId) (w : U32) : wellFormed (.store c w) = (wordFor w (fun p => p == .store (lsWidth w))) := rfl
@[simp] theorem wellFormed_branch (c : CoreId) (w : U32) : wellFormed (.branch c w) = (wordFor w (fun p => match p with | .branch _ => true | _ => false)) := rfl
@[simp] theorem wellFormed_jumpAndLink (c : CoreId) (w : U32) : wellFormed (.jumpAndLink c w) = (wordFor w (fun p => p == .jump)) := rfl
@[simp] theorem wellFormed_arrayProduct (c : CoreId) (w : U32) : wellFormed (.arrayProduct c w) = (wordFor w (fun p => p == .arrGo)) := rfl
@[simp] theorem wellFormed_attention (c : CoreId) (w : U32) : wellFormed (.attention c w) = (wordFor w (fun p => p == .arrGo)) := rfl
@[simp] theorem wellFormed_streamOpen (c : CoreId) (w : U32) : wellFormed (.streamOpen c w) = (wordFor w (fun p => p == .arrGo)) := rfl
@[simp] theorem wellFormed_streamCommit (c : CoreId) (w : U32) : wellFormed (.streamCommit c w) = (wordFor w (fun p => p == .arrGo)) := rfl
@[simp] theorem wellFormed_storyboardCompaction (c : CoreId) : wellFormed (.storyboardCompaction c) = (true) := rfl
@[simp] theorem wellFormed_streamPark (c : CoreId) (w : U32) : wellFormed (.streamPark c w) = (wordFor w (fun p => p == .arrGo)) := rfl
@[simp] theorem wellFormed_streamUnpark (c : CoreId) (w : U32) : wellFormed (.streamUnpark c w) = (wordFor w (fun p => p == .arrGo)) := rfl
@[simp] theorem wellFormed_streamClose (c : CoreId) (w : U32) : wellFormed (.streamClose c w) = (wordFor w (fun p => p == .arrGo)) := rfl
@[simp] theorem wellFormed_streamRead (c : CoreId) (w : U32) : wellFormed (.streamRead c w) = (wordFor w (fun p => p == .arrGo)) := rfl
@[simp] theorem wellFormed_streamRoster (c : CoreId) (w : U32) : wellFormed (.streamRoster c w) = (wordFor w (fun p => p == .arrGo)) := rfl
@[simp] theorem wellFormed_streamAdopt (c : CoreId) (w : U32) : wellFormed (.streamAdopt c w) = (wordFor w (fun p => p == .arrGo)) := rfl
@[simp] theorem wellFormed_followReelWaitEnd (c : CoreId) : wellFormed (.followReelWaitEnd c) = (true) := rfl
@[simp] theorem wellFormed_ringQueueWaitEnd (c : CoreId) : wellFormed (.ringQueueWaitEnd c) = (true) := rfl
@[simp] theorem wellFormed_arrWait (c : CoreId) (w : U32) : wellFormed (.arrWait c w) = (wordFor w (fun p => p == .arrWait)) := rfl
@[simp] theorem wellFormed_epilogueBlock (c : CoreId) : wellFormed (.epilogueBlock c) = (true) := rfl
@[simp] theorem wellFormed_deferredSweep (c : CoreId) : wellFormed (.deferredSweep c) = (true) := rfl
@[simp] theorem wellFormed_tileSendBlock (c : CoreId) : wellFormed (.tileSendBlock c) = (true) := rfl
@[simp] theorem wellFormed_arrayCommandComplete (c : CoreId) : wellFormed (.arrayCommandComplete c) = (true) := rfl
@[simp] theorem wellFormed_attentionComplete (c : CoreId) : wellFormed (.attentionComplete c) = (true) := rfl
@[simp] theorem wellFormed_vectorAdd (c : CoreId) (w : U32) : wellFormed (.vectorAdd c w) = (wordFor w (fun p => p == .vectorArith)) := rfl
@[simp] theorem wellFormed_vectorSubtract (c : CoreId) (w : U32) : wellFormed (.vectorSubtract c w) = (wordFor w (fun p => p == .vectorArith)) := rfl
@[simp] theorem wellFormed_vectorMultiply (c : CoreId) (w : U32) : wellFormed (.vectorMultiply c w) = (wordFor w (fun p => p == .vectorArith)) := rfl
@[simp] theorem wellFormed_vectorFusedMultiplyAdd (c : CoreId) (w : U32) : wellFormed (.vectorFusedMultiplyAdd c w) = (wordFor w (fun p => p == .vectorArith)) := rfl
@[simp] theorem wellFormed_vectorMinimum (c : CoreId) (w : U32) : wellFormed (.vectorMinimum c w) = (wordFor w (fun p => p == .vectorArith)) := rfl
@[simp] theorem wellFormed_vectorMaximum (c : CoreId) (w : U32) : wellFormed (.vectorMaximum c w) = (wordFor w (fun p => p == .vectorArith)) := rfl
@[simp] theorem wellFormed_vectorCompare (c : CoreId) (w : U32) (p : CmpPred) : wellFormed (.vectorCompare c w p) = (wordFor w (fun q => q == .vectorArith)) := rfl
@[simp] theorem wellFormed_vectorSelect (c : CoreId) (w : U32) : wellFormed (.vectorSelect c w) = (wordFor w (fun p => p == .vectorSelect)) := rfl
@[simp] theorem wellFormed_vectorExp2 (c : CoreId) (w : U32) : wellFormed (.vectorExp2 c w) = (wordFor w (fun p => p == .vectorFn 0x10)) := rfl
@[simp] theorem wellFormed_vectorLog2 (c : CoreId) (w : U32) : wellFormed (.vectorLog2 c w) = (wordFor w (fun p => p == .vectorFn 0x11)) := rfl
@[simp] theorem wellFormed_vectorReciprocal (c : CoreId) (w : U32) : wellFormed (.vectorReciprocal c w) = (wordFor w (fun p => p == .vectorFn 0x12)) := rfl
@[simp] theorem wellFormed_vectorReciprocalSquareRoot (c : CoreId) (w : U32) : wellFormed (.vectorReciprocalSquareRoot c w) = (wordFor w (fun p => p == .vectorFn 0x13)) := rfl
@[simp] theorem wellFormed_vectorSquareRoot (c : CoreId) (w : U32) : wellFormed (.vectorSquareRoot c w) = (wordFor w (fun p => p == .vectorFn 0x14)) := rfl
@[simp] theorem wellFormed_vectorExp (c : CoreId) (w : U32) : wellFormed (.vectorExp c w) = (wordFor w (fun p => p == .vectorFn 0x15)) := rfl
@[simp] theorem wellFormed_vectorSigmoid (c : CoreId) (w : U32) : wellFormed (.vectorSigmoid c w) = (wordFor w (fun p => p == .vectorFn 0x16)) := rfl
@[simp] theorem wellFormed_vectorTanh (c : CoreId) (w : U32) : wellFormed (.vectorTanh c w) = (wordFor w (fun p => p == .vectorFn 0x17)) := rfl
@[simp] theorem wellFormed_laneSum (c : CoreId) (w : U32) : wellFormed (.laneSum c w) = (wordFor w (fun p => p == .vectorReduce 0x20)) := rfl
@[simp] theorem wellFormed_laneMaximum (c : CoreId) (w : U32) : wellFormed (.laneMaximum c w) = (wordFor w (fun p => p == .vectorReduce 0x21)) := rfl
@[simp] theorem wellFormed_vectorLoad (c : CoreId) (w : U32) : wellFormed (.vectorLoad c w) = (wordFor w (fun p => match p with | .vectorLoadStore _ => true | _ => false)) := rfl
@[simp] theorem wellFormed_vectorStore (c : CoreId) (w : U32) : wellFormed (.vectorStore c w) = (wordFor w (fun p => match p with | .vectorLoadStore _ => true | _ => false)) := rfl
@[simp] theorem wellFormed_vSoftmax (c : CoreId) (w : U32) : wellFormed (.vSoftmax c w) = (wordFor w (fun p => p == .softmax)) := rfl
@[simp] theorem wellFormed_msgRsv (c : CoreId) (w : U32) : wellFormed (.msgRsv c w) = (wordFor w (fun p => p == .message 1)) := rfl
@[simp] theorem wellFormed_msgSend (c : CoreId) (w : U32) : wellFormed (.msgSend c w) = (wordFor w (fun p => p == .message 2)) := rfl
@[simp] theorem wellFormed_msgRecv (c : CoreId) (w : U32) : wellFormed (.msgRecv c w) = (wordFor w (fun p => p == .message 3)) := rfl
@[simp] theorem wellFormed_msgPoll (c : CoreId) (w : U32) : wellFormed (.msgPoll c w) = (wordFor w (fun p => p == .message 4)) := rfl
@[simp] theorem wellFormed_msgUnrsv (c : CoreId) (w : U32) : wellFormed (.msgUnrsv c w) = (wordFor w (fun p => p == .message 5)) := rfl
@[simp] theorem wellFormed_messageArrival (dst : CoreId) (mailbox : BitVec 4) (srcPkg : Pkg) (srcCore : CoreId) : wellFormed (.messageArrival dst mailbox srcPkg srcCore) = (true) := rfl
@[simp] theorem wellFormed_dmaCopy (c : CoreId) (w : U32) : wellFormed (.dmaCopy c w) = (wordFor w (fun p => p == .dmaGo)) := rfl
@[simp] theorem wellFormed_dmaFill (c : CoreId) (w : U32) : wellFormed (.dmaFill c w) = (wordFor w (fun p => p == .dmaGo)) := rfl
@[simp] theorem wellFormed_dmaWait (c : CoreId) (w : U32) : wellFormed (.dmaWait c w) = (wordFor w (fun p => p == .dmaWait)) := rfl
@[simp] theorem wellFormed_dmaCommandComplete (c : CoreId) (tag : Byte) : wellFormed (.dmaCommandComplete c tag) = (true) := rfl
@[simp] theorem wellFormed_rngGen (c : CoreId) (w : RngIssue) : wellFormed (.rngGen c w) = (wordFor w.word (fun p => p == .rngGen)) := rfl
@[simp] theorem wellFormed_rngVfill (c : CoreId) (w : RngIssue) : wellFormed (.rngVfill c w) = (wordFor w.word (fun p => p == .rngVfill)) := rfl
@[simp] theorem wellFormed_hud (c : CoreId) (w : U32) : wellFormed (.hud c w) = (wordFor w (fun p => p == .hud)) := rfl
@[simp] theorem wellFormed_huddleRelease (g : GroupId) : wellFormed (.huddleRelease g) = (true) := rfl
@[simp] theorem wellFormed_snapshotCopyComplete (c : CoreId) (fault : Option SaveFault) : wellFormed (.snapshotCopyComplete c fault) = (true) := rfl
@[simp] theorem wellFormed_preemptSaveComplete (g : GroupId) (fault : Option SaveFault) : wellFormed (.preemptSaveComplete g fault) = (true) := rfl
@[simp] theorem wellFormed_resumeRestoreComplete (g : GroupId) (fault : Option SaveFault) : wellFormed (.resumeRestoreComplete g fault) = (true) := rfl
@[simp] theorem wellFormed_hudLocal (c : CoreId) (w : U32) : wellFormed (.hudLocal c w) = (wordFor w (fun p => p == .hudLocal)) := rfl
@[simp] theorem wellFormed_nop (c : CoreId) (w : U32) : wellFormed (.nop c w) = (wordFor w (fun p => p == .nop)) := rfl
@[simp] theorem wellFormed_beats (c : CoreId) (w : U32) : wellFormed (.beats c w) = (wordFor w (fun p => p == .beats)) := rfl
@[simp] theorem wellFormed_softwareFault (c : CoreId) (w : U32) : wellFormed (.softwareFault c w) = (wordFor w (fun p => p == .fault)) := rfl
@[simp] theorem wellFormed_engineStall (c : CoreId) (e : Engine) (found : EngineFinding) : wellFormed (.engineStall c e found) = (true) := rfl
@[simp] theorem wellFormed_atomicRead (c : CoreId) (w : U32) : wellFormed (.atomicRead c w) = (wordFor w (fun p => p == .atomic 0x0 4 || p == .atomic 0x0 8)) := rfl
@[simp] theorem wellFormed_atomicSwap (c : CoreId) (w : U32) : wellFormed (.atomicSwap c w) = (wordFor w (fun p => p == .atomic 0x1 4 || p == .atomic 0x1 8)) := rfl
@[simp] theorem wellFormed_compareAndSwap (c : CoreId) (w : U32) : wellFormed (.compareAndSwap c w) = (wordFor w (fun p => p == .atomic 0x2 4 || p == .atomic 0x2 8)) := rfl
@[simp] theorem wellFormed_atomicAdd (c : CoreId) (w : U32) : wellFormed (.atomicAdd c w) = (wordFor w (fun p => p == .atomic 0x3 4 || p == .atomic 0x3 8)) := rfl
@[simp] theorem wellFormed_atomicAnd (c : CoreId) (w : U32) : wellFormed (.atomicAnd c w) = (wordFor w (fun p => p == .atomic 0x4 4 || p == .atomic 0x4 8)) := rfl
@[simp] theorem wellFormed_atomicOr (c : CoreId) (w : U32) : wellFormed (.atomicOr c w) = (wordFor w (fun p => p == .atomic 0x5 4 || p == .atomic 0x5 8)) := rfl
@[simp] theorem wellFormed_atomicExclusiveOr (c : CoreId) (w : U32) : wellFormed (.atomicExclusiveOr c w) = (wordFor w (fun p => p == .atomic 0x6 4 || p == .atomic 0x6 8)) := rfl
@[simp] theorem wellFormed_atomicSignedMinimum (c : CoreId) (w : U32) : wellFormed (.atomicSignedMinimum c w) = (wordFor w (fun p => p == .atomic 0x7 4 || p == .atomic 0x7 8)) := rfl
@[simp] theorem wellFormed_atomicSignedMaximum (c : CoreId) (w : U32) : wellFormed (.atomicSignedMaximum c w) = (wordFor w (fun p => p == .atomic 0x8 4 || p == .atomic 0x8 8)) := rfl
@[simp] theorem wellFormed_atomicUnsignedMinimum (c : CoreId) (w : U32) : wellFormed (.atomicUnsignedMinimum c w) = (wordFor w (fun p => p == .atomic 0x9 4 || p == .atomic 0x9 8)) := rfl
@[simp] theorem wellFormed_atomicUnsignedMaximum (c : CoreId) (w : U32) : wellFormed (.atomicUnsignedMaximum c w) = (wordFor w (fun p => p == .atomic 0xA 4 || p == .atomic 0xA 8)) := rfl
@[simp] theorem wellFormed_atomicFp32Add (c : CoreId) (w : U32) : wellFormed (.atomicFp32Add c w) = (wordFor w (fun p => p == .atomic 0xB 4 || p == .atomic 0xB 8)) := rfl
@[simp] theorem wellFormed_leaseTake (c : CoreId) (w : U32) : wellFormed (.leaseTake c w) = (wordFor w (fun p => p == .atomic 0xC 4 || p == .atomic 0xC 8)) := rfl
@[simp] theorem wellFormed_leaseRelease (c : CoreId) (w : U32) : wellFormed (.leaseRelease c w) = (wordFor w (fun p => p == .atomic 0xD 4 || p == .atomic 0xD 8)) := rfl
@[simp] theorem wellFormed_stockChannelFailure (ch : ChannelId) : wellFormed (.stockChannelFailure ch) = (true) := rfl
@[simp] theorem wellFormed_domainDrainComplete (d : DomainId) : wellFormed (.domainDrainComplete d) = (true) := rfl
@[simp] theorem wellFormed_headerStage (d : DomainId) : wellFormed (.headerStage d) = (true) := rfl
@[simp] theorem wellFormed_domainStagingComplete (d : DomainId) : wellFormed (.domainStagingComplete d) = (true) := rfl
@[simp] theorem wellFormed_sealWordSample (slice : CoreId) : wellFormed (.sealWordSample slice) = (true) := rfl
@[simp] theorem wellFormed_reelOffer (port : BitVec 5) : wellFormed (.reelOffer port) = (true) := rfl
@[simp] theorem wellFormed_reelAccept (port : BitVec 5) : wellFormed (.reelAccept port) = (true) := rfl
@[simp] theorem wellFormed_reelHold (port : BitVec 5) : wellFormed (.reelHold port) = (true) := rfl
@[simp] theorem wellFormed_offerResend (slice : CoreId) (entry : U16) : wellFormed (.offerResend slice entry) = (true) := rfl
@[simp] theorem wellFormed_reelStale (port : BitVec 5) : wellFormed (.reelStale port) = (true) := rfl
@[simp] theorem wellFormed_reelData (port : BitVec 5) : wellFormed (.reelData port) = (true) := rfl
@[simp] theorem wellFormed_reelDone (port : BitVec 5) : wellFormed (.reelDone port) = (true) := rfl
@[simp] theorem wellFormed_slateTake : wellFormed (.slateTake) = (true) := rfl
@[simp] theorem wellFormed_slateWordSample : wellFormed (.slateWordSample) = (true) := rfl
@[simp] theorem wellFormed_slateDrain : wellFormed (.slateDrain) = (true) := rfl
@[simp] theorem wellFormed_restoreFromDailies : wellFormed (.restoreFromDailies) = (true) := rfl
@[simp] theorem wellFormed_restoreFromHost (h : HostBytes) : wellFormed (.restoreFromHost h) = (true) := rfl
@[simp] theorem wellFormed_shardLoad (h : HostBytes) : wellFormed (.shardLoad h) = (true) := rfl
@[simp] theorem wellFormed_releaseDailies : wellFormed (.releaseDailies) = (true) := rfl
@[simp] theorem wellFormed_modeWordOffer (n : LinkId) (word : U64) : wellFormed (.modeWordOffer n word) = (modeWordFor 1 word) := rfl
@[simp] theorem wellFormed_modeWordChoice (n : LinkId) (word : U64) : wellFormed (.modeWordChoice n word) = (modeWordFor 2 word) := rfl
@[simp] theorem wellFormed_modeWordConfirm (n : LinkId) (word : U64) : wellFormed (.modeWordConfirm n word) = (modeWordFor 3 word) := rfl
@[simp] theorem wellFormed_modeWordHold (n : LinkId) (word : U64) : wellFormed (.modeWordHold n word) = (modeWordFor 4 word) := rfl
@[simp] theorem wellFormed_holdHintExpiry (n : LinkId) : wellFormed (.holdHintExpiry n) = (true) := rfl
@[simp] theorem wellFormed_kickoffConfirmTimeout (n : LinkId) : wellFormed (.kickoffConfirmTimeout n) = (true) := rfl
@[simp] theorem wellFormed_kickoffRetry (n : LinkId) : wellFormed (.kickoffRetry n) = (true) := rfl
@[simp] theorem wellFormed_linkSignalDetect (n : LinkId) : wellFormed (.linkSignalDetect n) = (true) := rfl
@[simp] theorem wellFormed_packetFlit (n : LinkId) (flit : List Byte) : wellFormed (.packetFlit n flit) = (flitFor ftPacket flit) := rfl
@[simp] theorem wellFormed_nullFlit (n : LinkId) (flit : List Byte) : wellFormed (.nullFlit n flit) = (flitFor ftNull flit) := rfl
@[simp] theorem wellFormed_replayRequest (n : LinkId) (flit : List Byte) : wellFormed (.replayRequest n flit) = (flitFor ftReplay flit) := rfl
@[simp] theorem wellFormed_replayTimeout (n : LinkId) : wellFormed (.replayTimeout n) = (true) := rfl
@[simp] theorem wellFormed_foulFlit (n : LinkId) (flit : List Byte) : wellFormed (.foulFlit n flit) = (flitFor ftFoul flit) := rfl
@[simp] theorem wellFormed_linkControlPause (n : LinkId) (flit : List Byte) : wellFormed (.linkControlPause n flit) = (controlFor 1 flit) := rfl
@[simp] theorem wellFormed_linkControlDown (n : LinkId) (flit : List Byte) : wellFormed (.linkControlDown n flit) = (controlFor 2 flit) := rfl
@[simp] theorem wellFormed_pauseEnd (n : LinkId) : wellFormed (.pauseEnd n) = (true) := rfl
@[simp] theorem wellFormed_flitForward : wellFormed (.flitForward) = (true) := rfl
@[simp] theorem wellFormed_lossOfSignal (n : LinkId) (presence : Bool) : wellFormed (.lossOfSignal n presence) = (true) := rfl
@[simp] theorem wellFormed_signalReturn (n : LinkId) : wellFormed (.signalReturn n) = (true) := rfl
@[simp] theorem wellFormed_recoveryExpiry (n : LinkId) : wellFormed (.recoveryExpiry n) = (true) := rfl
@[simp] theorem wellFormed_synthesiserLocked (q : QuadId) : wellFormed (.synthesiserLocked q) = (true) := rfl
@[simp] theorem wellFormed_synthesiserTuneTimeout (q : QuadId) : wellFormed (.synthesiserTuneTimeout q) = (true) := rfl
@[simp] theorem wellFormed_synthesiserRetry (q : QuadId) : wellFormed (.synthesiserRetry q) = (true) := rfl
@[simp] theorem wellFormed_quadRecalibration (q : QuadId) (tenths : Int) : wellFormed (.quadRecalibration q tenths) = (true) := rfl
@[simp] theorem wellFormed_recalibrationDeadline (q : QuadId) : wellFormed (.recalibrationDeadline q) = (true) := rfl
@[simp] theorem wellFormed_quadRailStep (q : QuadId) : wellFormed (.quadRailStep q) = (true) := rfl
@[simp] theorem wellFormed_tenantGoneNotice (port : BitVec 5) : wellFormed (.tenantGoneNotice port) = (true) := rfl
@[simp] theorem wellFormed_tenantGoneAcknowledgement (port : BitVec 5) : wellFormed (.tenantGoneAcknowledgement port) = (true) := rfl
@[simp] theorem wellFormed_revocationNotice (port : BitVec 5) : wellFormed (.revocationNotice port) = (true) := rfl
@[simp] theorem wellFormed_revocationAcknowledgement (port : BitVec 5) : wellFormed (.revocationAcknowledgement port) = (true) := rfl
@[simp] theorem wellFormed_messagePacket (port : BitVec 5) : wellFormed (.messagePacket port) = (true) := rfl
@[simp] theorem wellFormed_tileWritePacket (port : BitVec 5) : wellFormed (.tileWritePacket port) = (true) := rfl
@[simp] theorem wellFormed_reservePacket (port : BitVec 5) : wellFormed (.reservePacket port) = (true) := rfl
@[simp] theorem wellFormed_unreservePacket (port : BitVec 5) : wellFormed (.unreservePacket port) = (true) := rfl
@[simp] theorem wellFormed_sendStatusPacket (port : BitVec 5) : wellFormed (.sendStatusPacket port) = (true) := rfl
@[simp] theorem wellFormed_readPacket (port : BitVec 5) : wellFormed (.readPacket port) = (true) := rfl
@[simp] theorem wellFormed_writePacket (port : BitVec 5) : wellFormed (.writePacket port) = (true) := rfl
@[simp] theorem wellFormed_ringIndexRequest (port : BitVec 5) : wellFormed (.ringIndexRequest port) = (true) := rfl
@[simp] theorem wellFormed_ringGrant (port : BitVec 5) : wellFormed (.ringGrant port) = (true) := rfl
@[simp] theorem wellFormed_ringRecordPublish (ring : BitVec 3) : wellFormed (.ringRecordPublish ring) = (true) := rfl
@[simp] theorem wellFormed_releaseIndexReport (port : BitVec 5) : wellFormed (.releaseIndexReport port) = (true) := rfl
@[simp] theorem wellFormed_drainNotice (port : BitVec 5) : wellFormed (.drainNotice port) = (true) := rfl
@[simp] theorem wellFormed_keeperClaim (port : BitVec 5) : wellFormed (.keeperClaim port) = (true) := rfl
@[simp] theorem wellFormed_claimStatus (port : BitVec 5) : wellFormed (.claimStatus port) = (true) := rfl
@[simp] theorem wellFormed_readDataPacket (port : BitVec 5) : wellFormed (.readDataPacket port) = (true) := rfl
@[simp] theorem wellFormed_writeDonePacket (port : BitVec 5) : wellFormed (.writeDonePacket port) = (true) := rfl
@[simp] theorem wellFormed_undeliverablePacket (port : BitVec 5) : wellFormed (.undeliverablePacket port) = (true) := rfl
@[simp] theorem wellFormed_pcieLinkUp (rate : Byte) (width : Byte) (bothFlit : Bool) : wellFormed (.pcieLinkUp rate width bothFlit) = (true) := rfl
@[simp] theorem wellFormed_configurationRequest (f : FnId) (reg : ConfigReg) (write : Option U32) : wellFormed (.configurationRequest f reg write) = (true) := rfl
@[simp] theorem wellFormed_submissionTailDoorbell (page : DoorbellPage) (value : U32) : wellFormed (.submissionTailDoorbell page value) = (true) := rfl
@[simp] theorem wellFormed_completionHeadDoorbell (page : DoorbellPage) (value : U32) : wellFormed (.completionHeadDoorbell page value) = (true) := rfl
@[simp] theorem wellFormed_submissionFetch (t : Tenant) : wellFormed (.submissionFetch t) = (true) := rfl
@[simp] theorem wellFormed_hostDictionaryAccess (t : Tenant) (h : HostBytes) (pre : PreCheck) : wellFormed (.hostDictionaryAccess t h pre) = (true) := rfl
@[simp] theorem wellFormed_hostGroupControl (t : Tenant) (pre : PreCheck) : wellFormed (.hostGroupControl t pre) = (true) := rfl
@[simp] theorem wellFormed_groupWaitComplete (t : Tenant) (slot : U16) : wellFormed (.groupWaitComplete t slot) = (true) := rfl
@[simp] theorem wellFormed_hostCopy (t : Tenant) (h : HostBytes) : wellFormed (.hostCopy t h) = (true) := rfl
@[simp] theorem wellFormed_hostSlateOperation (t : Tenant) : wellFormed (.hostSlateOperation t) = (true) := rfl
@[simp] theorem wellFormed_hostNoOperation (t : Tenant) : wellFormed (.hostNoOperation t) = (true) := rfl
@[simp] theorem wellFormed_completionPost (t : Tenant) (writeOk : Bool) : wellFormed (.completionPost t writeOk) = (true) := rfl
@[simp] theorem wellFormed_bar4Read (off : U64) (len : U16) : wellFormed (.bar4Read off len) = (true) := rfl
@[simp] theorem wellFormed_bar4Write (off : U64) (bytes : List Byte) : wellFormed (.bar4Write off bytes) = (true) := rfl
@[simp] theorem wellFormed_functionLevelReset (f : FnId) : wellFormed (.functionLevelReset f) = (true) := rfl
@[simp] theorem wellFormed_hostPortReset (cause : HostResetCause) : wellFormed (.hostPortReset cause) = (true) := rfl
@[simp] theorem wellFormed_canStandbyExit : wellFormed (.canStandbyExit) = (true) := rfl
@[simp] theorem wellFormed_canSearchFrame (valid : Bool) (brs : Bool) : wellFormed (.canSearchFrame valid brs) = (true) := rfl
@[simp] theorem wellFormed_canNominalSearchTimeout : wellFormed (.canNominalSearchTimeout) = (true) := rfl
@[simp] theorem wellFormed_canDataSearchTimeout : wellFormed (.canDataSearchTimeout) = (true) := rfl
@[simp] theorem wellFormed_canBusOff : wellFormed (.canBusOff) = (true) := rfl
@[simp] theorem wellFormed_canBusOffRecovery : wellFormed (.canBusOffRecovery) = (true) := rfl
@[simp] theorem wellFormed_canDictionaryRequest (f : CanFrame) (pre : PreCheck) : wellFormed (.canDictionaryRequest f pre) = (idSvc f == 1 && idClass f != 0) := rfl
@[simp] theorem wellFormed_canAlarmFrame (f : CanFrame) : wellFormed (.canAlarmFrame f) = (true) := rfl
@[simp] theorem wellFormed_canTimeSync (f : CanFrame) : wellFormed (.canTimeSync f) = (true) := rfl
@[simp] theorem wellFormed_canHeartbeat (elapsedUs : Nat) : wellFormed (.canHeartbeat elapsedUs) = (true) := rfl
@[simp] theorem wellFormed_spiRequest (x : SpiTransaction) (pre : PreCheck) : wellFormed (.spiRequest x pre) = (spiOpcode x == some 1) := rfl
@[simp] theorem wellFormed_spiFetch (x : SpiTransaction) : wellFormed (.spiFetch x) = (spiOpcode x == some 2) := rfl
@[simp] theorem wellFormed_spiNoOperation (x : SpiTransaction) : wellFormed (.spiNoOperation x) = (spiOpcode x != some 1 && spiOpcode x != some 2) := rfl
@[simp] theorem wellFormed_spiReadyTimer : wellFormed (.spiReadyTimer) = (true) := rfl
@[simp] theorem wellFormed_flashStatusPoll (o : FlashOutcome) : wellFormed (.flashStatusPoll o) = (true) := rfl
@[simp] theorem wellFormed_pmbusPoll (reading : List RegulatorReading) : wellFormed (.pmbusPoll reading) = (true) := rfl
@[simp] theorem wellFormed_pmbusAlert (rail : Rail) (status : U16) : wellFormed (.pmbusAlert rail status) = (true) := rfl
@[simp] theorem wellFormed_pmbusRetry (sdaHigh : Bool) : wellFormed (.pmbusRetry sdaHigh) = (true) := rfl
@[simp] theorem wellFormed_busLend : wellFormed (.busLend) = (true) := rfl
@[simp] theorem wellFormed_busTakeBack (sdaHigh : Bool) : wellFormed (.busTakeBack sdaHigh) = (true) := rfl
@[simp] theorem wellFormed_i2cRecovery (bus : I2cBus) (round : I2cRound) : wellFormed (.i2cRecovery bus round) = (true) := rfl
@[simp] theorem wellFormed_i2cRecoveryRoundWait (bus : I2cBus) (round : I2cRound) : wellFormed (.i2cRecoveryRoundWait bus round) = (true) := rfl
@[simp] theorem wellFormed_moduleBusRetry (round : I2cRound) : wellFormed (.moduleBusRetry round) = (true) := rfl
@[simp] theorem wellFormed_moduleInserted (n : LinkId) : wellFormed (.moduleInserted n) = (true) := rfl
@[simp] theorem wellFormed_moduleRemoved (n : LinkId) : wellFormed (.moduleRemoved n) = (true) := rfl
@[simp] theorem wellFormed_moduleRead (n : LinkId) (bytes : List Byte) : wellFormed (.moduleRead n bytes) = (true) := rfl
@[simp] theorem wellFormed_transitionComplete : wellFormed (.transitionComplete) = (true) := rfl
@[simp] theorem wellFormed_transitionDeadline : wellFormed (.transitionDeadline) = (true) := rfl
@[simp] theorem wellFormed_transitionReverted : wellFormed (.transitionReverted) = (true) := rfl
@[simp] theorem wellFormed_returningCommandSettle (mv : Nat) : wellFormed (.returningCommandSettle mv) = (true) := rfl
@[simp] theorem wellFormed_chainRetry : wellFormed (.chainRetry) = (true) := rfl
@[simp] theorem wellFormed_canaryMeasure (d : DomainId) (stressed : Nat) (twin : Nat) : wellFormed (.canaryMeasure d stressed twin) = (true) := rfl
@[simp] theorem wellFormed_vaultRetentionMeasure (sliceTimesUs : List Nat) : wellFormed (.vaultRetentionMeasure sliceTimesUs) = (true) := rfl
@[simp] theorem wellFormed_ageingRecord (meanTenths : Int) (meanMv : Nat) (writeOk : List Bool) : wellFormed (.ageingRecord meanTenths meanMv writeOk) = (true) := rfl
@[simp] theorem wellFormed_powerOnReset : wellFormed (.powerOnReset) = (true) := rfl
@[simp] theorem wellFormed_powerUp (o : PowerUpOutcome) : wellFormed (.powerUp o) = (true) := rfl
@[simp] theorem wellFormed_stockTrainingComplete (found : List ChannelFinding) : wellFormed (.stockTrainingComplete found) = (true) := rfl
@[simp] theorem wellFormed_stockWipeComplete : wellFormed (.stockWipeComplete) = (true) := rfl
@[simp] theorem wellFormed_pcieCrsEnd : wellFormed (.pcieCrsEnd) = (true) := rfl
@[simp] theorem wellFormed_firmwareStart : wellFormed (.firmwareStart) = (true) := rfl
@[simp] theorem wellFormed_dictionaryReady (flash : FlashFinding) (h : HalfOutcome) (h2 : HalfOutcome) : wellFormed (.dictionaryReady flash h h2) = (true) := rfl
@[simp] theorem wellFormed_linksReleased : wellFormed (.linksReleased) = (true) := rfl
@[simp] theorem wellFormed_mainPowerLoss : wellFormed (.mainPowerLoss) = (true) := rfl
@[simp] theorem wellFormed_vstbyLoss : wellFormed (.vstbyLoss) = (true) := rfl
@[simp] theorem wellFormed_packageReset : wellFormed (.packageReset) = (true) := rfl
@[simp] theorem wellFormed_gafferWatchdogExpiry (within60s : Bool) : wellFormed (.gafferWatchdogExpiry within60s) = (true) := rfl
@[simp] theorem wellFormed_gafferReset : wellFormed (.gafferReset) = (true) := rfl
@[simp] theorem wellFormed_tapInstruction (tap : TapInstr) : wellFormed (.tapInstruction tap) = (true) := rfl
@[simp] theorem wellFormed_railExcursion (rail : Rail) (mv : Int) (longerThan1ms : Bool) : wellFormed (.railExcursion rail mv longerThan1ms) = (true) := rfl
@[simp] theorem wellFormed_linkReferenceReturn (e : EdgeDie) : wellFormed (.linkReferenceReturn e) = (true) := rfl
@[simp] theorem wellFormed_equalisationTrainingComplete (n : LinkId) : wellFormed (.equalisationTrainingComplete n) = (true) := rfl
@[simp] theorem wellFormed_recalibrationComplete (q : QuadId) (pausedUs : Nat) : wellFormed (.recalibrationComplete q pausedUs) = (true) := rfl
@[simp] theorem wellFormed_canErrorPassive (tec : Byte) (rec : Byte) : wellFormed (.canErrorPassive tec rec) = (true) := rfl
@[simp] theorem wellFormed_activeBitRateSwitchFrame : wellFormed (.activeBitRateSwitchFrame) = (true) := rfl
@[simp] theorem wellFormed_fieldViolationFrame (f : CanFrame) : wellFormed (.fieldViolationFrame f) = (true) := rfl
@[simp] theorem wellFormed_msiXTableWrite (f : FnId) (entry : U16) (dword : BitVec 2) (value : U32) : wellFormed (.msiXTableWrite f entry dword value) = (true) := rfl
@[simp] theorem wellFormed_hostReadCompletion (req : Nat) (r : HostReadResult) : wellFormed (.hostReadCompletion req r) = (true) := rfl
@[simp] theorem wellFormed_completionTimeout (req : Nat) : wellFormed (.completionTimeout req) = (true) := rfl
@[simp] theorem wellFormed_sysResetNRise : wellFormed (.sysResetNRise) = (true) := rfl
@[simp] theorem wellFormed_pmbusTransactionEnd (o : BusOutcome) : wellFormed (.pmbusTransactionEnd o) = (true) := rfl

/-! ### Which commands fit a state -/

/-- A command that fits is well formed. -/
theorem wellFormed_of_fits {i : Instr} {s : State} (h : fits i s = true) : wellFormed i = true := by
  unfold fits at h
  exact (Bool.and_eq_true _ _ ▸ h).1

theorem fits_arrayProduct (c : CoreId) (w : U32) (s : State) : fits (.arrayProduct c w) s = (wellFormed (.arrayProduct c w) && arrFits s 1 0 c w) := rfl
theorem fits_attention (c : CoreId) (w : U32) (s : State) : fits (.attention c w) s = (wellFormed (.attention c w) && arrFits s 2 0 c w) := rfl
theorem fits_streamOpen (c : CoreId) (w : U32) (s : State) : fits (.streamOpen c w) s = (wellFormed (.streamOpen c w) && arrFits s 3 1 c w) := rfl
theorem fits_streamCommit (c : CoreId) (w : U32) (s : State) : fits (.streamCommit c w) s = (wellFormed (.streamCommit c w) && arrFits s 3 2 c w) := rfl
theorem fits_streamPark (c : CoreId) (w : U32) (s : State) : fits (.streamPark c w) s = (wellFormed (.streamPark c w) && arrFits s 3 3 c w) := rfl
theorem fits_streamUnpark (c : CoreId) (w : U32) (s : State) : fits (.streamUnpark c w) s = (wellFormed (.streamUnpark c w) && arrFits s 3 4 c w) := rfl
theorem fits_streamClose (c : CoreId) (w : U32) (s : State) : fits (.streamClose c w) s = (wellFormed (.streamClose c w) && arrFits s 3 5 c w) := rfl
theorem fits_streamRead (c : CoreId) (w : U32) (s : State) : fits (.streamRead c w) s = (wellFormed (.streamRead c w) && arrFits s 3 6 c w) := rfl
theorem fits_streamRoster (c : CoreId) (w : U32) (s : State) : fits (.streamRoster c w) s = (wellFormed (.streamRoster c w) && arrFits s 3 7 c w) := rfl
theorem fits_streamAdopt (c : CoreId) (w : U32) (s : State) : fits (.streamAdopt c w) s = (wellFormed (.streamAdopt c w) && arrFits s 3 8 c w) := rfl
theorem fits_dmaCopy (c : CoreId) (w : U32) (s : State) : fits (.dmaCopy c w) s = (wellFormed (.dmaCopy c w) && dmaFits s 1 c w) := rfl
theorem fits_dmaFill (c : CoreId) (w : U32) (s : State) : fits (.dmaFill c w) s = (wellFormed (.dmaFill c w) && dmaFits s 2 c w) := rfl

end Sys2Proof.Machine
end

