-- ==== Sys2Proof/Laws/Steps.lean ====
section
/-!
SUPPORT. The shared steps of a row: what each answers for the row's own operands, and that it refuses those of another row.
-/
set_option Elab.async false
set_option linter.all false
namespace Sys2Proof.Machine

/-- A word of the row, issued: the row's effect. -/
theorem coreStep_run {mn : String} {want : Spelling → Bool} {f : State → State} {c : CoreId} {w : U32} {s : State}
    (hi : issues s c.toNat w = true) (hl : spell w ≠ .illegal) (hw : want (spell w) = true) :
    coreStep mn want f c w s = .next (f s) := by
  simp [coreStep, hi, hl, hw]

/-- An illegal word, issued: its fault. -/
theorem coreStep_illegal {mn : String} {want : Spelling → Bool} {f : State → State} {c : CoreId} {w : U32} {s : State}
    (hi : issues s c.toNat w = true) (hl : spell w = .illegal) :
    coreStep mn want f c w s = .next (illegal s c.toNat w) := by
  simp [coreStep, hi, hl]

/-- A word that the core does not issue now changes nothing. -/
theorem coreStep_waits {mn : String} {want : Spelling → Bool} {f : State → State} {c : CoreId} {w : U32} {s : State}
    (hi : issues s c.toNat w = false) (hw : wordFor w want = true) : coreStep mn want f c w s = .next s := by
  by_cases hl : spell w = .illegal
  · simp [coreStep, hi, hl]
  · have : want (spell w) = true := by simpa [wordFor, hl] using hw
    simp [coreStep, hi, hl, this]

/-- A word of the row, or an illegal one, completes. -/
theorem coreStep_completes {mn : String} {want : Spelling → Bool} {f : State → State} {c : CoreId} {w : U32} {s : State}
    (hw : wordFor w want = true) : ∃ t, coreStep mn want f c w s = .next t := by
  by_cases hl : spell w = .illegal
  · exact ⟨_, by simp only [coreStep, hl]; rfl⟩
  · have : want (spell w) = true := by simpa [wordFor, hl] using hw
    exact ⟨_, by simp only [coreStep, hl, this, if_true, if_false]; rfl⟩

/-- A word of another row is refused by name. -/
theorem coreStep_refused {mn : String} {want : Spelling → Bool} {f : State → State} {c : CoreId} {w : U32} {s : State}
    (hw : wordFor w want = false) : coreStep mn want f c w s = .refused (.illFormed mn) := by
  have h : spell w ≠ .illegal ∧ want (spell w) = false := by simpa [wordFor] using hw
  simp [coreStep, h.1, h.2]

/-- An access to the row's entry is delivered. -/
theorem entryStep_run {mn : String} {base : Nat} {op : Byte} {a : Access} {s : State}
    (h : (baseOf a.index.toNat == some base) = true) : entryStep mn base op a s = .next (deliver s op a .direct) := by
  simp only [entryStep, accessStep, if_pos (eq_of_beq h)]

/-- An access to another entry is refused by name. -/
theorem entryStep_refused {mn : String} {base : Nat} {op : Byte} {a : Access} {s : State}
    (h : (baseOf a.index.toNat == some base) = false) : entryStep mn base op a s = .refused (.illFormed mn) := by
  simp only [entryStep, if_neg (by simpa using h : ¬baseOf a.index.toNat = some base)]

/-- A queued descriptor of the row's kind completes. -/
theorem arrStep_completes {mn : String} {op cmd : Nat} {c : CoreId} {w : U32} {s : State}
    (hw : wordFor w (fun p => p == .arrGo) = true) (hf : arrFits s op cmd c w = true) :
    ∃ t, arrStep mn op cmd c w s = .next t := by
  have h : ¬(spell w = .arrGo ∧ (descByte s c.toNat w 0 == 1 || descByte s c.toNat w 0 == 2 ||
      (descByte s c.toNat w 0 == 3 && decide (1 ≤ descByte s c.toNat w 1 ∧ descByte s c.toNat w 1 ≤ 8))) = true ∧
      (descByte s c.toNat w 0 ≠ op ∨ (op = 3 ∧ descByte s c.toNat w 1 ≠ cmd))) := by
    simp only [arrFits] at hf
    grind
  unfold arrStep
  rw [if_neg h]
  exact coreStep_completes hw

/-- A DMA descriptor of the row's operation completes. -/
theorem dmaStep_completes {mn : String} {op : Nat} {c : CoreId} {w : U32} {s : State}
    (hw : wordFor w (fun p => p == .dmaGo) = true) (hf : dmaFits s op c w = true) :
    ∃ t, dmaStep mn op c w s = .next t := by
  have h : ¬(spell w = .dmaGo ∧ (descByte s c.toNat w 0 = 1 ∨ descByte s c.toNat w 0 = 2) ∧ descByte s c.toNat w 0 ≠ op) := by
    simp only [dmaFits] at hf
    grind
  unfold dmaStep
  exact if_neg h ▸ coreStep_completes hw

/-- A mode word of the row's kind completes. -/
theorem modeStep_completes {mn : String} {kind : Nat} {f : State → State} {n : LinkId} {w : U64} {s : State}
    (h : modeWordFor kind w = true) : ∃ t, modeStep mn kind f n w s = .next t := by
  simp only [modeWordFor, Bool.or_eq_true, Bool.not_eq_true', decide_eq_true_eq, beq_iff_eq] at h
  unfold modeStep
  dsimp only
  split
  · exact ⟨_, rfl⟩
  · split
    · exact ⟨_, rfl⟩
    · split
      · exact ⟨_, rfl⟩
      · rw [if_pos (by grind)]
        exact ⟨_, rfl⟩

/-- A flit of the row's type completes. -/
theorem flitStep_completes {mn : String} {ty : Nat} {f : State → Flit → State} {n : LinkId} {l : List Byte} {s : State}
    (h : flitFor ty l = true) : ∃ t, flitStep mn ty f n l s = .next t := by
  have h' : ¬(flitOk l = true ∧ (flitOf l).ftype ≠ ty ∧ ((flitOf l).ftype < 5 ∨ ty ≠ ftPacket)) := by
    simp only [flitFor] at h
    grind
  unfold flitStep
  dsimp only
  rw [if_neg h']
  split
  · exact ⟨_, rfl⟩
  · split <;> exact ⟨_, rfl⟩

/-- A link control flit of the row's code completes. -/
theorem controlStep_completes {mn : String} {want : Nat} {n : LinkId} {l : List Byte} {s : State}
    (h : controlFor want l = true) : ∃ t, controlStep mn want n l s = .next t := by
  simp only [controlFor, Bool.and_eq_true, Bool.not_eq_true'] at h
  unfold controlStep
  rw [if_neg (by have := h.2; grind)]
  exact flitStep_completes h.1

end Sys2Proof.Machine
end

