-- ==== Sys2Proof/Laws/Tables.lean ====
section
/-!
SUPPORT. Sparse tables: a read after a write of the same key gives the value written, a write leaves every other key alone; and the
same of the units that are kept in tables.
-/
set_option Elab.async false
set_option linter.all false
namespace Sys2Proof.Machine

variable {α : Type}

theorem tfind_tput (t : Tbl α) (n : Nat) (v : α) (m : Nat) :
    tfind (tput t n v) m = if m = n then some v else tfind t m := by
  induction t with
  | nil =>
    by_cases h : m = n
    · simp [tput, tfind, h]
    · simp [tput, tfind, h, Ne.symm h]
  | cons e t ih =>
    obtain ⟨k, w⟩ := e
    unfold tput
    split
    · by_cases h : m = n
      · simp [tfind, h]
      · simp [tfind, h, Ne.symm h]
    · split
      · subst n
        by_cases h : m = k
        · simp [tfind, h]
        · simp [tfind, h, Ne.symm h]
      · by_cases hk : k = m
        · have : m ≠ n := by omega
          simp [tfind, hk, this]
        · simp [tfind, hk, ih]

@[simp] theorem tfind_tput_self (t : Tbl α) (n : Nat) (v : α) : tfind (tput t n v) n = some v := by simp [tfind_tput]

theorem tfind_tput_ne (t : Tbl α) {n m : Nat} (v : α) (h : m ≠ n) : tfind (tput t n v) m = tfind t m := by
  simp [tfind_tput, h]

theorem tget_tput (t : Tbl α) (n : Nat) (v : α) (m : Nat) (d : α) :
    tget (tput t n v) m d = if m = n then v else tget t m d := by
  unfold tget; rw [tfind_tput]; split <;> rfl

@[simp] theorem tget_tput_self (t : Tbl α) (n : Nat) (v d : α) : tget (tput t n v) n d = v := by simp [tget_tput]

theorem tget_tput_ne (t : Tbl α) {n m : Nat} (v d : α) (h : m ≠ n) : tget (tput t n v) m d = tget t m d := by
  simp [tget_tput, h]

theorem tfind_tdel (t : Tbl α) (n m : Nat) : tfind (tdel t n) m = if m = n then none else tfind t m := by
  unfold tdel
  induction t with
  | nil => simp [tfind]
  | cons e t ih =>
    obtain ⟨k, w⟩ := e
    by_cases hk : k = n
    · subst hk
      by_cases hm : m = k
      · simpa [tfind, hm] using ih
      · simpa [tfind, hm, Ne.symm hm] using ih
    · by_cases hm : k = m
      · subst hm; simp [tfind, hk]
      · simpa [tfind, hk, hm] using ih

theorem tget_tdel (t : Tbl α) (n m : Nat) (d : α) : tget (tdel t n) m d = if m = n then d else tget t m d := by
  unfold tget; rw [tfind_tdel]; split <;> rfl

/-! ### Units kept in tables -/

theorem coreOf_setCore (s : State) (c : Nat) (k : Core) (x : Nat) : coreOf (setCore s c k) x = if x = c then k else coreOf s x := by
  simp [coreOf, tget_tput]

theorem coreOf_modCore (s : State) (c : Nat) (f : Core → Core) (x : Nat) :
    coreOf (modCore s c f) x = if x = c then f (coreOf s c) else coreOf s x := by
  simp [coreOf, tget_tput]

theorem groupOf_modGroup (s : State) (g : Nat) (f : Group → Group) (x : Nat) :
    groupOf (modGroup s g f) x = if x = g then f (groupOf s g) else groupOf s x := by
  simp [groupOf, tget_tput]

theorem domOf_modDom (s : State) (d : Nat) (f : Domain → Domain) (x : Nat) :
    domOf (modDom s d f) x = if x = d then f (domOf s d) else domOf s x := by
  simp [domOf, tget_tput]

theorem regOf_modReg (s : State) (r : Nat) (f : Regulator → Regulator) (x : Nat) :
    regOf (modReg s r f) x = if x = r then f (regOf s r) else regOf s x := by
  simp [regOf, tget_tput]

theorem linkOf_modLink (s : State) (n : Nat) (f : Link → Link) (x : Nat) :
    linkOf (modLink s n f) x = if x = n then f (linkOf s n) else linkOf s x := by
  simp [linkOf, tget_tput]

theorem quadOf_modQuad (s : State) (q : Nat) (f : Quad → Quad) (x : Nat) :
    quadOf (modQuad s q f) x = if x = q then f (quadOf s q) else quadOf s x := by
  simp [quadOf, tget_tput]

theorem fnOf_modFn (s : State) (n : Nat) (f : Fn → Fn) (x : Nat) :
    fnOf (modFn s n f) x = if x = n then f (fnOf s n) else fnOf s x := by
  simp [fnOf, tget_tput]

theorem tqOf_modTq (s : State) (n : Nat) (f : TenantQ → TenantQ) (x : Nat) :
    tqOf (modTq s n f) x = if x = n then f (tqOf s n) else tqOf s x := by
  simp [tqOf, tget_tput]

theorem winOf_modWin (s : State) (n : Nat) (f : Window → Window) (x : Nat) :
    winOf (modWin s n f) x = if x = n then f (winOf s n) else winOf s x := by
  simp [winOf, tget_tput]

theorem ringOf_modRing (s : State) (k : Nat) (f : RingUse → RingUse) (x : Nat) :
    ringOf (modRing s k f) x = if x = k then f (ringOf s k) else ringOf s x := by
  simp [ringOf, tget_tput]

theorem trackerOf_setTracker (s : State) (i : Nat) (t : Tracker) (x : Nat) :
    trackerOf (setTracker s i t) x = if x = i then t else trackerOf s x := by
  unfold trackerOf setTracker
  by_cases h : t = Tracker.reset
  · subst h; simp [tget_tdel]
  · simp [h, tget_tput]

theorem trackerOf_modTracker (s : State) (i : Nat) (f : Tracker → Tracker) (x : Nat) :
    trackerOf (modTracker s i f) x = if x = i then f (trackerOf s i) else trackerOf s x :=
  trackerOf_setTracker ..

theorem valOf_setVal (s : State) (i j t : Nat) (v : List Byte) (i' j' t' : Nat) (d : List Byte) :
    valOf (setVal s i j t v) i' j' t' d = if dictKey i' j' t' = dictKey i j t then v else valOf s i' j' t' d := by
  simp [valOf, tget_tput]

/-- Entries whose subindex fits its byte and whose tenant fits its 12 bits have keys of their own (R76, R82). -/
theorem dictKey_inj {i j t i' j' t' : Nat} (hj : j < 256) (ht : t < 4096) (hj' : j' < 256) (ht' : t' < 4096)
    (h : dictKey i j t = dictKey i' j' t') : i = i' ∧ j = j' ∧ t = t' := by
  unfold dictKey at h; omega

end Sys2Proof.Machine
end

