-- ==== Sys2Proof/Laws/Cores.lean ====
section
/-!
SUPPORT. Registers of a core: reads after writes, and everything that a result, a moved pc or a vector result does to the state.
-/
set_option Elab.async false
set_option linter.all false
namespace Sys2Proof.Machine

@[simp] theorem reg_zero (k : Core) : reg k 0 = 0 := rfl
theorem reg_lt (k : Core) (r : Nat) : reg k r < 2 ^ 64 := by
  unfold reg
  split
  · decide
  · exact BitVec.isLt _
@[simp] theorem reg_pc (k : Core) (r : Nat) (p : U64) : reg { k with pc := p } r = reg k r := rfl
@[simp] theorem reg_pcNext (k : Core) (r : Nat) : reg (pcNext k) r = reg k r := rfl
@[simp] theorem setReg_zero (k : Core) (v : Nat) : setReg k 0 v = k := rfl
theorem reg_setReg_self (k : Core) {d : Nat} (v : Nat) (h : d ≠ 0) : reg (setReg k d v) d = v % 2 ^ 64 := by
  simp [reg, setReg, h, tget]
theorem reg_setReg_ne (k : Core) {d r : Nat} (v : Nat) (h : r ≠ d) : reg (setReg k d v) r = reg k r := by
  unfold setReg
  split
  · rfl
  · simp only [reg, tget, tfind_tput, if_neg h]
@[simp] theorem setReg_pc (k : Core) (d v : Nat) : (setReg k d v).pc = k.pc := by unfold setReg; split <;> rfl
/-- A register write changes the registers alone. -/
theorem setReg_core (k : Core) (d v : Nat) : setReg k d v = { k with regs := (setReg k d v).regs } := by
  unfold setReg; split <;> rfl

@[simp] theorem coreOf_modCore_self (s : State) (c : Nat) (f : Core → Core) : coreOf (modCore s c f) c = f (coreOf s c) := by
  simp [coreOf_modCore]
theorem coreOf_modCore_ne (s : State) {c k : Nat} (f : Core → Core) (h : k ≠ c) : coreOf (modCore s c f) k = coreOf s k := by
  simp [coreOf_modCore, h]
/-- A change of a core changes the table of cores alone. -/
theorem modCore_eq (s : State) (c : Nat) (f : Core → Core) : modCore s c f = { s with cores := (modCore s c f).cores } := rfl

end Sys2Proof.Machine
end

