-- ==== Sys2Proof/Laws/Memory.lean ====
section
/-!
SUPPORT. Cells: every operation keeps the canonical form, a read after a write gives the bytes written, and a write leaves every other
address alone.
-/
set_option Elab.async false
set_option linter.all false
namespace Sys2Proof.Machine

/-- The canonical form as a proposition: addresses rise, no listed byte is zero. -/
theorem cellsWf_iff (m : List Host.Cell) :
    cellsWf m = true ↔ m.Pairwise (fun a b => a.1 < b.1) ∧ ∀ e ∈ m, e.2 ≠ 0 := by
  induction m with
  | nil => simp [cellsWf]
  | cons e m ih =>
    obtain ⟨k, b⟩ := e
    cases m with
    | nil => simp [cellsWf]
    | cons e' m =>
      obtain ⟨k', b'⟩ := e'
      simp only [cellsWf, Bool.and_eq_true, bne_iff_ne, decide_eq_true_eq, ih, List.pairwise_cons, List.mem_cons,
        forall_eq_or_imp]
      constructor
      · rintro ⟨⟨hb, hk⟩, ⟨hp, hr⟩, hb', hz⟩
        exact ⟨⟨⟨hk, fun a ha => Nat.lt_trans hk (hp a ha)⟩, hp, hr⟩, hb, hb', hz⟩
      · rintro ⟨⟨⟨hk, _⟩, hp, hr⟩, hb, hb', hz⟩
        exact ⟨⟨hb, hk⟩, ⟨hp, hr⟩, hb', hz⟩

theorem cellsWf_filter {m : List Host.Cell} (p : Host.Cell → Bool) (h : cellsWf m = true) : cellsWf (m.filter p) = true := by
  rw [cellsWf_iff] at *
  exact ⟨h.1.filter p, fun e he => h.2 e (List.mem_filter.mp he).1⟩

/-- Zeroing a range keeps the form. -/
theorem cellsWf_cellClear {m : List Host.Cell} (k n : Nat) (h : cellsWf m = true) : cellsWf (cellClear m k n) = true :=
  cellsWf_filter _ h

theorem mem_cellBlock {k : Nat} {bs : List Byte} {e : Host.Cell} (h : e ∈ cellBlock k bs) :
    k ≤ e.1 ∧ e.1 < k + bs.length ∧ e.2 ≠ 0 := by
  induction bs generalizing k with
  | nil => simp [cellBlock] at h
  | cons b bs ih =>
    unfold cellBlock at h
    split at h
    · have := ih h
      simp only [List.length_cons]
      exact ⟨by omega, by omega, this.2.2⟩
    · rcases List.mem_cons.mp h with rfl | h
      · simp_all
      · have := ih h
        simp only [List.length_cons]
        exact ⟨by omega, by omega, this.2.2⟩

theorem cellBlock_pairwise (k : Nat) (bs : List Byte) : (cellBlock k bs).Pairwise (fun a b => a.1 < b.1) := by
  induction bs generalizing k with
  | nil => simp [cellBlock]
  | cons b bs ih =>
    unfold cellBlock
    split
    · exact ih _
    · exact List.pairwise_cons.mpr ⟨fun e he => by have := mem_cellBlock he; omega, ih _⟩

/-- Writing a block keeps the form. -/
theorem cellsWf_cellWrite {m : List Host.Cell} (k : Nat) (bs : List Byte) (h : cellsWf m = true) :
    cellsWf (cellWrite m k bs) = true := by
  rw [cellsWf_iff] at *
  obtain ⟨hp, hz⟩ := h
  refine ⟨?_, ?_⟩
  · unfold cellWrite
    rw [List.pairwise_append, List.pairwise_append]
    refine ⟨⟨hp.filter _, cellBlock_pairwise k bs, ?_⟩, hp.filter _, ?_⟩
    · intro a ha b hb
      have h1 := (List.mem_filter.mp ha).2
      have h2 := mem_cellBlock hb
      simp only [decide_eq_true_eq] at h1; omega
    · intro a ha b hb
      have h2 := (List.mem_filter.mp hb).2
      simp only [decide_eq_true_eq] at h2
      rcases List.mem_append.mp ha with ha | ha
      · have h1 := (List.mem_filter.mp ha).2
        simp only [decide_eq_true_eq] at h1; omega
      · have h1 := mem_cellBlock ha; omega
  · intro e he
    unfold cellWrite at he
    rcases List.mem_append.mp he with he | he
    · rcases List.mem_append.mp he with he | he
      · exact hz e (List.mem_filter.mp he).1
      · exact (mem_cellBlock he).2.2
    · exact hz e (List.mem_filter.mp he).1

/-! ### Reads -/

theorem cellGet_append (a b : List Host.Cell) (n : Nat) :
    cellGet (a ++ b) n = if a.any (fun e => e.1 == n) then cellGet a n else cellGet b n := by
  induction a with
  | nil => simp
  | cons e a ih =>
    obtain ⟨k, v⟩ := e
    by_cases h : k = n
    · simp [cellGet, h]
    · simp [cellGet, h, ih]

theorem cellGet_filter (m : List Host.Cell) (p : Host.Cell → Bool) (n : Nat) (hp : ∀ b, p (n, b) = true) :
    cellGet (m.filter p) n = cellGet m n := by
  induction m with
  | nil => rfl
  | cons e m ih =>
    obtain ⟨k, v⟩ := e
    by_cases h : k = n
    · subst h; simp [cellGet, hp]
    · by_cases hq : p (k, v) <;> simp [cellGet, h, hq, ih]

theorem cellGet_filter_out (m : List Host.Cell) (p : Host.Cell → Bool) (n : Nat) (hp : ∀ b, p (n, b) = false) :
    cellGet (m.filter p) n = 0 := by
  induction m with
  | nil => rfl
  | cons e m ih =>
    obtain ⟨k, v⟩ := e
    by_cases h : k = n
    · subst h; simp [hp, ih]
    · by_cases hq : p (k, v) <;> simp [cellGet, h, hq, ih]

theorem cellGet_none {m : List Host.Cell} {n : Nat} (h : m.any (fun e => e.1 == n) = false) : cellGet m n = 0 := by
  induction m with
  | nil => rfl
  | cons e m ih =>
    obtain ⟨k, v⟩ := e
    simp only [List.any_cons, Bool.or_eq_false_iff, beq_eq_false_iff_ne] at h
    simp [cellGet, h.1, ih h.2]

theorem cellGet_cellBlock (k : Nat) (bs : List Byte) (n : Nat) :
    cellGet (cellBlock k bs) n = if k ≤ n then bs.getD (n - k) 0 else 0 := by
  induction bs generalizing k with
  | nil => simp [cellBlock, cellGet]
  | cons b bs ih =>
    have hs : (n - (k + 1)) + 1 = n - k ∨ n ≤ k := by omega
    by_cases hb : b = 0
    · rw [cellBlock, if_pos hb, ih]
      rcases Nat.lt_trichotomy n k with h | h | h
      · simp [show ¬ k + 1 ≤ n by omega, show ¬ k ≤ n by omega]
      · subst h; rw [if_neg (by omega), if_pos (by omega)]; simp [hb]
      · rw [if_pos (by omega : k + 1 ≤ n), if_pos (by omega : k ≤ n), show n - k = (n - (k + 1)) + 1 by omega]
        simp
    · rw [cellBlock, if_neg hb, cellGet]
      rcases Nat.lt_trichotomy n k with h | h | h
      · rw [if_neg (by omega), ih, if_neg (by omega), if_neg (by omega)]
      · subst h; simp
      · rw [if_neg (by omega), ih, if_pos (by omega), if_pos (by omega), show n - k = (n - (k + 1)) + 1 by omega]
        simp

/-- What stands at an address after a block is written. -/
theorem cellGet_cellWrite (m : List Host.Cell) (k : Nat) (bs : List Byte) (n : Nat) :
    cellGet (cellWrite m k bs) n = if k ≤ n ∧ n < k + bs.length then bs.getD (n - k) 0 else cellGet m n := by
  unfold cellWrite
  rw [cellGet_append, cellGet_append, List.any_append]
  generalize hA : m.filter (fun e => decide (e.1 < k)) = A
  generalize hC : m.filter (fun e => decide (k + bs.length ≤ e.1)) = C
  have gB := cellGet_cellBlock k bs n
  have nA : A.any (fun e => e.1 == n) = false → cellGet A n = 0 := cellGet_none
  have nB : (cellBlock k bs).any (fun e => e.1 == n) = false → cellGet (cellBlock k bs) n = 0 := cellGet_none
  by_cases h1 : n < k
  · have gA : cellGet A n = cellGet m n := by rw [← hA]; exact cellGet_filter _ _ _ (by intro; simpa using h1)
    have gC : cellGet C n = 0 := by rw [← hC]; exact cellGet_filter_out _ _ _ (by intro; simp; omega)
    rw [if_neg (by omega : ¬ k ≤ n)] at gB
    rw [if_neg (by omega : ¬(k ≤ n ∧ n < k + bs.length))]
    grind
  · have aA : A.any (fun e => e.1 == n) = false := by
      rw [← hA, List.any_eq_false]; intro e he hn
      have := (List.mem_filter.mp he).2
      simp at this hn; omega
    by_cases h2 : n < k + bs.length
    · have gC : cellGet C n = 0 := by rw [← hC]; exact cellGet_filter_out _ _ _ (by intro; simp; omega)
      rw [if_pos (by omega : k ≤ n)] at gB
      rw [if_pos (by omega : k ≤ n ∧ n < k + bs.length)]
      grind
    · have gC : cellGet C n = cellGet m n := by rw [← hC]; exact cellGet_filter _ _ _ (by intro; simp; omega)
      have aB : (cellBlock k bs).any (fun e => e.1 == n) = false := by
        rw [List.any_eq_false]; intro e he hn
        have := mem_cellBlock he
        simp at hn; omega
      rw [if_neg (by omega : ¬(k ≤ n ∧ n < k + bs.length))]
      grind

/-- A read of the block just written gives it. -/
theorem cellRead_cellWrite (m : List Host.Cell) (k : Nat) (bs : List Byte) : cellRead (cellWrite m k bs) k bs.length = bs := by
  unfold cellRead
  apply List.ext_getElem
  · simp
  · intro i h1 h2
    simp only [List.getElem_map, List.getElem_range, cellGet_cellWrite]
    rw [if_pos (by omega)]
    simp [List.getD_eq_getElem?_getD, h2]

/-- Zeroing a range leaves zero there and every other byte as it was. -/
theorem cellGet_cellClear (m : List Host.Cell) (k n a : Nat) :
    cellGet (cellClear m k n) a = if k ≤ a ∧ a < k + n then 0 else cellGet m a := by
  unfold cellClear
  split
  · exact cellGet_filter_out _ _ _ (by intro; simp; omega)
  · exact cellGet_filter _ _ _ (by intro; simp; omega)

/-! ### Fields of records -/

theorem leNat_lt (l : List Byte) : leNat l < 256 ^ l.length := by
  induction l with
  | nil => simp [leNat]
  | cons b l ih =>
    have := b.isLt
    simp only [leNat, List.length_cons, Nat.pow_succ]
    omega
theorem fieldAt_lt (l : List Byte) (o n : Nat) : fieldAt l o n < 256 ^ n :=
  Nat.lt_of_lt_of_le (leNat_lt _) (Nat.pow_le_pow_right (by decide) (by simp [slice] <;> omega))

/-! ### Operations over the package's memory -/

theorem rawWrite_cells (s : State) (k : Nat) (bs : List Byte) (h : bs ≠ []) :
    (rawWrite s k bs).mem.cells = cellWrite s.mem.cells k bs := by simp [rawWrite, h]; rfl

/-- What stands at an address after a block is written with no check. -/
theorem rawWrite_get (s : State) (k : Nat) (bs : List Byte) (n : Nat) :
    cellGet (rawWrite s k bs).mem.cells n = if k ≤ n ∧ n < k + bs.length then bs.getD (n - k) 0 else cellGet s.mem.cells n := by
  by_cases h : bs = []
  · subst h; simp [rawWrite] <;> omega
  · rw [rawWrite_cells s k bs h, cellGet_cellWrite]

theorem wipe_cells (s : State) (k n : Nat) : (wipe s k n).mem.cells = cellClear s.mem.cells k n := rfl

theorem rawWrite_wf {s : State} (k : Nat) (bs : List Byte) (h : s.mem.wf = true) : (rawWrite s k bs).mem.wf = true := by
  unfold rawWrite; split
  · exact h
  · exact cellsWf_cellWrite k bs h

theorem wipe_wf {s : State} (k n : Nat) (h : s.mem.wf = true) : (wipe s k n).mem.wf = true := cellsWf_cellClear k n h

end Sys2Proof.Machine
end

