-- ==== Sys2Proof/Laws/Keeps.lean ====
section
/-! SUPPORT. The relations Keeps and Grows compose: over folds, over the actions of a core, over what a stream answers. -/
set_option Elab.async false
set_option linter.all false

namespace Sys2Proof.Machine

theorem Keeps.refl (s : State) : Keeps s s := ⟨rfl, rfl, id⟩
theorem Keeps.trans {s t u : State} (h : Keeps s t) (k : Keeps t u) : Keeps s u :=
  ⟨k.1.trans h.1, k.2.1.trans h.2.1, fun w => k.2.2 (h.2.2 w)⟩
theorem foldl_keeps {β : Type} (l : List β) (f : State → β → State) (h : ∀ s x, Keeps s (f s x)) (s : State) : Keeps s (l.foldl f s) := by
  induction l generalizing s with
  | nil => exact Keeps.refl s
  | cons x l ih => exact (h s x).trans (ih _)
theorem foldr_keeps {β : Type} (l : List β) (f : β → State → State) (h : ∀ x s, Keeps s (f x s)) (s : State) :
    Keeps s (l.foldr f s) := by
  induction l with
  | nil => exact Keeps.refl s
  | cons x l ih => exact ih.trans (h x _)
theorem modMem_keeps (s : State) (f : Mem → Mem) (h : s.mem.wf = true → (f s.mem).wf = true) : Keeps s (modMem s f) := ⟨rfl, rfl, h⟩
theorem setTracker_keeps (s : State) (i : Nat) (x : Tracker) : Keeps s (setTracker s i x) := ⟨rfl, rfl, id⟩
theorem modTracker_keeps (s : State) (i : Nat) (f : Tracker → Tracker) : Keeps s (modTracker s i f) := ⟨rfl, rfl, id⟩
theorem setCore_keeps (s : State) (c : Nat) (k : Core) : Keeps s (setCore s c k) := ⟨rfl, rfl, id⟩
theorem modCore_keeps (s : State) (c : Nat) (f : Core → Core) : Keeps s (modCore s c f) := ⟨rfl, rfl, id⟩
theorem modGroup_keeps (s : State) (g : Nat) (f : Group → Group) : Keeps s (modGroup s g f) := ⟨rfl, rfl, id⟩
theorem modDom_keeps (s : State) (d : Nat) (f : Domain → Domain) : Keeps s (modDom s d f) := ⟨rfl, rfl, id⟩
theorem modReg_keeps (s : State) (r : Nat) (f : Regulator → Regulator) : Keeps s (modReg s r f) := ⟨rfl, rfl, id⟩
theorem modLink_keeps (s : State) (n : Nat) (f : Link → Link) : Keeps s (modLink s n f) := ⟨rfl, rfl, id⟩
theorem modQuad_keeps (s : State) (q : Nat) (f : Quad → Quad) : Keeps s (modQuad s q f) := ⟨rfl, rfl, id⟩
theorem modFn_keeps (s : State) (n : Nat) (f : Fn → Fn) : Keeps s (modFn s n f) := ⟨rfl, rfl, id⟩
theorem modTq_keeps (s : State) (n : Nat) (f : TenantQ → TenantQ) : Keeps s (modTq s n f) := ⟨rfl, rfl, id⟩
theorem modWin_keeps (s : State) (n : Nat) (f : Window → Window) : Keeps s (modWin s n f) := ⟨rfl, rfl, id⟩
theorem modRing_keeps (s : State) (k : Nat) (f : RingUse → RingUse) : Keeps s (modRing s k f) := ⟨rfl, rfl, id⟩
theorem modDict_keeps (s : State) (f : Dict → Dict) : Keeps s (modDict s f) := ⟨rfl, rfl, id⟩
theorem modJournal_keeps (s : State) (f : Journal → Journal) : Keeps s (modJournal s f) := ⟨rfl, rfl, id⟩
theorem modPower_keeps (s : State) (f : Power → Power) : Keeps s (modPower s f) := ⟨rfl, rfl, id⟩
theorem modGaffer_keeps (s : State) (f : Gaffer → Gaffer) : Keeps s (modGaffer s f) := ⟨rfl, rfl, id⟩
theorem modFabric_keeps (s : State) (f : Fabric → Fabric) : Keeps s (modFabric s f) := ⟨rfl, rfl, id⟩
theorem modReels_keeps (s : State) (f : Reels → Reels) : Keeps s (modReels s f) := ⟨rfl, rfl, id⟩
theorem modSlate_keeps (s : State) (f : Slate → Slate) : Keeps s (modSlate s f) := ⟨rfl, rfl, id⟩
theorem modNet_keeps (s : State) (f : Net → Net) : Keeps s (modNet s f) := ⟨rfl, rfl, id⟩
theorem modHost_keeps (s : State) (f : HostPort → HostPort) : Keeps s (modHost s f) := ⟨rfl, rfl, id⟩
theorem modCan_keeps (s : State) (f : Can → Can) : Keeps s (modCan s f) := ⟨rfl, rfl, id⟩
theorem modSpi_keeps (s : State) (f : Spi → Spi) : Keeps s (modSpi s f) := ⟨rfl, rfl, id⟩
theorem modI2c_keeps (s : State) (f : I2c → I2c) : Keeps s (modI2c s f) := ⟨rfl, rfl, id⟩
theorem modPins_keeps (s : State) (f : Pins → Pins) : Keeps s (modPins s f) := ⟨rfl, rfl, id⟩
theorem modAgeing_keeps (s : State) (f : Ageing → Ageing) : Keeps s (modAgeing s f) := ⟨rfl, rfl, id⟩
theorem useFree_keeps (s : State) (n : Nat) : Keeps s (useFree s n) := ⟨rfl, rfl, id⟩
theorem emit_keeps (s : State) (o : Output) : Keeps s (emit s o) := ⟨rfl, rfl, id⟩
theorem setVal_keeps (s : State) (i j t : Nat) (v : List Byte) : Keeps s (setVal s i j t v) := ⟨rfl, rfl, id⟩
theorem clearVal_keeps (s : State) (i j t : Nat) : Keeps s (clearVal s i j t) := ⟨rfl, rfl, id⟩
theorem appendEvent_keeps (s : State) (e : EventRec) : Keeps s (appendEvent s e) := ⟨rfl, rfl, id⟩

/-- Every run of an action keeps the queue, the fuses and the form of memory. -/
def actKeeps {α : Type} (a : Act α) : Prop := ∀ s, Keeps s (runAct a s).1
theorem actKeeps_pure {α : Type} (x : α) : actKeeps (pure x : Act α) := fun s => Keeps.refl s
theorem actKeeps_get : actKeeps (get : Act State) := fun s => Keeps.refl s
theorem actKeeps_change (f : State → State) (h : ∀ s, Keeps s (f s)) : actKeeps (change f) := fun s => h s
theorem runAct_bind {α β : Type} (a : Act α) (f : α → Act β) (s : State) :
    runAct (a >>= f) s = match runAct a s with
      | (t, .error e) => (t, .error e)
      | (t, .ok x) => runAct (f x) t := by
  show runAct (ExceptT.bind a f) s = _
  unfold runAct ExceptT.bind
  simp only [ExceptT.run, ExceptT.mk, StateT.run, bind, StateT.bind]
  rcases a s with ⟨x, t⟩
  cases x <;> rfl
theorem actKeeps_bind {α β : Type} (a : Act α) (f : α → Act β) (ha : actKeeps a) (hf : ∀ x, actKeeps (f x)) : actKeeps (a >>= f) := by
  intro s
  rw [runAct_bind]
  have h := ha s
  revert h
  rcases runAct a s with ⟨t, x⟩
  intro h
  cases x with
  | error e => exact h
  | ok x => exact h.trans (hf x t)
theorem actKeeps_forM {α : Type} (l : List α) (f : α → Act Unit) (h : ∀ x, actKeeps (f x)) : actKeeps (l.forM f) := by
  induction l with
  | nil => exact actKeeps_pure _
  | cons x l ih => exact actKeeps_bind _ _ (h x) (fun _ => ih)
theorem actKeeps_foldlM {α β : Type} (l : List α) (f : β → α → Act β) (h : ∀ b x, actKeeps (f b x)) (b : β) : actKeeps (l.foldlM f b) := by
  induction l generalizing b with
  | nil => exact actKeeps_pure _
  | cons x l ih => rw [List.foldlM_cons]; exact actKeeps_bind _ _ (h b x) (fun _ => ih _)
theorem actKeeps_mapM {α β : Type} (l : List α) (f : α → Act β) (h : ∀ x, actKeeps (f x)) : actKeeps (l.mapM f) := by
  induction l with
  | nil => exact actKeeps_pure _
  | cons x l ih => rw [List.mapM_cons]; exact actKeeps_bind _ _ (h x) (fun _ => actKeeps_bind _ _ ih (fun _ => actKeeps_pure _))

/-- What a stream source answers keeps them too. -/
def soutKeeps (s : State) : SOut → Prop
  | .done t _ _ => Keeps s t
  | .wait => True
  | .bad t _ => Keeps s t
  | .mem t _ _ => Keeps s t
theorem soutKeeps_done {s t : State} (a b : Nat) (h : Keeps s t) : soutKeeps s (.done t a b) := h
theorem soutKeeps_bad {s t : State} (a : Nat) (h : Keeps s t) : soutKeeps s (.bad t a) := h
theorem soutKeeps_mem {s t : State} (e : MemErr) (a : Nat) (h : Keeps s t) : soutKeeps s (.mem t e a) := h
theorem soutKeeps_wait (s : State) : soutKeeps s .wait := trivial
theorem soutKeeps_trans {s t : State} {o : SOut} (h : Keeps s t) (k : soutKeeps t o) : soutKeeps s o := by
  cases o with
  | wait => trivial
  | _ => exact Keeps.trans h k

theorem FusesLe.refl (a : Fuses) : FusesLe a a := ⟨Nat.le_refl _, id, fun _ => id, Nat.le_refl _, Nat.le_refl _⟩
theorem FusesLe.trans {a b c : Fuses} (h : FusesLe a b) (k : FusesLe b c) : FusesLe a c :=
  ⟨Nat.le_trans h.rows k.rows, fun x => k.retired (h.retired x), fun d x => k.digest d (h.digest d x), Nat.le_trans h.floor k.floor,
    Nat.le_trans h.words k.words⟩
theorem Grows.refl (s : State) : Grows s s := ⟨rfl, FusesLe.refl _, id⟩
theorem Grows.trans {s t u : State} (h : Grows s t) (k : Grows t u) : Grows s u :=
  ⟨k.1.trans h.1, h.2.1.trans k.2.1, fun w => k.2.2 (h.2.2 w)⟩
theorem Keeps.grows {s t : State} (h : Keeps s t) : Grows s t := ⟨h.1, h.2.1 ▸ FusesLe.refl _, h.2.2⟩
theorem foldl_grows {β : Type} (l : List β) (f : State → β → State) (h : ∀ s x, Grows s (f s x)) (s : State) : Grows s (l.foldl f s) := by
  induction l generalizing s with
  | nil => exact Grows.refl s
  | cons x l ih => exact (h s x).trans (ih _)

/-- What a dictionary write answers lets them only grow. -/
def woutGrows (s : State) : WriteOut → Prop
  | .over t _ => Grows s t
  | .commit t _ _ => Grows s t
theorem Keeps.of_fst {α : Type} {s t : State} {p : State × α} {x : α} (h : Keeps s p.1) (e : p = (t, x)) : Keeps s t := by
  subst e; exact h
theorem Grows.of_fst {α : Type} {s t : State} {p : State × α} {x : α} (h : Grows s p.1) (e : p = (t, x)) : Grows s t := by
  subst e; exact h

end Sys2Proof.Machine
end

