-- ==== Sys2Proof/Laws/KeepsCores.lean ====
section
/-! SUPPORT. One lemma for each operation over cores, arrays, DMA, messages, rings and access to memory: it keeps the queue, the fuses and the form of
memory (`_keeps`), or lets the fuses only advance (`_grows`). -/
set_option Elab.async false
set_option linter.all false

namespace Sys2Proof.Machine

/-! ### Machine/Ops.lean -/

theorem firstSome_some {α β : Type} {f : α → Option β} {l : List α} {y : β} (h : firstSome f l = some y) : ∃ x, f x = some y := by
  induction l with
  | nil => simp [firstSome] at h
  | cons x l ih => unfold firstSome at h; split at h <;> grind
theorem canSendFd_keeps (s : State) (ident : BitVec 29) (data : List Byte) : Keeps s (canSendFd s ident data) := by
  grind [Keeps, canSendFd, emit_keeps]
theorem alarmFrame_keeps (s : State) (e : EventRec) : Keeps s (alarmFrame s e) := by
  grind [Keeps, alarmFrame, canSendFd_keeps, useFree_keeps]
theorem sendMsix_keeps (s : State) (f e : Nat) : Keeps s (sendMsix s f e) := by
  grind [Keeps, sendMsix, modFn_keeps, emit_keeps]
theorem raiseVector_keeps (s : State) (v : Nat) : Keeps s (raiseVector s v) := by
  grind [Keeps, raiseVector, sendMsix_keeps]
theorem alarmOut_keeps (s : State) (e : EventRec) : Keeps s (alarmOut s e) := by
  grind [Keeps, alarmOut, raiseVector_keeps, alarmFrame_keeps]
theorem logEvent_keeps (s : State) (code : Nat) (source : U16) (detail : Nat) : Keeps s (logEvent s code source detail) := by
  grind [Keeps, logEvent, alarmOut_keeps, appendEvent_keeps]
theorem setReady_keeps (s : State) (i : Nat) : Keeps s (setReady s i) := by
  grind [Keeps, setReady, logEvent_keeps, modGaffer_keeps]
theorem sendPacket_keeps (s : State) (p : Packet) : Keeps s (sendPacket s p) := by
  grind [Keeps, sendPacket, modNet_keeps]
theorem takeTag_keeps (s : State) (o : Outstanding) : Keeps s (takeTag s o) := by
  grind [Keeps, takeTag, modNet_keeps]
theorem sendRequest_keeps (s : State) (vc dst op ten arg : Nat) (body : List Byte) (o : Outstanding) : Keeps s (sendRequest s vc dst op ten arg body o) := by
  grind [Keeps, sendRequest, sendPacket_keeps, takeTag_keeps]
theorem answer_keeps (s : State) (p : Packet) (op arg : Nat) (body : List Byte) : Keeps s (answer s p op arg body) := by
  grind [Keeps, answer, sendPacket_keeps]
theorem freeBuffer_keeps (s : State) (port pool n : Nat) : Keeps s (freeBuffer s port pool n) := by
  grind [Keeps, freeBuffer, modLink_keeps]
theorem takePacket_keeps (s : State) (port op : Nat) : ∀ u v, takePacket s port op = some (u, v) → Keeps s u := by
  intro u v h
  obtain ⟨p, hp⟩ := firstSome_some h
  grind [Keeps, freeBuffer_keeps, modNet]
theorem takeOutstanding_keeps (s : State) (tag : Nat) : Keeps s (takeOutstanding s tag).1 := by
  grind [Keeps, takeOutstanding, modNet_keeps]

/-! ### Machine/Memory.lean -/

theorem eccNote_keeps (s : State) (k : Nat) (unc : Bool) : Keeps s (eccNote s k unc) := by
  grind [Keeps, eccNote, logEvent_keeps, modMem, Mem.wf]
theorem mendWord_keeps (s : State) (k : Nat) : Keeps s (mendWord s k) := by
  grind [Keeps, mendWord, modMem, Mem.wf]
theorem eccScan_keeps (x0 : List (Nat × Bool)) (s : State) : Keeps s (eccScan x0 s).1 := by
  fun_induction eccScan x0 s <;> grind [Keeps, eccScan, eccNote_keeps, mendWord_keeps]
theorem eccRead_keeps (s : State) (k n : Nat) : Keeps s (eccRead s k n).1 := by
  grind [Keeps, eccRead, eccScan_keeps, Mem.wf]
theorem rawWrite_keeps (s : State) (k : Nat) (bs : List Byte) : Keeps s (rawWrite s k bs) :=
  ⟨by unfold rawWrite; split <;> rfl, by unfold rawWrite; split <;> rfl, rawWrite_wf k bs⟩
theorem eccWrite_keeps (s : State) (k : Nat) (bs : List Byte) : Keeps s (eccWrite s k bs).1 := by
  grind [Keeps, eccWrite, eccScan_keeps, rawWrite_keeps]
theorem wipe_keeps (s : State) (k n : Nat) : Keeps s (wipe s k n) := ⟨rfl, rfl, wipe_wf k n⟩
theorem wipeExcept_keeps (s : State) (k n : Nat) (spare : List (Nat × Nat)) : Keeps s (wipeExcept s k n spare) :=
  ⟨rfl, rfl, fun h => cellsWf_filter _ h⟩
theorem noteRead_keeps (s : State) (k n : Nat) : Keeps s (noteRead s k n) := by
  grind [Keeps, noteRead, eccRead_keeps]
theorem ownTry_keeps (s : State) (k n : Nat) : Keeps s (ownTry s k n).1 := by
  grind [Keeps, ownTry, eccRead_keeps]
theorem ownWrite_keeps (s : State) (k : Nat) (bs : List Byte) : Keeps s (ownWrite s k bs) := by
  grind [Keeps, ownWrite, eccNote_keeps, mendWord_keeps, rawWrite_keeps, foldl_keeps]
theorem memPut_keeps (s : State) (k n v : Nat) : Keeps s (memPut s k n v) := by
  grind [Keeps, memPut, ownWrite_keeps]
theorem physRead_keeps (s : State) (space off n : Nat) (who : Agent) : Keeps s (physRead s space off n who).1 := by
  grind [Keeps, physRead, eccRead_keeps, Mem.wf]
theorem physWrite_keeps (s : State) (space off : Nat) (bs : List Byte) (who : Agent) : Keeps s (physWrite s space off bs who).1 := by
  grind [Keeps, physWrite, eccWrite_keeps, Mem.wf]
theorem scratchRead_keeps (s : State) (c off n : Nat) : Keeps s (scratchRead s c off n).1 := by
  grind [Keeps, scratchRead, eccRead_keeps]
theorem scratchWrite_keeps (s : State) (c off : Nat) (bs : List Byte) : Keeps s (scratchWrite s c off bs).1 := by
  grind [Keeps, scratchWrite, eccWrite_keeps]
theorem cacheUse_keeps (s : State) (c t : Nat) (e : Option Seg) : Keeps s (cacheUse s c t e) := by
  unfold cacheUse; try dsimp only
  all_goals repeat' first | with_reducible exact Keeps.refl _ | (with_reducible apply Keeps.trans; rotate_left; with_reducible apply foldl_keeps; intro s x; try dsimp only) | (with_reducible apply Keeps.trans; rotate_left; with_reducible apply modTq_keeps) | (with_reducible apply Keeps.trans; rotate_left; with_reducible apply modCore_keeps) | split | grind [Keeps, modTq_keeps, modCore_keeps]
theorem translate_keeps (s : State) (c t pkg space off right : Nat) : Keeps s (translate s c t pkg space off right).1 := by
  grind [Keeps, translate, cacheUse_keeps]

/-! ### Machine/Mesh.lean -/

theorem modChan_keeps (s : State) (i : Nat) (f : Channel → Channel) : Keeps s (modChan s i f) := by
  grind [Keeps, modChan, modFabric_keeps]
theorem modLane_keeps (s : State) (i l : Nat) (f : Lane → Lane) : Keeps s (modLane s i l f) := by
  grind [Keeps, modLane, modChan_keeps]

/-! ### Machine/Reels.lean -/

theorem noteDir_keeps (s : State) (c : Nat) : Keeps s (noteDir s c) := by
  grind [Keeps, noteDir, noteRead_keeps]
theorem dirPut_keeps (s : State) (c off n v : Nat) : Keeps s (dirPut s c off n v) := by
  grind [Keeps, dirPut, memPut_keeps, Mem.wf]
theorem setBank_keeps (s : State) (b : Bool) (k : Bank) : Keeps s (setBank s b k) := by
  unfold setBank; try dsimp only
  all_goals repeat' first | with_reducible exact Keeps.refl _ | (with_reducible apply Keeps.trans; rotate_left; with_reducible apply foldl_keeps; intro s x; try dsimp only) | (with_reducible apply Keeps.trans; rotate_left; with_reducible apply dirPut_keeps) | (with_reducible apply Keeps.trans; rotate_left; with_reducible apply modReels_keeps) | split | grind [Keeps, dirPut_keeps, modReels_keeps]
theorem clearDone_keeps (s : State) : Keeps s (clearDone s) := by
  unfold clearDone; try dsimp only
  all_goals repeat' first | with_reducible exact Keeps.refl _ | (with_reducible apply Keeps.trans; rotate_left; with_reducible apply foldl_keeps; intro s x; try dsimp only) | (with_reducible apply Keeps.trans; rotate_left; with_reducible apply dirPut_keeps) | (with_reducible apply Keeps.trans; rotate_left; with_reducible apply modReels_keeps) | split | grind [Keeps, dirPut_keeps, modReels_keeps]
theorem drainBank_keeps (s : State) (b : Bool) : Keeps s (drainBank s b) := by
  grind [Keeps, drainBank, setBank_keeps]
theorem drainBanks_keeps (s : State) : Keeps s (drainBanks s) := by
  grind [Keeps, drainBanks, drainBank_keeps]
theorem reelLatch_keeps (s : State) (b : Bool) : Keeps s (reelLatch s b) := by
  grind [Keeps, reelLatch, setBank_keeps, modReels_keeps, modDict_keeps]
theorem cueRelease_keeps (s : State) (r : Nat) : Keeps s (cueRelease s r) := by
  grind [Keeps, cueRelease]
theorem becomeFront_keeps (s : State) (b : Bool) : Keeps s (becomeFront s b) := by
  grind [Keeps, becomeFront, setBank_keeps, reelLatch_keeps, drainBanks_keeps, cueRelease_keeps]
theorem checkComplete_keeps (s : State) : Keeps s (checkComplete s) := by
  grind [Keeps, checkComplete, becomeFront_keeps]
theorem beginFill_keeps (s : State) (b : Bool) (r : Nat) : Keeps s (beginFill s b r) := by
  grind [Keeps, beginFill, setBank_keeps, checkComplete_keeps, clearDone_keeps, modReels_keeps]
theorem postReel_keeps (s : State) (r : Nat) : Keeps s (postReel s r) := by
  grind [Keeps, postReel, modReels_keeps]
theorem sendFrame_keeps (s : State) (dst : Nat) (f : List Byte) : Keeps s (sendFrame s dst f) := by
  grind [Keeps, sendFrame, sendPacket_keeps]
theorem offerAnswer_keeps (s : State) (r c : Nat) : Keeps s (offerAnswer s r c).1 := by
  grind [Keeps, offerAnswer, postReel_keeps, beginFill_keeps]
theorem setPushState_keeps (s : State) (c i v : Nat) : Keeps s (setPushState s c i v) := by
  grind [Keeps, setPushState, dirPut_keeps]
theorem setPushMark_keeps (s : State) (c i v : Nat) : Keeps s (setPushMark s c i v) := by
  grind [Keeps, setPushMark, dirPut_keeps]
theorem setSeal_keeps (s : State) (c v : Nat) : Keeps s (setSeal s c v) := by
  grind [Keeps, setSeal, memPut_keeps, Mem.wf]
theorem sealProgress_keeps (s : State) (c : Nat) : Keeps s (sealProgress s c) := by
  grind [Keeps, sealProgress, setSeal_keeps]
theorem sendOffer_keeps (s : State) (c i : Nat) : Keeps s (sendOffer s c i) := by
  grind [Keeps, sendOffer, sendFrame_keeps]
theorem startPush_keeps (s : State) (c i : Nat) (reel : Nat) : Keeps s (startPush s c i reel) := by
  grind [Keeps, startPush, sendOffer_keeps, dirPut_keeps, setPushMark_keeps, setPushState_keeps]
theorem sendData_keeps (x0 : Nat) (s : State) (x2 : Nat) (x3 : Nat) (x4 : Nat) : Keeps s (sendData x0 s x2 x3 x4) := by
  fun_induction sendData x0 s x2 x3 x4 <;> grind [Keeps, sendData, sealProgress_keeps, setPushState_keeps, sendFrame_keeps, eccRead_keeps]
theorem framePerformed_keeps (s : State) (pkg arg : Nat) : Keeps s (framePerformed s pkg arg) := by
  grind [Keeps, framePerformed, setPushMark_keeps, sealProgress_keeps, setPushState_keeps]
theorem tellPerformed_keeps (s : State) (src : Nat) (f : List Byte) : Keeps s (tellPerformed s src f) := by
  grind [Keeps, tellPerformed, framePerformed_keeps, sendPacket_keeps]
theorem dropFrames_keeps (s : State) (c i : Nat) : Keeps s (dropFrames s c i) := by
  grind [Keeps, dropFrames, modNet_keeps]
theorem stopSource_keeps (s : State) (c : Nat) : Keeps s (stopSource s c) := by
  grind [Keeps, stopSource, foldl_keeps, setPushState_keeps, dropFrames_keeps, setSeal_keeps]
theorem revokeReelSource_keeps (s : State) (pkg : Nat) : Keeps s (revokeReelSource s pkg) := by
  grind [Keeps, revokeReelSource, setBank_keeps]
theorem takeFrame_keeps (s : State) (port kind : Nat) : ∀ u v, (takeFrame s port kind) = some (u, v) → Keeps s u := by
  grind [Keeps, takeFrame, freeBuffer_keeps, modNet_keeps]
theorem setArrival_keeps (s : State) (f : List Byte) (a : Arrival) : Keeps s (setArrival s f a) := by
  grind [Keeps, setArrival, modReels_keeps]
theorem applyOffer_keeps (s : State) (p : Packet) : Keeps s (applyOffer s p) := by
  grind [Keeps, applyOffer, offerAnswer_keeps, noteDir_keeps, setArrival_keeps, sendFrame_keeps]
theorem finishEntry_keeps (s : State) (f : List Byte) : Keeps s (finishEntry s f) := by
  grind [Keeps, finishEntry, checkComplete_keeps, dirPut_keeps, setArrival_keeps, tellPerformed_keeps]
theorem applyData_keeps (s : State) (p : Packet) : Keeps s (applyData s p) := by
  grind [Keeps, applyData, noteDir_keeps, eccWrite_keeps, finishEntry_keeps, tellPerformed_keeps, setArrival_keeps]
theorem applyDone_keeps (s : State) (p : Packet) : Keeps s (applyDone s p) := by
  grind [Keeps, applyDone, finishEntry_keeps, setArrival_keeps]
theorem sealSample_keeps (s : State) (c : Nat) : Keeps s (sealSample s c) := by
  grind [Keeps, sealSample, noteRead_keeps, noteDir_keeps, setSeal_keeps, sealProgress_keeps, foldl_keeps, startPush_keeps]
theorem reelOffer_keeps (s : State) (port : Nat) : Keeps s (reelOffer s port) := by
  unfold reelOffer; try dsimp only
  all_goals repeat' first | with_reducible exact Keeps.refl _ | (with_reducible apply Keeps.trans; rotate_left; with_reducible apply foldl_keeps; intro s x; try dsimp only) | (with_reducible apply Keeps.trans; rotate_left; with_reducible apply drainBanks_keeps) | (with_reducible apply Keeps.trans; rotate_left; with_reducible apply applyOffer_keeps) | refine Keeps.trans ?_ (takeFrame_keeps _ _ _ _ _ (by assumption)) | split | grind [Keeps, takeFrame_keeps, drainBanks_keeps, applyOffer_keeps]
theorem reelAccept_keeps (s : State) (port : Nat) : Keeps s (reelAccept s port) := by
  unfold reelAccept; try dsimp only
  all_goals repeat' first | with_reducible exact Keeps.refl _ | (with_reducible apply Keeps.trans; rotate_left; with_reducible apply setPushState_keeps) | (with_reducible apply Keeps.trans; rotate_left; with_reducible apply sendData_keeps) | (with_reducible apply Keeps.trans; rotate_left; with_reducible apply noteRead_keeps) | split | grind [Keeps, takeFrame_keeps, noteRead_keeps, sendData_keeps, setPushState_keeps]
theorem reelHold_keeps (s : State) (port : Nat) : Keeps s (reelHold s port) := by
  unfold reelHold; try dsimp only
  all_goals repeat' first | with_reducible exact Keeps.refl _ | (with_reducible apply Keeps.trans; rotate_left; with_reducible apply foldl_keeps; intro s x; try dsimp only) | (with_reducible apply Keeps.trans; rotate_left; with_reducible apply setPushState_keeps) | refine Keeps.trans ?_ (takeFrame_keeps _ _ _ _ _ (by assumption)) | split | grind [Keeps, takeFrame_keeps, setPushState_keeps]
theorem offerResend_keeps (s : State) (c i : Nat) : Keeps s (offerResend s c i) := by
  grind [Keeps, offerResend, sendOffer_keeps]
theorem reelStale_keeps (s : State) (port : Nat) : Keeps s (reelStale s port) := by
  unfold reelStale; try dsimp only
  all_goals repeat' first | with_reducible exact Keeps.refl _ | (with_reducible apply Keeps.trans; rotate_left; with_reducible apply foldl_keeps; intro s x; try dsimp only) | (with_reducible apply Keeps.trans; rotate_left; with_reducible apply sealProgress_keeps) | (with_reducible apply Keeps.trans; rotate_left; with_reducible apply setPushState_keeps) | refine Keeps.trans ?_ (takeFrame_keeps _ _ _ _ _ (by assumption)) | split | grind [Keeps, takeFrame_keeps, sealProgress_keeps, setPushState_keeps]
theorem reelData_keeps (s : State) (port : Nat) : Keeps s (reelData s port) := by
  unfold reelData; try dsimp only
  all_goals repeat' first | with_reducible exact Keeps.refl _ | (with_reducible apply Keeps.trans; rotate_left; with_reducible apply foldl_keeps; intro s x; try dsimp only) | (with_reducible apply Keeps.trans; rotate_left; with_reducible apply localPerformed_keeps) | (with_reducible apply Keeps.trans; rotate_left; with_reducible apply applyData_keeps) | refine Keeps.trans ?_ (takeFrame_keeps _ _ _ _ _ (by assumption)) | split | grind [Keeps, takeFrame_keeps, localPerformed_keeps, applyData_keeps]
theorem reelDone_keeps (s : State) (port : Nat) : Keeps s (reelDone s port) := by
  unfold reelDone; try dsimp only
  all_goals repeat' first | with_reducible exact Keeps.refl _ | (with_reducible apply Keeps.trans; rotate_left; with_reducible apply foldl_keeps; intro s x; try dsimp only) | (with_reducible apply Keeps.trans; rotate_left; with_reducible apply localPerformed_keeps) | (with_reducible apply Keeps.trans; rotate_left; with_reducible apply applyDone_keeps) | refine Keeps.trans ?_ (takeFrame_keeps _ _ _ _ _ (by assumption)) | split | grind [Keeps, takeFrame_keeps, localPerformed_keeps, applyDone_keeps]
theorem execSealWordSample_keeps (c : CoreId) (s : State) : ∀ nxt, (execSealWordSample c s) = .next nxt → Keeps s nxt := by
  grind [Keeps, execSealWordSample, sealSample_keeps]
theorem execReelOffer_keeps (port : BitVec 5) (s : State) : ∀ nxt, (execReelOffer port s) = .next nxt → Keeps s nxt := by
  grind [Keeps, execReelOffer, reelOffer_keeps]
theorem execReelAccept_keeps (port : BitVec 5) (s : State) : ∀ nxt, (execReelAccept port s) = .next nxt → Keeps s nxt := by
  grind [Keeps, execReelAccept, reelAccept_keeps]
theorem execReelHold_keeps (port : BitVec 5) (s : State) : ∀ nxt, (execReelHold port s) = .next nxt → Keeps s nxt := by
  grind [Keeps, execReelHold, reelHold_keeps]
theorem execOfferResend_keeps (c : CoreId) (entry : U16) (s : State) : ∀ nxt, (execOfferResend c entry s) = .next nxt → Keeps s nxt := by
  grind [Keeps, execOfferResend, offerResend_keeps]
theorem execReelStale_keeps (port : BitVec 5) (s : State) : ∀ nxt, (execReelStale port s) = .next nxt → Keeps s nxt := by
  grind [Keeps, execReelStale, reelStale_keeps]
theorem execReelData_keeps (port : BitVec 5) (s : State) : ∀ nxt, (execReelData port s) = .next nxt → Keeps s nxt := by
  grind [Keeps, execReelData, reelData_keeps]
theorem execReelDone_keeps (port : BitVec 5) (s : State) : ∀ nxt, (execReelDone port s) = .next nxt → Keeps s nxt := by
  grind [Keeps, execReelDone, reelDone_keeps]

/-! ### Machine/Trackers.lean -/

theorem setTState_keeps (s : State) (i : Nat) (st : TState) : Keeps s (setTState s i st) := by
  grind [Keeps, setTState, modTracker_keeps]
theorem listPiece_keeps (s : State) (t : Tracker) (a : Nat) (bs : List Byte) : Keeps s (listPiece s t a bs).1 := by
  grind [Keeps, listPiece, physWrite_keeps]
theorem listPut_keeps (s : State) (t : Tracker) (e v : Nat) : Keeps s (listPut s t e v).1 := by
  grind [Keeps, listPut, listPiece_keeps]
theorem grantPages_keeps (x0 : Nat) (s : State) (x2 : Nat) (x3 : Nat) : Keeps s (grantPages x0 s x2 x3).1 := by
  fun_induction grantPages x0 s x2 x3 <;> grind [Keeps, grantPages, modTracker_keeps, listPut_keeps]
theorem enterWait_keeps (s : State) (i : Nat) : Keeps s (enterWait s i) := by
  grind [Keeps, enterWait, modTracker_keeps]
theorem frontNow_keeps (s : State) : Keeps s (frontNow s).1 := by
  grind [Keeps, frontNow, useFree_keeps]
theorem leaveWait_keeps (s : State) (i : Nat) : Keeps s (leaveWait s i) := by
  grind [Keeps, leaveWait, frontNow_keeps, modTracker_keeps]
theorem serveWaiters_keeps (s : State) : Keeps s (serveWaiters s) := by
  unfold serveWaiters; try dsimp only
  all_goals repeat' first | with_reducible exact Keeps.refl _ | (with_reducible apply Keeps.trans; rotate_left; with_reducible apply foldl_keeps; intro s x; try dsimp only) | (with_reducible apply Keeps.trans; rotate_left; with_reducible apply grantPages_keeps) | (with_reducible apply Keeps.trans; rotate_left; with_reducible apply leaveWait_keeps) | refine Keeps.trans ?_ (Keeps.of_fst (grantPages_keeps _ _ _ _) (by assumption)) | split | grind [Keeps, grantPages_keeps, leaveWait_keeps]
theorem serveLatch_keeps (s : State) : Keeps s (serveLatch s) := by
  grind [Keeps, serveLatch, serveWaiters_keeps, modDict_keeps]
theorem bindCheck_keeps (s : State) (t : Nat) (adapter : Nat) : Keeps s (bindCheck s t adapter).1 := by
  grind [Keeps, bindCheck, physRead_keeps]
theorem adapterUse_keeps (s : State) (adapter : Nat) (f : Nat → Nat) : Keeps s (adapterUse s adapter f) := by
  grind [Keeps, adapterUse, physRead_keeps, physWrite_keeps]
theorem freeTracker_keeps (s : State) (i : Nat) : Keeps s (freeTracker s i) := by
  grind [Keeps, freeTracker, serveWaiters_keeps, adapterUse_keeps, setTracker_keeps]
theorem closeTracker_keeps (s : State) (i : Nat) : Keeps s (closeTracker s i) := by
  grind [Keeps, closeTracker, drainBanks_keeps, freeTracker_keeps, modTracker_keeps]

/-! ### Machine/Faults.lean -/

theorem setMarkState_keeps (s : State) (c v : Nat) : Keeps s (setMarkState s c v) := by
  grind [Keeps, setMarkState, memPut_keeps, Mem.wf]
theorem writeMarkHeader_keeps (s : State) (c g : Nat) (slot : Nat) : Keeps s (writeMarkHeader s c g slot) := by
  grind [Keeps, writeMarkHeader, ownWrite_keeps]
theorem writeFaultRecordAt_keeps (s : State) (c : Nat) (f : FaultInfo) (kernel huddles : Nat) : Keeps s (writeFaultRecordAt s c f kernel huddles) := by
  grind [Keeps, writeFaultRecordAt, ownWrite_keeps, useFree_keeps, setMarkState_keeps]
theorem writeFaultRecord_keeps (s : State) (c g : Nat) (f : FaultInfo) : Keeps s (writeFaultRecord s c g f) := by
  grind [Keeps, writeFaultRecord, writeFaultRecordAt_keeps]
theorem discardStages_keeps (s : State) (p : Nat → Holder → Bool) (cause : Nat) : Keeps s (discardStages s p cause) := by
  unfold discardStages; try dsimp only
  all_goals repeat' first | with_reducible exact Keeps.refl _ | (with_reducible apply Keeps.trans; rotate_left; with_reducible apply foldl_keeps; intro s x; try dsimp only) | (with_reducible apply Keeps.trans; rotate_left; with_reducible apply logEvent_keeps) | (with_reducible apply Keeps.trans; rotate_left; with_reducible apply modDict_keeps) | split | grind [Keeps, logEvent_keeps, modDict_keeps]
theorem revokeSenders_keeps (s : State) (p : Nat → Nat → Nat → Nat → Bool) : Keeps s (revokeSenders s p) := by
  grind [Keeps, revokeSenders]
theorem dropHeld_keeps (s : State) (p : Nat → Resv → Bool) : Keeps s (dropHeld s p) := by
  grind [Keeps, dropHeld]
theorem revokeAgainst_keeps (s : State) (c : Nat) : Keeps s (revokeAgainst s c) := by
  grind [Keeps, revokeAgainst, dropHeld_keeps, modCore_keeps]
theorem emptyBoxes_keeps (s : State) (c : Nat) : Keeps s (emptyBoxes s c) := by
  grind [Keeps, emptyBoxes, revokeAgainst_keeps, modCore_keeps]
theorem revokeLeases_keeps (s : State) (p : Nat → Nat → Nat → Nat → Bool) : Keeps s (revokeLeases s p) :=
  foldl_keeps _ _ (fun _ _ => memPut_keeps ..) _
theorem revokeHomes_keeps (s : State) (t : Tag) : Keeps s (revokeHomes s t) := by
  grind [Keeps, revokeHomes, revokeSenders_keeps, revokeLeases_keeps]
theorem sendNotices_keeps (s : State) (t : Tag) (pkgs : List Nat) (ten : Nat) : Keeps s (sendNotices s t pkgs ten) := by
  unfold sendNotices; try dsimp only
  all_goals repeat' first | with_reducible exact Keeps.refl _ | (with_reducible apply Keeps.trans; rotate_left; with_reducible apply foldl_keeps; intro s x; try dsimp only) | (with_reducible apply Keeps.trans; rotate_left; with_reducible apply sendPacket_keeps) | (with_reducible apply Keeps.trans; rotate_left; with_reducible apply takeTag_keeps) | split | grind [Keeps, sendPacket_keeps, takeTag_keeps]
theorem revokeCore_keeps (s : State) (c : Nat) : Keeps s (revokeCore s c) := by
  grind [Keeps, revokeCore, sendNotices_keeps, revokeHomes_keeps, dropHeld_keeps, modCore_keeps]
theorem streamsLost_keeps (s : State) (g : Nat) : Keeps s (streamsLost s g) := by
  grind [Keeps, streamsLost, drainBanks_keeps]
theorem dmaWriteMark_keeps (s : State) (c : Nat) (d : DmaCmd) (mark status : Nat) : Keeps s (dmaWriteMark s c d mark status) := by
  grind [Keeps, dmaWriteMark, ownWrite_keeps]
theorem dmaStop_keeps (s : State) (c : Nat) (d : DmaCmd) (status : Nat) : Keeps s (dmaStop s c d status) := by
  grind [Keeps, dmaStop, dmaWriteMark_keeps, useFree_keeps]
theorem dropReader_keeps (s : State) (i : Nat) : Keeps s (dropReader s i) := by
  grind [Keeps, dropReader, freeTracker_keeps, modTracker_keeps]
theorem dropReaders_keeps (s : State) (c : Nat) : Keeps s (dropReaders s c) := by
  unfold dropReaders; try dsimp only
  all_goals repeat' first | with_reducible exact Keeps.refl _ | (with_reducible apply Keeps.trans; rotate_left; with_reducible apply foldl_keeps; intro s x; try dsimp only) | (with_reducible apply Keeps.trans; rotate_left; with_reducible apply dropReader_keeps) | split | grind [Keeps, dropReader_keeps]
theorem writeMessageMarks_keeps (s : State) (c : Nat) : Keeps s (writeMessageMarks s c) := by
  grind [Keeps, writeMessageMarks, useFree_keeps, ownWrite_keeps]
theorem abortSends_keeps (s : State) (c : Nat) : Keeps s (abortSends s c) := by
  grind [Keeps, abortSends, ownWrite_keeps]
theorem stopEngines_keeps (s : State) (c : Nat) (status : Nat) (gone : Bool) : Keeps s (stopEngines s c status gone) := by
  unfold stopEngines; try dsimp only
  all_goals repeat' first | with_reducible exact Keeps.refl _ | (with_reducible apply Keeps.trans; rotate_left; with_reducible apply foldl_keeps; intro s x; try dsimp only) | (with_reducible apply Keeps.trans; rotate_left; with_reducible apply dropReaders_keeps) | (with_reducible apply Keeps.trans; rotate_left; with_reducible apply modCore_keeps) | (with_reducible apply Keeps.trans; rotate_left; with_reducible apply abortSends_keeps) | (with_reducible apply Keeps.trans; rotate_left; with_reducible apply writeMessageMarks_keeps) | (with_reducible apply Keeps.trans; rotate_left; with_reducible apply dmaStop_keeps) | split | grind [Keeps, dmaStop_keeps, writeMessageMarks_keeps, abortSends_keeps, modCore_keeps, dropReaders_keeps]
theorem stopMembers_keeps (s : State) (g status : Nat) : Keeps s (stopMembers s g status) := by
  unfold stopMembers; try dsimp only
  all_goals repeat' first | with_reducible exact Keeps.refl _ | (with_reducible apply Keeps.trans; rotate_left; with_reducible apply foldl_keeps; intro s x; try dsimp only) | (with_reducible apply Keeps.trans; rotate_left; with_reducible apply stopEngines_keeps) | split | grind [Keeps, stopEngines_keeps, Mem.wf]
theorem fenceCore_keeps (s : State) (c : Nat) (src : U16) : Keeps s (fenceCore s c src) := by
  grind [Keeps, fenceCore, logEvent_keeps, stopSource_keeps, revokeAgainst_keeps, revokeCore_keeps, modCore_keeps]
theorem faultGroupAt_keeps (s : State) (c g : Nat) (f : FaultInfo) (kernel huddles : Nat) : Keeps s (faultGroupAt s c g f kernel huddles) := by
  grind [Keeps, faultGroupAt, writeFaultRecordAt_keeps, stopMembers_keeps, modGroup_keeps, logEvent_keeps, streamsLost_keeps, fenceCore_keeps]
theorem faultGroup_keeps (s : State) (c g : Nat) (f : FaultInfo) : Keeps s (faultGroup s c g f) := by
  grind [Keeps, faultGroup, faultGroupAt_keeps]
theorem memberLost_keeps (s : State) (g c code under : Nat) : Keeps s (memberLost s g c code under) := by
  grind [Keeps, memberLost, writeFaultRecord_keeps, fenceCore_keeps, logEvent_keeps, streamsLost_keeps, modGroup_keeps, setMarkState_keeps]
theorem groupFault_keeps (s : State) (c g : Nat) (f : FaultInfo) : Keeps s (groupFault s c g f) := by
  grind [Keeps, groupFault, memberLost_keeps, faultGroup_keeps, Mem.wf]
theorem strayFault_keeps (s : State) (c : Nat) (f : FaultInfo) : Keeps s (strayFault s c f) := by
  grind [Keeps, strayFault, logEvent_keeps, writeFaultRecord_keeps, fenceCore_keeps]
theorem raiseFault_keeps (s : State) (c : Nat) (f : FaultInfo) : Keeps s (raiseFault s c f) := by
  grind [Keeps, raiseFault, groupFault_keeps, memberLost_keeps, strayFault_keeps, Mem.wf]
theorem cpFault_keeps (s : State) (c : Nat) (code detail addr phys : Nat) : Keeps s (cpFault s c code detail addr phys) := by
  grind [Keeps, cpFault, raiseFault_keeps]
theorem memFault_keeps (s : State) (c : Nat) (e : Engine) (tag : Nat) (m : MemErr) (addr : Nat) : Keeps s (memFault s c e tag m addr) := by
  grind [Keeps, memFault, raiseFault_keeps]
theorem descFault_keeps (s : State) (c : Nat) (e : Engine) (tag : Nat) (detail : Nat) : Keeps s (descFault s c e tag detail) := by
  grind [Keeps, descFault, raiseFault_keeps]
theorem faultGroups_keeps (s : State) (p : Nat → Bool) (code detail : Nat) : Keeps s (faultGroups s p code detail) := by
  grind [Keeps, faultGroups, foldl_keeps, groupFault_keeps, Mem.wf]
theorem revokeGroup_keeps (s : State) (g : Nat) (ms : List Nat) : Keeps s (revokeGroup s g ms) := by
  unfold revokeGroup; try dsimp only
  all_goals repeat' first | with_reducible exact Keeps.refl _ | (with_reducible apply Keeps.trans; rotate_left; with_reducible apply foldl_keeps; intro s x; try dsimp only) | (with_reducible apply Keeps.trans; rotate_left; with_reducible apply sendNotices_keeps) | (with_reducible apply Keeps.trans; rotate_left; with_reducible apply revokeHomes_keeps) | (with_reducible apply Keeps.trans; rotate_left; with_reducible apply dropHeld_keeps) | (with_reducible apply Keeps.trans; rotate_left; with_reducible apply discardStages_keeps) | split | grind [Keeps, sendNotices_keeps, revokeHomes_keeps, dropHeld_keeps, discardStages_keeps, Mem.wf]
theorem spoilSlots_keeps (s : State) (g : Nat) : Keeps s (spoilSlots s g) := by
  grind [Keeps, spoilSlots, foldl_keeps, useFree_keeps, physWrite_keeps, Mem.wf]
theorem abortMember_keeps (s : State) (c : Nat) : Keeps s (abortMember s c) := by
  grind [Keeps, abortMember, stopEngines_keeps, emptyBoxes_keeps, setMarkState_keeps, modCore_keeps, useFree_keeps]
theorem abortGroup_keeps (s : State) (g : Nat) : Keeps s (abortGroup s g) := by
  unfold abortGroup; try dsimp only
  all_goals repeat' first | with_reducible exact Keeps.refl _ | (with_reducible apply Keeps.trans; rotate_left; with_reducible apply foldl_keeps; intro s x; try dsimp only) | (with_reducible apply Keeps.trans; rotate_left; with_reducible apply streamsLost_keeps) | (with_reducible apply Keeps.trans; rotate_left; with_reducible apply modGroup_keeps) | (with_reducible apply Keeps.trans; rotate_left; with_reducible apply spoilSlots_keeps) | (with_reducible apply Keeps.trans; rotate_left; with_reducible apply revokeGroup_keeps) | (with_reducible apply Keeps.trans; rotate_left; with_reducible apply abortMember_keeps) | split | grind [Keeps, abortMember_keeps, revokeGroup_keeps, spoilSlots_keeps, modGroup_keeps, streamsLost_keeps, Mem.wf]

/-! ### Machine/Control.lean -/

theorem result_keeps (s : State) (c d v : Nat) : Keeps s (result s c d v) := by
  grind [Keeps, result, modCore_keeps]
theorem illegal_keeps (s : State) (c : Nat) (w : U32) : Keeps s (illegal s c w) := by
  grind [Keeps, illegal, cpFault_keeps]
theorem coreStep_keeps (mn : String) (want : Spelling → Bool) (f : State → State) (c : CoreId) (w : U32) (s : State)
    (hf : Keeps s (f s)) : ∀ t, coreStep mn want f c w s = .next t → Keeps s t := by
  grind [coreStep, illegal_keeps, Keeps.refl]
theorem intOp_keeps (c : Nat) (w : U32) (s : State) : Keeps s (intOp c w s) := by
  grind [Keeps, intOp, result_keeps]
theorem intStep_keeps (mn : String) (f : Nat) (c : CoreId) (w : U32) (s : State) : ∀ t, intStep mn f c w s = .next t → Keeps s t :=
  coreStep_keeps _ _ _ _ _ _ (intOp_keeps ..)
theorem execIntAdd_keeps (c : CoreId) (w : U32) (s : State) : ∀ nxt, (execIntAdd c w s) = .next nxt → Keeps s nxt := by
  unfold execIntAdd; exact intStep_keeps _ _ _ _ _
theorem execIntSubtract_keeps (c : CoreId) (w : U32) (s : State) : ∀ nxt, (execIntSubtract c w s) = .next nxt → Keeps s nxt := by
  unfold execIntSubtract; exact intStep_keeps _ _ _ _ _
theorem execIntAnd_keeps (c : CoreId) (w : U32) (s : State) : ∀ nxt, (execIntAnd c w s) = .next nxt → Keeps s nxt := by
  unfold execIntAnd; exact intStep_keeps _ _ _ _ _
theorem execIntOr_keeps (c : CoreId) (w : U32) (s : State) : ∀ nxt, (execIntOr c w s) = .next nxt → Keeps s nxt := by
  unfold execIntOr; exact intStep_keeps _ _ _ _ _
theorem execIntExclusiveOr_keeps (c : CoreId) (w : U32) (s : State) : ∀ nxt, (execIntExclusiveOr c w s) = .next nxt → Keeps s nxt := by
  unfold execIntExclusiveOr; exact intStep_keeps _ _ _ _ _
theorem execIntShiftLeft_keeps (c : CoreId) (w : U32) (s : State) : ∀ nxt, (execIntShiftLeft c w s) = .next nxt → Keeps s nxt := by
  unfold execIntShiftLeft; exact intStep_keeps _ _ _ _ _
theorem execIntLogicalRight_keeps (c : CoreId) (w : U32) (s : State) : ∀ nxt, (execIntLogicalRight c w s) = .next nxt → Keeps s nxt := by
  unfold execIntLogicalRight; exact intStep_keeps _ _ _ _ _
theorem execIntArithmeticRight_keeps (c : CoreId) (w : U32) (s : State) : ∀ nxt, (execIntArithmeticRight c w s) = .next nxt → Keeps s nxt := by
  unfold execIntArithmeticRight; exact intStep_keeps _ _ _ _ _
theorem execIntProductLow_keeps (c : CoreId) (w : U32) (s : State) : ∀ nxt, (execIntProductLow c w s) = .next nxt → Keeps s nxt := by
  unfold execIntProductLow; exact intStep_keeps _ _ _ _ _
theorem execIntProductHighUnsigned_keeps (c : CoreId) (w : U32) (s : State) : ∀ nxt, (execIntProductHighUnsigned c w s) = .next nxt → Keeps s nxt := by
  unfold execIntProductHighUnsigned; exact intStep_keeps _ _ _ _ _
theorem execIntLessSigned_keeps (c : CoreId) (w : U32) (s : State) : ∀ nxt, (execIntLessSigned c w s) = .next nxt → Keeps s nxt := by
  unfold execIntLessSigned; exact intStep_keeps _ _ _ _ _
theorem execIntLessUnsigned_keeps (c : CoreId) (w : U32) (s : State) : ∀ nxt, (execIntLessUnsigned c w s) = .next nxt → Keeps s nxt := by
  unfold execIntLessUnsigned; exact intStep_keeps _ _ _ _ _
theorem execIntSignedMinimum_keeps (c : CoreId) (w : U32) (s : State) : ∀ nxt, (execIntSignedMinimum c w s) = .next nxt → Keeps s nxt := by
  unfold execIntSignedMinimum; exact intStep_keeps _ _ _ _ _
theorem execIntSignedMaximum_keeps (c : CoreId) (w : U32) (s : State) : ∀ nxt, (execIntSignedMaximum c w s) = .next nxt → Keeps s nxt := by
  unfold execIntSignedMaximum; exact intStep_keeps _ _ _ _ _
theorem execIntLeadingZeros_keeps (c : CoreId) (w : U32) (s : State) : ∀ nxt, (execIntLeadingZeros c w s) = .next nxt → Keeps s nxt := by
  unfold execIntLeadingZeros; exact intStep_keeps _ _ _ _ _
theorem execIntSetBits_keeps (c : CoreId) (w : U32) (s : State) : ∀ nxt, (execIntSetBits c w s) = .next nxt → Keeps s nxt := by
  unfold execIntSetBits; exact intStep_keeps _ _ _ _ _
theorem immOp_keeps (c : Nat) (w : U32) (s : State) : Keeps s (immOp c w s) := by
  grind [Keeps, immOp, result_keeps]
theorem execAddImmediate_keeps (c : CoreId) (w : U32) (s : State) : ∀ nxt, (execAddImmediate c w s) = .next nxt → Keeps s nxt := by
  unfold execAddImmediate; exact coreStep_keeps _ _ _ _ _ _ (by first | with_reducible exact immOp_keeps .. | grind [Keeps, coreStep_keeps, immOp_keeps])
theorem execAndImmediate_keeps (c : CoreId) (w : U32) (s : State) : ∀ nxt, (execAndImmediate c w s) = .next nxt → Keeps s nxt := by
  unfold execAndImmediate; exact coreStep_keeps _ _ _ _ _ _ (by first | with_reducible exact immOp_keeps .. | grind [Keeps, coreStep_keeps, immOp_keeps])
theorem execOrImmediate_keeps (c : CoreId) (w : U32) (s : State) : ∀ nxt, (execOrImmediate c w s) = .next nxt → Keeps s nxt := by
  unfold execOrImmediate; exact coreStep_keeps _ _ _ _ _ _ (by first | with_reducible exact immOp_keeps .. | grind [Keeps, coreStep_keeps, immOp_keeps])
theorem execShiftOrImmediate_keeps (c : CoreId) (w : U32) (s : State) : ∀ nxt, (execShiftOrImmediate c w s) = .next nxt → Keeps s nxt := by
  unfold execShiftOrImmediate; exact coreStep_keeps _ _ _ _ _ _ (by first | with_reducible exact immOp_keeps .. | grind [Keeps, coreStep_keeps, immOp_keeps])
theorem branchOp_keeps (c : Nat) (w : U32) (s : State) : Keeps s (branchOp c w s) := by
  grind [Keeps, branchOp, modCore_keeps]
theorem jumpOp_keeps (c : Nat) (w : U32) (s : State) : Keeps s (jumpOp c w s) := by
  grind [Keeps, jumpOp, modCore_keeps]
theorem execBranch_keeps (c : CoreId) (w : U32) (s : State) : ∀ nxt, (execBranch c w s) = .next nxt → Keeps s nxt := by
  unfold execBranch; exact coreStep_keeps _ _ _ _ _ _ (by first | with_reducible exact branchOp_keeps .. | grind [Keeps, coreStep_keeps, branchOp_keeps])
theorem execJumpAndLink_keeps (c : CoreId) (w : U32) (s : State) : ∀ nxt, (execJumpAndLink c w s) = .next nxt → Keeps s nxt := by
  unfold execJumpAndLink; exact coreStep_keeps _ _ _ _ _ _ (by first | with_reducible exact jumpOp_keeps .. | grind [Keeps, coreStep_keeps, jumpOp_keeps])
theorem execNop_keeps (c : CoreId) (w : U32) (s : State) : ∀ nxt, (execNop c w s) = .next nxt → Keeps s nxt := by
  unfold execNop; exact coreStep_keeps _ _ _ _ _ _ (by first | with_reducible exact modCore_keeps .. | grind [Keeps, coreStep_keeps, modCore_keeps])
theorem beatsOp_keeps (c : Nat) (w : U32) (s : State) : Keeps s (beatsOp c w s) := by
  grind [Keeps, beatsOp, result_keeps, useFree_keeps, modCore_keeps]
theorem execBeats_keeps (c : CoreId) (w : U32) (s : State) : ∀ nxt, (execBeats c w s) = .next nxt → Keeps s nxt := by
  unfold execBeats; exact coreStep_keeps _ _ _ _ _ _ (by first | with_reducible exact beatsOp_keeps .. | grind [Keeps, coreStep_keeps, beatsOp_keeps])
theorem execSoftwareFault_keeps (c : CoreId) (w : U32) (s : State) : ∀ nxt, (execSoftwareFault c w s) = .next nxt → Keeps s nxt := by
  unfold execSoftwareFault; exact coreStep_keeps _ _ _ _ _ _ (by first | with_reducible exact cpFault_keeps .. | grind [Keeps, coreStep_keeps, cpFault_keeps])
theorem engineStalled_keeps (s : State) (c : Nat) (e : Engine) (tag : Nat) (parity : Bool) : Keeps s (engineStalled s c e tag parity) := by
  unfold engineStalled; try dsimp only
  all_goals repeat' first | with_reducible exact Keeps.refl _ | (with_reducible apply Keeps.trans; rotate_left; with_reducible apply foldl_keeps; intro s x; try dsimp only) | (with_reducible apply Keeps.trans; rotate_left; with_reducible apply raiseFault_keeps) | split | grind [Keeps, raiseFault_keeps]
theorem execEngineStall_keeps (c : CoreId) (e : Engine) (found : EngineFinding) (s : State) : ∀ nxt, (execEngineStall c e found s) = .next nxt → Keeps s nxt := by
  grind [Keeps, execEngineStall, engineStalled_keeps]

/-! ### Machine/Vector.lean -/

theorem vecOp_keeps (c : Nat) (w : U32) (f : Core → List F32) (s : State) : Keeps s (vecOp c w f s) := by
  grind [Keeps, vecOp, modCore_keeps]
theorem vecBin_keeps (op : F32 → F32 → F32) (c : Nat) (w : U32) (s : State) : Keeps s (vecBin op c w s) := by
  grind [Keeps, vecBin, vecOp_keeps]
theorem vecUn_keeps (f : F32 → F32) (c : Nat) (w : U32) (s : State) : Keeps s (vecUn f c w s) := by
  grind [Keeps, vecUn, vecOp_keeps]
theorem vecFma_keeps (c : Nat) (w : U32) (s : State) : Keeps s (vecFma c w s) := by
  grind [Keeps, vecFma, vecOp_keeps]
theorem vecCmp_keeps (p : CmpPred) (c : Nat) (w : U32) (s : State) : Keeps s (vecCmp p c w s) := by
  grind [Keeps, vecCmp, vecBin_keeps]
theorem vecSel_keeps (c : Nat) (w : U32) (s : State) : Keeps s (vecSel c w s) := by
  grind [Keeps, vecSel, vecOp_keeps]
theorem vecRed_keeps (f : List F32 → F32) (c : Nat) (w : U32) (s : State) : Keeps s (vecRed f c w s) := by
  grind [Keeps, vecRed, vecOp_keeps]
theorem vecArith_keeps (mn : String) (f : State → State) (c : CoreId) (w : U32) (s : State) (hf : Keeps s (f s)) :
    ∀ t, vecArith mn f c w s = .next t → Keeps s t := coreStep_keeps _ _ _ _ _ _ hf
theorem execVectorAdd_keeps (c : CoreId) (w : U32) (s : State) : ∀ nxt, (execVectorAdd c w s) = .next nxt → Keeps s nxt := by
  unfold execVectorAdd; exact vecArith_keeps _ _ _ _ _ (by first | with_reducible exact vecBin_keeps .. | grind [Keeps, vecArith_keeps, vecBin_keeps])
theorem execVectorSubtract_keeps (c : CoreId) (w : U32) (s : State) : ∀ nxt, (execVectorSubtract c w s) = .next nxt → Keeps s nxt := by
  unfold execVectorSubtract; exact vecArith_keeps _ _ _ _ _ (by first | with_reducible exact vecBin_keeps .. | grind [Keeps, vecArith_keeps, vecBin_keeps])
theorem execVectorMultiply_keeps (c : CoreId) (w : U32) (s : State) : ∀ nxt, (execVectorMultiply c w s) = .next nxt → Keeps s nxt := by
  unfold execVectorMultiply; exact vecArith_keeps _ _ _ _ _ (by first | with_reducible exact vecBin_keeps .. | grind [Keeps, vecArith_keeps, vecBin_keeps])
theorem execVectorFusedMultiplyAdd_keeps (c : CoreId) (w : U32) (s : State) : ∀ nxt, (execVectorFusedMultiplyAdd c w s) = .next nxt → Keeps s nxt := by
  unfold execVectorFusedMultiplyAdd; exact vecArith_keeps _ _ _ _ _ (by first | with_reducible exact vecFma_keeps .. | grind [Keeps, vecArith_keeps, vecFma_keeps])
theorem execVectorMinimum_keeps (c : CoreId) (w : U32) (s : State) : ∀ nxt, (execVectorMinimum c w s) = .next nxt → Keeps s nxt := by
  unfold execVectorMinimum; exact vecArith_keeps _ _ _ _ _ (by first | with_reducible exact vecBin_keeps .. | grind [Keeps, vecArith_keeps, vecBin_keeps])
theorem execVectorMaximum_keeps (c : CoreId) (w : U32) (s : State) : ∀ nxt, (execVectorMaximum c w s) = .next nxt → Keeps s nxt := by
  unfold execVectorMaximum; exact vecArith_keeps _ _ _ _ _ (by first | with_reducible exact vecBin_keeps .. | grind [Keeps, vecArith_keeps, vecBin_keeps])
theorem execVectorCompare_keeps (c : CoreId) (w : U32) (p : CmpPred) (s : State) : ∀ nxt, (execVectorCompare c w p s) = .next nxt → Keeps s nxt := by
  unfold execVectorCompare; exact vecArith_keeps _ _ _ _ _ (by first | with_reducible exact vecCmp_keeps .. | grind [Keeps, vecArith_keeps, vecCmp_keeps])
theorem execVectorSelect_keeps (c : CoreId) (w : U32) (s : State) : ∀ nxt, (execVectorSelect c w s) = .next nxt → Keeps s nxt := by
  unfold execVectorSelect; exact coreStep_keeps _ _ _ _ _ _ (by first | with_reducible exact vecSel_keeps .. | grind [Keeps, coreStep_keeps, vecSel_keeps])
theorem vecFnStep_keeps (mn : String) (n : Nat) (f : F32 → F32) (c : CoreId) (w : U32) (s : State) :
    ∀ t, vecFnStep mn n f c w s = .next t → Keeps s t := coreStep_keeps _ _ _ _ _ _ (vecUn_keeps ..)
theorem execVectorExp2_keeps (c : CoreId) (w : U32) (s : State) : ∀ nxt, (execVectorExp2 c w s) = .next nxt → Keeps s nxt := by
  unfold execVectorExp2; exact vecFnStep_keeps _ _ _ _ _ _
theorem execVectorLog2_keeps (c : CoreId) (w : U32) (s : State) : ∀ nxt, (execVectorLog2 c w s) = .next nxt → Keeps s nxt := by
  unfold execVectorLog2; exact vecFnStep_keeps _ _ _ _ _ _
theorem execVectorReciprocal_keeps (c : CoreId) (w : U32) (s : State) : ∀ nxt, (execVectorReciprocal c w s) = .next nxt → Keeps s nxt := by
  unfold execVectorReciprocal; exact vecFnStep_keeps _ _ _ _ _ _
theorem execVectorReciprocalSquareRoot_keeps (c : CoreId) (w : U32) (s : State) : ∀ nxt, (execVectorReciprocalSquareRoot c w s) = .next nxt → Keeps s nxt := by
  unfold execVectorReciprocalSquareRoot; exact vecFnStep_keeps _ _ _ _ _ _
theorem execVectorSquareRoot_keeps (c : CoreId) (w : U32) (s : State) : ∀ nxt, (execVectorSquareRoot c w s) = .next nxt → Keeps s nxt := by
  unfold execVectorSquareRoot; exact vecFnStep_keeps _ _ _ _ _ _
theorem execVectorExp_keeps (c : CoreId) (w : U32) (s : State) : ∀ nxt, (execVectorExp c w s) = .next nxt → Keeps s nxt := by
  unfold execVectorExp; exact vecFnStep_keeps _ _ _ _ _ _
theorem execVectorSigmoid_keeps (c : CoreId) (w : U32) (s : State) : ∀ nxt, (execVectorSigmoid c w s) = .next nxt → Keeps s nxt := by
  unfold execVectorSigmoid; exact vecFnStep_keeps _ _ _ _ _ _
theorem execVectorTanh_keeps (c : CoreId) (w : U32) (s : State) : ∀ nxt, (execVectorTanh c w s) = .next nxt → Keeps s nxt := by
  unfold execVectorTanh; exact vecFnStep_keeps _ _ _ _ _ _
theorem execLaneSum_keeps (c : CoreId) (w : U32) (s : State) : ∀ nxt, (execLaneSum c w s) = .next nxt → Keeps s nxt := by
  unfold execLaneSum; exact coreStep_keeps _ _ _ _ _ _ (by first | with_reducible exact vecRed_keeps .. | grind [Keeps, coreStep_keeps, vecRed_keeps])
theorem execLaneMaximum_keeps (c : CoreId) (w : U32) (s : State) : ∀ nxt, (execLaneMaximum c w s) = .next nxt → Keeps s nxt := by
  unfold execLaneMaximum; exact coreStep_keeps _ _ _ _ _ _ (by first | with_reducible exact vecRed_keeps .. | grind [Keeps, coreStep_keeps, vecRed_keeps])
theorem vecLoadAcc_keeps (c : Nat) (w : U32) (s : State) : Keeps s (vecLoadAcc c w s) := by
  grind [Keeps, vecLoadAcc, descFault_keeps, modCore_keeps]
theorem vecLoadScratch_keeps (c : Nat) (w : U32) (f : Fmt) (s : State) : Keeps s (vecLoadScratch c w f s) := by
  grind [Keeps, vecLoadScratch, descFault_keeps, scratchRead_keeps, memFault_keeps, useFree_keeps, modCore_keeps, Mem.wf]
theorem vecLoad_keeps (c : Nat) (w : U32) (s : State) : Keeps s (vecLoad c w s) := by
  grind [Keeps, vecLoad, vecLoadAcc_keeps, vecLoadScratch_keeps, descFault_keeps]
theorem vecStoreAcc_keeps (c : Nat) (w : U32) (s : State) : Keeps s (vecStoreAcc c w s) := by
  grind [Keeps, vecStoreAcc, descFault_keeps, modCore_keeps]
theorem vecStoreScratch_keeps (c : Nat) (w : U32) (f : Fmt) (s : State) : Keeps s (vecStoreScratch c w f s) := by
  grind [Keeps, vecStoreScratch, descFault_keeps, scratchWrite_keeps, memFault_keeps, useFree_keeps, modCore_keeps, Mem.wf]
theorem vecStore_keeps (c : Nat) (w : U32) (s : State) : Keeps s (vecStore c w s) := by
  grind [Keeps, vecStore, illegal_keeps, vecStoreAcc_keeps, vecStoreScratch_keeps, descFault_keeps]
theorem softmaxRows_keeps (x0 : Nat) (s : State) (x2 : Nat) (x3 : Nat) (x4 : Nat) (x5 : Nat) : Keeps s (softmaxRows x0 s x2 x3 x4 x5).1 := by
  fun_induction softmaxRows x0 s x2 x3 x4 x5 <;> grind [Keeps, softmaxRows, scratchRead_keeps, scratchWrite_keeps]
theorem softmaxOp_keeps (c : Nat) (w : U32) (s : State) : Keeps s (softmaxOp c w s) := by
  grind [Keeps, softmaxOp, descFault_keeps, scratchRead_keeps, memFault_keeps, softmaxRows_keeps, modCore_keeps, Mem.wf]
theorem execVectorLoad_keeps (c : CoreId) (w : U32) (s : State) : ∀ nxt, (execVectorLoad c w s) = .next nxt → Keeps s nxt := by
  unfold execVectorLoad; exact coreStep_keeps _ _ _ _ _ _ (by first | with_reducible exact vecLoad_keeps .. | grind [Keeps, coreStep_keeps, vecLoad_keeps])
theorem execVectorStore_keeps (c : CoreId) (w : U32) (s : State) : ∀ nxt, (execVectorStore c w s) = .next nxt → Keeps s nxt := by
  unfold execVectorStore; exact coreStep_keeps _ _ _ _ _ _ (by first | with_reducible exact vecStore_keeps .. | grind [Keeps, coreStep_keeps, vecStore_keeps])
theorem execVSoftmax_keeps (c : CoreId) (w : U32) (s : State) : ∀ nxt, (execVSoftmax c w s) = .next nxt → Keeps s nxt := by
  unfold execVSoftmax; exact coreStep_keeps _ _ _ _ _ _ (by first | with_reducible exact softmaxOp_keeps .. | grind [Keeps, coreStep_keeps, softmaxOp_keeps])
theorem rngParity_keeps (s : State) (c : Nat) : Keeps s (rngParity s c) := by
  grind [Keeps, rngParity, raiseFault_keeps]
theorem rngGenOp_keeps (c : Nat) (w : U32) (s : State) : Keeps s (rngGenOp c w s) := by
  grind [Keeps, rngGenOp, illegal_keeps, modCore_keeps]
theorem rngVfillOp_keeps (c : Nat) (w : U32) (s : State) : Keeps s (rngVfillOp c w s) := by
  grind [Keeps, rngVfillOp, vecOp_keeps]
theorem execRngGen_keeps (c : CoreId) (w : RngIssue) (s : State) : ∀ nxt, (execRngGen c w s) = .next nxt → Keeps s nxt := by
  grind [Keeps, execRngGen, coreStep_keeps, rngParity_keeps, rngGenOp_keeps]
theorem execRngVfill_keeps (c : CoreId) (w : RngIssue) (s : State) : ∀ nxt, (execRngVfill c w s) = .next nxt → Keeps s nxt := by
  grind [Keeps, execRngVfill, coreStep_keeps, rngParity_keeps, rngVfillOp_keeps]

/-! ### Machine/Message.lean -/

theorem modBox_keeps (s : State) (c mb : Nat) (f : Mailbox → Mailbox) : Keeps s (modBox s c mb f) := by
  grind [Keeps, modBox, modCore_keeps]
theorem reserveSlot_keeps (s : State) (dst mb pkg c : Nat) (g : Option Nat) (t : Nat) : Keeps s (reserveSlot s dst mb pkg c g t).1 := by
  grind [Keeps, reserveSlot, modBox_keeps]
theorem freeSlot_keeps (s : State) (dst mb pkg c : Nat) : Keeps s (freeSlot s dst mb pkg c) := by
  grind [Keeps, freeSlot, modBox_keeps]
theorem placeMsg_keeps (s : State) (dst mb : Nat) (m : Msg) : Keeps s (placeMsg s dst mb m).1 := by
  grind [Keeps, placeMsg, modCore_keeps, modBox_keeps]
theorem bumpSeq_keeps (s : State) (c pkg dst mb : Nat) : Keeps s (bumpSeq s c pkg dst mb) := by
  grind [Keeps, bumpSeq, modCore_keeps, modNet_keeps]
theorem dropResv_keeps (s : State) (c pkg dst mb : Nat) : Keeps s (dropResv s c pkg dst mb) := by
  grind [Keeps, dropResv, modCore_keeps]
theorem addResv_keeps (s : State) (c pkg dst mb : Nat) : Keeps s (addResv s c pkg dst mb) := by
  grind [Keeps, addResv, modCore_keeps]
theorem coreRequest_keeps (s : State) (c vc dst op arg : Nat) (body : List Byte) (k : RemoteKind) : Keeps s (coreRequest s c vc dst op arg body k) := by
  grind [Keeps, coreRequest, sendRequest_keeps, modCore_keeps]
theorem msgDesc_keeps (s : State) (c : Nat) (w : U32) (n : Nat) : Keeps s (msgDesc s c w n).1 := by
  grind [Keeps, msgDesc, scratchRead_keeps]
theorem withDesc_keeps (s : State) (c : Nat) (w : U32) (n : Nat) (outside : State → State)
    (f : State → Nat → Nat → Nat → List Byte → State) (ho : ∀ s, Keeps s (outside s)) (hf : ∀ s a b d l, Keeps s (f s a b d l)) :
    Keeps s (withDesc s c w n outside f) := by
  grind [withDesc, Keeps, descFault_keeps, memFault_keeps, msgDesc_keeps]
theorem overWay_keeps (s : State) (c tag : Nat) (way : Way) (f : State → State) (hf : Keeps s (f s)) :
    Keeps s (overWay s c tag way f) := by
  unfold overWay
  split
  · exact hf
  · exact Keeps.refl s
  · exact memFault_keeps ..
theorem msgRsv_keeps (c : Nat) (w : U32) (s : State) : Keeps s (msgRsv c w s) := by
  unfold msgRsv; try dsimp only
  refine withDesc_keeps _ _ _ _ _ _ (fun s => result_keeps ..) (fun s a b d l => ?_)
  split
  · exact result_keeps ..
  · refine overWay_keeps _ _ _ _ _ ?_
    grind [Keeps, result_keeps, reserveSlot_keeps, addResv_keeps, coreRequest_keeps]
theorem sendLocal_keeps (s : State) (c dst mb : Nat) (m : Msg) : Keeps s (sendLocal s c dst mb m).1 := by
  grind [Keeps, sendLocal, placeMsg_keeps, bumpSeq_keeps, dropResv_keeps]
theorem receive_keeps (c : Nat) (w : U32) (m : Msg) (s : State) : Keeps s (receive c w m s) := by
  grind [Keeps, receive, descFault_keeps, scratchWrite_keeps, memFault_keeps, result_keeps, modBox_keeps, Mem.wf]
theorem msgRecv_keeps (c : Nat) (w : U32) (s : State) : Keeps s (msgRecv c w s) := by
  grind [Keeps, msgRecv, receive_keeps]
theorem msgPoll_keeps (c : Nat) (w : U32) (s : State) : Keeps s (msgPoll c w s) := by
  grind [Keeps, msgPoll, result_keeps, receive_keeps]
theorem msgUnrsv_keeps (c : Nat) (w : U32) (s : State) : Keeps s (msgUnrsv c w s) := by
  unfold msgUnrsv; try dsimp only
  refine withDesc_keeps _ _ _ _ _ _ (fun s => ?_) (fun s a b d l => ?_)
  · first | exact modCore_keeps .. | exact result_keeps ..
  · split
    · exact modCore_keeps ..
    · refine overWay_keeps _ _ _ _ _ ?_
      grind [Keeps, modCore_keeps, freeSlot_keeps, dropResv_keeps, coreRequest_keeps]
theorem messageArrival_keeps (s : State) (dst mb pkg c : Nat) : Keeps s (messageArrival s dst mb pkg c) := by
  grind [Keeps, messageArrival, modBox_keeps, modCore_keeps]
theorem execMsgRsv_keeps (c : CoreId) (w : U32) (s : State) : ∀ nxt, (execMsgRsv c w s) = .next nxt → Keeps s nxt := by
  unfold execMsgRsv; exact coreStep_keeps _ _ _ _ _ _ (by first | with_reducible exact msgRsv_keeps .. | grind [Keeps, coreStep_keeps, msgRsv_keeps])
theorem execMsgRecv_keeps (c : CoreId) (w : U32) (s : State) : ∀ nxt, (execMsgRecv c w s) = .next nxt → Keeps s nxt := by
  unfold execMsgRecv; exact coreStep_keeps _ _ _ _ _ _ (by first | with_reducible exact msgRecv_keeps .. | grind [Keeps, coreStep_keeps, msgRecv_keeps])
theorem execMsgPoll_keeps (c : CoreId) (w : U32) (s : State) : ∀ nxt, (execMsgPoll c w s) = .next nxt → Keeps s nxt := by
  unfold execMsgPoll; exact coreStep_keeps _ _ _ _ _ _ (by first | with_reducible exact msgPoll_keeps .. | grind [Keeps, coreStep_keeps, msgPoll_keeps])
theorem execMsgUnrsv_keeps (c : CoreId) (w : U32) (s : State) : ∀ nxt, (execMsgUnrsv c w s) = .next nxt → Keeps s nxt := by
  unfold execMsgUnrsv; exact coreStep_keeps _ _ _ _ _ _ (by first | with_reducible exact msgUnrsv_keeps .. | grind [Keeps, coreStep_keeps, msgUnrsv_keeps])
theorem execMessageArrival_keeps (dst : CoreId) (mailbox : BitVec 4) (srcPkg : Pkg) (srcCore : CoreId) (s : State) : ∀ nxt, (execMessageArrival dst mailbox srcPkg srcCore s) = .next nxt → Keeps s nxt := by
  grind [Keeps, execMessageArrival, messageArrival_keeps]

/-! ### Machine/Rings.lean -/

theorem ringAsk_keeps (s : State) (k : Nat) : Keeps s (ringAsk s k) := by
  grind [Keeps, ringAsk, sendRequest_keeps, modRing_keeps]
theorem ringPump_keeps (s : State) : Keeps s (ringPump s) := by
  unfold ringPump; try dsimp only
  all_goals repeat' first | with_reducible exact Keeps.refl _ | (with_reducible apply Keeps.trans; rotate_left; with_reducible apply foldl_keeps; intro s x; try dsimp only) | (with_reducible apply Keeps.trans; rotate_left; with_reducible apply ringAsk_keeps) | split | grind [Keeps, ringAsk_keeps]
theorem queueRecords_keeps (s : State) (l : List ExpRec) : Keeps s (queueRecords s l) := by
  grind [Keeps, queueRecords, ringPump_keeps, modReels_keeps]
theorem grantDeferred_keeps (x0 : Nat) (s : State) (x2 : Nat) : Keeps s (grantDeferred x0 s x2) := by
  fun_induction grantDeferred x0 s x2 <;> grind [Keeps, grantDeferred, sendPacket_keeps, modRing_keeps]
theorem askHome_keeps (s : State) (k pkg n tag base : Nat) : Keeps s (askHome s k pkg n tag base) := by
  grind [Keeps, askHome, grantDeferred_keeps, modRing_keeps]
theorem takeRelease_keeps (s : State) (k : Nat) : Keeps s (takeRelease s k) := by
  grind [Keeps, takeRelease, ownTry_keeps, modRing_keeps, foldl_keeps, sendPacket_keeps, grantDeferred_keeps]
theorem noticeWrite_keeps (s : State) (key n : Nat) : Keeps s (noticeWrite s key n) := by
  unfold noticeWrite; try dsimp only
  all_goals repeat' first | with_reducible exact Keeps.refl _ | (with_reducible apply Keeps.trans; rotate_left; with_reducible apply foldl_keeps; intro s x; try dsimp only) | (with_reducible apply Keeps.trans; rotate_left; with_reducible apply takeRelease_keeps) | split | grind [Keeps, takeRelease_keeps]
theorem recordArrives_keeps (s : State) (k i : Nat) (body : List Byte) : Keeps s (recordArrives s k i body) := by
  grind [Keeps, recordArrives, modRing_keeps]
theorem publish_keeps (s : State) (k : Nat) : Keeps s (publish s k) := by
  grind [Keeps, publish, ownWrite_keeps, modRing_keeps, memPut_keeps, Mem.wf]
theorem configureRing_keeps (s : State) (k : Nat) : Keeps s (configureRing s k) := by
  unfold configureRing; try dsimp only
  all_goals repeat' first | with_reducible exact Keeps.refl _ | (with_reducible apply Keeps.trans; rotate_left; with_reducible apply foldl_keeps; intro s x; try dsimp only) | (with_reducible apply Keeps.trans; rotate_left; with_reducible apply askHome_keeps) | (with_reducible apply Keeps.trans; rotate_left; with_reducible apply ringPump_keeps) | (with_reducible apply Keeps.trans; rotate_left; with_reducible apply ownWrite_keeps) | (with_reducible apply Keeps.trans; rotate_left; with_reducible apply modReels_keeps) | split | grind [Keeps, modReels_keeps, ownWrite_keeps, ringPump_keeps, askHome_keeps]
theorem ringIndexRequest_keeps (s : State) (port : Nat) : Keeps s (ringIndexRequest s port) := by
  unfold ringIndexRequest; try dsimp only
  all_goals repeat' first | with_reducible exact Keeps.refl _ | (with_reducible apply Keeps.trans; rotate_left; with_reducible apply foldl_keeps; intro s x; try dsimp only) | (with_reducible apply Keeps.trans; rotate_left; with_reducible apply askHome_keeps) | (with_reducible apply Keeps.trans; rotate_left; with_reducible apply takeRelease_keeps) | (with_reducible apply Keeps.trans; rotate_left; with_reducible apply modReels_keeps) | refine Keeps.trans ?_ (takePacket_keeps _ _ _ _ _ (by assumption)) | split | grind [Keeps, takePacket_keeps, askHome_keeps, takeRelease_keeps, modReels_keeps]
theorem sendRecord_keeps (s : State) (k i : Nat) (r : ExpRec) : Keeps s (sendRecord s k i r) := by
  grind [Keeps, sendRecord, sendRequest_keeps]
theorem ringGrant_keeps (s : State) (port : Nat) : Keeps s (ringGrant s port) := by
  unfold ringGrant; try dsimp only
  all_goals repeat' first | with_reducible exact Keeps.refl _ | (with_reducible apply Keeps.trans; rotate_left; with_reducible apply foldl_keeps; intro s x; try dsimp only) | (with_reducible apply Keeps.trans; rotate_left; with_reducible apply takeOutstanding_keeps) | (with_reducible apply Keeps.trans; rotate_left; with_reducible apply ringAsk_keeps) | (with_reducible apply Keeps.trans; rotate_left; with_reducible apply ringPump_keeps) | (with_reducible apply Keeps.trans; rotate_left; with_reducible apply sendRecord_keeps) | (with_reducible apply Keeps.trans; rotate_left; with_reducible apply modReels_keeps) | (with_reducible apply Keeps.trans; rotate_left; with_reducible apply modRing_keeps) | refine Keeps.trans ?_ (takePacket_keeps _ _ _ _ _ (by assumption)) | refine Keeps.trans ?_ (Keeps.of_fst (takeOutstanding_keeps _ _) (by assumption)) | split | grind [Keeps, takePacket_keeps, takeOutstanding_keeps, ringAsk_keeps, ringPump_keeps, sendRecord_keeps, modReels_keeps, modRing_keeps]
theorem releaseReport_keeps (s : State) (port : Nat) : Keeps s (releaseReport s port) := by
  unfold releaseReport; try dsimp only
  all_goals repeat' first | with_reducible exact Keeps.refl _ | (with_reducible apply Keeps.trans; rotate_left; with_reducible apply foldl_keeps; intro s x; try dsimp only) | (with_reducible apply Keeps.trans; rotate_left; with_reducible apply modRing_keeps) | refine Keeps.trans ?_ (takePacket_keeps _ _ _ _ _ (by assumption)) | split | grind [Keeps, takePacket_keeps, modRing_keeps]
theorem recordReturned_keeps (s : State) (k i : Nat) (bytes : List Byte) : Keeps s (recordReturned s k i bytes) := by
  grind [Keeps, recordReturned, modReels_keeps, sendRecord_keeps]
theorem reQueue_keeps (s : State) (k : Nat) : Keeps s (reQueue s k) := by
  grind [Keeps, reQueue, modNet_keeps, ringAsk_keeps, modRing_keeps, modReels_keeps]
theorem execRingIndexRequest_keeps (port : BitVec 5) (s : State) : ∀ nxt, (execRingIndexRequest port s) = .next nxt → Keeps s nxt := by
  grind [Keeps, execRingIndexRequest, ringIndexRequest_keeps]
theorem execRingGrant_keeps (port : BitVec 5) (s : State) : ∀ nxt, (execRingGrant port s) = .next nxt → Keeps s nxt := by
  grind [Keeps, execRingGrant, ringGrant_keeps]
theorem execRingRecordPublish_keeps (ring : BitVec 3) (s : State) : ∀ nxt, (execRingRecordPublish ring s) = .next nxt → Keeps s nxt := by
  grind [Keeps, execRingRecordPublish, publish_keeps]
theorem execReleaseIndexReport_keeps (port : BitVec 5) (s : State) : ∀ nxt, (execReleaseIndexReport port s) = .next nxt → Keeps s nxt := by
  grind [Keeps, execReleaseIndexReport, releaseReport_keeps]

/-! ### Machine/Access.lean -/

theorem readLocal_keeps  (x0 : Nat) (s : State) (x2 : Agent) (x3 : Nat) (x4 : Nat) (x5 : Nat) (x6 : Nat) : Keeps s (readLocal x0 s x2 x3 x4 x5 x6).1 := by
  fun_induction readLocal x0 s x2 x3 x4 x5 x6 <;> grind [Keeps, readLocal, translate_keeps, physRead_keeps]
theorem writeLocal_keeps (x0 : Nat) (s : State) (x2 : Nat) (x3 : Nat) (x4 : Nat) (x5 : List Byte) : Keeps s (writeLocal x0 s x2 x3 x4 x5).1 := by
  fun_induction writeLocal x0 s x2 x3 x4 x5 <;> grind [Keeps, writeLocal, translate_keeps, physWrite_keeps, noticeWrite_keeps, Mem.wf]
theorem readAs_keeps  (x0 : Nat) (s : State) (x2 : Agent) (x3 : Nat) (x4 : Nat) (x5 : Nat) : Keeps s (readAs x0 s x2 x3 x4 x5).1 := by
  fun_induction readAs x0 s x2 x3 x4 x5 <;> grind [Keeps, readAs, physRead_keeps]
theorem writeAs_keeps  (x0 : Nat) (s : State) (x2 : Agent) (x3 : Nat) (x4 : Nat) (x5 : List Byte) : Keeps s (writeAs x0 s x2 x3 x4 x5).1 := by
  fun_induction writeAs x0 s x2 x3 x4 x5 <;> grind [Keeps, writeAs, physWrite_keeps, noticeWrite_keeps, Mem.wf]
theorem coreRead_keeps (s : State) (c a n : Nat) : Keeps s (coreRead s c a n).1 := by
  grind [Keeps, coreRead, readLocal_keeps]
theorem coreLoad_keeps (s : State) (c a n : Nat) : Keeps s (coreLoad s c a n).1 := by
  grind [Keeps, coreLoad, readLocal_keeps]
theorem coreWrite_keeps (s : State) (c a : Nat) (bs : List Byte) : Keeps s (coreWrite s c a bs).1 := by
  grind [Keeps, coreWrite, writeLocal_keeps]

/-! ### Machine/Serving.lean -/

theorem listGranules_keeps  (x0 : Nat) (s : State) (x2 : Nat) (x3 : Nat) (x4 : Nat) (x5 : Nat) : Keeps s (listGranules x0 s x2 x3 x4 x5).1 := by
  fun_induction listGranules x0 s x2 x3 x4 x5 <;> grind [Keeps, listGranules, translate_keeps]
theorem openAt_keeps (s : State) (c : Nat) (k : StreamCmd) (i space : Nat) (granules : List Nat) : soutKeeps s (openAt s c k i space granules) := by
  grind [Keeps, soutKeeps, openAt, bindCheck_keeps, frontNow_keeps, grantPages_keeps, adapterUse_keeps, enterWait_keeps, setTracker_keeps, Mem.wf]
theorem openCmd_keeps (s : State) (c : Nat) (k : StreamCmd) : soutKeeps s (openCmd s c k) := by
  unfold openCmd; try dsimp only
  repeat' first | with_reducible apply soutKeeps_done | with_reducible apply soutKeeps_bad | with_reducible exact Keeps.refl _ | split
  · have h := listGranules_keeps (granules (listRoom s / 2 ^ 21 + 1)) s c (issuer s c).2 k.addr.toNat (listRoom s)
    rename_i e; rw [e] at h; exact h
  · have h := listGranules_keeps (granules (listRoom s / 2 ^ 21 + 1)) s c (issuer s c).2 k.addr.toNat (listRoom s)
    rename_i e; rw [e] at h
    exact soutKeeps_trans h (openAt_keeps ..)
theorem commitInput_keeps (s : State) (c : Nat) (k : StreamCmd) (off : Nat) :
    match commitInput s c k off with | .inl o => soutKeeps s o | .inr r => Keeps s r.1 := by
  grind [commitInput, soutKeeps, Keeps, scratchRead_keeps]
theorem openBoard_keeps (s : State) (i : Nat) (v : List Byte) (rootReel : U16) (rootPolicy : Nat) : Keeps s (openBoard s i v rootReel rootPolicy) := by
  grind [Keeps, openBoard, modTracker_keeps]
theorem applyCommit_keeps (s : State) (i : Nat) (k : StreamCmd) (x : CommitIn) : soutKeeps s (applyCommit s i k x) := by
  grind [Keeps, soutKeeps, applyCommit, grantPages_keeps, frontNow_keeps, enterWait_keeps, openBoard_keeps, queueRecords_keeps, drainBanks_keeps, modTracker_keeps, Mem.wf]
theorem moveRows_keeps (s : State) (c n : Nat) (l : List (Nat × Nat)) : Keeps s (moveRows s c n l).1 := by
  induction l generalizing s with
  | nil => exact Keeps.refl s
  | cons x l ih =>
    obtain ⟨src, dst⟩ := x
    unfold moveRows; dsimp only
    split
    · exact Keeps.refl s
    · exact Keeps.refl s
    · rcases hr : coreRead s c src n with ⟨s1, b, e⟩
      have hk := Keeps.of_fst (coreRead_keeps _ _ _ _) hr
      cases e with
      | some e => exact hk
      | none =>
        dsimp only
        rcases hw : coreWrite s1 c dst b with ⟨s2, k, e⟩
        have hk2 := hk.trans (Keeps.of_fst (coreWrite_keeps _ _ _ _) hw)
        cases e with
        | some e => exact hk2
        | none => exact hk2.trans (ih _)
theorem resolveCommit_keeps (s : State) (c i : Nat) (k : StreamCmd) (x : CommitIn) (v : List Byte) (b : Storyboard) : soutKeeps s (resolveCommit s c i k x v b) := by
  unfold resolveCommit; try dsimp only
  all_goals repeat' first | with_reducible exact Keeps.refl _ | (with_reducible apply Keeps.trans; rotate_left; with_reducible apply foldl_keeps; intro s x; try dsimp only) | with_reducible apply soutKeeps_wait | with_reducible apply soutKeeps_done | with_reducible apply soutKeeps_bad | with_reducible apply soutKeeps_mem | (with_reducible apply soutKeeps_trans; rotate_left; with_reducible apply applyCommit_keeps) | (with_reducible apply Keeps.trans; rotate_left; with_reducible apply scratchRead_keeps) | (with_reducible apply Keeps.trans; rotate_left; with_reducible apply moveRows_keeps) | refine Keeps.trans ?_ (Keeps.of_fst (scratchRead_keeps _ _ _ _) (by assumption)) | refine Keeps.trans ?_ (Keeps.of_fst (moveRows_keeps _ _ _ _) (by assumption)) | split | grind [Keeps, soutKeeps, scratchRead_keeps, moveRows_keeps, applyCommit_keeps, Mem.wf]
theorem commitChecked_keeps (s : State) (c i : Nat) (k : StreamCmd) (x : CommitIn) (compact : Bool) : soutKeeps s (commitChecked s c i k x compact) := by
  grind [Keeps, soutKeeps, commitChecked, resolveCommit_keeps, applyCommit_keeps]
theorem commitCmd_keeps (s : State) (c : Nat) (k : StreamCmd) (off : Nat) (compact : Bool) : soutKeeps s (commitCmd s c k off compact) := by
  unfold commitCmd; try dsimp only
  all_goals repeat' first | with_reducible exact Keeps.refl _ | (with_reducible apply Keeps.trans; rotate_left; with_reducible apply foldl_keeps; intro s x; try dsimp only) | with_reducible apply soutKeeps_wait | with_reducible apply soutKeeps_done | with_reducible apply soutKeeps_bad | with_reducible apply soutKeeps_mem | (with_reducible apply soutKeeps_trans; rotate_left; with_reducible apply commitChecked_keeps) | (with_reducible apply Keeps.trans; rotate_left; with_reducible apply commitInput_keeps) | split | grind [Keeps, soutKeeps, commitInput_keeps, commitChecked_keeps]
theorem parkCmd_keeps (s : State) (c : Nat) (k : StreamCmd) : soutKeeps s (parkCmd s c k) := by
  grind [Keeps, soutKeeps, parkCmd, drainBanks_keeps, setTState_keeps]
theorem unparkCmd_keeps (s : State) (c : Nat) (k : StreamCmd) : soutKeeps s (unparkCmd s c k) := by
  grind [Keeps, soutKeeps, unparkCmd, frontNow_keeps, modTracker_keeps]
theorem closeCmd_keeps (s : State) (c : Nat) (k : StreamCmd) : soutKeeps s (closeCmd s c k) := by
  grind [Keeps, soutKeeps, closeCmd, closeTracker_keeps]
theorem readCmd_keeps (s : State) (c : Nat) (k : StreamCmd) : soutKeeps s (readCmd s c k) := by
  grind [Keeps, soutKeeps, readCmd, scratchWrite_keeps, Mem.wf]
theorem rosterCmd_keeps (s : State) (c : Nat) (k : StreamCmd) : soutKeeps s (rosterCmd s c k) := by
  grind [Keeps, soutKeeps, rosterCmd, scratchWrite_keeps, Mem.wf]
theorem adoptCmd_keeps (s : State) (c : Nat) (k : StreamCmd) : soutKeeps s (adoptCmd s c k) := by
  grind [Keeps, soutKeeps, adoptCmd, modTracker_keeps]
theorem streamCommand_keeps (s : State) (c : Nat) (k : StreamCmd) (off : Nat) (compact : Bool) : soutKeeps s (streamCommand s c k off compact) := by
  grind [Keeps, soutKeeps, streamCommand, openCmd_keeps, commitCmd_keeps, parkCmd_keeps, unparkCmd_keeps, closeCmd_keeps, readCmd_keeps, rosterCmd_keeps, adoptCmd_keeps]

/-! ### Machine/Arrays.lean -/

theorem rdScratch_keeps (c off n : Nat) : actKeeps (rdScratch c off n) := by
  intro s
  have h := scratchRead_keeps s c off n
  unfold runAct rdScratch
  simp only [ExceptT.mk, ExceptT.run, StateT.run]
  grind
theorem wrScratch_keeps (c off : Nat) (bs : List Byte) : actKeeps (wrScratch c off bs) := by
  intro s
  have h := scratchWrite_keeps s c off bs
  unfold runAct wrScratch
  simp only [ExceptT.mk, ExceptT.run, StateT.run]
  grind
theorem rdElems_keeps (c : Nat) (f : Fmt) (off n : Nat) : actKeeps (rdElems c f off n) := by
  unfold rdElems; try dsimp only
  repeat' first | with_reducible apply actKeeps_pure | with_reducible exact actKeeps_get | with_reducible apply actKeeps_bind | with_reducible apply actKeeps_mapM | with_reducible apply actKeeps_forM | with_reducible apply actKeeps_foldlM | with_reducible apply rdScratch_keeps | (with_reducible apply actKeeps_change; intro s; grind [Keeps, rdScratch_keeps]) | split | (with_reducible intro x; try dsimp only)
theorem rdWide_keeps (c : Nat) (f : Fmt) (off n : Nat) : actKeeps (rdWide c f off n) := by
  unfold rdWide; try dsimp only
  repeat' first | with_reducible apply actKeeps_pure | with_reducible exact actKeeps_get | with_reducible apply actKeeps_bind | with_reducible apply actKeeps_mapM | with_reducible apply actKeeps_forM | with_reducible apply actKeeps_foldlM | with_reducible apply rdElems_keeps | (with_reducible apply actKeeps_change; intro s; grind [Keeps, rdElems_keeps]) | split | (with_reducible intro x; try dsimp only)
theorem prologueStage_keeps (c m : Nat) (r : StageRec) (row : List F32) : actKeeps (prologueStage c m r row) := by
  unfold prologueStage; try dsimp only
  repeat' first | with_reducible apply actKeeps_pure | with_reducible exact actKeeps_get | with_reducible apply actKeeps_bind | with_reducible apply actKeeps_mapM | with_reducible apply actKeeps_forM | with_reducible apply actKeeps_foldlM | with_reducible apply rdWide_keeps | (with_reducible apply actKeeps_change; intro s; grind [Keeps, rdWide_keeps]) | split | (with_reducible intro x; try dsimp only)
theorem activationRow_keeps (c : Nat) (lat : Latched) (d : ProductDesc) (a src : Fmt) (chain : Option Chain) (m : Nat) : actKeeps (activationRow c lat d a src chain m) := by
  unfold activationRow; try dsimp only
  repeat' first | with_reducible apply actKeeps_pure | with_reducible exact actKeeps_get | with_reducible apply actKeeps_bind | with_reducible apply actKeeps_mapM | with_reducible apply actKeeps_forM | with_reducible apply actKeeps_foldlM | with_reducible apply rdElems_keeps | with_reducible apply rdWide_keeps | with_reducible apply prologueStage_keeps | (with_reducible apply actKeeps_change; intro s; grind [Keeps, rdElems_keeps, rdWide_keeps, prologueStage_keeps]) | split | (with_reducible intro x; try dsimp only)
theorem productPasses_keeps (c : Nat) (d : ProductDesc) (chain : Option Chain) : actKeeps (productPasses c d chain) := by
  unfold productPasses; try dsimp only
  repeat' first | with_reducible apply actKeeps_pure | with_reducible exact actKeeps_get | with_reducible apply actKeeps_bind | with_reducible apply actKeeps_mapM | with_reducible apply actKeeps_forM | with_reducible apply actKeeps_foldlM | with_reducible apply rdElems_keeps | with_reducible apply rdScratch_keeps | with_reducible apply activationRow_keeps | with_reducible apply modCore_keeps | (with_reducible apply actKeeps_change; intro s; grind [Keeps, rdElems_keeps, rdScratch_keeps, activationRow_keeps, modCore_keeps]) | split | (with_reducible intro x; try dsimp only)

/-! ### Machine/Chains.lean -/

theorem modHead_keeps (s : State) (c : Nat) (f : ArrCmd → ArrCmd) : Keeps s (modHead s c f) := by
  grind [Keeps, modHead, modCore_keeps]
theorem vectorOperand_keeps (c : Nat) (r : StageRec) (n0 n : Nat) : actKeeps (vectorOperand c r n0 n) := by
  unfold vectorOperand; try dsimp only
  repeat' first | with_reducible apply actKeeps_pure | with_reducible exact actKeeps_get | with_reducible apply actKeeps_bind | with_reducible apply actKeeps_mapM | with_reducible apply actKeeps_forM | with_reducible apply actKeeps_foldlM | with_reducible apply rdWide_keeps | (with_reducible apply actKeeps_change; intro s; grind [Keeps, rdWide_keeps]) | split | (with_reducible intro x; try dsimp only)
theorem tileOperand_keeps (c : Nat) (r : StageRec) (m n0 n : Nat) : actKeeps (tileOperand c r m n0 n) := by
  unfold tileOperand; try dsimp only
  repeat' first | with_reducible apply actKeeps_pure | with_reducible exact actKeeps_get | with_reducible apply actKeeps_bind | with_reducible apply actKeeps_mapM | with_reducible apply actKeeps_forM | with_reducible apply actKeeps_foldlM | with_reducible apply rdWide_keeps | (with_reducible apply actKeeps_change; intro s; grind [Keeps, rdWide_keeps]) | split | (with_reducible intro x; try dsimp only)
theorem storeRow_keeps (c : Nat) (lat : Latched) (h : Chain) (r : StageRec) (m n0 : Nat) (row : List F32) : actKeeps (storeRow c lat h r m n0 row) := by
  unfold storeRow; try dsimp only
  repeat' first | with_reducible apply actKeeps_pure | with_reducible exact actKeeps_get | with_reducible apply actKeeps_bind | with_reducible apply actKeeps_mapM | with_reducible apply actKeeps_forM | with_reducible apply actKeeps_foldlM | with_reducible apply wrScratch_keeps | (with_reducible apply actKeeps_change; intro s; grind [Keeps, wrScratch_keeps]) | split | (with_reducible intro x; try dsimp only)
theorem quantRow_keeps (c : Nat) (lat : Latched) (h : Chain) (d : ProductDesc) (r : StageRec) (m n0 : Nat) (whole : F32) (row : List F32) : actKeeps (quantRow c lat h d r m n0 whole row) := by
  unfold quantRow; try dsimp only
  repeat' first | with_reducible apply actKeeps_pure | with_reducible exact actKeeps_get | with_reducible apply actKeeps_bind | with_reducible apply actKeeps_mapM | with_reducible apply actKeeps_forM | with_reducible apply actKeeps_foldlM | with_reducible apply wrScratch_keeps | (with_reducible apply actKeeps_change; intro s; grind [Keeps, wrScratch_keeps]) | split | (with_reducible intro x; try dsimp only)
theorem arithStage_keeps (c m n0 : Nat) (row : List F32) (r : StageRec) : actKeeps (arithStage c m n0 row r) := by
  unfold arithStage; try dsimp only
  repeat' first | with_reducible apply actKeeps_pure | with_reducible apply actKeeps_bind | with_reducible apply vectorOperand_keeps | with_reducible apply tileOperand_keeps | split | (with_reducible intro x; try dsimp only)
theorem rowMagnitude_keeps (c : Nat) (d : ProductDesc) (stages : List StageRec) (m : Nat) : actKeeps (rowMagnitude c d stages m) := by
  unfold rowMagnitude; try dsimp only
  repeat' first | with_reducible apply actKeeps_pure | with_reducible exact actKeeps_get | with_reducible apply actKeeps_bind | with_reducible apply actKeeps_foldlM | with_reducible apply arithStage_keeps | split | (with_reducible intro x; try dsimp only)
theorem takeSend_keeps (c : Nat) (h : Chain) (d : ProductDesc) (b m n0 n i : Nat) : actKeeps (takeSend c h d b m n0 n i) := by
  unfold takeSend; try dsimp only
  repeat' first | with_reducible apply actKeeps_bind | with_reducible apply actKeeps_forM | with_reducible apply rdScratch_keeps | (with_reducible apply actKeeps_change; intro s; exact modHead_keeps ..) | (with_reducible intro x; try dsimp only)
theorem epilogueStage_keeps (c : Nat) (lat : Latched) (h : Chain) (d : ProductDesc) (b m n0 : Nat) (whole : F32) (row : List F32) (i : Nat) :
    actKeeps (epilogueStage c lat h d b m n0 whole row i) := by
  unfold epilogueStage; try dsimp only
  repeat' first | with_reducible apply actKeeps_pure | with_reducible apply actKeeps_bind | with_reducible apply quantRow_keeps | with_reducible apply storeRow_keeps | with_reducible apply takeSend_keeps | with_reducible apply arithStage_keeps | split | (with_reducible intro x; try dsimp only)
theorem runStages_keeps (c : Nat) (h : Chain) (d : ProductDesc) (i n b n0 w : Nat) (back : Bool) : actKeeps (runStages c h d i n b n0 w back) := by
  unfold runStages; try dsimp only
  repeat' first | with_reducible apply actKeeps_pure | with_reducible exact actKeeps_get | with_reducible apply actKeeps_bind | with_reducible apply actKeeps_forM | with_reducible apply actKeeps_foldlM | with_reducible apply rowMagnitude_keeps | with_reducible apply epilogueStage_keeps | (with_reducible apply actKeeps_change; intro s; exact modCore_keeps ..) | split | (with_reducible intro x; try dsimp only)
theorem runFlight_keeps (c : Nat) (h : Chain) (d : ProductDesc) (mode b : Nat) : actKeeps (runFlight c h d mode b) := by
  grind [Keeps, runFlight, runStages_keeps]
theorem runSweep_keeps (c : Nat) (h : Chain) (d : ProductDesc) (mode : Nat) : actKeeps (runSweep c h d mode) := by
  unfold runSweep; try dsimp only
  repeat' first | with_reducible apply actKeeps_pure | with_reducible exact actKeeps_get | with_reducible apply actKeeps_bind | with_reducible apply actKeeps_mapM | with_reducible apply actKeeps_forM | with_reducible apply actKeeps_foldlM | with_reducible apply runStages_keeps | (with_reducible apply actKeeps_change; intro s; grind [Keeps, runStages_keeps]) | split | (with_reducible intro x; try dsimp only)

/-! ### Machine/Dma.lean -/

theorem dmaPlace_keeps (s : State) (c a n right : Nat) : Keeps s (dmaPlace s c a n right).1 := by
  grind [Keeps, dmaPlace, translate_keeps]
theorem modDma_keeps (s : State) (c : Nat) (tag : Byte) (f : DmaCmd → DmaCmd) : Keeps s (modDma s c tag f) := by
  grind [Keeps, modDma, modCore_keeps]
theorem dmaPend_keeps (s : State) (c : Nat) (tag : Byte) (pos n : Nat) : Keeps s (dmaPend s c tag pos n) := by
  grind [Keeps, dmaPend, modDma_keeps]
theorem dmaPart_keeps (s : State) (c : Nat) (tag : Byte) (pos : Nat) : Keeps s (dmaPart s c tag pos) := by
  grind [Keeps, dmaPart, modDma_keeps]
theorem dmaPut_keeps (s : State) (c : Nat) (tag : Byte) (pos a : Nat) (bs : List Byte) : Keeps s (dmaPut s c tag pos a bs).1 := by
  grind [Keeps, dmaPut, dmaPlace_keeps, dmaPend_keeps, sendRequest_keeps, physWrite_keeps, noticeWrite_keeps, emit_keeps, Mem.wf]
theorem hostRequest_keeps (s : State) (f off n : Nat) (r : HostReq) : Keeps s (hostRequest s f off n r) := by
  grind [Keeps, hostRequest, emit_keeps, modHost_keeps]
theorem dmaCopyChunk_keeps (s : State) (c : Nat) (d : DmaCmd) (pos n : Nat) : Keeps s (dmaCopyChunk s c d pos n).1 := by
  grind [Keeps, dmaCopyChunk, dmaPlace_keeps, dmaPend_keeps, sendRequest_keeps, hostRequest_keeps, physRead_keeps, dmaPut_keeps, Mem.wf]
theorem dmaFail_keeps (s : State) (c : Nat) (tag : Byte) (mark : Nat) (e : MemErr) (addr : Nat) : Keeps s (dmaFail s c tag mark e addr) := by
  grind [Keeps, dmaFail, dmaWriteMark_keeps, memFault_keeps, modCore_keeps, Mem.wf]
theorem dmaRun_keeps (x0 : Nat) (s : State) (x2 : Nat) (x3 : DmaCmd) (x4 : Nat) : Keeps s (dmaRun x0 s x2 x3 x4) := by
  fun_induction dmaRun x0 s x2 x3 x4 <;> grind [Keeps, dmaRun, modDma_keeps, dmaPut_keeps, dmaCopyChunk_keeps, dmaFail_keeps]
theorem dmaGo_keeps (c : Nat) (w : U32) (s : State) : Keeps s (dmaGo c w s) := by
  grind [Keeps, dmaGo, descFault_keeps, scratchRead_keeps, memFault_keeps, dmaRun_keeps, modCore_keeps, Mem.wf]
theorem dmaStep_keeps (mn : String) (op : Nat) (c : CoreId) (w : U32) (s : State) : ∀ nxt, (dmaStep mn op c w s) = .next nxt → Keeps s nxt := by
  unfold dmaStep; try dsimp only
  all_goals repeat' first | with_reducible exact Keeps.refl _ | (with_reducible apply Keeps.trans; rotate_left; with_reducible apply foldl_keeps; intro s x; try dsimp only) | (with_reducible apply Keeps.trans; rotate_left; with_reducible apply dmaGo_keeps) | split | grind [Keeps, dmaGo_keeps, coreStep_keeps, Mem.wf]
theorem dmaDeliver_keeps (s : State) (c : Nat) (tag : Byte) (pos dst : Nat) (bs : List Byte) : Keeps s (dmaDeliver s c tag pos dst bs) := by
  grind [Keeps, dmaDeliver, modDma_keeps, dmaPut_keeps, dmaPart_keeps, dmaFail_keeps]
theorem dmaGoOn_keeps (s : State) (c : Nat) (d : DmaCmd) : Keeps s (dmaGoOn s c d) := by
  unfold dmaGoOn; try dsimp only
  all_goals repeat' first | with_reducible exact Keeps.refl _ | (with_reducible apply Keeps.trans; rotate_left; with_reducible apply foldl_keeps; intro s x; try dsimp only) | (with_reducible apply Keeps.trans; rotate_left; with_reducible apply dmaRun_keeps) | (with_reducible apply Keeps.trans; rotate_left; with_reducible apply modDma_keeps) | (with_reducible apply Keeps.trans; rotate_left; with_reducible apply dmaDeliver_keeps) | split | grind [Keeps, dmaDeliver_keeps, modDma_keeps, dmaRun_keeps]
theorem dmaEnd_keeps (s : State) (c : Nat) (d : DmaCmd) : Keeps s (dmaEnd s c d) := by
  grind [Keeps, dmaEnd, modCore_keeps, scratchWrite_keeps, memFault_keeps, Mem.wf]
theorem dmaComplete_keeps (s : State) (c : Nat) (tag : Byte) : Keeps s (dmaComplete s c tag) := by
  grind [Keeps, dmaComplete, dmaGoOn_keeps, dmaEnd_keeps]
theorem dmaWait_keeps (c : Nat) (w : U32) (s : State) : Keeps s (dmaWait c w s) := by
  grind [Keeps, dmaWait, modCore_keeps]
theorem execDmaCopy_keeps (c : CoreId) (w : U32) (s : State) : ∀ nxt, (execDmaCopy c w s) = .next nxt → Keeps s nxt := by
  grind [Keeps, execDmaCopy, dmaStep_keeps]
theorem execDmaFill_keeps (c : CoreId) (w : U32) (s : State) : ∀ nxt, (execDmaFill c w s) = .next nxt → Keeps s nxt := by
  grind [Keeps, execDmaFill, dmaStep_keeps]
theorem execDmaWait_keeps (c : CoreId) (w : U32) (s : State) : ∀ nxt, (execDmaWait c w s) = .next nxt → Keeps s nxt := by
  unfold execDmaWait; exact coreStep_keeps _ _ _ _ _ _ (by first | with_reducible exact dmaWait_keeps .. | grind [Keeps, coreStep_keeps, dmaWait_keeps])
theorem execDmaCommandComplete_keeps (c : CoreId) (tag : Byte) (s : State) : ∀ nxt, (execDmaCommandComplete c tag s) = .next nxt → Keeps s nxt := by
  grind [Keeps, execDmaCommandComplete, dmaComplete_keeps]

/-! ### Machine/Attention.lean -/

theorem rdGlobal_keeps (c a n : Nat) : actKeeps (rdGlobal c a n) := by
  intro s
  have hk := coreRead_keeps s c a n
  show Keeps s (StateT.run (ExceptT.run (rdGlobal c a n)) s).2
  unfold rdGlobal
  simp only [ExceptT.mk, ExceptT.run, StateT.run]
  split
  · revert hk
    generalize coreRead s c a n = p
    obtain ⟨s1, l, e⟩ := p
    intro hk
    cases e <;> exact hk
  · exact Keeps.refl s
theorem fetchBlock_keeps (c : Nat) (f : Fmt) (a : AttnDesc) (bases : List Byte) (page : Nat × Nat) (off : Nat) : actKeeps (fetchBlock c f a bases page off) := by
  unfold fetchBlock; try dsimp only
  repeat' first | with_reducible apply actKeeps_pure | with_reducible exact actKeeps_get | with_reducible apply actKeeps_bind | with_reducible apply actKeeps_mapM | with_reducible apply actKeeps_forM | with_reducible apply actKeeps_foldlM | with_reducible apply rdGlobal_keeps | (with_reducible apply actKeeps_change; intro s; grind [Keeps, rdGlobal_keeps]) | split | (with_reducible intro x; try dsimp only)
theorem writeRow_keeps (c : Nat) (f : Fmt) (a : AttnDesc) (row : Nat) (p : Partial) : actKeeps (writeRow c f a row p) := by
  unfold writeRow; try dsimp only
  repeat' first | with_reducible apply actKeeps_pure | with_reducible exact actKeeps_get | with_reducible apply actKeeps_bind | with_reducible apply actKeeps_mapM | with_reducible apply actKeeps_forM | with_reducible apply actKeeps_foldlM | with_reducible apply wrScratch_keeps | (with_reducible apply actKeeps_change; intro s; grind [Keeps, wrScratch_keeps]) | split | (with_reducible intro x; try dsimp only)
theorem attnStream_keeps (c : Nat) (f : Fmt) (a : AttnDesc) (bases : List Byte) (i : Nat) (st : AttnStream) : actKeeps (attnStream c f a bases i st) := by
  unfold attnStream; try dsimp only
  repeat' first | with_reducible apply actKeeps_pure | with_reducible exact actKeeps_get | with_reducible apply actKeeps_bind | with_reducible apply actKeeps_mapM | with_reducible apply actKeeps_forM | with_reducible apply actKeeps_foldlM | with_reducible apply fetchBlock_keeps | with_reducible apply rdElems_keeps | with_reducible apply writeRow_keeps | (with_reducible apply actKeeps_change; intro s; grind [Keeps, fetchBlock_keeps, rdElems_keeps, writeRow_keeps]) | split | (with_reducible intro x; try dsimp only)
theorem attnRun_keeps (c : Nat) (f : Fmt) (a : AttnDesc) (bases : List Byte) (streams : List AttnStream) : actKeeps (attnRun c f a bases streams) := by
  unfold attnRun; try dsimp only
  repeat' first | with_reducible apply actKeeps_pure | with_reducible exact actKeeps_get | with_reducible apply actKeeps_bind | with_reducible apply actKeeps_mapM | with_reducible apply actKeeps_forM | with_reducible apply actKeeps_foldlM | with_reducible apply attnStream_keeps | with_reducible apply wrScratch_keeps | with_reducible apply useFree_keeps | (with_reducible apply actKeeps_change; intro s; grind [Keeps, attnStream_keeps, wrScratch_keeps, useFree_keeps]) | split | (with_reducible intro x; try dsimp only)

/-! ### Machine/ArrayQueue.lean -/

theorem dropHead_keeps (s : State) (c : Nat) : Keeps s (dropHead s c) := by
  grind [Keeps, dropHead, modCore_keeps]
theorem arrFault_keeps (s : State) (c tag : Nat) (e : MemErr) : Keeps s (arrFault s c tag e) := by
  grind [Keeps, arrFault, memFault_keeps, Mem.wf]
theorem startProduct_keeps (s : State) (c : Nat) (a : ArrCmd) (d : ProductDesc) (chain : Option Chain) : Keeps s (startProduct s c a d chain) := by
  grind [Keeps, actKeeps, startProduct, productPasses_keeps, arrFault_keeps, modHead_keeps]
theorem attnVector_keeps (c a : Nat) : actKeeps (attnVector c a) := by
  unfold attnVector; try dsimp only
  repeat' first | with_reducible apply actKeeps_pure | with_reducible apply actKeeps_bind | with_reducible apply rdScratch_keeps | (with_reducible intro x; try dsimp only)
theorem attnInput_keeps (c : Nat) (d : AttnDesc) : actKeeps (attnInput c d) := by
  unfold attnInput; try dsimp only
  repeat' first | with_reducible apply actKeeps_pure | with_reducible apply actKeeps_bind | with_reducible apply actKeeps_mapM | with_reducible apply rdScratch_keeps | with_reducible apply attnVector_keeps | (with_reducible intro x; try dsimp only)
theorem startAttention_keeps (s : State) (c : Nat) (a : ArrCmd) (d : AttnDesc) : Keeps s (startAttention s c a d) := by
  unfold startAttention; try dsimp only
  all_goals repeat' first | with_reducible exact Keeps.refl _ | (with_reducible apply Keeps.trans; rotate_left; with_reducible apply foldl_keeps; intro s x; try dsimp only) | (with_reducible apply Keeps.trans; rotate_left; with_reducible apply arrFault_keeps) | (with_reducible apply Keeps.trans; rotate_left; with_reducible apply descFault_keeps) | (with_reducible apply Keeps.trans; rotate_left; with_reducible apply modHead_keeps) | (with_reducible apply Keeps.trans; rotate_left; with_reducible apply memFault_keeps) | (with_reducible apply Keeps.trans; rotate_left; with_reducible apply modTracker_keeps) | refine Keeps.trans ?_ (Keeps.of_fst (attnInput_keeps _ _ _) (by assumption)) | refine Keeps.trans ?_ (Keeps.of_fst (attnRun_keeps _ _ _ _ _ _) (by assumption)) | split | grind [Keeps, actKeeps, attnInput_keeps, arrFault_keeps, descFault_keeps, modHead_keeps, attnRun_keeps, memFault_keeps, modTracker_keeps, Mem.wf]
theorem writeResult_keeps (s : State) (c : Nat) (a : ArrCmd) (status value : Nat) : Keeps s (writeResult s c a status value) := by
  grind [Keeps, writeResult, scratchWrite_keeps, arrFault_keeps, dropHead_keeps]
theorem streamOutcome_keeps (s : State) (c : Nat) (a : ArrCmd) (o : SOut) (h : soutKeeps s o) : Keeps s (streamOutcome s c a o) := by
  cases o with
  | done t st v => exact Keeps.trans h (writeResult_keeps ..)
  | wait => exact modHead_keeps ..
  | bad t d => exact Keeps.trans h (descFault_keeps ..)
  | mem t e addr => exact Keeps.trans h (memFault_keeps ..)
theorem startHeads_keeps (x0 : Nat) (s : State) (x2 : Nat) : Keeps s (startHeads x0 s x2) := by
  fun_induction startHeads x0 s x2 <;> grind [Keeps, soutKeeps, startHeads, startProduct_keeps, startAttention_keeps, streamOutcome_keeps, streamCommand_keeps]
theorem startHead_keeps (s : State) (c : Nat) : Keeps s (startHead s c) := by
  grind [Keeps, startHead, startHeads_keeps]
theorem finishHead_keeps (s : State) (c : Nat) : Keeps s (finishHead s c) := by
  grind [Keeps, finishHead, startHead_keeps, dropHead_keeps]
theorem enqueue_keeps (s : State) (c tag off : Nat) (kind : ArrKind) : Keeps s (enqueue s c tag off kind) := by
  grind [Keeps, enqueue, startHead_keeps, modCore_keeps]
theorem readChain_keeps (s : State) (c off : Nat) : Keeps s (readChain s c off).1 := by
  grind [Keeps, readChain, scratchRead_keeps, Mem.wf]
theorem goProduct_keeps (s : State) (c tag off : Nat) (l : List Byte) : Keeps s (goProduct s c tag off l) := by
  grind [Keeps, goProduct, descFault_keeps, enqueue_keeps, readChain_keeps, arrFault_keeps]
theorem goDescriptor_keeps (s : State) (c tag off op : Nat) (l : List Byte) : Keeps s (goDescriptor s c tag off op l) := by
  unfold goDescriptor; try dsimp only
  all_goals repeat' first | with_reducible exact Keeps.refl _ | (with_reducible apply Keeps.trans; rotate_left; with_reducible apply foldl_keeps; intro s x; try dsimp only) | (with_reducible apply Keeps.trans; rotate_left; with_reducible apply goProduct_keeps) | (with_reducible apply Keeps.trans; rotate_left; with_reducible apply descFault_keeps) | (with_reducible apply Keeps.trans; rotate_left; with_reducible apply enqueue_keeps) | split | grind [Keeps, goProduct_keeps, descFault_keeps, enqueue_keeps]
theorem arrGo_keeps (c : Nat) (w : U32) (s : State) : Keeps s (arrGo c w s) := by
  grind [Keeps, arrGo, descFault_keeps, scratchRead_keeps, memFault_keeps, goDescriptor_keeps, Mem.wf]
theorem arrStep_keeps (mn : String) (op cmd : Nat) (c : CoreId) (w : U32) (s : State) : ∀ nxt, (arrStep mn op cmd c w s) = .next nxt → Keeps s nxt := by
  unfold arrStep; try dsimp only
  all_goals repeat' first | with_reducible exact Keeps.refl _ | (with_reducible apply Keeps.trans; rotate_left; with_reducible apply foldl_keeps; intro s x; try dsimp only) | (with_reducible apply Keeps.trans; rotate_left; with_reducible apply arrGo_keeps) | split | grind [Keeps, arrGo_keeps, coreStep_keeps]
theorem arrWait_keeps (c : Nat) (w : U32) (s : State) : Keeps s (arrWait c w s) := by
  grind [Keeps, arrWait, modCore_keeps]
theorem epilogueBlock_keeps (s : State) (c : Nat) : Keeps s (epilogueBlock s c) := by
  grind [Keeps, actKeeps, epilogueBlock, runFlight_keeps, arrFault_keeps, modHead_keeps]
theorem deferredSweep_keeps (s : State) (c : Nat) : Keeps s (deferredSweep s c) := by
  grind [Keeps, actKeeps, deferredSweep, runSweep_keeps, arrFault_keeps, modHead_keeps]
theorem sendLocalBlock_keeps (c i : Nat) (dest : Nat) (pieces : List (Int × List Byte)) : actKeeps (sendLocalBlock c i dest pieces) := by
  refine actKeeps_bind _ _ actKeeps_get (fun s => ?_)
  dsimp only
  split
  · exact actKeeps_change _ (fun s => modHead_keeps _ _ _)
  · refine actKeeps_forM _ _ (fun p => ?_)
    intro s1
    have hk := physWrite_keeps s1 0 (splitAddr s (pieceAddr dest p.1)).2.2 p.2 .engine
    rcases hq : physWrite s1 0 (splitAddr s (pieceAddr dest p.1)).2.2 p.2 .engine with ⟨s2, k, e⟩
    rw [hq] at hk
    show Keeps s1 (match physWrite s1 0 (splitAddr s (pieceAddr dest p.1)).2.2 p.2 .engine with
      | (s, _, some e) => ((Except.error e : Except MemErr Unit), s)
      | (s, _, none) => (.ok (), s)).2
    rw [hq]; cases e <;> exact hk
theorem sendRemoteBlock_keeps (c i : Nat) (pkg dest : Nat) (tag : Byte) (pieces : List (Int × List Byte)) : actKeeps (sendRemoteBlock c i pkg dest tag pieces) := by
  unfold sendRemoteBlock; try dsimp only
  repeat' first | with_reducible apply actKeeps_pure | with_reducible exact actKeeps_get | with_reducible apply actKeeps_bind | with_reducible apply actKeeps_mapM | with_reducible apply actKeeps_forM | with_reducible apply actKeeps_foldlM | with_reducible apply rdScratch_keeps | with_reducible apply modHead_keeps | with_reducible apply sendRequest_keeps | (with_reducible apply actKeeps_change; intro s; grind [Keeps, rdScratch_keeps, modHead_keeps, sendRequest_keeps]) | split | (with_reducible intro x; try dsimp only)
theorem tileSendBlock_keeps (s : State) (c : Nat) : Keeps s (tileSendBlock s c) := by
  unfold tileSendBlock
  rcases headChain s c with _ | ⟨a, d, h, mode⟩
  · exact Keeps.refl s
  · dsimp only
    generalize ((sendOrder mode h d).drop a.sent).dropWhile (fun p => a.failed.contains p.2) = todo
    generalize hs1 : modHead s c (fun a => { a with sent := (sendOrder mode h d).length - todo.length }) = s1
    have h1 : Keeps s s1 := by rw [← hs1]; exact modHead_keeps ..
    rcases todo with _ | ⟨⟨b, i⟩, rest⟩
    · exact h1
    · dsimp only
      split
      · exact h1
      · split
        · have ha := sendLocalBlock_keeps c i (sendDest (epilogueAt h i)) (readyPieces a b i) s1
          split
          · rename_i e; exact (h1.trans (Keeps.of_fst ha e)).trans (arrFault_keeps ..)
          · rename_i e; exact (h1.trans (Keeps.of_fst ha e)).trans (modHead_keeps ..)
        · split
          · exact (h1.trans (modHead_keeps ..)).trans (modHead_keeps ..)
          · split
            · exact h1
            · split
              · exact h1
              · exact h1.trans (arrFault_keeps ..)
              · exact (h1.trans (sendRemoteBlock_keeps c i _ _ _ _ s1)).trans (modHead_keeps ..)
theorem tileAnswer_keeps (s : State) (c : Nat) (tag : Byte) (stage status : Nat) : Keeps s (tileAnswer s c tag stage status) := by
  grind [Keeps, tileAnswer, modHead_keeps]
theorem notifyStage_keeps (s : State) (c : Nat) (a : ArrCmd) (h : Chain) (i : Nat) : Keeps s (notifyStage s c a h i) := by
  unfold notifyStage; try dsimp only
  all_goals repeat' first | with_reducible exact Keeps.refl _ | (with_reducible apply Keeps.trans; rotate_left; with_reducible apply foldl_keeps; intro s x; try dsimp only) | (with_reducible apply Keeps.trans; rotate_left; with_reducible apply modHead_keeps) | (with_reducible apply Keeps.trans; rotate_left; with_reducible apply sendLocal_keeps) | (with_reducible apply Keeps.trans; rotate_left; with_reducible apply sendRequest_keeps) | (with_reducible apply Keeps.trans; rotate_left; with_reducible apply dropResv_keeps) | (with_reducible apply Keeps.trans; rotate_left; with_reducible apply bumpSeq_keeps) | refine Keeps.trans ?_ (Keeps.of_fst (sendLocal_keeps _ _ _ _ _) (by assumption)) | split | grind [Keeps, modHead_keeps, sendLocal_keeps, sendRequest_keeps, dropResv_keeps, bumpSeq_keeps]
theorem sendNotifies'_keeps (s : State) (c : Nat) (a : ArrCmd) (h : Chain) : Keeps s (sendNotifies' s c a h) := by
  unfold sendNotifies'; try dsimp only
  all_goals repeat' first | with_reducible exact Keeps.refl _ | (with_reducible apply Keeps.trans; rotate_left; with_reducible apply foldl_keeps; intro s x; try dsimp only) | (with_reducible apply Keeps.trans; rotate_left; with_reducible apply notifyStage_keeps) | (with_reducible apply Keeps.trans; rotate_left; with_reducible apply modHead_keeps) | split | grind [Keeps, notifyStage_keeps, modHead_keeps]
theorem writeChainStatus_keeps (s : State) (c : Nat) (a : ArrCmd) (d : ProductDesc) : Keeps s (writeChainStatus s c a d) := by
  grind [Keeps, writeChainStatus, scratchWrite_keeps, arrFault_keeps, finishHead_keeps]
theorem arrayComplete_keeps (s : State) (c : Nat) : Keeps s (arrayComplete s c) := by
  unfold arrayComplete; try dsimp only
  all_goals repeat' first | with_reducible exact Keeps.refl _ | (with_reducible apply Keeps.trans; rotate_left; with_reducible apply foldl_keeps; intro s x; try dsimp only) | (with_reducible apply Keeps.trans; rotate_left; with_reducible apply finishHead_keeps) | (with_reducible apply Keeps.trans; rotate_left; with_reducible apply sendNotifies'_keeps) | (with_reducible apply Keeps.trans; rotate_left; with_reducible apply writeChainStatus_keeps) | split | grind [Keeps, finishHead_keeps, sendNotifies'_keeps, writeChainStatus_keeps]
theorem attentionComplete_keeps (s : State) (c : Nat) : Keeps s (attentionComplete s c) := by
  unfold attentionComplete; try dsimp only
  all_goals repeat' first | with_reducible exact Keeps.refl _ | (with_reducible apply Keeps.trans; rotate_left; with_reducible apply foldl_keeps; intro s x; try dsimp only) | (with_reducible apply Keeps.trans; rotate_left; with_reducible apply finishHead_keeps) | (with_reducible apply Keeps.trans; rotate_left; with_reducible apply drainBanks_keeps) | (with_reducible apply Keeps.trans; rotate_left; with_reducible apply dropReader_keeps) | split | grind [Keeps, finishHead_keeps, drainBanks_keeps, dropReader_keeps]
theorem retryCommit_keeps (s : State) (c : Nat) (compact : Bool) (p : StreamCmd → ArrCmd → Bool) : Keeps s (retryCommit s c compact p) := by
  grind [Keeps, soutKeeps, retryCommit, startHead_keeps, streamOutcome_keeps, streamCommand_keeps]
theorem execArrayProduct_keeps (c : CoreId) (w : U32) (s : State) : ∀ nxt, (execArrayProduct c w s) = .next nxt → Keeps s nxt := by
  grind [Keeps, execArrayProduct, arrStep_keeps]
theorem execAttention_keeps (c : CoreId) (w : U32) (s : State) : ∀ nxt, (execAttention c w s) = .next nxt → Keeps s nxt := by
  grind [Keeps, execAttention, arrStep_keeps]
theorem execStreamOpen_keeps (c : CoreId) (w : U32) (s : State) : ∀ nxt, (execStreamOpen c w s) = .next nxt → Keeps s nxt := by
  grind [Keeps, execStreamOpen, arrStep_keeps]
theorem execStreamCommit_keeps (c : CoreId) (w : U32) (s : State) : ∀ nxt, (execStreamCommit c w s) = .next nxt → Keeps s nxt := by
  grind [Keeps, execStreamCommit, arrStep_keeps]
theorem execStreamPark_keeps (c : CoreId) (w : U32) (s : State) : ∀ nxt, (execStreamPark c w s) = .next nxt → Keeps s nxt := by
  grind [Keeps, execStreamPark, arrStep_keeps]
theorem execStreamUnpark_keeps (c : CoreId) (w : U32) (s : State) : ∀ nxt, (execStreamUnpark c w s) = .next nxt → Keeps s nxt := by
  grind [Keeps, execStreamUnpark, arrStep_keeps]
theorem execStreamClose_keeps (c : CoreId) (w : U32) (s : State) : ∀ nxt, (execStreamClose c w s) = .next nxt → Keeps s nxt := by
  grind [Keeps, execStreamClose, arrStep_keeps]
theorem execStreamRead_keeps (c : CoreId) (w : U32) (s : State) : ∀ nxt, (execStreamRead c w s) = .next nxt → Keeps s nxt := by
  grind [Keeps, execStreamRead, arrStep_keeps]
theorem execStreamRoster_keeps (c : CoreId) (w : U32) (s : State) : ∀ nxt, (execStreamRoster c w s) = .next nxt → Keeps s nxt := by
  grind [Keeps, execStreamRoster, arrStep_keeps]
theorem execStreamAdopt_keeps (c : CoreId) (w : U32) (s : State) : ∀ nxt, (execStreamAdopt c w s) = .next nxt → Keeps s nxt := by
  grind [Keeps, execStreamAdopt, arrStep_keeps]
theorem execStoryboardCompaction_keeps (c : CoreId) (s : State) : ∀ nxt, (execStoryboardCompaction c s) = .next nxt → Keeps s nxt := by
  grind [Keeps, execStoryboardCompaction, retryCommit_keeps]
theorem execFollowReelWaitEnd_keeps (c : CoreId) (s : State) : ∀ nxt, (execFollowReelWaitEnd c s) = .next nxt → Keeps s nxt := by
  grind [Keeps, execFollowReelWaitEnd, retryCommit_keeps]
theorem execRingQueueWaitEnd_keeps (c : CoreId) (s : State) : ∀ nxt, (execRingQueueWaitEnd c s) = .next nxt → Keeps s nxt := by
  grind [Keeps, execRingQueueWaitEnd, retryCommit_keeps]
theorem execArrWait_keeps (c : CoreId) (w : U32) (s : State) : ∀ nxt, (execArrWait c w s) = .next nxt → Keeps s nxt := by
  unfold execArrWait; exact coreStep_keeps _ _ _ _ _ _ (by first | with_reducible exact arrWait_keeps .. | grind [Keeps, coreStep_keeps, arrWait_keeps])
theorem execEpilogueBlock_keeps (c : CoreId) (s : State) : ∀ nxt, (execEpilogueBlock c s) = .next nxt → Keeps s nxt := by
  grind [Keeps, execEpilogueBlock, epilogueBlock_keeps]
theorem execDeferredSweep_keeps (c : CoreId) (s : State) : ∀ nxt, (execDeferredSweep c s) = .next nxt → Keeps s nxt := by
  grind [Keeps, execDeferredSweep, deferredSweep_keeps]
theorem execTileSendBlock_keeps (c : CoreId) (s : State) : ∀ nxt, (execTileSendBlock c s) = .next nxt → Keeps s nxt := by
  grind [Keeps, execTileSendBlock, tileSendBlock_keeps]
theorem execArrayCommandComplete_keeps (c : CoreId) (s : State) : ∀ nxt, (execArrayCommandComplete c s) = .next nxt → Keeps s nxt := by
  grind [Keeps, execArrayCommandComplete, arrayComplete_keeps]
theorem execAttentionComplete_keeps (c : CoreId) (s : State) : ∀ nxt, (execAttentionComplete c s) = .next nxt → Keeps s nxt := by
  grind [Keeps, execAttentionComplete, attentionComplete_keeps]

/-! ### Machine/Sends.lean -/

theorem msgSend_keeps (c : Nat) (w : U32) (s : State) : Keeps s (msgSend c w s) := by
  unfold msgSend; try dsimp only
  refine withDesc_keeps _ _ _ _ _ _ (fun s => result_keeps ..) (fun s a b d l => ?_)
  split
  · exact descFault_keeps ..
  · split
    · exact descFault_keeps ..
    · split
      · exact result_keeps ..
      · split
        · exact Keeps.refl s
        · refine overWay_keeps _ _ _ _ _ ?_
          grind [Keeps, result_keeps, sendLocal_keeps, coreRequest_keeps, bumpSeq_keeps, memFault_keeps, scratchRead_keeps]
theorem execMsgSend_keeps (c : CoreId) (w : U32) (s : State) : ∀ nxt, (execMsgSend c w s) = .next nxt → Keeps s nxt := by
  unfold execMsgSend; exact coreStep_keeps _ _ _ _ _ _ (by first | with_reducible exact msgSend_keeps .. | grind [Keeps, coreStep_keeps, msgSend_keeps])

end Sys2Proof.Machine
end

