-- ==== Sys2Proof/Laws/KeepsChip.lean ====
section
/-! SUPPORT. One lemma for each operation over the fabric, domains, groups, links, power and the journal: it keeps the queue, the fuses and the form of
memory (`_keeps`), or lets the fuses only advance (`_grows`). -/
set_option Elab.async false
set_option linter.all false

namespace Sys2Proof.Machine

/-! ### Machine/Fabric.lean -/

theorem noteSent_keeps (s : State) (f : FabricFlit) : Keeps s (noteSent s f) := by
  grind [Keeps, noteSent, modFabric_keeps]
theorem deliverFlit_keeps (s : State) (f : FabricFlit) : Keeps s (deliverFlit s f) := by
  grind [Keeps, deliverFlit, modFabric_keeps]
theorem towardRouter_keeps (s : State) (c : Nat) (f : FabricFlit) : Keeps s (towardRouter s c f) := by
  grind [Keeps, towardRouter, modFabric_keeps]
theorem leaveRouter_keeps (s : State) (c : CoreId) (f : FabricFlit) : Keeps s (leaveRouter s c f) := by
  grind [Keeps, leaveRouter, modFabric_keeps]
theorem crossed_keeps (s : State) (b ch lane : Nat) (f : FabricFlit) : Keeps s (crossed s b ch lane f) := by
  grind [Keeps, crossed, towardRouter_keeps, deliverFlit_keeps]
theorem keepFlit_keeps (s : State) (b ch lane : Nat) (f : FabricFlit) : Keeps s (keepFlit s b ch lane f) := by
  grind [Keeps, keepFlit, modLane_keeps]
theorem pairLost_keeps (s : State) (ch : Nat) (f : FabricFlit) : Keeps s (pairLost s ch f) := by
  grind [Keeps, pairLost, faultGroup_keeps]
theorem flitOn_keeps (s : State) (b u lane : Nat) (f : FabricFlit) (ok : Bool) : Keeps s (flitOn s b u lane f ok) := by
  grind [Keeps, flitOn, keepFlit_keeps, crossed_keeps, modLane_keeps]
theorem flitAt_keeps (s : State) (b ch : Nat) (f : FabricFlit) (ok : Bool) : Keeps s (flitAt s b ch f ok) := by
  grind [Keeps, flitAt, pairLost_keeps, noteSent_keeps, flitOn_keeps, keepFlit_keeps]
theorem takeLanes_keeps (s : State) (b j : Nat) (k : Channel) : Keeps s (takeLanes s b j k) := by
  grind [Keeps, takeLanes, foldl_keeps, keepFlit_keeps]
theorem channelOut_keeps (s : State) (b ch : Nat) : Keeps s (channelOut s b ch) := by
  grind [Keeps, channelOut, logEvent_keeps, modChan_keeps, faultGroups_keeps, takeLanes_keeps, Mem.wf]
theorem bridgeStall_keeps (s : State) (b ch : Nat) : Keeps s (bridgeStall s b ch) := by
  grind [Keeps, bridgeStall, faultGroups_keeps]
theorem setRef_keeps (s : State) (e : EdgeDie) (v : Bool) : Keeps s (setRef s e v) := by
  grind [Keeps, setRef, modFabric_keeps]
theorem passLane_keeps (s : State) (b ch lane : Nat) : Keeps s (passLane s b ch lane) := by
  unfold passLane; try dsimp only
  all_goals repeat' first | with_reducible exact Keeps.refl _ | (with_reducible apply Keeps.trans; rotate_left; with_reducible apply foldl_keeps; intro s x; try dsimp only) | (with_reducible apply Keeps.trans; rotate_left; with_reducible apply modLane_keeps) | (with_reducible apply Keeps.trans; rotate_left; with_reducible apply crossed_keeps) | split | grind [Keeps, crossed_keeps, modLane_keeps]
theorem refReturn_keeps (s : State) (e : EdgeDie) : Keeps s (refReturn s e) := by
  grind [Keeps, refReturn, foldl_keeps, passLane_keeps, setRef_keeps]
theorem moveFlit_keeps (s : State) (at' : Nat) (f : FabricFlit) : Keeps s (moveFlit s at' f) := by
  grind [Keeps, moveFlit, deliverFlit_keeps, towardRouter_keeps, keepFlit_keeps, pairLost_keeps]
theorem meshFlit_keeps (s : State) (at' : CoreId) (f : FabricFlit) (found : List EccFinding) : Keeps s (meshFlit s at' f found) := by
  grind [Keeps, meshFlit, leaveRouter_keeps, noteSent_keeps, modFabric_keeps, raiseFault_keeps, moveFlit_keeps]
theorem calibrate_keeps (s : State) (die : FieldDie) : Keeps s (calibrate s die) := by
  grind [Keeps, calibrate, modFabric_keeps]
theorem refresh_keeps (s : State) : Keeps s (refresh s) := by
  grind [Keeps, refresh, modFabric_keeps]
theorem periodChange_keeps (s : State) (die : FieldDie) (t : Int) : Keeps s (periodChange s die t) := by
  grind [Keeps, periodChange, logEvent_keeps, modFabric_keeps]
theorem scrub_keeps (s : State) (c : Nat) : Keeps s (scrub s c) := by
  unfold scrub; try dsimp only
  all_goals repeat' first | with_reducible exact Keeps.refl _ | (with_reducible apply Keeps.trans; rotate_left; with_reducible apply foldl_keeps; intro s x; try dsimp only) | (with_reducible apply Keeps.trans; rotate_left; with_reducible apply eccNote_keeps) | (with_reducible apply Keeps.trans; rotate_left; with_reducible apply mendWord_keeps) | (with_reducible apply Keeps.trans; rotate_left; with_reducible apply modFabric_keeps) | split | grind [Keeps, eccNote_keeps, mendWord_keeps, modFabric_keeps]
theorem stockFailure_keeps (s : State) (ch : Nat) : Keeps s (stockFailure s ch) := by
  grind [Keeps, stockFailure, modMem, Mem.wf]
theorem execBridgeFlitArrival_keeps (b : BridgeId) (ch : BitVec 5) (flit : FabricFlit) (crc : U16) (s : State) : ∀ nxt, (execBridgeFlitArrival b ch flit crc s) = .next nxt → Keeps s nxt := by
  grind [Keeps, execBridgeFlitArrival, flitAt_keeps]
theorem execBridgeChannelOutOfService_keeps (b : BridgeId) (ch : BitVec 5) (s : State) : ∀ nxt, (execBridgeChannelOutOfService b ch s) = .next nxt → Keeps s nxt := by
  grind [Keeps, execBridgeChannelOutOfService, channelOut_keeps]
theorem execBridgeStall_keeps (e : EdgeDie) (ch : BitVec 4) (s : State) : ∀ nxt, (execBridgeStall e ch s) = .next nxt → Keeps s nxt := by
  grind [Keeps, execBridgeStall, bridgeStall_keeps]
theorem execLinkReferenceStop_keeps (e : EdgeDie) (s : State) : ∀ nxt, (execLinkReferenceStop e s) = .next nxt → Keeps s nxt := by
  grind [Keeps, execLinkReferenceStop, setRef_keeps]
theorem execLinkReferenceReturn_keeps (e : EdgeDie) (s : State) : ∀ nxt, (execLinkReferenceReturn e s) = .next nxt → Keeps s nxt := by
  grind [Keeps, execLinkReferenceReturn, refReturn_keeps]
theorem execMeshFlitArrival_keeps (hop : RouterFlit) (found : List EccFinding) (s : State) : ∀ nxt, (execMeshFlitArrival hop found s) = .next nxt → Keeps s nxt := by
  grind [Keeps, execMeshFlitArrival, meshFlit_keeps]
theorem execRefreshTimebaseCalibration_keeps (die : FieldDie) (s : State) : ∀ nxt, (execRefreshTimebaseCalibration die s) = .next nxt → Keeps s nxt := by
  grind [Keeps, execRefreshTimebaseCalibration, calibrate_keeps]
theorem execVaultRefresh_keeps (_slice : CoreId) (_bank : BitVec 4) (s : State) : ∀ nxt, (execVaultRefresh _slice _bank s) = .next nxt → Keeps s nxt := by
  grind [Keeps, execVaultRefresh, refresh_keeps]
theorem execRefreshPeriodChange_keeps (die : FieldDie) (hottestTenths : Int) (s : State) : ∀ nxt, (execRefreshPeriodChange die hottestTenths s) = .next nxt → Keeps s nxt := by
  grind [Keeps, execRefreshPeriodChange, periodChange_keeps]
theorem execVaultScrub_keeps (slice : CoreId) (s : State) : ∀ nxt, (execVaultScrub slice s) = .next nxt → Keeps s nxt := by
  grind [Keeps, execVaultScrub, scrub_keeps]
theorem execStockChannelFailure_keeps (ch : ChannelId) (s : State) : ∀ nxt, (execStockChannelFailure ch s) = .next nxt → Keeps s nxt := by
  grind [Keeps, execStockChannelFailure, stockFailure_keeps]

/-! ### Machine/Domains.lean -/

theorem preemptGroup_keeps (s : State) (g : Nat) : Keeps s (preemptGroup s g) := by
  grind [Keeps, preemptGroup, modGroup_keeps]
theorem setDomState_keeps (s : State) (d : Nat) (st : PState) : Keeps s (setDomState s d st) := by
  grind [Keeps, setDomState, logEvent_keeps, modDom_keeps]
theorem goOff_keeps (s : State) (d : Nat) : Keeps s (goOff s d) := by
  unfold goOff; try dsimp only
  all_goals repeat' first | with_reducible exact Keeps.refl _ | (with_reducible apply Keeps.trans; rotate_left; with_reducible apply foldl_keeps; intro s x; try dsimp only) | (with_reducible apply Keeps.trans; rotate_left; with_reducible apply emptyBoxes_keeps) | (with_reducible apply Keeps.trans; rotate_left; with_reducible apply setDomState_keeps) | (with_reducible apply Keeps.trans; rotate_left; with_reducible apply modCore_keeps) | (with_reducible apply Keeps.trans; rotate_left; with_reducible apply modDom_keeps) | split | grind [Keeps, emptyBoxes_keeps, setDomState_keeps, modCore_keeps, modDom_keeps]
theorem startStaging_keeps (s : State) (d : Nat) : Keeps s (startStaging s d) := by
  grind [Keeps, startStaging, setDomState_keeps, modDom_keeps]
theorem preemptDomain_keeps (s : State) (d : Nat) : Keeps s (preemptDomain s d) := by
  unfold preemptDomain; try dsimp only
  all_goals repeat' first | with_reducible exact Keeps.refl _ | (with_reducible apply Keeps.trans; rotate_left; with_reducible apply foldl_keeps; intro s x; try dsimp only) | (with_reducible apply Keeps.trans; rotate_left; with_reducible apply preemptGroup_keeps) | split | grind [Keeps, preemptGroup_keeps]
theorem settleDomain_keeps (s : State) (d : Nat) : Keeps s (settleDomain s d) := by
  grind [Keeps, settleDomain, preemptDomain_keeps, startStaging_keeps, goOff_keeps, modDom_keeps]
theorem settleDomains_keeps (s : State) : Keeps s (settleDomains s) := by
  unfold settleDomains; try dsimp only
  all_goals repeat' first | with_reducible exact Keeps.refl _ | (with_reducible apply Keeps.trans; rotate_left; with_reducible apply foldl_keeps; intro s x; try dsimp only) | (with_reducible apply Keeps.trans; rotate_left; with_reducible apply settleDomain_keeps) | split | grind [Keeps, settleDomain_keeps]
theorem forceRetention_keeps (s : State) (d : Nat) : Keeps s (forceRetention s d) := by
  grind [Keeps, forceRetention, setDomState_keeps, modDom_keeps]
theorem powerRequest_keeps (s : State) (d v : Nat) : Keeps s (powerRequest s d v) := by
  grind [Keeps, powerRequest, settleDomains_keeps, modDom_keeps]
theorem drainComplete_keeps (s : State) (d : Nat) : Keeps s (drainComplete s d) := by
  grind [Keeps, drainComplete, settleDomains_keeps, goOff_keeps, setDomState_keeps, modDom_keeps]
theorem headerStage_keeps (s : State) (d : Nat) : Keeps s (headerStage s d) := by
  grind [Keeps, headerStage, modDom_keeps]
theorem stagingComplete_keeps (s : State) (d : Nat) : Keeps s (stagingComplete s d) := by
  unfold stagingComplete; try dsimp only
  all_goals repeat' first | with_reducible exact Keeps.refl _ | (with_reducible apply Keeps.trans; rotate_left; with_reducible apply foldl_keeps; intro s x; try dsimp only) | (with_reducible apply Keeps.trans; rotate_left; with_reducible apply wipe_keeps) | (with_reducible apply Keeps.trans; rotate_left; with_reducible apply settleDomains_keeps) | (with_reducible apply Keeps.trans; rotate_left; with_reducible apply setDomState_keeps) | (with_reducible apply Keeps.trans; rotate_left; with_reducible apply modDom_keeps) | split | grind [Keeps, wipe_keeps, settleDomains_keeps, setDomState_keeps, modDom_keeps]
theorem droopRespond_keeps (s : State) (site : DroopSite) (mv : Nat) : Keeps s (droopRespond s site mv) := by
  unfold droopRespond; try dsimp only
  all_goals repeat' first | with_reducible exact Keeps.refl _ | (with_reducible apply Keeps.trans; rotate_left; with_reducible apply settleDomains_keeps) | (with_reducible apply Keeps.trans; rotate_left; with_reducible apply forceRetention_keeps) | (with_reducible apply Keeps.trans; rotate_left; with_reducible apply logEvent_keeps) | (with_reducible apply Keeps.trans; rotate_left; with_reducible apply modDom_keeps) | (with_reducible apply Keeps.trans; rotate_left; with_reducible apply modPower_keeps) | split | grind [Keeps, modPower_keeps, modDom_keeps, logEvent_keeps, forceRetention_keeps, settleDomains_keeps]
theorem droopTrip_keeps (s : State) (site : DroopSite) (mv : Nat) : Keeps s (droopTrip s site mv) := by
  grind [Keeps, droopTrip, modPower_keeps, droopRespond_keeps]
theorem answerTrips_keeps (s : State) : Keeps s (answerTrips s) :=
  (modPower_keeps s _).trans (foldr_keeps _ _ (fun _ _ => droopRespond_keeps ..) _)
theorem droopClear_keeps (s : State) (die : FieldDie) : Keeps s (droopClear s die) := by
  grind [Keeps, droopClear, settleDomains_keeps, modPower_keeps]
theorem domTemp_keeps (s : State) (d : Nat) (t : Int) : Keeps s (domTemp s d t) := by
  grind [Keeps, domTemp, forceRetention_keeps, logEvent_keeps, modDom_keeps]
theorem execDomainDrainComplete_keeps (d : DomainId) (s : State) : ∀ nxt, (execDomainDrainComplete d s) = .next nxt → Keeps s nxt := by
  grind [Keeps, execDomainDrainComplete, drainComplete_keeps]
theorem execHeaderStage_keeps (d : DomainId) (s : State) : ∀ nxt, (execHeaderStage d s) = .next nxt → Keeps s nxt := by
  grind [Keeps, execHeaderStage, headerStage_keeps]
theorem execDomainStagingComplete_keeps (d : DomainId) (s : State) : ∀ nxt, (execDomainStagingComplete d s) = .next nxt → Keeps s nxt := by
  grind [Keeps, execDomainStagingComplete, stagingComplete_keeps]
theorem execDroopTrip_keeps (site : DroopSite) (senseMv : Nat) (s : State) : ∀ nxt, (execDroopTrip site senseMv s) = .next nxt → Keeps s nxt := by
  grind [Keeps, execDroopTrip, droopTrip_keeps]
theorem execDroopCauseClear_keeps (die : FieldDie) (s : State) : ∀ nxt, (execDroopCauseClear die s) = .next nxt → Keeps s nxt := by
  grind [Keeps, execDroopCauseClear, droopClear_keeps]

/-! ### Machine/Groups.lean -/

theorem planRead_keeps (s : State) (g a n : Nat) : Keeps s (planRead s g a n).1 := by
  grind [Keeps, planRead, readAs_keeps]
theorem enterKernel_keeps (s : State) (g entry arg kernel count : Nat) (c : Nat) : Keeps s (enterKernel s g entry arg kernel count c) := by
  grind [Keeps, enterKernel, modCore_keeps]
theorem beginKernel_keeps (s : State) (g k : Nat) : Keeps s (beginKernel s g k) := by
  unfold beginKernel; try dsimp only
  all_goals repeat' first | with_reducible exact Keeps.refl _ | (with_reducible apply Keeps.trans; rotate_left; with_reducible apply foldl_keeps; intro s x; try dsimp only) | (with_reducible apply Keeps.trans; rotate_left; with_reducible apply planRead_keeps) | (with_reducible apply Keeps.trans; rotate_left; with_reducible apply memFault_keeps) | (with_reducible apply Keeps.trans; rotate_left; with_reducible apply enterKernel_keeps) | (with_reducible apply Keeps.trans; rotate_left; with_reducible apply modGroup_keeps) | refine Keeps.trans ?_ (Keeps.of_fst (planRead_keeps _ _ _ _) (by assumption)) | split | grind [Keeps, planRead_keeps, memFault_keeps, enterKernel_keeps, modGroup_keeps, Mem.wf]
theorem huddleLatch_keeps (s : State) (g : Nat) : Keeps s (huddleLatch s g) := by
  grind [Keeps, huddleLatch, serveLatch_keeps, modGroup_keeps]
theorem writeStepBlocks_keeps (s : State) (g : Nat) : Keeps s (writeStepBlocks s g) := by
  grind [Keeps, writeStepBlocks, foldl_keeps, ownWrite_keeps, Mem.wf]
theorem setHalfValid_keeps (s : State) (c : Nat) (b v : Bool) : Keeps s (setHalfValid s c b v) := by
  grind [Keeps, setHalfValid, memPut_keeps, Mem.wf]
theorem startCopy_keeps (s : State) (c : Nat) (closing : Nat × Nat) : Keeps s (startCopy s c closing) := by
  grind [Keeps, startCopy, setHalfValid_keeps, modCore_keeps]
theorem completeCopy_keeps (s : State) (c : Nat) : Keeps s (completeCopy s c) := by
  unfold completeCopy; try dsimp only
  all_goals repeat' first | with_reducible exact Keeps.refl _ | (with_reducible apply Keeps.trans; rotate_left; with_reducible apply foldl_keeps; intro s x; try dsimp only) | (with_reducible apply Keeps.trans; rotate_left; with_reducible apply setHalfValid_keeps) | (with_reducible apply Keeps.trans; rotate_left; with_reducible apply modCore_keeps) | (with_reducible apply Keeps.trans; rotate_left; with_reducible apply memPut_keeps) | (with_reducible apply Keeps.trans; rotate_left; with_reducible apply ownWrite_keeps) | split | grind [Keeps, ownWrite_keeps, memPut_keeps, modCore_keeps, setHalfValid_keeps, Mem.wf]
theorem dropCopy_keeps (s : State) (c : Nat) : Keeps s (dropCopy s c) := by
  grind [Keeps, dropCopy, modCore_keeps]
theorem closingFault_keeps (s : State) (c : Nat) (f : FaultInfo) : Keeps s (closingFault s c f) := by
  grind [Keeps, closingFault, faultGroupAt_keeps, raiseFault_keeps, Mem.wf]
theorem snapshotDone_keeps (s : State) (c : Nat) (fault : Option SaveFault) : Keeps s (snapshotDone s c fault) := by
  unfold snapshotDone; try dsimp only
  all_goals repeat' first | with_reducible exact Keeps.refl _ | (with_reducible apply Keeps.trans; rotate_left; with_reducible apply dropCopy_keeps) | (with_reducible apply Keeps.trans; rotate_left; with_reducible apply closingFault_keeps) | (with_reducible apply Keeps.trans; rotate_left; with_reducible apply completeCopy_keeps) | (with_reducible apply Keeps.trans; rotate_left; with_reducible apply startHead_keeps) | split | grind [Keeps, startHead_keeps, completeCopy_keeps, closingFault_keeps, dropCopy_keeps]
theorem fillBuffer_keeps (s : State) (g c : Nat) : Keeps s (fillBuffer s g c) := by
  grind [Keeps, fillBuffer, planRead_keeps, modCore_keeps]
theorem armMember_keeps (s : State) (g c slot : Nat) : Keeps s (armMember s g c slot) := by
  grind [Keeps, armMember, fillBuffer_keeps, writeMarkHeader_keeps, modCore_keeps]
theorem atKernel_keeps (s : State) (g k huddles : Nat) : Keeps s (atKernel s g k huddles) := by
  grind [Keeps, atKernel, modGroup_keeps]
theorem runFrom_keeps (s : State) (g k huddles : Nat) : Keeps s (runFrom s g k huddles) := by
  grind [Keeps, runFrom, beginKernel_keeps, writeStepBlocks_keeps, huddleLatch_keeps, atKernel_keeps]
theorem reenterFrom_keeps (s : State) (g k huddles : Nat) : Keeps s (reenterFrom s g k huddles) := by
  grind [Keeps, reenterFrom, beginKernel_keeps, writeStepBlocks_keeps, atKernel_keeps]
theorem freshMember_keeps (s : State) (g c : Nat) : Keeps s (freshMember s g c) := by
  grind [Keeps, freshMember, armMember_keeps, modCore_keeps]
theorem startGroup_keeps (s : State) (g : Nat) (h : ShotHeader) : Keeps s (startGroup s g h) := by
  unfold startGroup; try dsimp only
  all_goals repeat' first | with_reducible exact Keeps.refl _ | (with_reducible apply Keeps.trans; rotate_left; with_reducible apply foldl_keeps; intro s x; try dsimp only) | (with_reducible apply Keeps.trans; rotate_left; with_reducible apply runFrom_keeps) | (with_reducible apply Keeps.trans; rotate_left; with_reducible apply freshMember_keeps) | (with_reducible apply Keeps.trans; rotate_left; with_reducible apply modGroup_keeps) | split | grind [Keeps, runFrom_keeps, freshMember_keeps, modGroup_keeps, Mem.wf]
theorem hudOp_keeps (c : Nat) (s : State) : Keeps s (hudOp c s) := by
  grind [Keeps, hudOp, modCore_keeps]
theorem hudLocalOp_keeps (c : Nat) (s : State) : Keeps s (hudLocalOp c s) := by
  grind [Keeps, hudLocalOp, modCore_keeps]
theorem takeMember_keeps (s : State) (c : Nat) : Keeps s (takeMember s c) := by
  grind [Keeps, takeMember, sendNotices_keeps, revokeHomes_keeps, revokeAgainst_keeps, dropHeld_keeps, modCore_keeps]
theorem takePreemption_keeps (s : State) (g k : Nat) : Keeps s (takePreemption s g k) := by
  unfold takePreemption; try dsimp only
  all_goals repeat' first | with_reducible exact Keeps.refl _ | (with_reducible apply Keeps.trans; rotate_left; with_reducible apply foldl_keeps; intro s x; try dsimp only) | (with_reducible apply Keeps.trans; rotate_left; with_reducible apply takeMember_keeps) | (with_reducible apply Keeps.trans; rotate_left; with_reducible apply modGroup_keeps) | split | grind [Keeps, takeMember_keeps, modGroup_keeps, Mem.wf]
theorem endList_keeps (s : State) (g : Nat) : Keeps s (endList s g) := by
  grind [Keeps, endList, foldl_keeps, modCore_keeps, serveLatch_keeps, modGroup_keeps, Mem.wf]
theorem releaseHuddle_keeps (s : State) (g : Nat) : Keeps s (releaseHuddle s g) := by
  unfold releaseHuddle; try dsimp only
  all_goals repeat' first | with_reducible exact Keeps.refl _ | (with_reducible apply Keeps.trans; rotate_left; with_reducible apply foldl_keeps; intro s x; try dsimp only) | (with_reducible apply Keeps.trans; rotate_left; with_reducible apply beginKernel_keeps) | (with_reducible apply Keeps.trans; rotate_left; with_reducible apply endList_keeps) | (with_reducible apply Keeps.trans; rotate_left; with_reducible apply takePreemption_keeps) | (with_reducible apply Keeps.trans; rotate_left; with_reducible apply startCopy_keeps) | (with_reducible apply Keeps.trans; rotate_left; with_reducible apply writeStepBlocks_keeps) | (with_reducible apply Keeps.trans; rotate_left; with_reducible apply modTq_keeps) | (with_reducible apply Keeps.trans; rotate_left; with_reducible apply huddleLatch_keeps) | (with_reducible apply Keeps.trans; rotate_left; with_reducible apply modGroup_keeps) | (with_reducible apply Keeps.trans; rotate_left; with_reducible apply completeCopy_keeps) | (with_reducible apply Keeps.trans; rotate_left; with_reducible apply foldl_keeps) | split | grind [Keeps, foldl_keeps, completeCopy_keeps, modGroup_keeps, huddleLatch_keeps, modTq_keeps, writeStepBlocks_keeps, startCopy_keeps, takePreemption_keeps, endList_keeps, beginKernel_keeps, Mem.wf]
theorem huddleRelease_keeps (s : State) (g : Nat) : Keeps s (huddleRelease s g) := by
  grind [Keeps, huddleRelease, releaseHuddle_keeps, Mem.wf]
theorem writeParts_keeps (s : State) (space : Nat) (x0 : List (Nat × List Byte)) : Keeps s (writeParts s space x0).1 := by
  fun_induction writeParts s space x0 <;> grind [Keeps, writeParts, physWrite_keeps]
theorem saveMember_keeps (s : State) (g c : Nat) : Keeps s (saveMember s g c).1 := by
  grind [Keeps, saveMember, scratchRead_keeps, writeParts_keeps, modGroup_keeps, useFree_keeps]
theorem saveAll_keeps (s : State) (g : Nat) (x0 : List Nat) : Keeps s (saveAll s g x0).1 := by
  fun_induction saveAll s g x0 <;> grind [Keeps, saveAll, saveMember_keeps]
theorem releaseMember_keeps (s : State) (g c : Nat) : Keeps s (releaseMember s g c) := by
  grind [Keeps, releaseMember, ownWrite_keeps, setMarkState_keeps, modCore_keeps, Mem.wf]
theorem saveComplete_keeps (s : State) (g : Nat) (fault : Option SaveFault) : Keeps s (saveComplete s g fault) := by
  unfold saveComplete; try dsimp only
  all_goals repeat' first | with_reducible exact Keeps.refl _ | (with_reducible apply Keeps.trans; rotate_left; with_reducible apply foldl_keeps; intro s x; try dsimp only) | (with_reducible apply Keeps.trans; rotate_left; with_reducible apply completeCopy_keeps) | (with_reducible apply Keeps.trans; rotate_left; with_reducible apply saveAll_keeps) | (with_reducible apply Keeps.trans; rotate_left; with_reducible apply releaseMember_keeps) | (with_reducible apply Keeps.trans; rotate_left; with_reducible apply streamsLost_keeps) | (with_reducible apply Keeps.trans; rotate_left; with_reducible apply memberLost_keeps) | (with_reducible apply Keeps.trans; rotate_left; with_reducible apply modGroup_keeps) | refine Keeps.trans ?_ (Keeps.of_fst (saveAll_keeps _ _ _) (by assumption)) | split | grind [Keeps, completeCopy_keeps, saveAll_keeps, releaseMember_keeps, streamsLost_keeps, memberLost_keeps, modGroup_keeps, Mem.wf]
theorem resumeGroup_keeps (s : State) (g : Nat) : Keeps s (resumeGroup s g) := by
  grind [Keeps, resumeGroup, modGroup_keeps]
theorem loadCore_keeps (s : State) (c : Nat) (v lines : List Byte) : Keeps s (loadCore s c v lines) := by
  grind [Keeps, loadCore, modCore_keeps]
theorem restoreMember_keeps (s : State) (g c : Nat) : Keeps s (restoreMember s g c).1 := by
  grind [Keeps, restoreMember, physRead_keeps, scratchWrite_keeps, loadCore_keeps, armMember_keeps, modCore_keeps]
theorem restoreHalf_keeps (s : State) (g c h : Nat) : Keeps s (restoreHalf s g c h).1 := by
  grind [Keeps, restoreHalf, eccRead_keeps, armMember_keeps, loadCore_keeps, memPut_keeps, setHalfValid_keeps, modCore_keeps, Mem.wf]
theorem restoreAll_keeps (f : State → Nat → State × Option MemErr) (s : State) (l : List Nat) (hf : ∀ s x, Keeps s (f s x).1) :
    Keeps s (restoreAll f s l).1 := by
  fun_induction restoreAll f s l <;> grind [Keeps]
theorem restoreComplete_keeps (s : State) (g : Nat) (fault : Option SaveFault) : Keeps s (restoreComplete s g fault) := by
  unfold restoreComplete; try dsimp only
  all_goals repeat' first | with_reducible exact Keeps.refl _ | (with_reducible apply Keeps.trans; rotate_left; with_reducible apply foldl_keeps; intro s x; try dsimp only) | (with_reducible apply Keeps.trans; rotate_left; with_reducible apply memberLost_keeps) | (with_reducible apply Keeps.trans; rotate_left; with_reducible apply reenterFrom_keeps) | (with_reducible apply Keeps.trans; rotate_left; with_reducible apply runFrom_keeps) | (with_reducible apply Keeps.trans; rotate_left; with_reducible apply huddleLatch_keeps) | (with_reducible apply Keeps.trans; rotate_left; with_reducible apply endList_keeps) | refine Keeps.trans ?_ (Keeps.of_fst (restoreAll_keeps _ _ _) (by assumption)) | (with_reducible apply Keeps.trans; rotate_left; with_reducible apply restoreAll_keeps) | refine Keeps.trans ?_ (Keeps.of_fst (restoreHalf_keeps _ _ _ _) (by assumption)) | (with_reducible apply Keeps.trans; rotate_left; with_reducible apply restoreHalf_keeps) | refine Keeps.trans ?_ (Keeps.of_fst (restoreMember_keeps _ _ _) (by assumption)) | (with_reducible apply Keeps.trans; rotate_left; with_reducible apply restoreMember_keeps) | split | grind [Keeps, restoreMember_keeps, restoreHalf_keeps, restoreAll_keeps, endList_keeps, huddleLatch_keeps, runFrom_keeps, reenterFrom_keeps, memberLost_keeps, Mem.wf]
theorem groupControl_keeps (s : State) (g v : Nat) : Keeps s (groupControl s g v).1 := by
  unfold groupControl; try dsimp only
  all_goals repeat' first | with_reducible exact Keeps.refl _ | (with_reducible apply Keeps.trans; rotate_left; with_reducible apply foldl_keeps; intro s x; try dsimp only) | (with_reducible apply Keeps.trans; rotate_left; with_reducible apply startGroup_keeps) | (with_reducible apply Keeps.trans; rotate_left; with_reducible apply preemptGroup_keeps) | (with_reducible apply Keeps.trans; rotate_left; with_reducible apply resumeGroup_keeps) | (with_reducible apply Keeps.trans; rotate_left; with_reducible apply setMarkState_keeps) | (with_reducible apply Keeps.trans; rotate_left; with_reducible apply serveLatch_keeps) | (with_reducible apply Keeps.trans; rotate_left; with_reducible apply abortGroup_keeps) | (with_reducible apply Keeps.trans; rotate_left; with_reducible apply modGroup_keeps) | split | grind [Keeps, startGroup_keeps, preemptGroup_keeps, resumeGroup_keeps, setMarkState_keeps, serveLatch_keeps, abortGroup_keeps, modGroup_keeps, Mem.wf]
theorem groupRequest_keeps (s : State) (g v : Nat) : Keeps s (groupRequest s g v).1 := by
  grind [Keeps, groupRequest, groupControl_keeps, settleDomains_keeps]
theorem execHud_keeps (c : CoreId) (w : U32) (s : State) : ∀ nxt, (execHud c w s) = .next nxt → Keeps s nxt := by
  unfold execHud; exact coreStep_keeps _ _ _ _ _ _ (by first | with_reducible exact hudOp_keeps .. | grind [Keeps, coreStep_keeps, hudOp_keeps])
theorem execHudLocal_keeps (c : CoreId) (w : U32) (s : State) : ∀ nxt, (execHudLocal c w s) = .next nxt → Keeps s nxt := by
  unfold execHudLocal; exact coreStep_keeps _ _ _ _ _ _ (by first | with_reducible exact hudLocalOp_keeps .. | grind [Keeps, coreStep_keeps, hudLocalOp_keeps])
theorem execHuddleRelease_keeps (g : GroupId) (s : State) : ∀ nxt, (execHuddleRelease g s) = .next nxt → Keeps s nxt := by
  grind [Keeps, execHuddleRelease, settleDomains_keeps, huddleRelease_keeps]
theorem execSnapshotCopyComplete_keeps (c : CoreId) (fault : Option SaveFault) (s : State) : ∀ nxt, (execSnapshotCopyComplete c fault s) = .next nxt → Keeps s nxt := by
  grind [Keeps, execSnapshotCopyComplete, snapshotDone_keeps]
theorem execPreemptSaveComplete_keeps (g : GroupId) (fault : Option SaveFault) (s : State) : ∀ nxt, (execPreemptSaveComplete g fault s) = .next nxt → Keeps s nxt := by
  grind [Keeps, execPreemptSaveComplete, settleDomains_keeps, saveComplete_keeps]
theorem execResumeRestoreComplete_keeps (g : GroupId) (fault : Option SaveFault) (s : State) : ∀ nxt, (execResumeRestoreComplete g fault s) = .next nxt → Keeps s nxt := by
  grind [Keeps, execResumeRestoreComplete, settleDomains_keeps, restoreComplete_keeps]

/-! ### Machine/Atomics.lean -/

theorem atomicHome_keeps (s : State) (c key f n b d : Nat) : Keeps s (atomicHome s c key f n b d).1 := by
  grind [Keeps, atomicHome, eccRead_keeps, noticeWrite_keeps, memPut_keeps, modMem, Mem.wf]
theorem atomicOp_keeps (f n c : Nat) (w : U32) (s : State) : Keeps s (atomicOp f n c w s) := by
  unfold atomicOp; try dsimp only
  all_goals repeat' first | with_reducible exact Keeps.refl _ | (with_reducible apply Keeps.trans; rotate_left; with_reducible apply foldl_keeps; intro s x; try dsimp only) | (with_reducible apply Keeps.trans; rotate_left; with_reducible apply cpFault_keeps) | (with_reducible apply Keeps.trans; rotate_left; with_reducible apply translate_keeps) | (with_reducible apply Keeps.trans; rotate_left; with_reducible apply memFault_keeps) | (with_reducible apply Keeps.trans; rotate_left; with_reducible apply physRead_keeps) | (with_reducible apply Keeps.trans; rotate_left; with_reducible apply atomicHome_keeps) | (with_reducible apply Keeps.trans; rotate_left; with_reducible apply result_keeps) | refine Keeps.trans ?_ (Keeps.of_fst (translate_keeps _ _ _ _ _ _ _) (by assumption)) | refine Keeps.trans ?_ (Keeps.of_fst (physRead_keeps _ _ _ _ _) (by assumption)) | refine Keeps.trans ?_ (Keeps.of_fst (atomicHome_keeps _ _ _ _ _ _ _) (by assumption)) | split | grind [Keeps, cpFault_keeps, translate_keeps, memFault_keeps, physRead_keeps, atomicHome_keeps, result_keeps, Mem.wf]
theorem atomicStep_keeps (mn : String) (f : Nat) (c : CoreId) (w : U32) (s : State) : ∀ nxt, (atomicStep mn f c w s) = .next nxt → Keeps s nxt := by
  unfold atomicStep; exact coreStep_keeps _ _ _ _ _ _ (by first | with_reducible exact atomicOp_keeps .. | grind [Keeps, coreStep_keeps, atomicOp_keeps])
theorem execAtomicRead_keeps (c : CoreId) (w : U32) (s : State) : ∀ nxt, (execAtomicRead c w s) = .next nxt → Keeps s nxt := by
  grind [Keeps, execAtomicRead, atomicStep_keeps]
theorem execAtomicSwap_keeps (c : CoreId) (w : U32) (s : State) : ∀ nxt, (execAtomicSwap c w s) = .next nxt → Keeps s nxt := by
  grind [Keeps, execAtomicSwap, atomicStep_keeps]
theorem execCompareAndSwap_keeps (c : CoreId) (w : U32) (s : State) : ∀ nxt, (execCompareAndSwap c w s) = .next nxt → Keeps s nxt := by
  grind [Keeps, execCompareAndSwap, atomicStep_keeps]
theorem execAtomicAdd_keeps (c : CoreId) (w : U32) (s : State) : ∀ nxt, (execAtomicAdd c w s) = .next nxt → Keeps s nxt := by
  grind [Keeps, execAtomicAdd, atomicStep_keeps]
theorem execAtomicAnd_keeps (c : CoreId) (w : U32) (s : State) : ∀ nxt, (execAtomicAnd c w s) = .next nxt → Keeps s nxt := by
  grind [Keeps, execAtomicAnd, atomicStep_keeps]
theorem execAtomicOr_keeps (c : CoreId) (w : U32) (s : State) : ∀ nxt, (execAtomicOr c w s) = .next nxt → Keeps s nxt := by
  grind [Keeps, execAtomicOr, atomicStep_keeps]
theorem execAtomicExclusiveOr_keeps (c : CoreId) (w : U32) (s : State) : ∀ nxt, (execAtomicExclusiveOr c w s) = .next nxt → Keeps s nxt := by
  grind [Keeps, execAtomicExclusiveOr, atomicStep_keeps]
theorem execAtomicSignedMinimum_keeps (c : CoreId) (w : U32) (s : State) : ∀ nxt, (execAtomicSignedMinimum c w s) = .next nxt → Keeps s nxt := by
  grind [Keeps, execAtomicSignedMinimum, atomicStep_keeps]
theorem execAtomicSignedMaximum_keeps (c : CoreId) (w : U32) (s : State) : ∀ nxt, (execAtomicSignedMaximum c w s) = .next nxt → Keeps s nxt := by
  grind [Keeps, execAtomicSignedMaximum, atomicStep_keeps]
theorem execAtomicUnsignedMinimum_keeps (c : CoreId) (w : U32) (s : State) : ∀ nxt, (execAtomicUnsignedMinimum c w s) = .next nxt → Keeps s nxt := by
  grind [Keeps, execAtomicUnsignedMinimum, atomicStep_keeps]
theorem execAtomicUnsignedMaximum_keeps (c : CoreId) (w : U32) (s : State) : ∀ nxt, (execAtomicUnsignedMaximum c w s) = .next nxt → Keeps s nxt := by
  grind [Keeps, execAtomicUnsignedMaximum, atomicStep_keeps]
theorem execAtomicFp32Add_keeps (c : CoreId) (w : U32) (s : State) : ∀ nxt, (execAtomicFp32Add c w s) = .next nxt → Keeps s nxt := by
  grind [Keeps, execAtomicFp32Add, atomicStep_keeps]
theorem execLeaseTake_keeps (c : CoreId) (w : U32) (s : State) : ∀ nxt, (execLeaseTake c w s) = .next nxt → Keeps s nxt := by
  grind [Keeps, execLeaseTake, atomicStep_keeps]
theorem execLeaseRelease_keeps (c : CoreId) (w : U32) (s : State) : ∀ nxt, (execLeaseRelease c w s) = .next nxt → Keeps s nxt := by
  grind [Keeps, execLeaseRelease, atomicStep_keeps]

/-! ### Machine/Links.lean -/

theorem setLState_keeps (s : State) (n : Nat) (st : LState) : Keeps s (setLState s n st) := by
  grind [Keeps, setLState, modLink_keeps]
theorem emitFlit_keeps (s : State) (n : Nat) (f : Flit) : Keeps s (emitFlit s n f) := by
  grind [Keeps, emitFlit, emit_keeps, modLink_keeps]
theorem sendNulls_keeps (x0 : Nat) (s : State) (x2 : Nat) : Keeps s (sendNulls x0 s x2) := by
  fun_induction sendNulls x0 s x2 <;> grind [Keeps, sendNulls, emitFlit_keeps]
theorem sendFlit_keeps (s : State) (n : Nat) (t : TxFlit) (due : Nat) : Keeps s (sendFlit s n t due) := by
  grind [Keeps, sendFlit, emitFlit_keeps, modLink_keeps]
theorem pumpLoop_keeps (x0 : Nat) (s : State) (x2 : Nat) : Keeps s (pumpLoop x0 s x2) := by
  fun_induction pumpLoop x0 s x2 <;> grind [Keeps, pumpLoop, sendFlit_keeps]
theorem pump_keeps (s : State) (n : Nat) : Keeps s (pump s n) := by
  grind [Keeps, pump, pumpLoop_keeps, sendNulls_keeps, modLink_keeps]
theorem queuePacket_keeps (s : State) (n : Nat) (p : Packet) : Keeps s (queuePacket s n p) := by
  grind [Keeps, queuePacket, pump_keeps, modLink_keeps]
theorem resend_keeps (s : State) (n k : Nat) : Keeps s (resend s n k) := by
  unfold resend; try dsimp only
  all_goals repeat' first | with_reducible exact Keeps.refl _ | (with_reducible apply Keeps.trans; rotate_left; with_reducible apply foldl_keeps; intro s x; try dsimp only) | (with_reducible apply Keeps.trans; rotate_left; with_reducible apply emitFlit_keeps) | (with_reducible apply Keeps.trans; rotate_left; with_reducible apply modLink_keeps) | split | grind [Keeps, emitFlit_keeps, modLink_keeps]
theorem retarget_keeps (s : State) (q : Nat) : Keeps s (retarget s q) := by
  grind [Keeps, retarget, modQuad_keeps, modPower_keeps]
theorem pauseQuad_keeps (s : State) (q : Nat) (cause : PauseCause) (limit : Nat) : Keeps s (pauseQuad s q cause limit) := by
  unfold pauseQuad; try dsimp only
  all_goals repeat' first | with_reducible exact Keeps.refl _ | (with_reducible apply Keeps.trans; rotate_left; with_reducible apply foldl_keeps; intro s x; try dsimp only) | (with_reducible apply Keeps.trans; rotate_left; with_reducible apply modLink_keeps) | (with_reducible apply Keeps.trans; rotate_left; with_reducible apply emit_keeps) | split | grind [Keeps, modLink_keeps, emit_keeps]
theorem startTune_keeps (s : State) (q : Nat) : Keeps s (startTune s q) := by
  unfold startTune; try dsimp only
  all_goals repeat' first | with_reducible exact Keeps.refl _ | (with_reducible apply Keeps.trans; rotate_left; with_reducible apply foldl_keeps; intro s x; try dsimp only) | (with_reducible apply Keeps.trans; rotate_left; with_reducible apply pauseQuad_keeps) | (with_reducible apply Keeps.trans; rotate_left; with_reducible apply setLState_keeps) | (with_reducible apply Keeps.trans; rotate_left; with_reducible apply modQuad_keeps) | split | grind [Keeps, pauseQuad_keeps, setLState_keeps, modQuad_keeps]
theorem resumeLink_keeps (s : State) (n : Nat) : Keeps s (resumeLink s n) := by
  grind [Keeps, resumeLink, pump_keeps, modLink_keeps]
theorem sendOffers_keeps (s : State) (n : Nat) : Keeps s (sendOffers s n) := by
  grind [Keeps, sendOffers, emit_keeps]
theorem sendChoice_keeps (s : State) (n : Nat) : Keeps s (sendChoice s n) := by
  grind [Keeps, sendChoice, emit_keeps]
theorem startKickoff_keeps (s : State) (n : Nat) : Keeps s (startKickoff s n) := by
  grind [Keeps, startKickoff, retarget_keeps, sendOffers_keeps, modLink_keeps]
theorem foul_keeps (s : State) (n code seq detail : Nat) (copy : List Byte) : Keeps s (foul s n code seq detail copy) := by
  grind [Keeps, foul, logEvent_keeps, pump_keeps, modLink_keeps]
theorem undeliverable_keeps (s : State) (p : Packet) (reason : Nat) : Keeps s (undeliverable s p reason) := by
  grind [Keeps, undeliverable, sendPacket_keeps]
theorem returnFlits_keeps (s : State) (n reason : Nat) : Keeps s (returnFlits s n reason) := by
  unfold returnFlits; try dsimp only
  all_goals repeat' first | with_reducible exact Keeps.refl _ | (with_reducible apply Keeps.trans; rotate_left; with_reducible apply foldl_keeps; intro s x; try dsimp only) | (with_reducible apply Keeps.trans; rotate_left; with_reducible apply undeliverable_keeps) | (with_reducible apply Keeps.trans; rotate_left; with_reducible apply modLink_keeps) | (with_reducible apply Keeps.trans; rotate_left; with_reducible apply modNet_keeps) | split | grind [Keeps, undeliverable_keeps, modLink_keeps, modNet_keeps]
theorem linkDown_keeps (s : State) (n : Nat) (st : LState) (reason : Nat) : Keeps s (linkDown s n st reason) := by
  grind [Keeps, linkDown, logEvent_keeps, returnFlits_keeps, retarget_keeps, modLink_keeps]
theorem signalDetect_keeps (s : State) (n : Nat) : Keeps s (signalDetect s n) := by
  grind [Keeps, signalDetect, startKickoff_keeps, setLState_keeps, modLink_keeps]
theorem attemptFailed_keeps (s : State) (n : Nat) : Keeps s (attemptFailed s n) := by
  grind [Keeps, attemptFailed, retarget_keeps, sendChoice_keeps, modLink_keeps]
theorem comeUp_keeps (s : State) (n : Nat) : Keeps s (comeUp s n) := by
  grind [Keeps, comeUp, logEvent_keeps, pump_keeps, resend_keeps, modLink_keeps]
theorem onOffer_keeps (s : State) (n w : Nat) : Keeps s (onOffer s n w) := by
  grind [Keeps, onOffer, returnFlits_keeps, foul_keeps, setLState_keeps, sendChoice_keeps, emit_keeps, modLink_keeps]
theorem onChoice_keeps (s : State) (n w : Nat) : Keeps s (onChoice s n w) := by
  grind [Keeps, onChoice, retarget_keeps, startKickoff_keeps, foul_keeps, modLink_keeps]
theorem onConfirm_keeps (s : State) (n : Nat) : Keeps s (onConfirm s n) := by
  grind [Keeps, onConfirm, comeUp_keeps, modLink_keeps]
theorem onHold_keeps (s : State) (n : Nat) : Keeps s (onHold s n) := by
  grind [Keeps, onHold, modLink_keeps]
theorem foulRecovery_keeps (s : State) (n code seq detail : Nat) (copy : List Byte) : Keeps s (foulRecovery s n code seq detail copy) := by
  grind [Keeps, foulRecovery, foul_keeps, setLState_keeps, startKickoff_keeps, modLink_keeps]
theorem modeWordUp_keeps (s : State) (n w : Nat) : Keeps s (modeWordUp s n w) := by
  grind [Keeps, modeWordUp, foulRecovery_keeps]
theorem modeStep_keeps (mn : String) (kind : Nat) (f : State → State) (n : LinkId) (w : U64) (s : State)
    (hf : Keeps s (f s)) : ∀ t, modeStep mn kind f n w s = .next t → Keeps s t := by
  grind [modeStep, Keeps, modeWordUp_keeps, foul_keeps]
theorem trainingDone_keeps (s : State) (n : Nat) : Keeps s (trainingDone s n) := by
  grind [Keeps, trainingDone, comeUp_keeps, modLink_keeps, emit_keeps]
theorem takeAck_keeps (s : State) (n : Nat) (f : Flit) (copy : List Byte) : Keeps s (takeAck s n f copy) := by
  unfold takeAck; try dsimp only
  all_goals repeat' first | with_reducible exact Keeps.refl _ | (with_reducible apply Keeps.trans; rotate_left; with_reducible apply foldl_keeps; intro s x; try dsimp only) | (with_reducible apply Keeps.trans; rotate_left; with_reducible apply foul_keeps) | (with_reducible apply Keeps.trans; rotate_left; with_reducible apply framePerformed_keeps) | (with_reducible apply Keeps.trans; rotate_left; with_reducible apply modLink_keeps) | split | grind [Keeps, foul_keeps, framePerformed_keeps, modLink_keeps]
theorem takeCredit_keeps (s : State) (n : Nat) (f : Flit) (copy : List Byte) : Keeps s (takeCredit s n f copy) := by
  grind [Keeps, takeCredit, foul_keeps, modLink_keeps]
theorem askReplay_keeps (s : State) (n : Nat) : Keeps s (askReplay s n) := by
  grind [Keeps, askReplay, emit_keeps, modLink_keeps]
theorem receiveFlit_keeps (s : State) (n : Nat) (bytes : List Byte) : Keeps s (receiveFlit s n bytes).1 := by
  grind [Keeps, receiveFlit, askReplay_keeps, resumeLink_keeps, takeAck_keeps, pump_keeps, takeCredit_keeps, modLink_keeps]
theorem acceptFlit_keeps (s : State) (n : Nat) (f : Flit) : Keeps s (acceptFlit s n f).1 := by
  grind [Keeps, acceptFlit, askReplay_keeps, modLink_keeps]
theorem ackNow_keeps (s : State) (n : Nat) : Keeps s (ackNow s n) := by
  grind [Keeps, ackNow, emitFlit_keeps, pump_keeps]
theorem packetIn_keeps (s : State) (n : Nat) (p : Packet) : Keeps s (packetIn s n p) := by
  grind [Keeps, packetIn, freeBuffer_keeps, modNet_keeps]
theorem dropFlits_keeps (s : State) (n pool k code detail : Nat) (f : Flit) (copy : List Byte) : Keeps s (dropFlits s n pool k code detail f copy) := by
  grind [Keeps, dropFlits, foul_keeps, freeBuffer_keeps, modLink_keeps]
theorem joinPacket_keeps (s : State) (n : Nat) (f : Flit) (copy : List Byte) : Keeps s (joinPacket s n f copy) := by
  grind [Keeps, joinPacket, dropFlits_keeps, packetIn_keeps, modLink_keeps]
theorem packetFlit_keeps (s : State) (n : Nat) (f : Flit) (copy : List Byte) : Keeps s (packetFlit s n f copy) := by
  grind [Keeps, packetFlit, foul_keeps, dropFlits_keeps, modLink_keeps, freeBuffer_keeps, joinPacket_keeps]
theorem flitStep_keeps (mn : String) (ty : Nat) (f : State → Flit → State) (n : LinkId) (bytes : List Byte) (s : State)
    (hf : ∀ s x, Keeps s (f s x)) : ∀ t, flitStep mn ty f n bytes s = .next t → Keeps s t := by
  grind [flitStep, Keeps, receiveFlit_keeps, foul_keeps]
theorem foulReceived_keeps (s : State) (n : Nat) (f : Flit) : Keeps s (foulReceived s n f) := by
  grind [Keeps, foulReceived, logEvent_keeps, modLink_keeps]
theorem replayAsked_keeps (s : State) (n : Nat) (f : Flit) (copy : List Byte) : Keeps s (replayAsked s n f copy) := by
  grind [Keeps, replayAsked, foulRecovery_keeps, foul_keeps, resend_keeps]
theorem controlFlit_keeps (s : State) (n want : Nat) (f : Flit) : Keeps s (controlFlit s n want f) := by
  grind [Keeps, controlFlit, linkDown_keeps, modLink_keeps]
theorem controlStep_keeps (mn : String) (want : Nat) (n : LinkId) (bytes : List Byte) (s : State) : ∀ nxt, (controlStep mn want n bytes s) = .next nxt → Keeps s nxt := by
  unfold controlStep; try dsimp only
  all_goals repeat' first | with_reducible exact Keeps.refl _ | (with_reducible apply Keeps.trans; rotate_left; with_reducible apply foldl_keeps; intro s x; try dsimp only) | (with_reducible apply Keeps.trans; rotate_left; with_reducible apply controlFlit_keeps) | split | grind [Keeps, flitStep_keeps, controlFlit_keeps]
theorem linkLost_keeps (s : State) (n : Nat) (presence : Bool) : Keeps s (linkLost s n presence) := by
  grind [Keeps, linkLost, logEvent_keeps, modLink_keeps]
theorem signalReturn_keeps (s : State) (n : Nat) : Keeps s (signalReturn s n) := by
  grind [Keeps, signalReturn, startKickoff_keeps, modLink_keeps]
theorem recoveryExpiry_keeps (s : State) (n : Nat) : Keeps s (recoveryExpiry s n) := by
  grind [Keeps, recoveryExpiry, linkDown_keeps]
theorem disableLink_keeps (s : State) (n : Nat) : Keeps s (disableLink s n) := by
  grind [Keeps, disableLink, linkDown_keeps, retarget_keeps, emit_keeps, modLink_keeps]
theorem enableLink_keeps (s : State) (n : Nat) : Keeps s (enableLink s n) := by
  grind [Keeps, enableLink, setLState_keeps]
theorem synthLocked_keeps (s : State) (q : Nat) : Keeps s (synthLocked s q) := by
  unfold synthLocked; try dsimp only
  all_goals repeat' first | with_reducible exact Keeps.refl _ | (with_reducible apply Keeps.trans; rotate_left; with_reducible apply foldl_keeps; intro s x; try dsimp only) | (with_reducible apply Keeps.trans; rotate_left; with_reducible apply retarget_keeps) | (with_reducible apply Keeps.trans; rotate_left; with_reducible apply setLState_keeps) | (with_reducible apply Keeps.trans; rotate_left; with_reducible apply startKickoff_keeps) | (with_reducible apply Keeps.trans; rotate_left; with_reducible apply resumeLink_keeps) | (with_reducible apply Keeps.trans; rotate_left; with_reducible apply modQuad_keeps) | split | grind [Keeps, retarget_keeps, setLState_keeps, startKickoff_keeps, resumeLink_keeps, modQuad_keeps]
theorem tuneTimeout_keeps (s : State) (q : Nat) : Keeps s (tuneTimeout s q) := by
  unfold tuneTimeout; try dsimp only
  all_goals repeat' first | with_reducible exact Keeps.refl _ | (with_reducible apply Keeps.trans; rotate_left; with_reducible apply foldl_keeps; intro s x; try dsimp only) | (with_reducible apply Keeps.trans; rotate_left; with_reducible apply logEvent_keeps) | (with_reducible apply Keeps.trans; rotate_left; with_reducible apply returnFlits_keeps) | (with_reducible apply Keeps.trans; rotate_left; with_reducible apply retarget_keeps) | (with_reducible apply Keeps.trans; rotate_left; with_reducible apply modLink_keeps) | (with_reducible apply Keeps.trans; rotate_left; with_reducible apply modQuad_keeps) | split | grind [Keeps, logEvent_keeps, returnFlits_keeps, retarget_keeps, modLink_keeps, modQuad_keeps]
theorem tuneRetry_keeps (s : State) (q : Nat) : Keeps s (tuneRetry s q) := by
  grind [Keeps, tuneRetry, modQuad_keeps]
theorem recalibrate_keeps (s : State) (q : Nat) (t : Int) : Keeps s (recalibrate s q t) := by
  grind [Keeps, recalibrate, modQuad_keeps]
theorem recalDeadline_keeps (s : State) (q : Nat) : Keeps s (recalDeadline s q) := by
  grind [Keeps, recalDeadline, pauseQuad_keeps]
theorem recalDone_keeps (s : State) (q us : Nat) : Keeps s (recalDone s q us) := by
  unfold recalDone; try dsimp only
  all_goals repeat' first | with_reducible exact Keeps.refl _ | (with_reducible apply Keeps.trans; rotate_left; with_reducible apply foldl_keeps; intro s x; try dsimp only) | (with_reducible apply Keeps.trans; rotate_left; with_reducible apply logEvent_keeps) | (with_reducible apply Keeps.trans; rotate_left; with_reducible apply resumeLink_keeps) | (with_reducible apply Keeps.trans; rotate_left; with_reducible apply modQuad_keeps) | split | grind [Keeps, logEvent_keeps, resumeLink_keeps, modQuad_keeps]
theorem execModeWordOffer_keeps (n : LinkId) (w : U64) (s : State) : ∀ nxt, (execModeWordOffer n w s) = .next nxt → Keeps s nxt := by
  unfold execModeWordOffer; exact modeStep_keeps _ _ _ _ _ _ (by first | with_reducible exact onOffer_keeps .. | grind [Keeps, modeStep_keeps, onOffer_keeps])
theorem execModeWordChoice_keeps (n : LinkId) (w : U64) (s : State) : ∀ nxt, (execModeWordChoice n w s) = .next nxt → Keeps s nxt := by
  unfold execModeWordChoice; exact modeStep_keeps _ _ _ _ _ _ (by first | with_reducible exact onChoice_keeps .. | grind [Keeps, modeStep_keeps, onChoice_keeps])
theorem execModeWordConfirm_keeps (n : LinkId) (w : U64) (s : State) : ∀ nxt, (execModeWordConfirm n w s) = .next nxt → Keeps s nxt := by
  unfold execModeWordConfirm; exact modeStep_keeps _ _ _ _ _ _ (by first | with_reducible exact onConfirm_keeps .. | grind [Keeps, modeStep_keeps, onConfirm_keeps])
theorem execModeWordHold_keeps (n : LinkId) (w : U64) (s : State) : ∀ nxt, (execModeWordHold n w s) = .next nxt → Keeps s nxt := by
  unfold execModeWordHold; exact modeStep_keeps _ _ _ _ _ _ (by first | with_reducible exact onHold_keeps .. | grind [Keeps, modeStep_keeps, onHold_keeps])
theorem execHoldHintExpiry_keeps (n : LinkId) (s : State) : ∀ nxt, (execHoldHintExpiry n s) = .next nxt → Keeps s nxt := by
  grind [Keeps, execHoldHintExpiry, sendOffers_keeps, modLink_keeps]
theorem execKickoffConfirmTimeout_keeps (n : LinkId) (s : State) : ∀ nxt, (execKickoffConfirmTimeout n s) = .next nxt → Keeps s nxt := by
  grind [Keeps, execKickoffConfirmTimeout, attemptFailed_keeps]
theorem execKickoffRetry_keeps (n : LinkId) (s : State) : ∀ nxt, (execKickoffRetry n s) = .next nxt → Keeps s nxt := by
  grind [Keeps, execKickoffRetry, startKickoff_keeps]
theorem execLinkSignalDetect_keeps (n : LinkId) (s : State) : ∀ nxt, (execLinkSignalDetect n s) = .next nxt → Keeps s nxt := by
  grind [Keeps, execLinkSignalDetect, signalDetect_keeps]
theorem execEqualisationTrainingComplete_keeps (n : LinkId) (s : State) : ∀ nxt, (execEqualisationTrainingComplete n s) = .next nxt → Keeps s nxt := by
  grind [Keeps, execEqualisationTrainingComplete, trainingDone_keeps]
theorem execPacketFlit_keeps (n : LinkId) (flit : List Byte) (s : State) : ∀ nxt, (execPacketFlit n flit s) = .next nxt → Keeps s nxt := by
  unfold execPacketFlit; exact flitStep_keeps _ _ _ _ _ _ (by first | with_reducible exact packetFlit_keeps .. | grind [Keeps, flitStep_keeps, acceptFlit_keeps, ackNow_keeps, packetFlit_keeps])
theorem execNullFlit_keeps (n : LinkId) (flit : List Byte) (s : State) : ∀ nxt, (execNullFlit n flit s) = .next nxt → Keeps s nxt := by
  unfold execNullFlit; exact flitStep_keeps _ _ _ _ _ _ (by first | with_reducible exact flitStep_keeps .. | grind [Keeps, flitStep_keeps])
theorem execReplayRequest_keeps (n : LinkId) (flit : List Byte) (s : State) : ∀ nxt, (execReplayRequest n flit s) = .next nxt → Keeps s nxt := by
  unfold execReplayRequest; exact flitStep_keeps _ _ _ _ _ _ (by first | with_reducible exact replayAsked_keeps .. | grind [Keeps, flitStep_keeps, replayAsked_keeps])
theorem execReplayTimeout_keeps (n : LinkId) (s : State) : ∀ nxt, (execReplayTimeout n s) = .next nxt → Keeps s nxt := by
  grind [Keeps, execReplayTimeout, resend_keeps]
theorem execFoulFlit_keeps (n : LinkId) (flit : List Byte) (s : State) : ∀ nxt, (execFoulFlit n flit s) = .next nxt → Keeps s nxt := by
  unfold execFoulFlit; exact flitStep_keeps _ _ _ _ _ _ (by first | with_reducible exact foulReceived_keeps .. | grind [Keeps, flitStep_keeps, acceptFlit_keeps, ackNow_keeps, foulReceived_keeps])
theorem execLinkControlPause_keeps (n : LinkId) (flit : List Byte) (s : State) : ∀ nxt, (execLinkControlPause n flit s) = .next nxt → Keeps s nxt := by
  grind [Keeps, execLinkControlPause, controlStep_keeps]
theorem execLinkControlDown_keeps (n : LinkId) (flit : List Byte) (s : State) : ∀ nxt, (execLinkControlDown n flit s) = .next nxt → Keeps s nxt := by
  grind [Keeps, execLinkControlDown, controlStep_keeps]
theorem execPauseEnd_keeps (n : LinkId) (s : State) : ∀ nxt, (execPauseEnd n s) = .next nxt → Keeps s nxt := by
  grind [Keeps, execPauseEnd, resumeLink_keeps]
theorem execLossOfSignal_keeps (n : LinkId) (presence : Bool) (s : State) : ∀ nxt, (execLossOfSignal n presence s) = .next nxt → Keeps s nxt := by
  grind [Keeps, execLossOfSignal, linkLost_keeps]
theorem execSignalReturn_keeps (n : LinkId) (s : State) : ∀ nxt, (execSignalReturn n s) = .next nxt → Keeps s nxt := by
  grind [Keeps, execSignalReturn, signalReturn_keeps]
theorem execRecoveryExpiry_keeps (n : LinkId) (s : State) : ∀ nxt, (execRecoveryExpiry n s) = .next nxt → Keeps s nxt := by
  grind [Keeps, execRecoveryExpiry, recoveryExpiry_keeps]
theorem execSynthesiserLocked_keeps (q : QuadId) (s : State) : ∀ nxt, (execSynthesiserLocked q s) = .next nxt → Keeps s nxt := by
  grind [Keeps, execSynthesiserLocked, synthLocked_keeps]
theorem execSynthesiserTuneTimeout_keeps (q : QuadId) (s : State) : ∀ nxt, (execSynthesiserTuneTimeout q s) = .next nxt → Keeps s nxt := by
  grind [Keeps, execSynthesiserTuneTimeout, tuneTimeout_keeps]
theorem execSynthesiserRetry_keeps (q : QuadId) (s : State) : ∀ nxt, (execSynthesiserRetry q s) = .next nxt → Keeps s nxt := by
  grind [Keeps, execSynthesiserRetry, tuneRetry_keeps]
theorem execQuadRecalibration_keeps (q : QuadId) (tenths : Int) (s : State) : ∀ nxt, (execQuadRecalibration q tenths s) = .next nxt → Keeps s nxt := by
  grind [Keeps, execQuadRecalibration, recalibrate_keeps]
theorem execRecalibrationDeadline_keeps (q : QuadId) (s : State) : ∀ nxt, (execRecalibrationDeadline q s) = .next nxt → Keeps s nxt := by
  grind [Keeps, execRecalibrationDeadline, recalDeadline_keeps]
theorem execRecalibrationComplete_keeps (q : QuadId) (pausedUs : Nat) (s : State) : ∀ nxt, (execRecalibrationComplete q pausedUs s) = .next nxt → Keeps s nxt := by
  grind [Keeps, execRecalibrationComplete, recalDone_keeps]

/-! ### Machine/Routing.lean -/

theorem flitForward_keeps (s : State) : Keeps s (flitForward s) := by
  grind [Keeps, flitForward, freeBuffer_keeps, queuePacket_keeps, undeliverable_keeps, modNet_keeps]
theorem execFlitForward_keeps (s : State) : ∀ nxt, (execFlitForward s) = .next nxt → Keeps s nxt := by
  grind [Keeps, execFlitForward, flitForward_keeps]

/-! ### Machine/Power.lean -/

theorem emitVout_keeps (s : State) (t : Transition) : Keeps s (emitVout s t) := by
  grind [Keeps, emitVout, emit_keeps]
theorem startTrans_keeps (s : State) (t : Transition) : Keeps s (startTrans s t) := by
  grind [Keeps, startTrans, emitVout_keeps, modPower_keeps]
theorem tryLend_keeps (s : State) : Keeps s (tryLend s) := by
  grind [Keeps, tryLend, emit_keeps, modI2c_keeps]
theorem pumpPower_keeps (s : State) : Keeps s (pumpPower s) := by
  grind [Keeps, pumpPower, startTrans_keeps, tryLend_keeps, modPower_keeps]
theorem runChain_keeps (s : State) (commit : Bool) : Keeps s (runChain s commit) := by
  grind [Keeps, runChain, pumpPower_keeps, modPower_keeps]
theorem setpointCommitted_keeps (s : State) : Keeps s (setpointCommitted s) := by
  grind [Keeps, setpointCommitted, runChain_keeps]
theorem failFastAttempts_keeps (s : State) (q : Nat) : Keeps s (failFastAttempts s q) := by
  unfold failFastAttempts; try dsimp only
  all_goals repeat' first | with_reducible exact Keeps.refl _ | (with_reducible apply Keeps.trans; rotate_left; with_reducible apply foldl_keeps; intro s x; try dsimp only) | (with_reducible apply Keeps.trans; rotate_left; with_reducible apply attemptFailed_keeps) | split | grind [Keeps, attemptFailed_keeps]
theorem vcoreReverted_keeps (s : State) (commit : Bool) (mv : Nat) : Keeps s (vcoreReverted s commit mv) := by
  grind [Keeps, vcoreReverted, logEvent_keeps, pumpPower_keeps, modReg_keeps, modPower_keeps]
theorem stepOver_keeps (s : State) (q : Nat) : Keeps s (stepOver s q) := by
  grind [Keeps, stepOver, pumpPower_keeps, startTune_keeps, modQuad_keeps]
theorem quadReverted_keeps (s : State) (q fromMv mv : Nat) : Keeps s (quadReverted s q fromMv mv) := by
  grind [Keeps, quadReverted, stepOver_keeps, failFastAttempts_keeps, logEvent_keeps, modReg_keeps, modPower_keeps, modQuad_keeps]
theorem revertedAt_keeps (s : State) (t : Transition) (mv : Nat) : Keeps s (revertedAt s t mv) := by
  grind [Keeps, revertedAt, vcoreReverted_keeps, quadReverted_keeps]
theorem transitionComplete_keeps (s : State) : Keeps s (transitionComplete s) := by
  grind [Keeps, transitionComplete, logEvent_keeps, pumpPower_keeps, stepOver_keeps, modReg_keeps, modPower_keeps, modQuad_keeps]
theorem transitionDeadline_keeps (s : State) : Keeps s (transitionDeadline s) := by
  grind [Keeps, transitionDeadline, emitVout_keeps, modPower_keeps]
theorem transitionReverted_keeps (s : State) : Keeps s (transitionReverted s) := by
  grind [Keeps, transitionReverted, revertedAt_keeps]
theorem settled_keeps (s : State) (mv : Nat) : Keeps s (settled s mv) := by
  grind [Keeps, settled, stepOver_keeps, revertedAt_keeps, modReg_keeps, modPower_keeps, modQuad_keeps]
theorem chainRetry_keeps (s : State) : Keeps s (chainRetry s) := by
  grind [Keeps, chainRetry, pumpPower_keeps, modPower_keeps]
theorem quadStep_keeps (s : State) (q : Nat) : Keeps s (quadStep s q) := by
  grind [Keeps, quadStep, pauseQuad_keeps, startTrans_keeps, modQuad_keeps, modPower_keeps]
theorem afterRecovery_keeps (s : State) : Keeps s (afterRecovery s) := by
  unfold afterRecovery; try dsimp only
  all_goals repeat' first | with_reducible exact Keeps.refl _ | (with_reducible apply Keeps.trans; rotate_left; with_reducible apply foldl_keeps; intro s x; try dsimp only) | (with_reducible apply Keeps.trans; rotate_left; with_reducible apply emit_keeps) | split | grind [Keeps, emit_keeps]
theorem resendVout_keeps (s : State) : Keeps s (resendVout s) := by
  grind [Keeps, resendVout, emitVout_keeps]
theorem startRecovery_keeps (s : State) (c : RecoveryCause) : Keeps s (startRecovery s c) := by
  grind [Keeps, startRecovery, modI2c_keeps]
theorem restoreRails_keeps (s : State) : Keeps s (restoreRails s) := by
  unfold restoreRails; try dsimp only
  all_goals repeat' first | with_reducible exact Keeps.refl _ | (with_reducible apply Keeps.trans; rotate_left; with_reducible apply foldl_keeps; intro s x; try dsimp only) | (with_reducible apply Keeps.trans; rotate_left; with_reducible apply startTune_keeps) | (with_reducible apply Keeps.trans; rotate_left; with_reducible apply emit_keeps) | (with_reducible apply Keeps.trans; rotate_left; with_reducible apply modReg_keeps) | (with_reducible apply Keeps.trans; rotate_left; with_reducible apply modQuad_keeps) | (with_reducible apply Keeps.trans; rotate_left; with_reducible apply modPower_keeps) | split | grind [Keeps, startTune_keeps, emit_keeps, modReg_keeps, modQuad_keeps, modPower_keeps]
theorem pmRecovered_keeps (s : State) : Keeps s (pmRecovered s) := by
  grind [Keeps, pmRecovered, afterRecovery_keeps, logEvent_keeps, restoreRails_keeps, resendVout_keeps, pumpPower_keeps, modI2c_keeps, clearVal_keeps, modPower_keeps]
theorem pmStuck_keeps (s : State) : Keeps s (pmStuck s) := by
  grind [Keeps, pmStuck, logEvent_keeps, revertedAt_keeps, modI2c_keeps, clearVal_keeps, modPower_keeps]
theorem pmRound_keeps (s : State) (r : I2cRound) : Keeps s (pmRound s r) := by
  grind [Keeps, pmRound, pmRecovered_keeps, logEvent_keeps, pmStuck_keeps, modI2c_keeps]
theorem modRound_keeps (s : State) (r : I2cRound) : Keeps s (modRound s r) := by
  grind [Keeps, modRound, logEvent_keeps, modI2c_keeps]
theorem i2cFirst_keeps (s : State) (bus : I2cBus) (r : I2cRound) : Keeps s (i2cFirst s bus r) := by
  unfold i2cFirst; try dsimp only
  all_goals repeat' first | with_reducible exact Keeps.refl _ | (with_reducible apply Keeps.trans; rotate_left; with_reducible apply foldl_keeps; intro s x; try dsimp only) | (with_reducible apply Keeps.trans; rotate_left; with_reducible apply pmRound_keeps) | (with_reducible apply Keeps.trans; rotate_left; with_reducible apply startRecovery_keeps) | (with_reducible apply Keeps.trans; rotate_left; with_reducible apply modRound_keeps) | (with_reducible apply Keeps.trans; rotate_left; with_reducible apply modI2c_keeps) | split | grind [Keeps, pmRound_keeps, startRecovery_keeps, modRound_keeps, modI2c_keeps]
theorem i2cNext_keeps (s : State) (bus : I2cBus) (r : I2cRound) : Keeps s (i2cNext s bus r) := by
  unfold i2cNext; try dsimp only
  all_goals repeat' first | with_reducible exact Keeps.refl _ | (with_reducible apply Keeps.trans; rotate_left; with_reducible apply foldl_keeps; intro s x; try dsimp only) | (with_reducible apply Keeps.trans; rotate_left; with_reducible apply pmRound_keeps) | (with_reducible apply Keeps.trans; rotate_left; with_reducible apply modRound_keeps) | split | grind [Keeps, pmRound_keeps, modRound_keeps]
theorem moduleRetry_keeps (s : State) (r : I2cRound) : Keeps s (moduleRetry s r) := by
  grind [Keeps, moduleRetry, modRound_keeps, modI2c_keeps]
theorem holdRecovery_keeps (s : State) : Keeps s (holdRecovery s) := by
  grind [Keeps, holdRecovery, startRecovery_keeps, modI2c_keeps]
theorem transactionEnd_keeps (s : State) (o : BusOutcome) : Keeps s (transactionEnd s o) := by
  grind [Keeps, transactionEnd, revertedAt_keeps, modI2c_keeps, modPower_keeps]
theorem pmbusRetry_keeps (s : State) (sdaHigh : Bool) : Keeps s (pmbusRetry s sdaHigh) := by
  grind [Keeps, pmbusRetry, resendVout_keeps, startRecovery_keeps, modI2c_keeps]
theorem busLend_keeps (s : State) : Keeps s (busLend s) := by
  grind [Keeps, busLend, tryLend_keeps, modPins_keeps]
theorem busTakeBack_keeps (s : State) (sdaHigh : Bool) : Keeps s (busTakeBack s sdaHigh) := by
  grind [Keeps, busTakeBack, startRecovery_keeps, pumpPower_keeps, modPins_keeps, emit_keeps, modI2c_keeps]
theorem emitAll_keeps (s : State) (l : List Output) : Keeps s (emitAll s l) := by
  unfold emitAll; try dsimp only
  all_goals repeat' first | with_reducible exact Keeps.refl _ | (with_reducible apply Keeps.trans; rotate_left; with_reducible apply foldl_keeps; intro s x; try dsimp only) | (with_reducible apply Keeps.trans; rotate_left; with_reducible apply emit_keeps) | split | grind [Keeps, emit_keeps]
theorem pmbusPoll_keeps (s : State) (l : List RegulatorReading) : Keeps s (pmbusPoll s l) := by
  grind [Keeps, pmbusPoll, foldl_keeps, emitAll_keeps, modReg_keeps]
theorem pmbusAlert_keeps (s : State) (r : Rail) (status : U16) : Keeps s (pmbusAlert s r status) := by
  grind [Keeps, pmbusAlert, emitAll_keeps, modReg_keeps]
theorem moduleInserted_keeps (s : State) (n : Nat) : Keeps s (moduleInserted s n) := by
  grind [Keeps, moduleInserted, logEvent_keeps, modI2c_keeps]
theorem moduleRemoved_keeps (s : State) (n : Nat) : Keeps s (moduleRemoved s n) := by
  grind [Keeps, moduleRemoved, linkLost_keeps, logEvent_keeps, modI2c_keeps]
theorem moduleRead_keeps (s : State) (n : Nat) (l : List Byte) : Keeps s (moduleRead s n l) := by
  grind [Keeps, moduleRead, emitAll_keeps, modI2c_keeps]
theorem junctionRead_keeps (s : State) (t : Int) : Keeps s (junctionRead s t) := by
  grind [Keeps, junctionRead, logEvent_keeps, modPower_keeps]
theorem temperatures_keeps (s : State) (dom : List Int) (pkg : Int) : Keeps s (temperatures s dom pkg) := by
  unfold temperatures; try dsimp only
  all_goals repeat' first | with_reducible exact Keeps.refl _ | (with_reducible apply Keeps.trans; rotate_left; with_reducible apply foldl_keeps; intro s x; try dsimp only) | (with_reducible apply Keeps.trans; rotate_left; with_reducible apply domTemp_keeps) | (with_reducible apply Keeps.trans; rotate_left; with_reducible apply settleDomains_keeps) | (with_reducible apply Keeps.trans; rotate_left; with_reducible apply junctionRead_keeps) | split | grind [Keeps, domTemp_keeps, settleDomains_keeps, junctionRead_keeps]
theorem domainWindow_keeps (s : State) (d ma beats mv : Nat) : Keeps s (domainWindow s d ma beats mv) := by
  grind [Keeps, domainWindow, modDom_keeps]
theorem governor_keeps (s : State) : Keeps s (governor s) := by
  grind [Keeps, governor, runChain_keeps, modPower_keeps]
theorem windowEnd_keeps (s : State) (r : WindowReadings) : Keeps s (windowEnd s r) := by
  unfold windowEnd; try dsimp only
  all_goals repeat' first | with_reducible exact Keeps.refl _ | (with_reducible apply Keeps.trans; rotate_left; with_reducible apply foldl_keeps; intro s x; try dsimp only) | (with_reducible apply Keeps.trans; rotate_left; with_reducible apply domainWindow_keeps) | (with_reducible apply Keeps.trans; rotate_left; with_reducible apply governor_keeps) | (with_reducible apply Keeps.trans; rotate_left; with_reducible apply temperatures_keeps) | (with_reducible apply Keeps.trans; rotate_left; with_reducible apply modQuad_keeps) | (with_reducible apply Keeps.trans; rotate_left; with_reducible apply modPower_keeps) | split | grind [Keeps, domainWindow_keeps, governor_keeps, temperatures_keeps, modQuad_keeps, modPower_keeps]
theorem execSenseSample_keeps (r : SenseReadings) (s : State) : ∀ nxt, (execSenseSample r s) = .next nxt → Keeps s nxt := by
  grind [Keeps, execSenseSample, temperatures_keeps]
theorem execMsWindowEnd_keeps (r : WindowReadings) (s : State) : ∀ nxt, (execMsWindowEnd r s) = .next nxt → Keeps s nxt := by
  grind [Keeps, execMsWindowEnd, windowEnd_keeps]
theorem execQuadRailStep_keeps (q : QuadId) (s : State) : ∀ nxt, (execQuadRailStep q s) = .next nxt → Keeps s nxt := by
  grind [Keeps, execQuadRailStep, quadStep_keeps]
theorem execPmbusPoll_keeps (l : List RegulatorReading) (s : State) : ∀ nxt, (execPmbusPoll l s) = .next nxt → Keeps s nxt := by
  grind [Keeps, execPmbusPoll, pmbusPoll_keeps]
theorem execPmbusAlert_keeps (r : Rail) (status : U16) (s : State) : ∀ nxt, (execPmbusAlert r status s) = .next nxt → Keeps s nxt := by
  grind [Keeps, execPmbusAlert, pmbusAlert_keeps]
theorem execPmbusRetry_keeps (sdaHigh : Bool) (s : State) : ∀ nxt, (execPmbusRetry sdaHigh s) = .next nxt → Keeps s nxt := by
  grind [Keeps, execPmbusRetry, pmbusRetry_keeps]
theorem execPmbusTransactionEnd_keeps (o : BusOutcome) (s : State) : ∀ nxt, (execPmbusTransactionEnd o s) = .next nxt → Keeps s nxt := by
  grind [Keeps, execPmbusTransactionEnd, transactionEnd_keeps]
theorem execBusLend_keeps (s : State) : ∀ nxt, (execBusLend s) = .next nxt → Keeps s nxt := by
  grind [Keeps, execBusLend, busLend_keeps]
theorem execBusTakeBack_keeps (sdaHigh : Bool) (s : State) : ∀ nxt, (execBusTakeBack sdaHigh s) = .next nxt → Keeps s nxt := by
  grind [Keeps, execBusTakeBack, busTakeBack_keeps]
theorem execI2cRecovery_keeps (b : I2cBus) (r : I2cRound) (s : State) : ∀ nxt, (execI2cRecovery b r s) = .next nxt → Keeps s nxt := by
  grind [Keeps, execI2cRecovery, i2cFirst_keeps]
theorem execI2cRecoveryRoundWait_keeps (b : I2cBus) (r : I2cRound) (s : State) : ∀ nxt, (execI2cRecoveryRoundWait b r s) = .next nxt → Keeps s nxt := by
  grind [Keeps, execI2cRecoveryRoundWait, i2cNext_keeps]
theorem execModuleBusRetry_keeps (r : I2cRound) (s : State) : ∀ nxt, (execModuleBusRetry r s) = .next nxt → Keeps s nxt := by
  grind [Keeps, execModuleBusRetry, moduleRetry_keeps]
theorem execModuleInserted_keeps (n : LinkId) (s : State) : ∀ nxt, (execModuleInserted n s) = .next nxt → Keeps s nxt := by
  grind [Keeps, execModuleInserted, moduleInserted_keeps]
theorem execModuleRemoved_keeps (n : LinkId) (s : State) : ∀ nxt, (execModuleRemoved n s) = .next nxt → Keeps s nxt := by
  grind [Keeps, execModuleRemoved, moduleRemoved_keeps]
theorem execModuleRead_keeps (n : LinkId) (bytes : List Byte) (s : State) : ∀ nxt, (execModuleRead n bytes s) = .next nxt → Keeps s nxt := by
  grind [Keeps, execModuleRead, moduleRead_keeps]
theorem execTransitionComplete_keeps (s : State) : ∀ nxt, (execTransitionComplete s) = .next nxt → Keeps s nxt := by
  grind [Keeps, execTransitionComplete, transitionComplete_keeps]
theorem execTransitionDeadline_keeps (s : State) : ∀ nxt, (execTransitionDeadline s) = .next nxt → Keeps s nxt := by
  grind [Keeps, execTransitionDeadline, transitionDeadline_keeps]
theorem execTransitionReverted_keeps (s : State) : ∀ nxt, (execTransitionReverted s) = .next nxt → Keeps s nxt := by
  grind [Keeps, execTransitionReverted, transitionReverted_keeps]
theorem execReturningCommandSettle_keeps (mv : Nat) (s : State) : ∀ nxt, (execReturningCommandSettle mv s) = .next nxt → Keeps s nxt := by
  grind [Keeps, execReturningCommandSettle, settled_keeps]
theorem execChainRetry_keeps (s : State) : ∀ nxt, (execChainRetry s) = .next nxt → Keeps s nxt := by
  grind [Keeps, execChainRetry, chainRetry_keeps]

/-! ### Machine/Ageing.lean -/

theorem canaryMeasure_keeps (s : State) (d stressed twin : Nat) : Keeps s (canaryMeasure s d stressed twin) := by
  grind [Keeps, canaryMeasure, useFree_keeps, modDom_keeps]
theorem retentionMeasure_keeps (s : State) (times : List Nat) : Keeps s (retentionMeasure s times) := by
  grind [Keeps, retentionMeasure, logEvent_keeps, modAgeing_keeps]
theorem countErase_keeps (s : State) (block : Nat) : Keeps s (countErase s block) := by
  grind [Keeps, countErase, modAgeing_keeps]
theorem eraseAgeBlock_keeps (s : State) (pos : Nat) : Keeps s (eraseAgeBlock s pos) := by
  grind [Keeps, eraseAgeBlock, countErase_keeps, modAgeing_keeps]
theorem ageWritten_keeps (s : State) (pos : Nat) : Keeps s (ageWritten s pos) := by
  grind [Keeps, ageWritten, modAgeing_keeps]
theorem predict_keeps (s : State) : Keeps s (predict s) := by
  grind [Keeps, predict, logEvent_keeps, modAgeing_keeps]
theorem ageingRecord_keeps (s : State) (tenths : Int) (mv : Nat) (ok : List Bool) : Keeps s (ageingRecord s tenths mv ok) := by
  grind [Keeps, ageingRecord, eraseAgeBlock_keeps, predict_keeps, ageWritten_keeps, logEvent_keeps, modAgeing_keeps]
theorem execCanaryMeasure_keeps (d : DomainId) (stressed twin : Nat) (s : State) : ∀ nxt, (execCanaryMeasure d stressed twin s) = .next nxt → Keeps s nxt := by
  grind [Keeps, execCanaryMeasure, canaryMeasure_keeps]
theorem execVaultRetentionMeasure_keeps (times : List Nat) (s : State) : ∀ nxt, (execVaultRetentionMeasure times s) = .next nxt → Keeps s nxt := by
  grind [Keeps, execVaultRetentionMeasure, retentionMeasure_keeps]
theorem execAgeingRecord_keeps (meanTenths : Int) (meanMv : Nat) (writeOk : List Bool) (s : State) : ∀ nxt, (execAgeingRecord meanTenths meanMv writeOk s) = .next nxt → Keeps s nxt := by
  grind [Keeps, execAgeingRecord, ageingRecord_keeps]

/-! ### Machine/Journal.lean -/

theorem setHalf_keeps (s : State) (b : Bool) (h : Half) : Keeps s (setHalf s b h) := by
  grind [Keeps, setHalf, modJournal_keeps]
theorem beginRecord_keeps (s : State) (r : JournalRec) : ∀ u v, beginRecord s r = some (u, v) → Keeps s u := by
  unfold beginRecord; dsimp only
  split
  · simp
  · split
    · simp
    · rintro u v h
      obtain ⟨a, -, h2⟩ := Option.map_eq_some_iff.mp h
      cases h2
      exact (setHalf_keeps ..).trans (modJournal_keeps ..)
theorem keepRecord_keeps (s : State) (r : JournalRec) (ok : Bool) : Keeps s (keepRecord s r ok) := by
  grind [Keeps, keepRecord, setHalf_keeps]
theorem compactionTrigger_keeps (s : State) : Keeps s (compactionTrigger s) := by
  grind [Keeps, compactionTrigger, logEvent_keeps, modJournal_keeps]
theorem journalNow_keeps (s : State) (r : JournalRec) : Keeps s (journalNow s r) := by
  unfold journalNow; try dsimp only
  all_goals repeat' first | with_reducible exact Keeps.refl _ | (with_reducible apply Keeps.trans; rotate_left; with_reducible apply foldl_keeps; intro s x; try dsimp only) | (with_reducible apply Keeps.trans; rotate_left; with_reducible apply compactionTrigger_keeps) | (with_reducible apply Keeps.trans; rotate_left; with_reducible apply keepRecord_keeps) | refine Keeps.trans ?_ (beginRecord_keeps _ _ _ _ (by assumption)) | split | grind [Keeps, beginRecord_keeps, compactionTrigger_keeps, keepRecord_keeps]
theorem journalDead_keeps (s : State) (off : Nat) : Keeps s (journalDead s off) := by
  grind [Keeps, journalDead, logEvent_keeps, modJournal_keeps]
theorem recordFailed_keeps (s : State) (r : JournalRec) (page : BitVec 6) : Keeps s (recordFailed s r page).1 := by
  grind [Keeps, recordFailed, logEvent_keeps, keepRecord_keeps, journalDead_keeps, setHalf_keeps, modJournal_keeps]
theorem cutAwaiting_keeps (s : State) : Keeps s (cutAwaiting s) := by
  grind [Keeps, cutAwaiting, keepRecord_keeps, modDict_keeps]
theorem eraseHalf_keeps (s : State) (b : Bool) (o : HalfOutcome) : Keeps s (eraseHalf s b o) := by
  unfold eraseHalf; try dsimp only
  all_goals repeat' first | with_reducible exact Keeps.refl _ | (with_reducible apply Keeps.trans; rotate_left; with_reducible apply foldl_keeps; intro s x; try dsimp only) | (with_reducible apply Keeps.trans; rotate_left; with_reducible apply countErase_keeps) | (with_reducible apply Keeps.trans; rotate_left; with_reducible apply logEvent_keeps) | split | grind [Keeps, countErase_keeps, logEvent_keeps]
theorem noteCopied_keeps (s : State) (c : Copied) : Keeps s (noteCopied s c) := by
  unfold noteCopied; try dsimp only
  all_goals repeat' first | with_reducible exact Keeps.refl _ | (with_reducible apply Keeps.trans; rotate_left; with_reducible apply foldl_keeps; intro s x; try dsimp only) | (with_reducible apply Keeps.trans; rotate_left; with_reducible apply modJournal_keeps) | (with_reducible apply Keeps.trans; rotate_left; with_reducible apply logEvent_keeps) | split | grind [Keeps, logEvent_keeps, modJournal_keeps]
theorem block0Failed_keeps (s : State) (b : Bool) : Keeps s (block0Failed s b) := by
  grind [Keeps, block0Failed, logEvent_keeps, countErase_keeps]
theorem abandonCompaction_keeps (s : State) (b : Bool) : Keeps s (abandonCompaction s b) := by
  grind [Keeps, abandonCompaction, journalDead_keeps, modJournal_keeps]
theorem moveAwaiting_keeps (s : State) : Keeps s (moveAwaiting s) := by
  grind [Keeps, moveAwaiting, setHalf_keeps, modDict_keeps]
theorem compact_keeps (s : State) (o : HalfOutcome) : Keeps s (compact s o) := by
  grind [Keeps, compact, abandonCompaction_keeps, block0Failed_keeps, noteCopied_keeps, setHalf_keeps, eraseHalf_keeps, journalDead_keeps, modJournal_keeps, moveAwaiting_keeps, logEvent_keeps]
theorem journalCompaction_keeps (s : State) (o : HalfOutcome) : Keeps s (journalCompaction s o) := by
  grind [Keeps, journalCompaction, compact_keeps]
theorem compactionRetry_keeps (s : State) (o : HalfOutcome) : Keeps s (compactionRetry s o) := by
  grind [Keeps, compactionRetry, compact_keeps, logEvent_keeps, modJournal_keeps]
theorem formatHalf_keeps (s : State) (b : Bool) (o : HalfOutcome) : Keeps s (formatHalf s b o) := by
  grind [Keeps, formatHalf, noteCopied_keeps, modJournal_keeps, setHalf_keeps, eraseHalf_keeps, logEvent_keeps, journalDead_keeps]
theorem formatJournal_keeps (s : State) (oa ob : HalfOutcome) : Keeps s (formatJournal s oa ob) := by
  grind [Keeps, formatJournal, formatHalf_keeps, block0Failed_keeps, journalDead_keeps]
theorem replay_keeps (s : State) (b : Bool) (p : Nat → Nat → Bool) : Keeps s (replay s b p) := by
  unfold replay; try dsimp only
  all_goals repeat' first | with_reducible exact Keeps.refl _ | (with_reducible apply Keeps.trans; rotate_left; with_reducible apply foldl_keeps; intro s x; try dsimp only) | (with_reducible apply Keeps.trans; rotate_left; with_reducible apply setHalf_keeps) | (with_reducible apply Keeps.trans; rotate_left; with_reducible apply logEvent_keeps) | (with_reducible apply Keeps.trans; rotate_left; with_reducible apply modJournal_keeps) | (with_reducible apply Keeps.trans; rotate_left; with_reducible apply modDict_keeps) | split | grind [Keeps, setHalf_keeps, logEvent_keeps, modJournal_keeps, modDict_keeps]
theorem eraseJournal_keeps (s : State) : Keeps s (eraseJournal s) := by
  unfold eraseJournal; try dsimp only
  all_goals repeat' first | with_reducible exact Keeps.refl _ | (with_reducible apply Keeps.trans; rotate_left; with_reducible apply foldl_keeps; intro s x; try dsimp only) | (with_reducible apply Keeps.trans; rotate_left; with_reducible apply countErase_keeps) | (with_reducible apply Keeps.trans; rotate_left; with_reducible apply modJournal_keeps) | split | grind [Keeps, countErase_keeps, modJournal_keeps]
theorem dropAccesses_keeps (s : State) (p : DictPath → Bool) : Keeps s (dropAccesses s p) := by
  grind [Keeps, dropAccesses, cutAwaiting_keeps, modDict_keeps]
theorem execJournalCompaction_keeps (h : HalfOutcome) (s : State) : ∀ nxt, (execJournalCompaction h s) = .next nxt → Keeps s nxt := by
  grind [Keeps, execJournalCompaction, journalCompaction_keeps]
theorem execCompactionRetry_keeps (h : HalfOutcome) (s : State) : ∀ nxt, (execCompactionRetry h s) = .next nxt → Keeps s nxt := by
  grind [Keeps, execCompactionRetry, compactionRetry_keeps]

end Sys2Proof.Machine
end

