-- ==== Sys2Proof/Laws/KeepsFrames.lean ====
section
/-! SUPPORT. One lemma for each operation over the host queue, slates and the frames of a link: it keeps the queue, the fuses and the form of
memory (`_keeps`), or lets the fuses only advance (`_grows`). -/
set_option Elab.async false
set_option linter.all false

namespace Sys2Proof.Machine

/-! ### Machine/HostQueue.lean -/

theorem queueError_keeps (s : State) (t cause : Nat) : Keeps s (queueError s t cause) := by
  grind [Keeps, queueError, modTq_keeps]
theorem doorbell_keeps (s : State) (page : DoorbellPage) (f : State → Nat → State) (hf : ∀ s x, Keeps s (f s x)) :
    Keeps s (doorbell s page f) := by
  grind [doorbell, Keeps, modTq_keeps]
theorem tailWrite_keeps (s : State) (v t : Nat) : Keeps s (tailWrite s v t) := by
  grind [Keeps, tailWrite, queueError_keeps, modTq_keeps]
theorem headWrite_keeps (s : State) (v t : Nat) : Keeps s (headWrite s v t) := by
  grind [Keeps, headWrite, queueError_keeps, modTq_keeps]
theorem queueEnabled_keeps (s : State) (t : Nat) : Keeps s (queueEnabled s t) := by
  grind [Keeps, queueEnabled, modHost_keeps, modTq_keeps]
theorem queueDisabled_keeps (s : State) (t : Nat) : Keeps s (queueDisabled s t) := by
  grind [Keeps, queueDisabled, modTq_keeps, modHost_keeps]
theorem clearQueue_keeps (s : State) (t : Nat) : Keeps s (clearQueue s t) := by
  grind [Keeps, clearQueue, queueDisabled_keeps, setVal_keeps]
theorem modCmd_keeps (s : State) (t i : Nat) (f : HostCmd → HostCmd) : Keeps s (modCmd s t i f) := by
  grind [Keeps, modCmd, modTq_keeps]
theorem finishCmd_keeps (s : State) (t i : Nat) (x : Completion) : Keeps s (finishCmd s t i x) := by
  grind [Keeps, finishCmd, modCmd_keeps]
theorem runCmd_keeps (s : State) (t i : Nat) : Keeps s (runCmd s t i) := by
  grind [Keeps, runCmd, modCmd_keeps]
theorem takeEntry_keeps (s : State) (t : Nat) (l : List Byte) : Keeps s (takeEntry s t l) := by
  grind [Keeps, takeEntry, modTq_keeps]
theorem submissionFetch_keeps (s : State) (t : Nat) : Keeps s (submissionFetch s t) := by
  grind [Keeps, submissionFetch, hostRequest_keeps, modTq_keeps]
theorem copyIn_keeps (s : State) (t a n : Nat) (src : List Byte) : Keeps s (copyIn s t a n src).1 := by
  grind [Keeps, copyIn, writeAs_keeps]
theorem copyOut_keeps (s : State) (f t a n host : Nat) : Keeps s (copyOut s f t a n host).1 := by
  grind [Keeps, copyOut, readAs_keeps, emit_keeps]
theorem copyRun_keeps (s : State) (t : Nat) (e : Entry) (h : HostBytes) : Keeps s (copyRun s t e h).1 := by
  grind [Keeps, copyRun, copyIn_keeps, copyOut_keeps]
theorem hostCopy_keeps (s : State) (t : Nat) (h : HostBytes) : Keeps s (hostCopy s t h) := by
  grind [Keeps, hostCopy, copyRun_keeps, finishCmd_keeps]
theorem hostNop_keeps (s : State) (t : Nat) : Keeps s (hostNop s t) := by
  grind [Keeps, hostNop, finishCmd_keeps]
theorem groupWait_keeps (s : State) (t i : Nat) : Keeps s (groupWait s t i) := by
  grind [Keeps, groupWait, finishCmd_keeps, result_keeps]
theorem dropCmd_keeps (s : State) (t : Nat) (c : HostCmd) : Keeps s (dropCmd s t c) := by
  grind [Keeps, dropCmd, modTq_keeps]
theorem completionPost_keeps (s : State) (t : Nat) (ok : Bool) : Keeps s (completionPost s t ok) := by
  grind [Keeps, completionPost, dropCmd_keeps, queueError_keeps, raiseVector_keeps, emit_keeps, modTq_keeps]
theorem discardCmds_keeps (s : State) (t : Nat) : Keeps s (discardCmds s t) := by
  grind [Keeps, discardCmds, clearQueue_keeps, modTq_keeps]
theorem functionReset_keeps (s : State) (f : Nat) : Keeps s (functionReset s f) := by
  unfold functionReset; try dsimp only
  all_goals repeat' first | with_reducible exact Keeps.refl _ | (with_reducible apply Keeps.trans; rotate_left; with_reducible apply foldl_keeps; intro s x; try dsimp only) | (with_reducible apply Keeps.trans; rotate_left; with_reducible apply discardCmds_keeps) | (with_reducible apply Keeps.trans; rotate_left; with_reducible apply discardStages_keeps) | (with_reducible apply Keeps.trans; rotate_left; with_reducible apply dropAccesses_keeps) | (with_reducible apply Keeps.trans; rotate_left; with_reducible apply modHost_keeps) | split | grind [Keeps, discardCmds_keeps, discardStages_keeps, dropAccesses_keeps, modHost_keeps]
theorem portReset_keeps (s : State) : Keeps s (portReset s) := by
  unfold portReset; try dsimp only
  all_goals repeat' first | with_reducible exact Keeps.refl _ | (with_reducible apply Keeps.trans; rotate_left; with_reducible apply foldl_keeps; intro s x; try dsimp only) | (with_reducible apply Keeps.trans; rotate_left; with_reducible apply discardCmds_keeps) | (with_reducible apply Keeps.trans; rotate_left; with_reducible apply dropAccesses_keeps) | (with_reducible apply Keeps.trans; rotate_left; with_reducible apply modHost_keeps) | split | grind [Keeps, discardCmds_keeps, dropAccesses_keeps, modHost_keeps]
theorem linkUp_keeps (s : State) (rate width : Byte) (flit : Bool) : Keeps s (linkUp s rate width flit) := by
  grind [Keeps, linkUp, logEvent_keeps, modHost_keeps]
theorem flushMsix_keeps (s : State) (f : Nat) : Keeps s (flushMsix s f) := by
  unfold flushMsix; try dsimp only
  all_goals repeat' first | with_reducible exact Keeps.refl _ | (with_reducible apply Keeps.trans; rotate_left; with_reducible apply foldl_keeps; intro s x; try dsimp only) | (with_reducible apply Keeps.trans; rotate_left; with_reducible apply sendMsix_keeps) | split | grind [Keeps, sendMsix_keeps]
theorem writeVfEnable_keeps (s : State) (v : Bool) : Keeps s (writeVfEnable s v) := by
  unfold writeVfEnable; try dsimp only
  all_goals repeat' first | with_reducible exact Keeps.refl _ | (with_reducible apply Keeps.trans; rotate_left; with_reducible apply foldl_keeps; intro s x; try dsimp only) | (with_reducible apply Keeps.trans; rotate_left; with_reducible apply functionReset_keeps) | (with_reducible apply Keeps.trans; rotate_left; with_reducible apply modHost_keeps) | split | grind [Keeps, functionReset_keeps, modHost_keeps]
theorem writePowerState_keeps (s : State) (f v : Nat) : Keeps s (writePowerState s f v) := by
  grind [Keeps, writePowerState, functionReset_keeps, modFn_keeps]
theorem configWrite_keeps (s : State) (f : Nat) (r : ConfigReg) (v : Nat) : Keeps s (configWrite s f r v) := by
  unfold configWrite; try dsimp only
  all_goals repeat' first | with_reducible exact Keeps.refl _ | (with_reducible apply Keeps.trans; rotate_left; with_reducible apply foldl_keeps; intro s x; try dsimp only) | (with_reducible apply Keeps.trans; rotate_left; with_reducible apply writeVfEnable_keeps) | (with_reducible apply Keeps.trans; rotate_left; with_reducible apply writePowerState_keeps) | (with_reducible apply Keeps.trans; rotate_left; with_reducible apply flushMsix_keeps) | (with_reducible apply Keeps.trans; rotate_left; with_reducible apply modFn_keeps) | (with_reducible apply Keeps.trans; rotate_left; with_reducible apply modHost_keeps) | split | grind [Keeps, writeVfEnable_keeps, writePowerState_keeps, flushMsix_keeps, modFn_keeps, modHost_keeps, Mem.wf]
theorem configRequest_keeps (s : State) (f : Nat) (r : ConfigReg) (w : Option U32) : Keeps s (configRequest s f r w) := by
  unfold configRequest; try dsimp only
  all_goals repeat' first | with_reducible exact Keeps.refl _ | (with_reducible apply Keeps.trans; rotate_left; with_reducible apply foldl_keeps; intro s x; try dsimp only) | (with_reducible apply Keeps.trans; rotate_left; with_reducible apply configWrite_keeps) | (with_reducible apply Keeps.trans; rotate_left; with_reducible apply emit_keeps) | (with_reducible apply Keeps.trans; rotate_left; with_reducible apply useFree_keeps) | split | grind [Keeps, configWrite_keeps, emit_keeps, useFree_keeps]
theorem msixWrite_keeps (s : State) (f e d : Nat) (v : U32) : Keeps s (msixWrite s f e d v) := by
  grind [Keeps, msixWrite, sendMsix_keeps, modFn_keeps]
theorem bar4Read_keeps (s : State) (off n : Nat) : Keeps s (bar4Read s off n) := by
  grind [Keeps, bar4Read, physRead_keeps, emit_keeps, useFree_keeps]
theorem bar4Write_keeps (s : State) (off : Nat) (l : List Byte) : Keeps s (bar4Write s off l) := by
  grind [Keeps, bar4Write, physWrite_keeps, noticeWrite_keeps, Mem.wf]
theorem hostReadEnd_keeps (s : State) (req : Nat) (d : Option (List Byte)) : Keeps s (hostReadEnd s req d) := by
  grind [Keeps, hostReadEnd, takeEntry_keeps, queueError_keeps, dmaDeliver_keeps, dmaFail_keeps, modHost_keeps, modTq_keeps]
theorem hostReadCompletion_keeps (s : State) (req : Nat) (r : HostReadResult) : Keeps s (hostReadCompletion s req r) := by
  unfold hostReadCompletion; try dsimp only
  all_goals repeat' first | with_reducible exact Keeps.refl _ | (with_reducible apply Keeps.trans; rotate_left; with_reducible apply foldl_keeps; intro s x; try dsimp only) | (with_reducible apply Keeps.trans; rotate_left; with_reducible apply hostReadEnd_keeps) | split | grind [Keeps, hostReadEnd_keeps]
theorem execPcieLinkUp_keeps (rate width : Byte) (bothFlit : Bool) (s : State) : ∀ nxt, (execPcieLinkUp rate width bothFlit s) = .next nxt → Keeps s nxt := by
  grind [Keeps, execPcieLinkUp, linkUp_keeps]
theorem execConfigurationRequest_keeps (f : FnId) (reg : ConfigReg) (write : Option U32) (s : State) : ∀ nxt, (execConfigurationRequest f reg write s) = .next nxt → Keeps s nxt := by
  grind [Keeps, execConfigurationRequest, configRequest_keeps]
theorem execSubmissionTailDoorbell_keeps (page : DoorbellPage) (v : U32) (s : State) : ∀ nxt, (execSubmissionTailDoorbell page v s) = .next nxt → Keeps s nxt := by
  grind [Keeps, execSubmissionTailDoorbell, doorbell_keeps, tailWrite_keeps]
theorem execCompletionHeadDoorbell_keeps (page : DoorbellPage) (v : U32) (s : State) : ∀ nxt, (execCompletionHeadDoorbell page v s) = .next nxt → Keeps s nxt := by
  grind [Keeps, execCompletionHeadDoorbell, doorbell_keeps, headWrite_keeps]
theorem execSubmissionFetch_keeps (t : Tenant) (s : State) : ∀ nxt, (execSubmissionFetch t s) = .next nxt → Keeps s nxt := by
  grind [Keeps, execSubmissionFetch, submissionFetch_keeps]
theorem execHostCopy_keeps (t : Tenant) (h : HostBytes) (s : State) : ∀ nxt, (execHostCopy t h s) = .next nxt → Keeps s nxt := by
  grind [Keeps, execHostCopy, hostCopy_keeps]
theorem execHostNoOperation_keeps (t : Tenant) (s : State) : ∀ nxt, (execHostNoOperation t s) = .next nxt → Keeps s nxt := by
  grind [Keeps, execHostNoOperation, hostNop_keeps]
theorem execGroupWaitComplete_keeps (t : Tenant) (slot : U16) (s : State) : ∀ nxt, (execGroupWaitComplete t slot s) = .next nxt → Keeps s nxt := by
  grind [Keeps, execGroupWaitComplete, groupWait_keeps]
theorem execCompletionPost_keeps (t : Tenant) (writeOk : Bool) (s : State) : ∀ nxt, (execCompletionPost t writeOk s) = .next nxt → Keeps s nxt := by
  grind [Keeps, execCompletionPost, completionPost_keeps]
theorem execBar4Read_keeps (off : U64) (len : U16) (s : State) : ∀ nxt, (execBar4Read off len s) = .next nxt → Keeps s nxt := by
  grind [Keeps, execBar4Read, bar4Read_keeps]
theorem execBar4Write_keeps (off : U64) (bytes : List Byte) (s : State) : ∀ nxt, (execBar4Write off bytes s) = .next nxt → Keeps s nxt := by
  grind [Keeps, execBar4Write, bar4Write_keeps]
theorem execFunctionLevelReset_keeps (f : FnId) (s : State) : ∀ nxt, (execFunctionLevelReset f s) = .next nxt → Keeps s nxt := by
  grind [Keeps, execFunctionLevelReset, functionReset_keeps]
theorem execHostPortReset_keeps (_cause : HostResetCause) (s : State) : ∀ nxt, (execHostPortReset _cause s) = .next nxt → Keeps s nxt := by
  grind [Keeps, execHostPortReset, portReset_keeps]
theorem execMsiXTableWrite_keeps (f : FnId) (entry : U16) (dword : BitVec 2) (value : U32) (s : State) : ∀ nxt, (execMsiXTableWrite f entry dword value s) = .next nxt → Keeps s nxt := by
  grind [Keeps, execMsiXTableWrite, msixWrite_keeps]
theorem execHostReadCompletion_keeps (req : Nat) (r : HostReadResult) (s : State) : ∀ nxt, (execHostReadCompletion req r s) = .next nxt → Keeps s nxt := by
  grind [Keeps, execHostReadCompletion, hostReadCompletion_keeps]
theorem execCompletionTimeout_keeps (req : Nat) (s : State) : ∀ nxt, (execCompletionTimeout req s) = .next nxt → Keeps s nxt := by
  grind [Keeps, execCompletionTimeout, hostReadEnd_keeps]

/-! ### Machine/Slates.lean -/

theorem setSlate_keeps (s : State) (k : SlateSlot) (o : Option SlateOp) : Keeps s (setSlate s k o) := by
  grind [Keeps, setSlate, modSlate_keeps]
theorem writeWord_keeps (s : State) (step state status : Nat) : Keeps s (writeWord s step state status) := by
  grind [Keeps, writeWord, memPut_keeps, Mem.wf]
theorem endSlate_keeps (s : State) (k : SlateSlot) (status : Nat) : Keeps s (endSlate s k status) := by
  grind [Keeps, endSlate, setSlate_keeps, writeWord_keeps, finishCmd_keeps, result_keeps]
theorem endSlateHost_keeps (s : State) (k : SlateSlot) : Keeps s (endSlateHost s k) := by
  grind [Keeps, endSlateHost, finishCmd_keeps, setSlate_keeps]
theorem startSlate_keeps (s : State) (c : SlateCmd) (o : SlateOrigin) : Keeps s (startSlate s c o) := by
  grind [Keeps, startSlate, setSlate_keeps, modSlate_keeps, writeWord_keeps]
theorem hostSlate_keeps (s : State) (t : Nat) : Keeps s (hostSlate s t) := by
  grind [Keeps, hostSlate, finishCmd_keeps, startSlate_keeps, runCmd_keeps, result_keeps]
theorem wordSample_keeps (s : State) : Keeps s (wordSample s) := by
  grind [Keeps, wordSample, ownTry_keeps, writeWord_keeps, startSlate_keeps, Mem.wf]
theorem keeperClaim_keeps (s : State) (port : Nat) : Keeps s (keeperClaim s port) := by
  unfold keeperClaim; try dsimp only
  all_goals repeat' first | with_reducible exact Keeps.refl _ | (with_reducible apply Keeps.trans; rotate_left; with_reducible apply foldl_keeps; intro s x; try dsimp only) | (with_reducible apply Keeps.trans; rotate_left; with_reducible apply answer_keeps) | (with_reducible apply Keeps.trans; rotate_left; with_reducible apply modSlate_keeps) | refine Keeps.trans ?_ (takePacket_keeps _ _ _ _ _ (by assumption)) | split | grind [Keeps, takePacket_keeps, answer_keeps, modSlate_keeps]
theorem claimStatus_keeps (s : State) (port : Nat) : Keeps s (claimStatus s port) := by
  unfold claimStatus; try dsimp only
  all_goals repeat' first | with_reducible exact Keeps.refl _ | (with_reducible apply Keeps.trans; rotate_left; with_reducible apply foldl_keeps; intro s x; try dsimp only) | (with_reducible apply Keeps.trans; rotate_left; with_reducible apply takeOutstanding_keeps) | (with_reducible apply Keeps.trans; rotate_left; with_reducible apply setSlate_keeps) | (with_reducible apply Keeps.trans; rotate_left; with_reducible apply endSlate_keeps) | (with_reducible apply Keeps.trans; rotate_left; with_reducible apply modSlate_keeps) | refine Keeps.trans ?_ (takePacket_keeps _ _ _ _ _ (by assumption)) | refine Keeps.trans ?_ (Keeps.of_fst (takeOutstanding_keeps _ _) (by assumption)) | split | grind [Keeps, takePacket_keeps, takeOutstanding_keeps, setSlate_keeps, endSlate_keeps, modSlate_keeps]
theorem drainNotice_keeps (s : State) (port : Nat) : Keeps s (drainNotice s port) := by
  unfold drainNotice; try dsimp only
  all_goals repeat' first | with_reducible exact Keeps.refl _ | (with_reducible apply Keeps.trans; rotate_left; with_reducible apply foldl_keeps; intro s x; try dsimp only) | (with_reducible apply Keeps.trans; rotate_left; with_reducible apply modSlate_keeps) | refine Keeps.trans ?_ (takePacket_keeps _ _ _ _ _ (by assumption)) | split | grind [Keeps, takePacket_keeps, modSlate_keeps]
theorem slateRead_keeps (s : State) (a n : Nat) : Keeps s (slateRead s a n).1 := by
  grind [Keeps, slateRead, readAs_keeps]
theorem slateWrite_keeps (s : State) (a : Nat) (b : List Byte) : Keeps s (slateWrite s a b).1 := by
  grind [Keeps, slateWrite, writeAs_keeps]
theorem modOp_keeps (s : State) (k : SlateSlot) (f : SlateOp → SlateOp) : Keeps s (modOp s k f) := by
  grind [Keeps, modOp, setSlate_keeps]
theorem slateAsk_keeps (s : State) (k : SlateSlot) (dst op arg : Nat) (body : List Byte) (o : Nat → Outstanding) : Keeps s (slateAsk s k dst op arg body o) := by
  grind [Keeps, slateAsk, modOp_keeps, sendRequest_keeps]
theorem slateSend_keeps (s : State) (k off : Nat) (l : List Byte) : Keeps s (slateSend s k off l) := by
  grind [Keeps, slateSend, foldl_keeps, slateAsk_keeps, Mem.wf]
theorem slateWant_keeps (s : State) (q : SlateSlot) (k off n : Nat) : Keeps s (slateWant s q k off n) := by
  grind [Keeps, slateWant, foldl_keeps, slateAsk_keeps, slateRead_keeps, Mem.wf]
theorem sendExtents_keeps (s : State) (k base : Nat) (l : List Extent) : Keeps s (sendExtents s k base l).1 := by
  induction l generalizing s with
  | nil => exact Keeps.refl s
  | cons e l ih =>
    unfold sendExtents
    rcases hr : slateRead s e.source (e.count * elementSize e.content) with ⟨s1, b⟩
    have hk := Keeps.of_fst (slateRead_keeps _ _ _) hr
    cases b
    · exact hk
    · exact hk.trans ((slateSend_keeps ..).trans (ih _))
theorem takeTemplate_keeps (s : State) (o : SlateOp) : Keeps s (takeTemplate s o).1 := by
  unfold takeTemplate; dsimp only
  split
  · exact Keeps.refl s
  · rcases hr : slateRead s o.cmd.addr.toNat 128 with ⟨s1, b⟩
    have hk := Keeps.of_fst (slateRead_keeps _ _ _) hr
    cases b with
    | error e => exact hk
    | ok h =>
      dsimp only
      split
      · exact hk
      · rcases hr2 : slateRead s1 o.cmd.addr.toNat (128 + 32 * fieldAt h 0x1E 2) with ⟨s2, b⟩
        have hk2 := hk.trans (Keeps.of_fst (slateRead_keeps _ _ _) hr2)
        cases b with
        | error e => exact hk2
        | ok l => dsimp only; split <;> exact hk2
theorem sendClaim_keeps (s : State) (k : Nat) (o : SlateOp) : Keeps s (sendClaim s k o) := by
  grind [Keeps, sendClaim, setSlate_keeps, sendRequest_keeps]
theorem takeChoose_keeps (s : State) (k : Nat) (o : SlateOp) : Keeps s (takeChoose s k o) := by
  grind [Keeps, takeChoose, takeTemplate_keeps, endSlate_keeps, modOp_keeps, slateWant_keeps]
theorem takeOpen_keeps (s : State) (k : Nat) (o : SlateOp) : Keeps s (takeOpen s k o) := by
  grind [Keeps, takeOpen, slateSend_keeps, modOp_keeps]
theorem takeData_keeps (s : State) (k : Nat) (o : SlateOp) : Keeps s (takeData s k o) := by
  grind [Keeps, takeData, modOp_keeps, sendExtents_keeps, writeWord_keeps, endSlate_keeps]
theorem takeManifest_keeps (s : State) (k : Nat) (o : SlateOp) : Keeps s (takeManifest s k o) := by
  grind [Keeps, takeManifest, slateSend_keeps, modOp_keeps]
theorem takeClose_keeps (s : State) (k : Nat) (o : SlateOp) : Keeps s (takeClose s k o) := by
  grind [Keeps, takeClose, slateSend_keeps, modOp_keeps]
theorem takeEnd_keeps (s : State) (o : SlateOp) : Keeps s (takeEnd s o) := by
  grind [Keeps, takeEnd, endSlate_keeps, modSlate_keeps]
theorem slateTake_keeps (s : State) : Keeps s (slateTake s) := by
  grind [Keeps, slateTake, endSlate_keeps, sendClaim_keeps, takeChoose_keeps, takeOpen_keeps, takeData_keeps, takeManifest_keeps, takeClose_keeps, takeEnd_keeps]
theorem slateAck_keeps (s : State) (id n : Nat) : Keeps s (slateAck s id n) := by
  grind [Keeps, slateAck, modOp_keeps]
theorem slateData_keeps (s : State) (id off : Nat) (l : List Byte) : Keeps s (slateData s id off l) := by
  grind [Keeps, slateData, modOp_keeps]
theorem slateUnreachable_keeps (s : State) (id reason : Nat) : Keeps s (slateUnreachable s id reason) := by
  grind [Keeps, slateUnreachable, endSlate_keeps]
theorem onBytes_keeps (s : State) (a n : Nat) (bad : State → Nat → State) (good : State → List Byte → State)
    (hb : ∀ t e, Keeps t (bad t e)) (hg : ∀ t l, Keeps t (good t l)) : Keeps s (onBytes (slateRead s a n) bad good) := by
  have h := slateRead_keeps s a n
  rcases hq : slateRead s a n with ⟨u, x⟩
  rw [hq] at h
  cases x
  · exact Keeps.trans h (hb u _)
  · exact Keeps.trans h (hg u _)
theorem checkHeaders_keeps (s : State) : Keeps s (checkHeaders s).1 := by
  have hr : ∀ (t : State) (a n : Nat) (f : State → List Byte → State × Option Nat), (∀ u l p, f u l = p → Keeps u p.1) →
      ∀ p, onBytes (slateRead t a n) (fun s e => (s, some e)) f = p → Keeps t p.1 := by
    intro t a n f hf p hp
    have h := slateRead_keeps t a n
    rcases hq : slateRead t a n with ⟨u, x⟩
    rw [hq] at h hp
    subst hp
    cases x
    · exact h
    · exact Keeps.trans h (hf u _ _ rfl)
  generalize hp : checkHeaders s = p
  unfold checkHeaders at hp
  exact hr _ _ _ _ (fun u l q hq => hr _ _ _ _ (fun v _ r hv => by subst hv; exact Keeps.refl v) q hq) p hp
theorem stopDrain_keeps (s : State) (host st : Nat) : Keeps s (stopDrain s host st) := by
  grind [Keeps, stopDrain, endSlate_keeps, emit_keeps]
theorem drainGen_keeps (s : State) (o : SlateOp) (src g : Nat) : Keeps s (drainGen s o src g) := by
  unfold drainGen; dsimp only
  refine onBytes_keeps _ _ _ _ _ (fun t e => endSlate_keeps ..) (fun t m => ?_)
  generalize (if ((fieldAt (genHeader s g) 7 1).testBit 0 ||
    fieldAt (genHeader s g) 0x16 2 % 2 ^ 13 != fieldAt (genHeader s g) 0x10 2 % 2 ^ 13) = true then 0
    else extentsSize (manifestExtents m)) = n
  split
  · exact endSlate_keeps ..
  · split
    · exact endSlateHost_keeps ..
    · refine onBytes_keeps _ _ _ _ _ (fun t e => stopDrain_keeps ..) (fun t l => ?_)
      refine Keeps.trans ?_ (endSlate_keeps ..)
      refine Keeps.trans ?_ (sendPacket_keeps ..)
      refine Keeps.trans ?_ (logEvent_keeps ..)
      refine Keeps.trans ?_ (emit_keeps ..)
      refine Keeps.trans ?_ (emit_keeps ..)
      split
      · exact Keeps.refl _
      · exact emit_keeps ..
theorem slateDrain_keeps (s : State) : Keeps s (slateDrain s) := by
  unfold slateDrain; try dsimp only
  all_goals repeat' first | with_reducible exact Keeps.refl _ | (with_reducible apply Keeps.trans; rotate_left; with_reducible apply drainGen_keeps) | refine Keeps.trans ?_ (Keeps.of_fst (checkHeaders_keeps _) (by assumption)) | (with_reducible apply Keeps.trans; rotate_left; with_reducible apply checkHeaders_keeps) | (with_reducible apply Keeps.trans; rotate_left; with_reducible apply endSlate_keeps) | split | grind [Keeps, endSlate_keeps, checkHeaders_keeps, drainGen_keeps]
theorem restorePhase_keeps (s : State) (p : SlatePhase) (g : Nat) : Keeps s (restorePhase s p g) := by
  grind [Keeps, restorePhase, modOp_keeps]
theorem writeExtents_keeps (s : State) (o : SlateOp) (base : Nat) (l : List Extent) : Keeps s (writeExtents s o base l).1 := by
  induction l generalizing s with
  | nil => exact Keeps.refl s
  | cons e l ih =>
    unfold writeExtents; dsimp only
    have hk := slateWrite_keeps s e.source (widenBytes e (slateGot o (base + 2 ^ 20 + 64 * e.data) (storedSize e)))
    split <;> rename_i h <;> rw [h] at hk
    · exact hk
    · exact Keeps.trans hk (ih _)
theorem freeLent_keeps (s : State) : Keeps s (freeLent s) := by
  grind [Keeps, freeLent, modSlate_keeps]
theorem endClaim_keeps (s : State) (k : Nat) : Keeps s (endClaim s k) := by
  grind [Keeps, endClaim, modSlate_keeps]
theorem restoreEnd_keeps (s : State) (k : Nat) : Keeps s (restoreEnd s k) := by
  grind [Keeps, restoreEnd, endSlate_keeps, endClaim_keeps, freeLent_keeps]
theorem restoreDailies_keeps (s : State) : Keeps s (restoreDailies s) := by
  unfold restoreDailies; try dsimp only
  all_goals repeat' first | with_reducible exact Keeps.refl _ | (with_reducible apply Keeps.trans; rotate_left; with_reducible apply foldl_keeps; intro s x; try dsimp only) | (with_reducible apply Keeps.trans; rotate_left; with_reducible apply slateWant_keeps) | (with_reducible apply Keeps.trans; rotate_left; with_reducible apply restorePhase_keeps) | (with_reducible apply Keeps.trans; rotate_left; with_reducible apply endSlate_keeps) | (with_reducible apply Keeps.trans; rotate_left; with_reducible apply writeExtents_keeps) | (with_reducible apply Keeps.trans; rotate_left; with_reducible apply restoreEnd_keeps) | refine Keeps.trans ?_ (Keeps.of_fst (writeExtents_keeps _ _ _ _) (by assumption)) | split | grind [Keeps, slateWant_keeps, restorePhase_keeps, endSlate_keeps, writeExtents_keeps, restoreEnd_keeps]
theorem restoreExtent_keeps (s : State) (h : HostBytes) (x : RestoreItem) (e : Extent) : Keeps s (restoreExtent s h x e).1 := by
  grind [Keeps, restoreExtent, slateWrite_keeps]
theorem restoreItem_keeps (s : State) (h : HostBytes) (x : RestoreItem) (x0 : List Extent) : Keeps s (restoreItem s h x x0).1 := by
  fun_induction restoreItem s h x x0 <;> grind [Keeps, restoreItem, restoreExtent_keeps]
theorem restoreAllItems_keeps (s : State) (h : HostBytes) (x0 : List RestoreItem) : Keeps s (restoreAllItems s h x0).1 := by
  fun_induction restoreAllItems s h x0 <;> grind [Keeps, restoreAllItems, restoreItem_keeps]
theorem endRestore_keeps (s : State) (f : Option ItemFault) : Keeps s (endRestore s f) := by
  unfold endRestore; try dsimp only
  all_goals repeat' first | with_reducible exact Keeps.refl _ | (with_reducible apply Keeps.trans; rotate_left; with_reducible apply foldl_keeps; intro s x; try dsimp only) | (with_reducible apply Keeps.trans; rotate_left; with_reducible apply endSlate_keeps) | (with_reducible apply Keeps.trans; rotate_left; with_reducible apply endSlateHost_keeps) | split | grind [Keeps, endSlate_keeps, endSlateHost_keeps]
theorem restoreHost_keeps (s : State) (h : HostBytes) : Keeps s (restoreHost s h) := by
  unfold restoreHost
  rcases s.slate.restore with _ | o
  · exact Keeps.refl s
  · dsimp only
    split
    · exact Keeps.refl s
    · split
      · exact endSlate_keeps ..
      · rcases hr : slateRead s o.cmd.addr.toNat (32 * o.cmd.length.toNat) with ⟨s1, b⟩
        have hk := Keeps.of_fst (slateRead_keeps _ _ _) hr
        cases b with
        | error e => exact hk.trans (endSlate_keeps ..)
        | ok l =>
          dsimp only
          split
          · exact hk.trans (endSlateHost_keeps ..)
          · rcases itemsOk h (restoreItems l o.cmd.length.toNat) with e | e
            · exact hk.trans (endRestore_keeps ..)
            · exact hk.trans ((restoreAllItems_keeps ..).trans (endRestore_keeps ..))
theorem shardExtents_keeps (s : State) (h : HostBytes) (l : List (List Byte)) : Keeps s (shardExtents s h l).1 := by
  induction l generalizing s with
  | nil => exact Keeps.refl s
  | cons x l ih =>
    unfold shardExtents; dsimp only
    split
    · exact Keeps.refl s
    · split
      · exact Keeps.refl s
      · have hk := slateWrite_keeps s (fieldAt x 8 8) (hostBytes h (fieldAt x 0 8) (fieldAt x 0x10 8))
        split <;> rename_i h <;> rw [h] at hk
        · exact hk
        · exact Keeps.trans hk (ih _)
theorem emptyBanks_keeps (s : State) : Keeps s (emptyBanks s) := by
  grind [Keeps, emptyBanks, setBank_keeps]
theorem writeDirectories_keeps (s : State) (rec' : List Byte) (blocks : List (Nat × List Byte × List Byte)) : Keeps s (writeDirectories s rec' blocks) := by
  unfold writeDirectories; try dsimp only
  all_goals repeat' first | with_reducible exact Keeps.refl _ | (with_reducible apply Keeps.trans; rotate_left; with_reducible apply foldl_keeps; intro s x; try dsimp only) | (with_reducible apply Keeps.trans; rotate_left; with_reducible apply rawWrite_keeps) | (with_reducible apply Keeps.trans; rotate_left; with_reducible apply modReels_keeps) | split | grind [Keeps, rawWrite_keeps, modReels_keeps]
theorem shardBanks_keeps (s : State) (b : Bool) (reel : Option Nat) : Keeps s (shardBanks s b reel) := by
  unfold shardBanks; try dsimp only
  all_goals repeat' first | with_reducible exact Keeps.refl _ | (with_reducible apply Keeps.trans; rotate_left; with_reducible apply modReels_keeps) | (with_reducible apply Keeps.trans; rotate_left; with_reducible apply reelLatch_keeps) | (with_reducible apply Keeps.trans; rotate_left; with_reducible apply cueRelease_keeps) | (with_reducible apply Keeps.trans; rotate_left; with_reducible apply drainBanks_keeps) | (with_reducible apply Keeps.trans; rotate_left; with_reducible apply setBank_keeps) | (with_reducible apply Keeps.trans; rotate_left; with_reducible apply emptyBanks_keeps) | split | grind [Keeps, emptyBanks_keeps, setBank_keeps, drainBanks_keeps, cueRelease_keeps, reelLatch_keeps, modReels_keeps]
theorem shardBody_keeps (s : State) (h : HostBytes) (l : List Byte) (ext : List Byte) : Keeps s (shardBody s h l ext).1 := by
  grind [Keeps, shardBody, shardExtents_keeps, emptyBanks_keeps, shardBanks_keeps, writeDirectories_keeps, modSlate_keeps]
theorem shardLoad_keeps (s : State) (h : HostBytes) : Keeps s (shardLoad s h) := by
  grind [Keeps, shardLoad, endSlateHost_keeps, endSlate_keeps, shardBody_keeps, endRestore_keeps]
theorem releaseDailies_keeps (s : State) : Keeps s (releaseDailies s) := by
  grind [Keeps, releaseDailies, endSlate_keeps, ownWrite_keeps, endClaim_keeps, freeLent_keeps, Mem.wf]
theorem execHostSlateOperation_keeps (t : Tenant) (s : State) : ∀ nxt, (execHostSlateOperation t s) = .next nxt → Keeps s nxt := by
  grind [Keeps, execHostSlateOperation, hostSlate_keeps]
theorem execSlateWordSample_keeps (s : State) : ∀ nxt, (execSlateWordSample s) = .next nxt → Keeps s nxt := by
  grind [Keeps, execSlateWordSample, wordSample_keeps]
theorem execSlateTake_keeps (s : State) : ∀ nxt, (execSlateTake s) = .next nxt → Keeps s nxt := by
  grind [Keeps, execSlateTake, slateTake_keeps]
theorem execSlateDrain_keeps (s : State) : ∀ nxt, (execSlateDrain s) = .next nxt → Keeps s nxt := by
  grind [Keeps, execSlateDrain, slateDrain_keeps]
theorem execRestoreFromDailies_keeps (s : State) : ∀ nxt, (execRestoreFromDailies s) = .next nxt → Keeps s nxt := by
  grind [Keeps, execRestoreFromDailies, restoreDailies_keeps]
theorem execRestoreFromHost_keeps (h : HostBytes) (s : State) : ∀ nxt, (execRestoreFromHost h s) = .next nxt → Keeps s nxt := by
  grind [Keeps, execRestoreFromHost, restoreHost_keeps]
theorem execShardLoad_keeps (h : HostBytes) (s : State) : ∀ nxt, (execShardLoad h s) = .next nxt → Keeps s nxt := by
  grind [Keeps, execShardLoad, shardLoad_keeps]
theorem execReleaseDailies_keeps (s : State) : ∀ nxt, (execReleaseDailies s) = .next nxt → Keeps s nxt := by
  grind [Keeps, execReleaseDailies, releaseDailies_keeps]
theorem execDrainNotice_keeps (port : BitVec 5) (s : State) : ∀ nxt, (execDrainNotice port s) = .next nxt → Keeps s nxt := by
  grind [Keeps, execDrainNotice, drainNotice_keeps]
theorem execKeeperClaim_keeps (port : BitVec 5) (s : State) : ∀ nxt, (execKeeperClaim port s) = .next nxt → Keeps s nxt := by
  grind [Keeps, execKeeperClaim, keeperClaim_keeps]
theorem execClaimStatus_keeps (port : BitVec 5) (s : State) : ∀ nxt, (execClaimStatus port s) = .next nxt → Keeps s nxt := by
  grind [Keeps, execClaimStatus, claimStatus_keeps]

/-! ### Machine/Frame.lean -/

theorem cannot_keeps (s : State) (p : Packet) (e : MemErr) : Keeps s (cannot s p e) := by
  grind [Keeps, cannot, undeliverable_keeps]
theorem sendStatus_keeps (s : State) (p : Packet) (v : Nat) : Keeps s (sendStatus s p v) := by
  grind [Keeps, sendStatus, answer_keeps]
theorem messagePacket_keeps (s : State) (port : Nat) : Keeps s (messagePacket s port) := by
  unfold messagePacket; try dsimp only
  all_goals repeat' first | with_reducible exact Keeps.refl _ | (with_reducible apply Keeps.trans; rotate_left; with_reducible apply foldl_keeps; intro s x; try dsimp only) | (with_reducible apply Keeps.trans; rotate_left; with_reducible apply placeMsg_keeps) | (with_reducible apply Keeps.trans; rotate_left; with_reducible apply sendStatus_keeps) | refine Keeps.trans ?_ (takePacket_keeps _ _ _ _ _ (by assumption)) | refine Keeps.trans ?_ (Keeps.of_fst (placeMsg_keeps _ _ _ _) (by assumption)) | split | grind [Keeps, takePacket_keeps, placeMsg_keeps, sendStatus_keeps]
theorem tileWritePacket_keeps (s : State) (port : Nat) : Keeps s (tileWritePacket s port) := by
  unfold tileWritePacket; try dsimp only
  all_goals repeat' first | with_reducible exact Keeps.refl _ | (with_reducible apply Keeps.trans; rotate_left; with_reducible apply cannot_keeps) | refine Keeps.trans ?_ (Keeps.of_fst (physWrite_keeps _ _ _ _ _) (by assumption)) | (with_reducible apply Keeps.trans; rotate_left; with_reducible apply physWrite_keeps) | (with_reducible apply Keeps.trans; rotate_left; with_reducible apply sendStatus_keeps) | split | grind [Keeps, takePacket_keeps, sendStatus_keeps, physWrite_keeps, cannot_keeps]
theorem reservePacket_keeps (s : State) (port : Nat) : Keeps s (reservePacket s port) := by
  unfold reservePacket; try dsimp only
  all_goals repeat' first | with_reducible exact Keeps.refl _ | (with_reducible apply Keeps.trans; rotate_left; with_reducible apply foldl_keeps; intro s x; try dsimp only) | (with_reducible apply Keeps.trans; rotate_left; with_reducible apply reserveSlot_keeps) | (with_reducible apply Keeps.trans; rotate_left; with_reducible apply sendStatus_keeps) | refine Keeps.trans ?_ (takePacket_keeps _ _ _ _ _ (by assumption)) | refine Keeps.trans ?_ (Keeps.of_fst (reserveSlot_keeps _ _ _ _ _ _ _) (by assumption)) | split | grind [Keeps, takePacket_keeps, reserveSlot_keeps, sendStatus_keeps]
theorem unreservePacket_keeps (s : State) (port : Nat) : Keeps s (unreservePacket s port) := by
  unfold unreservePacket; try dsimp only
  all_goals repeat' first | with_reducible exact Keeps.refl _ | (with_reducible apply Keeps.trans; rotate_left; with_reducible apply foldl_keeps; intro s x; try dsimp only) | (with_reducible apply Keeps.trans; rotate_left; with_reducible apply sendStatus_keeps) | (with_reducible apply Keeps.trans; rotate_left; with_reducible apply freeSlot_keeps) | refine Keeps.trans ?_ (takePacket_keeps _ _ _ _ _ (by assumption)) | split | grind [Keeps, takePacket_keeps, sendStatus_keeps, freeSlot_keeps]
theorem readPacket_keeps (s : State) (port : Nat) : Keeps s (readPacket s port) := by
  unfold readPacket; try dsimp only
  all_goals repeat' first | with_reducible exact Keeps.refl _ | (with_reducible apply Keeps.trans; rotate_left; with_reducible apply answer_keeps) | refine Keeps.trans ?_ (Keeps.of_fst (readAs_keeps _ _ _ _ _ _) (by assumption)) | (with_reducible apply Keeps.trans; rotate_left; with_reducible apply readAs_keeps) | (with_reducible apply Keeps.trans; rotate_left; with_reducible apply cannot_keeps) | split | grind [Keeps, takePacket_keeps, cannot_keeps, readAs_keeps, answer_keeps]
theorem writePacket_keeps (s0 : State) (port : Nat) : Keeps s0 (writePacket s0 port) := by
  unfold writePacket; try dsimp only
  all_goals repeat' first | with_reducible exact Keeps.refl _ | refine Keeps.trans ?_ (Keeps.of_fst (writeAs_keeps _ _ _ _ _ _) (by assumption)) | (with_reducible apply Keeps.trans; rotate_left; with_reducible apply writeAs_keeps) | (with_reducible apply Keeps.trans; rotate_left; with_reducible apply recordArrives_keeps) | (with_reducible apply Keeps.trans; rotate_left; with_reducible apply cannot_keeps) | (with_reducible apply Keeps.trans; rotate_left; with_reducible apply answer_keeps) | split | grind [Keeps, takePacket_keeps, answer_keeps, cannot_keeps, recordArrives_keeps, writeAs_keeps]
theorem answered_keeps (s : State) (c tag : Nat) : Keeps s (answered s c tag) := by
  grind [Keeps, answered, modCore_keeps]
theorem statusResult_keeps (s : State) (c tag d v : Nat) : Keeps s (statusResult s c tag d v) := by
  grind [Keeps, statusResult, answered_keeps, modCore_keeps]
theorem unbumpSeq_keeps (s : State) (c pkg dst mb : Nat) : Keeps s (unbumpSeq s c pkg dst mb) := by
  grind [Keeps, unbumpSeq, modNet_keeps]
theorem sendStatusPacket_keeps (s : State) (port : Nat) : Keeps s (sendStatusPacket s port) := by
  unfold sendStatusPacket; try dsimp only
  all_goals repeat' first | with_reducible exact Keeps.refl _ | (with_reducible apply Keeps.trans; rotate_left; with_reducible apply foldl_keeps; intro s x; try dsimp only) | (with_reducible apply Keeps.trans; rotate_left; with_reducible apply takeOutstanding_keeps) | (with_reducible apply Keeps.trans; rotate_left; with_reducible apply tileAnswer_keeps) | (with_reducible apply Keeps.trans; rotate_left; with_reducible apply statusResult_keeps) | (with_reducible apply Keeps.trans; rotate_left; with_reducible apply addResv_keeps) | (with_reducible apply Keeps.trans; rotate_left; with_reducible apply dropResv_keeps) | (with_reducible apply Keeps.trans; rotate_left; with_reducible apply unbumpSeq_keeps) | (with_reducible apply Keeps.trans; rotate_left; with_reducible apply answered_keeps) | refine Keeps.trans ?_ (takePacket_keeps _ _ _ _ _ (by assumption)) | refine Keeps.trans ?_ (Keeps.of_fst (takeOutstanding_keeps _ _) (by assumption)) | split | grind [Keeps, takePacket_keeps, takeOutstanding_keeps, tileAnswer_keeps, statusResult_keeps, addResv_keeps, dropResv_keeps, unbumpSeq_keeps, answered_keeps]
theorem readDataPacket_keeps (s : State) (port : Nat) : Keeps s (readDataPacket s port) := by
  unfold readDataPacket; try dsimp only
  all_goals repeat' first | with_reducible exact Keeps.refl _ | (with_reducible apply Keeps.trans; rotate_left; with_reducible apply foldl_keeps; intro s x; try dsimp only) | (with_reducible apply Keeps.trans; rotate_left; with_reducible apply takeOutstanding_keeps) | (with_reducible apply Keeps.trans; rotate_left; with_reducible apply answered_keeps) | (with_reducible apply Keeps.trans; rotate_left; with_reducible apply dmaDeliver_keeps) | (with_reducible apply Keeps.trans; rotate_left; with_reducible apply slateRead_keeps) | (with_reducible apply Keeps.trans; rotate_left; with_reducible apply slateData_keeps) | (with_reducible apply Keeps.trans; rotate_left; with_reducible apply modCore_keeps) | refine Keeps.trans ?_ (takePacket_keeps _ _ _ _ _ (by assumption)) | refine Keeps.trans ?_ (Keeps.of_fst (takeOutstanding_keeps _ _) (by assumption)) | refine Keeps.trans ?_ (Keeps.of_fst (slateRead_keeps _ _ _) (by assumption)) | split | grind [Keeps, takePacket_keeps, takeOutstanding_keeps, answered_keeps, dmaDeliver_keeps, slateRead_keeps, slateData_keeps, modCore_keeps]
theorem writeDonePacket_keeps (s : State) (port : Nat) : Keeps s (writeDonePacket s port) := by
  unfold writeDonePacket; try dsimp only
  all_goals repeat' first | with_reducible exact Keeps.refl _ | (with_reducible apply Keeps.trans; rotate_left; with_reducible apply slateAck_keeps) | (with_reducible apply Keeps.trans; rotate_left; with_reducible apply dmaPart_keeps) | (with_reducible apply Keeps.trans; rotate_left; with_reducible apply answered_keeps) | refine Keeps.trans ?_ (Keeps.of_fst (takeOutstanding_keeps _ _) (by assumption)) | (with_reducible apply Keeps.trans; rotate_left; with_reducible apply takeOutstanding_keeps) | (with_reducible apply Keeps.trans; rotate_left; with_reducible apply framePerformed_keeps) | split | grind [Keeps, takePacket_keeps, framePerformed_keeps, takeOutstanding_keeps, answered_keeps, dmaPart_keeps, slateAck_keeps]
theorem noticeAnswered_keeps (s : State) (tag pkg : Nat) : Keeps s (noticeAnswered s tag pkg) := by
  grind [Keeps, noticeAnswered]
theorem goneAnswered_keeps (s : State) (t pkg : Nat) : Keeps s (goneAnswered s t pkg) := by
  grind [Keeps, goneAnswered, modTq_keeps]
theorem frameReturned_keeps (s : State) (arg : Nat) : Keeps s (frameReturned s arg) := by
  grind [Keeps, frameReturned, setPushState_keeps]
theorem transferLost_keeps (s : State) (c tag target arg reason : Nat) (k : RemoteKind) : Keeps s (transferLost s c tag target arg reason k) := by
  unfold transferLost; try dsimp only
  all_goals repeat' first | with_reducible exact Keeps.refl _ | (with_reducible apply Keeps.trans; rotate_left; with_reducible apply dmaFail_keeps) | (with_reducible apply Keeps.trans; rotate_left; with_reducible apply memFault_keeps) | split | grind [Keeps, memFault_keeps, dmaFail_keeps, Mem.wf]
theorem undeliverablePacket_keeps (s : State) (port : Nat) : Keeps s (undeliverablePacket s port) := by
  unfold undeliverablePacket; try dsimp only
  all_goals repeat' first | with_reducible exact Keeps.refl _ | (with_reducible apply Keeps.trans; rotate_left; with_reducible apply foldl_keeps; intro s x; try dsimp only) | (with_reducible apply Keeps.trans; rotate_left; with_reducible apply frameReturned_keeps) | (with_reducible apply Keeps.trans; rotate_left; with_reducible apply takeOutstanding_keeps) | (with_reducible apply Keeps.trans; rotate_left; with_reducible apply transferLost_keeps) | (with_reducible apply Keeps.trans; rotate_left; with_reducible apply ringPump_keeps) | (with_reducible apply Keeps.trans; rotate_left; with_reducible apply recordReturned_keeps) | (with_reducible apply Keeps.trans; rotate_left; with_reducible apply ringAsk_keeps) | (with_reducible apply Keeps.trans; rotate_left; with_reducible apply slateUnreachable_keeps) | (with_reducible apply Keeps.trans; rotate_left; with_reducible apply slateRead_keeps) | (with_reducible apply Keeps.trans; rotate_left; with_reducible apply noticeAnswered_keeps) | (with_reducible apply Keeps.trans; rotate_left; with_reducible apply goneAnswered_keeps) | (with_reducible apply Keeps.trans; rotate_left; with_reducible apply modRing_keeps) | refine Keeps.trans ?_ (takePacket_keeps _ _ _ _ _ (by assumption)) | refine Keeps.trans ?_ (Keeps.of_fst (takeOutstanding_keeps _ _) (by assumption)) | refine Keeps.trans ?_ (Keeps.of_fst (slateRead_keeps _ _ _) (by assumption)) | split | grind [Keeps, takePacket_keeps, frameReturned_keeps, takeOutstanding_keeps, transferLost_keeps, ringPump_keeps, recordReturned_keeps, ringAsk_keeps, slateUnreachable_keeps, slateRead_keeps, noticeAnswered_keeps, goneAnswered_keeps, modRing_keeps]
theorem revokeTag_keeps (s : State) (tag : Nat) : Keeps s (revokeTag s tag) := by
  grind [Keeps, revokeTag, revokeHomes_keeps, revokeReelSource_keeps, modSlate_keeps]
theorem revocationNotice_keeps (s : State) (port : Nat) : Keeps s (revocationNotice s port) := by
  unfold revocationNotice; try dsimp only
  all_goals repeat' first | with_reducible exact Keeps.refl _ | (with_reducible apply Keeps.trans; rotate_left; with_reducible apply foldl_keeps; intro s x; try dsimp only) | (with_reducible apply Keeps.trans; rotate_left; with_reducible apply answer_keeps) | (with_reducible apply Keeps.trans; rotate_left; with_reducible apply revokeTag_keeps) | refine Keeps.trans ?_ (takePacket_keeps _ _ _ _ _ (by assumption)) | split | grind [Keeps, takePacket_keeps, answer_keeps, revokeTag_keeps]
theorem revocationAck_keeps (s : State) (port : Nat) : Keeps s (revocationAck s port) := by
  unfold revocationAck; try dsimp only
  all_goals repeat' first | with_reducible exact Keeps.refl _ | (with_reducible apply Keeps.trans; rotate_left; with_reducible apply foldl_keeps; intro s x; try dsimp only) | (with_reducible apply Keeps.trans; rotate_left; with_reducible apply noticeAnswered_keeps) | (with_reducible apply Keeps.trans; rotate_left; with_reducible apply takeOutstanding_keeps) | refine Keeps.trans ?_ (takePacket_keeps _ _ _ _ _ (by assumption)) | refine Keeps.trans ?_ (Keeps.of_fst (takeOutstanding_keeps _ _) (by assumption)) | split | grind [Keeps, takePacket_keeps, noticeAnswered_keeps, takeOutstanding_keeps]
theorem goneNotice_keeps (s : State) (port : Nat) : Keeps s (goneNotice s port) := by
  unfold goneNotice; try dsimp only
  all_goals repeat' first | with_reducible exact Keeps.refl _ | (with_reducible apply Keeps.trans; rotate_left; with_reducible apply foldl_keeps; intro s x; try dsimp only) | (with_reducible apply Keeps.trans; rotate_left; with_reducible apply faultGroups_keeps) | (with_reducible apply Keeps.trans; rotate_left; with_reducible apply dropHeld_keeps) | (with_reducible apply Keeps.trans; rotate_left; with_reducible apply revokeHomes_keeps) | (with_reducible apply Keeps.trans; rotate_left; with_reducible apply answer_keeps) | refine Keeps.trans ?_ (takePacket_keeps _ _ _ _ _ (by assumption)) | split | grind [Keeps, takePacket_keeps, faultGroups_keeps, dropHeld_keeps, revokeHomes_keeps, answer_keeps]
theorem goneAck_keeps (s : State) (port : Nat) : Keeps s (goneAck s port) := by
  unfold goneAck; try dsimp only
  all_goals repeat' first | with_reducible exact Keeps.refl _ | (with_reducible apply Keeps.trans; rotate_left; with_reducible apply foldl_keeps; intro s x; try dsimp only) | (with_reducible apply Keeps.trans; rotate_left; with_reducible apply goneAnswered_keeps) | (with_reducible apply Keeps.trans; rotate_left; with_reducible apply takeOutstanding_keeps) | refine Keeps.trans ?_ (takePacket_keeps _ _ _ _ _ (by assumption)) | refine Keeps.trans ?_ (Keeps.of_fst (takeOutstanding_keeps _ _) (by assumption)) | split | grind [Keeps, takePacket_keeps, goneAnswered_keeps, takeOutstanding_keeps]
theorem execMessagePacket_keeps (port : BitVec 5) (s : State) : ∀ nxt, (execMessagePacket port s) = .next nxt → Keeps s nxt := by
  grind [Keeps, execMessagePacket, messagePacket_keeps]
theorem execTileWritePacket_keeps (port : BitVec 5) (s : State) : ∀ nxt, (execTileWritePacket port s) = .next nxt → Keeps s nxt := by
  grind [Keeps, execTileWritePacket, tileWritePacket_keeps]
theorem execReservePacket_keeps (port : BitVec 5) (s : State) : ∀ nxt, (execReservePacket port s) = .next nxt → Keeps s nxt := by
  grind [Keeps, execReservePacket, reservePacket_keeps]
theorem execUnreservePacket_keeps (port : BitVec 5) (s : State) : ∀ nxt, (execUnreservePacket port s) = .next nxt → Keeps s nxt := by
  grind [Keeps, execUnreservePacket, unreservePacket_keeps]
theorem execSendStatusPacket_keeps (port : BitVec 5) (s : State) : ∀ nxt, (execSendStatusPacket port s) = .next nxt → Keeps s nxt := by
  grind [Keeps, execSendStatusPacket, sendStatusPacket_keeps]
theorem execReadPacket_keeps (port : BitVec 5) (s : State) : ∀ nxt, (execReadPacket port s) = .next nxt → Keeps s nxt := by
  grind [Keeps, execReadPacket, readPacket_keeps]
theorem execWritePacket_keeps (port : BitVec 5) (s : State) : ∀ nxt, (execWritePacket port s) = .next nxt → Keeps s nxt := by
  grind [Keeps, execWritePacket, writePacket_keeps]
theorem execReadDataPacket_keeps (port : BitVec 5) (s : State) : ∀ nxt, (execReadDataPacket port s) = .next nxt → Keeps s nxt := by
  grind [Keeps, execReadDataPacket, readDataPacket_keeps]
theorem execWriteDonePacket_keeps (port : BitVec 5) (s : State) : ∀ nxt, (execWriteDonePacket port s) = .next nxt → Keeps s nxt := by
  grind [Keeps, execWriteDonePacket, writeDonePacket_keeps]
theorem execUndeliverablePacket_keeps (port : BitVec 5) (s : State) : ∀ nxt, (execUndeliverablePacket port s) = .next nxt → Keeps s nxt := by
  grind [Keeps, execUndeliverablePacket, undeliverablePacket_keeps]
theorem execRevocationNotice_keeps (port : BitVec 5) (s : State) : ∀ nxt, (execRevocationNotice port s) = .next nxt → Keeps s nxt := by
  grind [Keeps, execRevocationNotice, revocationNotice_keeps]
theorem execRevocationAcknowledgement_keeps (port : BitVec 5) (s : State) : ∀ nxt, (execRevocationAcknowledgement port s) = .next nxt → Keeps s nxt := by
  grind [Keeps, execRevocationAcknowledgement, revocationAck_keeps]
theorem execTenantGoneNotice_keeps (port : BitVec 5) (s : State) : ∀ nxt, (execTenantGoneNotice port s) = .next nxt → Keeps s nxt := by
  grind [Keeps, execTenantGoneNotice, goneNotice_keeps]
theorem execTenantGoneAcknowledgement_keeps (port : BitVec 5) (s : State) : ∀ nxt, (execTenantGoneAcknowledgement port s) = .next nxt → Keeps s nxt := by
  grind [Keeps, execTenantGoneAcknowledgement, goneAck_keeps]

end Sys2Proof.Machine
end

