-- ==== Sys2Proof/Laws/KeepsPorts.lean ====
section
/-! SUPPORT. One lemma for each operation over the dictionary, its carriers and the life cycle: it keeps the queue, the fuses and the form of
memory (`_keeps`), or lets the fuses only advance (`_grows`). -/
set_option Elab.async false
set_option linter.all false

namespace Sys2Proof.Machine

/-! ### Machine/DictBase.lean -/

theorem respondSlot_keeps (s : State) (w n : Nat) (r : Response) : Keeps s (respondSlot s w n r) := by
  grind [Keeps, respondSlot, raiseVector_keeps, modWin_keeps]
theorem groupControlled_keeps (s : State) (t : Nat) (c : HostCmd) (code : Nat) : Keeps s (groupControlled s t c code) := by
  grind [Keeps, groupControlled, finishCmd_keeps, result_keeps]
theorem respondCommand_keeps (s : State) (t i : Nat) (r : Response) : Keeps s (respondCommand s t i r) := by
  grind [Keeps, respondCommand, result_keeps, groupControlled_keeps, finishCmd_keeps, emit_keeps]
theorem respondCan_keeps (s : State) (id : BitVec 29) (r : Response) : Keeps s (respondCan s id r) := by
  grind [Keeps, respondCan, canSendFd_keeps, modCan_keeps]
theorem respond_keeps (s : State) (c : Carrier) (r : Response) : Keeps s (respond s c r) := by
  unfold respond; try dsimp only
  all_goals repeat' first | with_reducible exact Keeps.refl _ | (with_reducible apply Keeps.trans; rotate_left; with_reducible apply foldl_keeps; intro s x; try dsimp only) | (with_reducible apply Keeps.trans; rotate_left; with_reducible apply respondSlot_keeps) | (with_reducible apply Keeps.trans; rotate_left; with_reducible apply respondCommand_keeps) | (with_reducible apply Keeps.trans; rotate_left; with_reducible apply respondCan_keeps) | (with_reducible apply Keeps.trans; rotate_left; with_reducible apply modDict_keeps) | (with_reducible apply Keeps.trans; rotate_left; with_reducible apply modSpi_keeps) | split | grind [Keeps, respondSlot_keeps, respondCommand_keeps, respondCan_keeps, modDict_keeps, modSpi_keeps]
theorem cancelAccesses_keeps (s : State) (p : DictPath → Bool) : Keeps s (cancelAccesses s p) := by
  unfold cancelAccesses; try dsimp only
  all_goals repeat' first | with_reducible exact Keeps.refl _ | (with_reducible apply Keeps.trans; rotate_left; with_reducible apply foldl_keeps; intro s x; try dsimp only) | (with_reducible apply Keeps.trans; rotate_left; with_reducible apply respond_keeps) | (with_reducible apply Keeps.trans; rotate_left; with_reducible apply cutAwaiting_keeps) | (with_reducible apply Keeps.trans; rotate_left; with_reducible apply modDict_keeps) | split | grind [Keeps, respond_keeps, cutAwaiting_keeps, modDict_keeps]

/-! ### Machine/TenantReset.lean -/

theorem cancelCommands_keeps (s : State) (t : Nat) : Keeps s (cancelCommands s t) := by
  unfold cancelCommands; try dsimp only
  all_goals repeat' first | with_reducible exact Keeps.refl _ | (with_reducible apply Keeps.trans; rotate_left; with_reducible apply foldl_keeps; intro s x; try dsimp only) | (with_reducible apply Keeps.trans; rotate_left; with_reducible apply finishCmd_keeps) | split | grind [Keeps, finishCmd_keeps]
theorem sendGone_keeps (s : State) (t : Nat) (pkgs : List Nat) : Keeps s (sendGone s t pkgs) := by
  unfold sendGone; try dsimp only
  all_goals repeat' first | with_reducible exact Keeps.refl _ | (with_reducible apply Keeps.trans; rotate_left; with_reducible apply foldl_keeps; intro s x; try dsimp only) | (with_reducible apply Keeps.trans; rotate_left; with_reducible apply sendPacket_keeps) | (with_reducible apply Keeps.trans; rotate_left; with_reducible apply takeTag_keeps) | split | grind [Keeps, sendPacket_keeps, takeTag_keeps]
theorem dropTraffic_keeps (s : State) (t : Nat) : Keeps s (dropTraffic s t) := by
  unfold dropTraffic; try dsimp only
  all_goals repeat' first | with_reducible exact Keeps.refl _ | (with_reducible apply Keeps.trans; rotate_left; with_reducible apply foldl_keeps; intro s x; try dsimp only) | (with_reducible apply Keeps.trans; rotate_left; with_reducible apply freeBuffer_keeps) | (with_reducible apply Keeps.trans; rotate_left; with_reducible apply modNet_keeps) | split | grind [Keeps, freeBuffer_keeps, modNet_keeps]
theorem tenantReset_keeps (s : State) (t : Nat) : Keeps s (tenantReset s t) := by
  unfold tenantReset; try dsimp only
  all_goals repeat' first | with_reducible exact Keeps.refl _ | (with_reducible apply Keeps.trans; rotate_left; with_reducible apply foldl_keeps; intro s x; try dsimp only) | (with_reducible apply Keeps.trans; rotate_left; with_reducible apply settleDomains_keeps) | (with_reducible apply Keeps.trans; rotate_left; with_reducible apply serveLatch_keeps) | (with_reducible apply Keeps.trans; rotate_left; with_reducible apply abortGroup_keeps) | (with_reducible apply Keeps.trans; rotate_left; with_reducible apply cancelCommands_keeps) | (with_reducible apply Keeps.trans; rotate_left; with_reducible apply clearQueue_keeps) | (with_reducible apply Keeps.trans; rotate_left; with_reducible apply cancelAccesses_keeps) | (with_reducible apply Keeps.trans; rotate_left; with_reducible apply discardStages_keeps) | (with_reducible apply Keeps.trans; rotate_left; with_reducible apply dropTraffic_keeps) | (with_reducible apply Keeps.trans; rotate_left; with_reducible apply sendGone_keeps) | (with_reducible apply Keeps.trans; rotate_left; with_reducible apply modTq_keeps) | split | grind [Keeps, settleDomains_keeps, serveLatch_keeps, abortGroup_keeps, cancelCommands_keeps, clearQueue_keeps, cancelAccesses_keeps, discardStages_keeps, dropTraffic_keeps, sendGone_keeps, modTq_keeps]
theorem closeStreams_keeps (s : State) (t : Nat) : Keeps s (closeStreams s t) := by
  unfold closeStreams; try dsimp only
  all_goals repeat' first | with_reducible exact Keeps.refl _ | (with_reducible apply Keeps.trans; rotate_left; with_reducible apply foldl_keeps; intro s x; try dsimp only) | (with_reducible apply Keeps.trans; rotate_left; with_reducible apply closeTracker_keeps) | split | grind [Keeps, closeTracker_keeps]
theorem tenantAcked_keeps (s : State) (t : Nat) : Keeps s (tenantAcked s t) := by
  grind [Keeps, tenantAcked, revokeHomes_keeps, dropHeld_keeps, closeStreams_keeps, modTq_keeps]
theorem tenantTimeout_keeps (s : State) (t : Nat) : Keeps s (tenantTimeout s t) := by
  unfold tenantTimeout; try dsimp only
  all_goals repeat' first | with_reducible exact Keeps.refl _ | (with_reducible apply Keeps.trans; rotate_left; with_reducible apply foldl_keeps; intro s x; try dsimp only) | (with_reducible apply Keeps.trans; rotate_left; with_reducible apply logEvent_keeps) | (with_reducible apply Keeps.trans; rotate_left; with_reducible apply useFree_keeps) | (with_reducible apply Keeps.trans; rotate_left; with_reducible apply modTq_keeps) | split | grind [Keeps, logEvent_keeps, useFree_keeps, modTq_keeps]
theorem wipeGranule_keeps (spare : List (Nat × Nat)) (s : State) (g : Nat × Nat) : Keeps s (wipeGranule spare s g) := by
  grind [Keeps, wipeGranule, wipeExcept_keeps, Mem.wf]
theorem tenantDefaults_keeps (s : State) (t : Nat) : Keeps s (tenantDefaults s t) := by
  grind [Keeps, tenantDefaults, modDict_keeps]
theorem tenantDone_keeps (s : State) (t : Nat) : Keeps s (tenantDone s t) := by
  unfold tenantDone; try dsimp only
  all_goals repeat' first | with_reducible exact Keeps.refl _ | (with_reducible apply Keeps.trans; rotate_left; with_reducible apply foldl_keeps; intro s x; try dsimp only) | (with_reducible apply Keeps.trans; rotate_left; with_reducible apply tenantDefaults_keeps) | (with_reducible apply Keeps.trans; rotate_left; with_reducible apply modTq_keeps) | (with_reducible apply Keeps.trans; rotate_left; with_reducible apply logEvent_keeps) | (with_reducible apply Keeps.trans; rotate_left; with_reducible apply modGaffer_keeps) | (with_reducible apply Keeps.trans; rotate_left; with_reducible apply wipeGranule_keeps) | (with_reducible apply Keeps.trans; rotate_left; with_reducible apply emptyBoxes_keeps) | (with_reducible apply Keeps.trans; rotate_left; with_reducible apply wipe_keeps) | split | grind [Keeps, wipe_keeps, emptyBoxes_keeps, wipeGranule_keeps, modGaffer_keeps, logEvent_keeps, modTq_keeps, tenantDefaults_keeps]
theorem execTenantResetAcksComplete_keeps (t : Tenant) (s : State) : ∀ nxt, (execTenantResetAcksComplete t s) = .next nxt → Keeps s nxt := by
  grind [Keeps, execTenantResetAcksComplete, tenantAcked_keeps]
theorem execTenantResetAckTimeout_keeps (t : Tenant) (s : State) : ∀ nxt, (execTenantResetAckTimeout t s) = .next nxt → Keeps s nxt := by
  grind [Keeps, execTenantResetAckTimeout, tenantTimeout_keeps]
theorem execTenantResetComplete_keeps (t : Tenant) (s : State) : ∀ nxt, (execTenantResetComplete t s) = .next nxt → Keeps s nxt := by
  grind [Keeps, execTenantResetComplete, tenantDone_keeps]

/-! ### Machine/FieldBus.lean -/

theorem sendHeartbeat_keeps (s : State) (time : Nat) : Keeps s (sendHeartbeat s time) := by
  grind [Keeps, sendHeartbeat, canSendFd_keeps, modCan_keeps]
theorem canActive_keeps (s : State) : Keeps s (canActive s) := by
  grind [Keeps, canActive, setReady_keeps, sendHeartbeat_keeps, modCan_keeps, useFree_keeps]
theorem canLocked_keeps (s : State) (nominal data : Nat) : Keeps s (canLocked s nominal data) := by
  grind [Keeps, canLocked, logEvent_keeps, canActive_keeps, modCan_keeps]
theorem canSearch_keeps (s : State) : Keeps s (canSearch s) := by
  grind [Keeps, canSearch, canLocked_keeps, modCan_keeps]
theorem canExit_keeps (s : State) : Keeps s (canExit s) := by
  grind [Keeps, canExit, canSearch_keeps, modPins_keeps]
theorem nominalFrame_keeps (s : State) (valid brs : Bool) : Keeps s (nominalFrame s valid brs) := by
  grind [Keeps, nominalFrame, canLocked_keeps, modCan_keeps]
theorem dataFrame_keeps (s : State) (valid brs : Bool) : Keeps s (dataFrame s valid brs) := by
  unfold dataFrame; try dsimp only
  all_goals repeat' first | with_reducible exact Keeps.refl _ | (with_reducible apply Keeps.trans; rotate_left; with_reducible apply foldl_keeps; intro s x; try dsimp only) | (with_reducible apply Keeps.trans; rotate_left; with_reducible apply canLocked_keeps) | (with_reducible apply Keeps.trans; rotate_left; with_reducible apply logEvent_keeps) | (with_reducible apply Keeps.trans; rotate_left; with_reducible apply canSearch_keeps) | (with_reducible apply Keeps.trans; rotate_left; with_reducible apply modCan_keeps) | split | grind [Keeps, canLocked_keeps, logEvent_keeps, canSearch_keeps, modCan_keeps]
theorem canFrameSeen_keeps (s : State) (valid brs : Bool) : Keeps s (canFrameSeen s valid brs) := by
  grind [Keeps, canFrameSeen, nominalFrame_keeps, dataFrame_keeps]
theorem canBusOff_keeps (s : State) : Keeps s (canBusOff s) := by
  grind [Keeps, canBusOff, logEvent_keeps, canSearch_keeps, modCan_keeps]
theorem canRecovered_keeps (s : State) : Keeps s (canRecovered s) := by
  grind [Keeps, canRecovered, canActive_keeps, modCan_keeps]
theorem canPassive_keeps (s : State) (tec rec' : Byte) : Keeps s (canPassive s tec rec') := by
  grind [Keeps, canPassive, logEvent_keeps, modCan_keeps]
theorem canRateSwitch_keeps (s : State) : Keeps s (canRateSwitch s) := by
  grind [Keeps, canRateSwitch, modCan_keeps]
theorem canReady_keeps (s : State) : Keeps s (canReady s) := by
  grind [Keeps, canReady, canSearch_keeps, canActive_keeps, modCan_keeps]
theorem alarmReceived_keeps (s : State) (f : CanFrame) : Keeps s (alarmReceived s f) := by
  grind [Keeps, alarmReceived, raiseVector_keeps, modCan_keeps]
theorem timeSync_keeps (s : State) (f : CanFrame) : Keeps s (timeSync s f) := by
  grind [Keeps, timeSync, modCan_keeps]
theorem canHeartbeat_keeps (s : State) (us : Nat) : Keeps s (canHeartbeat s us) := by
  grind [Keeps, canHeartbeat, sendHeartbeat_keeps]
theorem logViolation_keeps (s : State) (f : CanFrame) : Keeps s (logViolation s f) := by
  grind [Keeps, logViolation, logEvent_keeps, modCan_keeps]
theorem sendReject_keeps (s : State) (f : CanFrame) (code : Nat) : Keeps s (sendReject s f code) := by
  grind [Keeps, sendReject, modCan_keeps, emit_keeps]
theorem onViolation_keeps (s : State) (f : CanFrame) (v : Violation) : Keeps s (onViolation s f v) := by
  cases v
  · exact logViolation_keeps ..
  · exact (logViolation_keeps ..).trans (sendReject_keeps ..)
theorem fieldViolation_keeps (s : State) (f : CanFrame) : Keeps s (fieldViolation s f) := by
  grind [Keeps, fieldViolation, onViolation_keeps]
theorem alarmClear_keeps (s : State) (m : Nat) : Keeps s (alarmClear s m) := by
  grind [Keeps, alarmClear, modCan_keeps]
theorem execCanStandbyExit_keeps (s : State) : ∀ nxt, (execCanStandbyExit s) = .next nxt → Keeps s nxt := by
  grind [Keeps, execCanStandbyExit, canExit_keeps]
theorem execCanSearchFrame_keeps (valid brs : Bool) (s : State) : ∀ nxt, (execCanSearchFrame valid brs s) = .next nxt → Keeps s nxt := by
  grind [Keeps, execCanSearchFrame, canFrameSeen_keeps]
theorem execCanNominalSearchTimeout_keeps (s : State) : ∀ nxt, (execCanNominalSearchTimeout s) = .next nxt → Keeps s nxt := by
  grind [Keeps, execCanNominalSearchTimeout, modCan_keeps]
theorem execCanDataSearchTimeout_keeps (s : State) : ∀ nxt, (execCanDataSearchTimeout s) = .next nxt → Keeps s nxt := by
  grind [Keeps, execCanDataSearchTimeout, canLocked_keeps]
theorem execCanBusOff_keeps (s : State) : ∀ nxt, (execCanBusOff s) = .next nxt → Keeps s nxt := by
  grind [Keeps, execCanBusOff, canBusOff_keeps]
theorem execCanBusOffRecovery_keeps (s : State) : ∀ nxt, (execCanBusOffRecovery s) = .next nxt → Keeps s nxt := by
  grind [Keeps, execCanBusOffRecovery, canRecovered_keeps]
theorem execCanAlarmFrame_keeps (f : CanFrame) (s : State) : ∀ nxt, (execCanAlarmFrame f s) = .next nxt → Keeps s nxt := by
  grind [Keeps, execCanAlarmFrame, alarmReceived_keeps]
theorem execCanTimeSync_keeps (f : CanFrame) (s : State) : ∀ nxt, (execCanTimeSync f s) = .next nxt → Keeps s nxt := by
  grind [Keeps, execCanTimeSync, timeSync_keeps]
theorem execCanHeartbeat_keeps (us : Nat) (s : State) : ∀ nxt, (execCanHeartbeat us s) = .next nxt → Keeps s nxt := by
  grind [Keeps, execCanHeartbeat, canHeartbeat_keeps]
theorem execCanErrorPassive_keeps (tec rec' : Byte) (s : State) : ∀ nxt, (execCanErrorPassive tec rec' s) = .next nxt → Keeps s nxt := by
  grind [Keeps, execCanErrorPassive, canPassive_keeps]
theorem execActiveBitRateSwitchFrame_keeps (s : State) : ∀ nxt, (execActiveBitRateSwitchFrame s) = .next nxt → Keeps s nxt := by
  grind [Keeps, execActiveBitRateSwitchFrame, canRateSwitch_keeps]
theorem execFieldViolationFrame_keeps (f : CanFrame) (s : State) : ∀ nxt, (execFieldViolationFrame f s) = .next nxt → Keeps s nxt := by
  grind [Keeps, execFieldViolationFrame, fieldViolation_keeps]

/-! ### Machine/SpiPort.lean -/

theorem setSticky_keeps (s : State) (i : Nat) : Keeps s (setSticky s i) := by
  grind [Keeps, setSticky, logEvent_keeps, modSpi_keeps]
theorem clearSticky_keeps (s : State) (v : Nat) : Keeps s (clearSticky s v) := by
  grind [Keeps, clearSticky, modSpi_keeps]
theorem extraEdges_keeps (s : State) (x : SpiTransaction) (n : Nat) : Keeps s (extraEdges s x n) := by
  grind [Keeps, extraEdges, setSticky_keeps]
theorem spiRequestTaken_keeps (s : State) (x : SpiTransaction) : Keeps s (spiRequestTaken s x).1 := by
  grind [Keeps, spiRequestTaken, setSticky_keeps, extraEdges_keeps, modSpi_keeps]
theorem spiFetched_keeps (s : State) (x : SpiTransaction) : Keeps s (spiFetched s x).1 := by
  grind [Keeps, spiFetched, setSticky_keeps, extraEdges_keeps]
theorem spiIdle_keeps (s : State) (x : SpiTransaction) : Keeps s (spiIdle s x) := by
  grind [Keeps, spiIdle, setSticky_keeps, extraEdges_keeps]
theorem shiftOut_keeps (s : State) (status : U32) (l : List U32) : Keeps s (shiftOut s status l) := by
  grind [Keeps, shiftOut, useFree_keeps, emit_keeps]
theorem spiFetch_keeps (s : State) (x : SpiTransaction) : Keeps s (spiFetch s x) := by
  grind [Keeps, spiFetch, spiFetched_keeps, shiftOut_keeps]
theorem spiNoOperation_keeps (s : State) (x : SpiTransaction) : Keeps s (spiNoOperation s x) := by
  grind [Keeps, spiNoOperation, shiftOut_keeps, spiIdle_keeps]
theorem spiReady_keeps (s : State) : Keeps s (spiReady s) := by
  grind [Keeps, spiReady, setReady_keeps, modPins_keeps]
theorem execSpiFetch_keeps (x : SpiTransaction) (s : State) : ∀ nxt, (execSpiFetch x s) = .next nxt → Keeps s nxt := by
  grind [Keeps, execSpiFetch, spiFetch_keeps]
theorem execSpiNoOperation_keeps (x : SpiTransaction) (s : State) : ∀ nxt, (execSpiNoOperation x s) = .next nxt → Keeps s nxt := by
  grind [Keeps, execSpiNoOperation, spiNoOperation_keeps]
theorem execSpiReadyTimer_keeps (s : State) : ∀ nxt, (execSpiReadyTimer s) = .next nxt → Keeps s nxt := by
  grind [Keeps, execSpiReadyTimer, spiReady_keeps]

/-! ### Machine/LifeCycle.lean -/

theorem rewriteBlock_keeps (s : State) : Keeps s (rewriteBlock s) := by
  grind [Keeps, rewriteBlock, modGaffer_keeps]
theorem railOn_keeps (s : State) (r : Nat) : Keeps s (railOn s r) := by
  grind [Keeps, railOn, emit_keeps, modReg_keeps]
theorem railsOff_keeps (s : State) : Keeps s (railsOff s) := by
  unfold railsOff; try dsimp only
  all_goals repeat' first | with_reducible exact Keeps.refl _ | (with_reducible apply Keeps.trans; rotate_left; with_reducible apply foldl_keeps; intro s x; try dsimp only) | (with_reducible apply Keeps.trans; rotate_left; with_reducible apply emit_keeps) | (with_reducible apply Keeps.trans; rotate_left; with_reducible apply modReg_keeps) | split | grind [Keeps, emit_keeps, modReg_keeps]
theorem setUpRails_keeps (s : State) : Keeps s (setUpRails s) := by
  unfold setUpRails; try dsimp only
  all_goals repeat' first | with_reducible exact Keeps.refl _ | (with_reducible apply Keeps.trans; rotate_left; with_reducible apply foldl_keeps; intro s x; try dsimp only) | (with_reducible apply Keeps.trans; rotate_left; with_reducible apply emit_keeps) | split | grind [Keeps, emit_keeps]
theorem sequenceRails_keeps (s : State) (o : PowerUpOutcome) : Keeps s (sequenceRails s o).1 := by
  unfold sequenceRails; try dsimp only
  all_goals repeat' first | with_reducible exact Keeps.refl _ | (with_reducible apply Keeps.trans; rotate_left; with_reducible apply foldl_keeps; intro s x; try dsimp only) | (with_reducible apply Keeps.trans; rotate_left; with_reducible apply pmStuck_keeps) | (with_reducible apply Keeps.trans; rotate_left; with_reducible apply startRecovery_keeps) | (with_reducible apply Keeps.trans; rotate_left; with_reducible apply setUpRails_keeps) | (with_reducible apply Keeps.trans; rotate_left; with_reducible apply afterRecovery_keeps) | (with_reducible apply Keeps.trans; rotate_left; with_reducible apply railOn_keeps) | (with_reducible apply Keeps.trans; rotate_left; with_reducible apply railsOff_keeps) | (with_reducible apply Keeps.trans; rotate_left; with_reducible apply modI2c_keeps) | split | grind [Keeps, pmStuck_keeps, startRecovery_keeps, setUpRails_keeps, afterRecovery_keeps, railOn_keeps, railsOff_keeps, modI2c_keeps]
theorem landRails_keeps (s : State) : Keeps s (landRails s) := by
  grind [Keeps, landRails, modReg_keeps]
theorem restartJournal_keeps (s : State) : Keeps s (restartJournal s) := by
  grind [Keeps, restartJournal, cutAwaiting_keeps, modJournal_keeps]
theorem restartFabric_keeps (s : State) : Keeps s (restartFabric s) := ⟨rfl, rfl, fun _ => rfl⟩
theorem enterReset_keeps (s : State) (kind : Byte) (keepHold : Bool) : Keeps s (enterReset s kind keepHold) := by
  grind [Keeps, enterReset, restartFabric_keeps, emit_keeps]
theorem releaseDies_keeps (s : State) : Keeps s (releaseDies s) := by
  unfold releaseDies; try dsimp only
  all_goals repeat' first | with_reducible exact Keeps.refl _ | (with_reducible apply Keeps.trans; rotate_left; with_reducible apply foldl_keeps; intro s x; try dsimp only) | (with_reducible apply Keeps.trans; rotate_left; with_reducible apply settleDomains_keeps) | (with_reducible apply Keeps.trans; rotate_left; with_reducible apply startTune_keeps) | (with_reducible apply Keeps.trans; rotate_left; with_reducible apply modGaffer_keeps) | (with_reducible apply Keeps.trans; rotate_left; with_reducible apply modPins_keeps) | split | grind [Keeps, settleDomains_keeps, startTune_keeps, modGaffer_keeps, modPins_keeps, modMem, Mem.wf]
theorem startUp_keeps (s : State) (rails : Option PowerUpOutcome) : Keeps s (startUp s rails) := by
  unfold startUp; try dsimp only
  all_goals repeat' first | with_reducible exact Keeps.refl _ | (with_reducible apply Keeps.trans; rotate_left; with_reducible apply foldl_keeps; intro s x; try dsimp only) | (with_reducible apply Keeps.trans; rotate_left; with_reducible apply enterReset_keeps) | (with_reducible apply Keeps.trans; rotate_left; with_reducible apply railsOff_keeps) | (with_reducible apply Keeps.trans; rotate_left; with_reducible apply releaseDies_keeps) | (with_reducible apply Keeps.trans; rotate_left; with_reducible apply sequenceRails_keeps) | (with_reducible apply Keeps.trans; rotate_left; with_reducible apply modGaffer_keeps) | refine Keeps.trans ?_ (Keeps.of_fst (sequenceRails_keeps _ _) (by assumption)) | split | grind [Keeps, enterReset_keeps, railsOff_keeps, releaseDies_keeps, sequenceRails_keeps, modGaffer_keeps]
theorem powerUp_keeps (s : State) (o : PowerUpOutcome) : Keeps s (powerUp s o) := by
  grind [Keeps, powerUp, startUp_keeps, modPins_keeps]
theorem powerOnReset_keeps (s : State) : Keeps s (powerOnReset s) := by
  grind [Keeps, powerOnReset, enterReset_keeps, modGaffer_keeps, modDict_keeps]
theorem vstbyLoss_keeps (s : State) : Keeps s (vstbyLoss s) := by
  grind [Keeps, vstbyLoss, enterReset_keeps, modGaffer_keeps, modDict_keeps]
theorem packageReset_keeps (s : State) : Keeps s (packageReset s) := by
  grind [Keeps, packageReset, enterReset_keeps, modGaffer_keeps, modPins_keeps]
theorem sysResetRise_keeps (s : State) : Keeps s (sysResetRise s) := by
  grind [Keeps, sysResetRise, startUp_keeps, modGaffer_keeps, modPins_keeps]
theorem stopFabric_keeps (s : State) : Keeps s (stopFabric s) := by
  grind [Keeps, stopFabric, dropAccesses_keeps, respond_keeps, cutAwaiting_keeps, landRails_keeps, restartFabric_keeps, modDict_keeps, modPower_keeps, modJournal_keeps, modGaffer_keeps, modPins_keeps]
theorem mainPowerLoss_keeps (s : State) : Keeps s (mainPowerLoss s) := by
  grind [Keeps, mainPowerLoss, railsOff_keeps, stopFabric_keeps, modGaffer_keeps]
theorem trainChannel_keeps (s : State) (l : List ChannelFinding) (c : Nat) : Keeps s (trainChannel s l c) := by
  grind [Keeps, trainChannel, logEvent_keeps, modMem, Mem.wf]
theorem trainingComplete_keeps (s : State) (l : List ChannelFinding) : Keeps s (trainingComplete s l) := by
  unfold trainingComplete; try dsimp only
  all_goals repeat' first | with_reducible exact Keeps.refl _ | (with_reducible apply Keeps.trans; rotate_left; with_reducible apply foldl_keeps; intro s x; try dsimp only) | (with_reducible apply Keeps.trans; rotate_left; with_reducible apply setReady_keeps) | (with_reducible apply Keeps.trans; rotate_left; with_reducible apply trainChannel_keeps) | split | grind [Keeps, setReady_keeps, trainChannel_keeps]
theorem wipeComplete_keeps (s : State) : Keeps s (wipeComplete s) := by
  grind [Keeps, wipeComplete, logEvent_keeps, setReady_keeps, modGaffer_keeps]
theorem crsEnd_keeps (s : State) : Keeps s (crsEnd s) := by
  grind [Keeps, crsEnd, setReady_keeps, modHost_keeps]
theorem advanceFloor_grows (s : State) (b : Bool) : Grows s (advanceFloor s b) := by
  unfold advanceFloor
  split
  · dsimp only
    split
    · rename_i p _ h
      refine ⟨rfl, ⟨Nat.le_refl _, id, fun _ => id, ?_, Nat.le_succ _⟩, id⟩
      have h1 := h.1
      have h2 := Nat.lt_of_le_of_lt h.2.1 (fieldAt_lt _ _ _)
      simp only [modDict_fuses, BitVec.toNat_ofNat] at h1 ⊢
      rw [Nat.mod_eq_of_lt (by omega)]; omega
    · exact (modDict_keeps ..).grows
  · exact Grows.refl s
theorem haltRom_keeps (s : State) : Keeps s (haltRom s) := by
  grind [Keeps, haltRom, logEvent_keeps, railsOff_keeps, stopFabric_keeps, modPins_keeps, modGaffer_keeps]
theorem runImage_grows (s : State) (b : Bool) (failed : Option Bool) : Grows s (runImage s b failed) := by
  unfold runImage; try dsimp only
  all_goals repeat' first | with_reducible exact Grows.refl _ | (with_reducible apply Keeps.trans; rotate_left; with_reducible apply answerTrips_keeps) | (with_reducible apply Keeps.trans; rotate_left; with_reducible apply logEvent_keeps) | (with_reducible apply Keeps.trans; rotate_left; with_reducible apply setReady_keeps) | (with_reducible apply Keeps.trans; rotate_left; with_reducible apply modGaffer_keeps) | (with_reducible apply Keeps.trans; rotate_left; with_reducible apply advanceFloor_grows) | split | grind [Keeps, Grows, FusesLe.refl, FusesLe.trans, advanceFloor_grows, modGaffer_keeps, setReady_keeps, logEvent_keeps, answerTrips_keeps]
theorem firmwareStart_grows (s : State) : Grows s (firmwareStart s) := by
  grind [Keeps, Grows, FusesLe.refl, FusesLe.trans, firmwareStart, runImage_grows, haltRom_keeps]
theorem gafferI2c_keeps (s : State) : Keeps s (gafferI2c s) := by
  grind [Keeps, gafferI2c, startRecovery_keeps, emit_keeps, modI2c_keeps]
theorem gafferPower_keeps (s : State) : Keeps s (gafferPower s) := by
  grind [Keeps, gafferPower, landRails_keeps, modPower_keeps]
theorem gafferPorts_keeps (s : State) : Keeps s (gafferPorts s) := by
  grind [Keeps, gafferPorts, modSpi_keeps, modPins_keeps, modCan_keeps]
theorem gafferReset_keeps (s : State) (slot : Bool) : Keeps s (gafferReset s slot) := by
  grind [Keeps, gafferReset, dropAccesses_keeps, cancelAccesses_keeps, restartJournal_keeps, gafferI2c_keeps, gafferPower_keeps, gafferPorts_keeps, modDict_keeps, modGaffer_keeps]
theorem gafferResetCmd_keeps (s : State) : Keeps s (gafferResetCmd s) := by
  grind [Keeps, gafferResetCmd, gafferReset_keeps]
theorem watchdogExpiry_keeps (s : State) (again : Bool) : Keeps s (watchdogExpiry s again) := by
  grind [Keeps, watchdogExpiry, gafferReset_keeps, logEvent_keeps]
theorem findFlash_keeps (s : State) (f : FlashFinding) : Keeps s (findFlash s f) := by
  grind [Keeps, findFlash, logEvent_keeps]
theorem dropServiceOnly_keeps (s : State) : Keeps s (dropServiceOnly s) := by
  unfold dropServiceOnly; try dsimp only
  all_goals repeat' first | with_reducible exact Keeps.refl _ | (with_reducible apply Keeps.trans; rotate_left; with_reducible apply foldl_keeps; intro s x; try dsimp only) | (with_reducible apply Keeps.trans; rotate_left; with_reducible apply journalNow_keeps) | (with_reducible apply Keeps.trans; rotate_left; with_reducible apply clearVal_keeps) | split | grind [Keeps, journalNow_keeps, clearVal_keeps]
theorem beforeReplay_keeps (s : State) : Keeps s (beforeReplay s) := by
  unfold beforeReplay; try dsimp only
  all_goals repeat' first | with_reducible exact Keeps.refl _ | (with_reducible apply Keeps.trans; rotate_left; with_reducible apply foldl_keeps; intro s x; try dsimp only) | (with_reducible apply Keeps.trans; rotate_left; with_reducible apply modDict_keeps) | (with_reducible apply Keeps.trans; rotate_left; with_reducible apply modDom_keeps) | split | grind [Keeps, modDict_keeps, modDom_keeps]
theorem openJournal_keeps (s : State) (readable : Bool) (oa ob : HalfOutcome) : Keeps s (openJournal s readable oa ob) := by
  grind [Keeps, openJournal, beforeReplay_keeps, setVal_keeps, eraseJournal_keeps, replay_keeps, compactionTrigger_keeps, formatJournal_keeps]
theorem loadAgeing_keeps (s : State) : Keeps s (loadAgeing s) := by
  grind [Keeps, loadAgeing, modAgeing_keeps]
theorem stockWindow_keeps (s : State) : Keeps s (stockWindow s) := by
  grind [Keeps, stockWindow, setVal_keeps, modDict_keeps]
theorem loadBlocks_keeps (s : State) : Keeps s (loadBlocks s) := by
  unfold loadBlocks; try dsimp only
  all_goals repeat' first | with_reducible exact Keeps.refl _ | (with_reducible apply Keeps.trans; rotate_left; with_reducible apply foldl_keeps; intro s x; try dsimp only) | (with_reducible apply Keeps.trans; rotate_left; with_reducible apply stockWindow_keeps) | (with_reducible apply Keeps.trans; rotate_left; with_reducible apply loadAgeing_keeps) | (with_reducible apply Keeps.trans; rotate_left; with_reducible apply setLState_keeps) | (with_reducible apply Keeps.trans; rotate_left; with_reducible apply modReels_keeps) | split | grind [Keeps, stockWindow_keeps, loadAgeing_keeps, setLState_keeps, modReels_keeps]
theorem retrain_keeps (s : State) : Keeps s (retrain s) := by
  unfold retrain; dsimp only
  split
  · refine (modGaffer_keeps ..).trans (modMem_keeps _ _ (fun h => ?_))
    exact cellsWf_filter _ h
  · exact Keeps.refl s
theorem reconcile_keeps (s : State) (used : Bool × Nat × Bool) : Keeps s (reconcile s used) := by
  grind [Keeps, reconcile, gafferReset_keeps, retrain_keeps, modGaffer_keeps]
theorem dictionaryReady_keeps (s : State) (f : FlashFinding) (oa ob : HalfOutcome) : Keeps s (dictionaryReady s f oa ob) := by
  grind [Keeps, dictionaryReady, openJournal_keeps, findFlash_keeps, dropServiceOnly_keeps, loadBlocks_keeps, rewriteBlock_keeps, logEvent_keeps, canReady_keeps, setpointCommitted_keeps, reconcile_keeps, modGaffer_keeps]
theorem linksReleased_keeps (s : State) : Keeps s (linksReleased s) := by
  unfold linksReleased; try dsimp only
  all_goals repeat' first | with_reducible exact Keeps.refl _ | (with_reducible apply Keeps.trans; rotate_left; with_reducible apply foldl_keeps; intro s x; try dsimp only) | (with_reducible apply Keeps.trans; rotate_left; with_reducible apply setReady_keeps) | (with_reducible apply Keeps.trans; rotate_left; with_reducible apply calibrate_keeps) | (with_reducible apply Keeps.trans; rotate_left; with_reducible apply startKickoff_keeps) | split | grind [Keeps, setReady_keeps, calibrate_keeps, startKickoff_keeps]
theorem transition_grows (s : State) (new : Nat) : Grows s (transition s new) := by
  unfold transition; dsimp only
  generalize hs1 : ((List.range 16).foldl (fun s n => if usable s n then emit s (.control n 2 0) else s) s) = s1
  have h1 : Keeps s s1 := by
    rw [← hs1]; refine foldl_keeps _ _ (fun s x => ?_) _
    split
    · exact emit_keeps ..
    · exact Keeps.refl _
  generalize hs2 : ({ s1 with fuses := if new = 4 then { s1.fuses with retired := true } else { s1.fuses with rows := s1.fuses.rows + 1 } } : State) = s2
  have h2 : Grows s1 s2 := by
    rw [← hs2]
    refine ⟨rfl, ?_, id⟩
    dsimp only
    split
    · exact ⟨Nat.le_refl _, fun _ => rfl, fun _ => id, Nat.le_refl _, Nat.le_refl _⟩
    · exact ⟨Nat.le_succ _, id, fun _ => id, Nat.le_refl _, Nat.le_refl _⟩
  refine h1.grows.trans (h2.trans (Keeps.grows ?_))
  repeat' first | with_reducible exact Keeps.refl _ | (with_reducible apply Keeps.trans; rotate_left; with_reducible apply modGaffer_keeps) | (with_reducible apply Keeps.trans; rotate_left; with_reducible apply logEvent_keeps) | (with_reducible apply Keeps.trans; rotate_left; with_reducible apply startUp_keeps) | (with_reducible apply Keeps.trans; rotate_left; with_reducible apply eraseJournal_keeps) | (with_reducible apply Keeps.trans; rotate_left; with_reducible apply cutAwaiting_keeps) | (with_reducible apply Keeps.trans; rotate_left; with_reducible apply dropServiceOnly_keeps) | split
theorem tapInstruction_keeps (s : State) (i : TapInstr) : Keeps s (tapInstruction s i) := by
  grind [Keeps, tapInstruction, emit_keeps]
theorem railExcursion_keeps (s : State) (r : Rail) (mv : Int) (long : Bool) : Keeps s (railExcursion s r mv long) := by
  grind [Keeps, railExcursion, mainPowerLoss_keeps]
theorem execPowerOnReset_keeps (s : State) : ∀ nxt, (execPowerOnReset s) = .next nxt → Keeps s nxt := by
  grind [Keeps, execPowerOnReset, powerOnReset_keeps]
theorem execPowerUp_keeps (o : PowerUpOutcome) (s : State) : ∀ nxt, (execPowerUp o s) = .next nxt → Keeps s nxt := by
  grind [Keeps, execPowerUp, powerUp_keeps]
theorem execStockTrainingComplete_keeps (l : List ChannelFinding) (s : State) : ∀ nxt, (execStockTrainingComplete l s) = .next nxt → Keeps s nxt := by
  grind [Keeps, execStockTrainingComplete, trainingComplete_keeps]
theorem execStockWipeComplete_keeps (s : State) : ∀ nxt, (execStockWipeComplete s) = .next nxt → Keeps s nxt := by
  grind [Keeps, execStockWipeComplete, wipeComplete_keeps]
theorem execPcieCrsEnd_keeps (s : State) : ∀ nxt, (execPcieCrsEnd s) = .next nxt → Keeps s nxt := by
  grind [Keeps, execPcieCrsEnd, crsEnd_keeps]
theorem execFirmwareStart_grows (s : State) : ∀ nxt, (execFirmwareStart s) = .next nxt → Grows s nxt := by
  grind [Keeps, Grows, FusesLe.refl, FusesLe.trans, execFirmwareStart, firmwareStart_grows]
theorem execDictionaryReady_keeps (f : FlashFinding) (h h2 : HalfOutcome) (s : State) : ∀ nxt, (execDictionaryReady f h h2 s) = .next nxt → Keeps s nxt := by
  grind [Keeps, execDictionaryReady, dictionaryReady_keeps]
theorem execLinksReleased_keeps (s : State) : ∀ nxt, (execLinksReleased s) = .next nxt → Keeps s nxt := by
  grind [Keeps, execLinksReleased, linksReleased_keeps]
theorem execMainPowerLoss_keeps (s : State) : ∀ nxt, (execMainPowerLoss s) = .next nxt → Keeps s nxt := by
  grind [Keeps, execMainPowerLoss, mainPowerLoss_keeps]
theorem execVstbyLoss_keeps (s : State) : ∀ nxt, (execVstbyLoss s) = .next nxt → Keeps s nxt := by
  grind [Keeps, execVstbyLoss, vstbyLoss_keeps]
theorem execPackageReset_keeps (s : State) : ∀ nxt, (execPackageReset s) = .next nxt → Keeps s nxt := by
  grind [Keeps, execPackageReset, packageReset_keeps]
theorem execSysResetNRise_keeps (s : State) : ∀ nxt, (execSysResetNRise s) = .next nxt → Keeps s nxt := by
  grind [Keeps, execSysResetNRise, sysResetRise_keeps]
theorem execGafferWatchdogExpiry_keeps (within60s : Bool) (s : State) : ∀ nxt, (execGafferWatchdogExpiry within60s s) = .next nxt → Keeps s nxt := by
  grind [Keeps, execGafferWatchdogExpiry, watchdogExpiry_keeps]
theorem execGafferReset_keeps (s : State) : ∀ nxt, (execGafferReset s) = .next nxt → Keeps s nxt := by
  grind [Keeps, execGafferReset, gafferResetCmd_keeps]
theorem execTapInstruction_keeps (i : TapInstr) (s : State) : ∀ nxt, (execTapInstruction i s) = .next nxt → Keeps s nxt := by
  grind [Keeps, execTapInstruction, tapInstruction_keeps]
theorem execRailExcursion_keeps (r : Rail) (mv : Int) (longerThan1ms : Bool) (s : State) : ∀ nxt, (execRailExcursion r mv longerThan1ms s) = .next nxt → Keeps s nxt := by
  grind [Keeps, execRailExcursion, railExcursion_keeps]

/-! ### Machine/DictAccess.lean -/

theorem beforeRead_keeps (s : State) (a : Access) : Keeps s (beforeRead s a) := by
  grind [Keeps, beforeRead, modGaffer_keeps]
theorem afterRead_keeps (s : State) (a : Access) : Keeps s (afterRead s a) := by
  grind [Keeps, afterRead, useFree_keeps]
theorem readAccess_keeps (s : State) (a : Access) (d : Desc) : Keeps s (readAccess s a d).1 := by
  grind [Keeps, readAccess, beforeRead_keeps, afterRead_keeps]
theorem applyField_keeps (e : Effect) (s : State) (f : Nat × List Byte) : Keeps s (applyField e s f) := by
  grind [Keeps, applyField, modDict_keeps, setVal_keeps]
theorem dropStage_keeps (s : State) (i ten : Nat) (h : Holder) : Keeps s (dropStage s i ten h) := by
  grind [Keeps, dropStage, modDict_keeps]
theorem bumpCount_keeps (s : State) (i ten : Nat) : Keeps s (bumpCount s i ten) := by
  grind [Keeps, bumpCount, modDict_keeps]
theorem substitute_keeps (s : State) : Keeps s (substitute s) := by
  grind [Keeps, substitute, logEvent_keeps, ringPump_keeps, foldl_keeps, reQueue_keeps, startPush_keeps]
theorem clearEvents_keeps (s : State) : Keeps s (clearEvents s) := by
  grind [Keeps, clearEvents, logEvent_keeps]
theorem clearCounters_keeps (s : State) : Keeps s (clearCounters s) := by
  grind [Keeps, clearCounters, logEvent_keeps, modNet_keeps, modHost_keeps]
theorem blockEffect_keeps (s : State) (i ten : Nat) (v : Nat → Option Nat) : Keeps s (blockEffect s i ten v) := by
  grind [Keeps, blockEffect, setpointCommitted_keeps, powerRequest_keeps, holdRecovery_keeps, rewriteBlock_keeps, logEvent_keeps, substitute_keeps, disableLink_keeps, enableLink_keeps, serveLatch_keeps, configureRing_keeps, queueDisabled_keeps, queueEnabled_keeps, alarmClear_keeps, clearSticky_keeps, tenantReset_keeps, clearEvents_keeps, clearCounters_keeps]
theorem applyEffect_keeps (s : State) (e : Effect) : Keeps s (applyEffect s e) := by
  unfold applyEffect; try dsimp only
  all_goals repeat' first | with_reducible exact Keeps.refl _ | (with_reducible apply Keeps.trans; rotate_left; with_reducible apply foldl_keeps; intro s x; try dsimp only) | (with_reducible apply Keeps.trans; rotate_left; with_reducible apply applyField_keeps) | (with_reducible apply Keeps.trans; rotate_left; with_reducible apply dropStage_keeps) | (with_reducible apply Keeps.trans; rotate_left; with_reducible apply bumpCount_keeps) | (with_reducible apply Keeps.trans; rotate_left; with_reducible apply blockEffect_keeps) | split | grind [Keeps, applyField_keeps, dropStage_keeps, bumpCount_keeps, blockEffect_keeps]
theorem stageWrite_grows (s : State) (a : Access) (d : Desc) : woutGrows s (stageWrite s a d) := by
  grind [Keeps, woutGrows, Grows, FusesLe.refl, FusesLe.trans, stageWrite, modDict_keeps]
theorem commitFields_grows (s : State) (a : Access) (ten : Nat) (fs : Tbl (List Byte)) (restore : Bool) : woutGrows s (commitFields s a ten fs restore) := by
  grind [Keeps, woutGrows, Grows, FusesLe.refl, FusesLe.trans, commitFields, dropStage_keeps]
theorem countWrite_grows (s : State) (a : Access) (d : Desc) : woutGrows s (countWrite s a d) := by
  grind [Keeps, woutGrows, Grows, FusesLe.refl, FusesLe.trans, countWrite, commitFields_grows, dropStage_keeps, bumpCount_keeps, modDict_keeps]
theorem restoreEntry_grows (s : State) (a : Access) (d : Desc) : woutGrows s (restoreEntry s a d) := by
  grind [Keeps, woutGrows, Grows, FusesLe.refl, FusesLe.trans, restoreEntry, modGroup_keeps]
theorem scalarWrite_grows (s : State) (a : Access) (d : Desc) (v : List Byte) : woutGrows s (scalarWrite s a d v) := by
  grind [Keeps, woutGrows, Grows, FusesLe.refl, FusesLe.trans, scalarWrite, groupRequest_keeps, restoreEntry_grows]
theorem dropClaim_keeps (s : State) (a : Access) (ten : Nat) : Keeps s (dropClaim s a ten) := by
  grind [Keeps, dropClaim, modDict_keeps]
theorem putClaim_keeps (s : State) (a : Access) (ten : Nat) (l : List Byte) : Keeps s (putClaim s a ten l) := by
  grind [Keeps, putClaim, dropClaim_keeps, modDict_keeps]
theorem pieceWrite_grows (s : State) (a : Access) (d : Desc) (f : State → List Byte → WriteOut)
    (hf : ∀ t v, Keeps s t → woutGrows s (f t v)) : woutGrows s (pieceWrite s a d f) := by
  grind [pieceWrite, woutGrows, Keeps.grows, Grows.refl, dropClaim_keeps, putClaim_keeps]
theorem burnDigest_grows (s : State) (v : List Byte) (h : s.fuses.keyDigest = none) : woutGrows s (burnDigest s v) := by
  refine ⟨rfl, ⟨Nat.le_refl _, id, ?_, Nat.le_refl _, Nat.le_refl _⟩, id⟩
  intro d hd
  rw [h] at hd; cases hd
theorem unlock_grows (s : State) (v : List Byte) : woutGrows s (unlock s v) := by
  grind [Keeps, woutGrows, Grows, FusesLe.refl, FusesLe.trans, unlock, logEvent_keeps, modGaffer_keeps]
theorem digestWrite_grows (s : State) (a : Access) (d : Desc) : woutGrows s (digestWrite s a d) := by
  unfold digestWrite
  split
  · exact Grows.refl s
  · split
    · exact Grows.refl s
    · split
      · exact Grows.refl s
      · rename_i h _
        refine pieceWrite_grows s a d burnDigest (fun t v ht => ?_)
        have hn : t.fuses.keyDigest = none := by rw [ht.2.1]; simpa using h
        exact ht.grows.trans (burnDigest_grows t v hn)
theorem writeAccess_grows (s : State) (a : Access) (d : Desc) : woutGrows s (writeAccess s a d) := by
  have hc : ∀ t v, Keeps s t → woutGrows s (.commit t (entryEffect t a d v) false) := fun t v h => h.grows
  have hu : ∀ t v, Keeps s t → woutGrows s (unlock t v) := by
    intro t v h
    have := unlock_grows t v
    revert this
    cases unlock t v <;> exact fun k => h.grows.trans k
  have hr : ∀ code, woutGrows s (.over s code) := fun code => Grows.refl s
  unfold writeAccess; dsimp only
  repeat' first | with_reducible exact hr _ | with_reducible exact digestWrite_grows _ _ _ | with_reducible exact countWrite_grows _ _ _ | with_reducible exact stageWrite_grows _ _ _ | with_reducible exact scalarWrite_grows _ _ _ _ | exact pieceWrite_grows _ _ _ _ hu | exact pieceWrite_grows _ _ _ _ hc | split
theorem finish_keeps (s : State) (op : Byte) (a : Access) (c : Carrier) (code : Nat) (data : List Byte) : Keeps s (finish s op a c code data) := by
  grind [Keeps, finish, respond_keeps]
theorem takeEffect_grows (s : State) (op : Byte) (a : Access) (c : Carrier) (e : Effect) : Grows s (takeEffect s op a c e) := by
  grind [Keeps, Grows, FusesLe.refl, FusesLe.trans, takeEffect, finish_keeps, applyEffect_keeps, transition_grows]
theorem commitEffect_grows (s : State) (op : Byte) (a : Access) (c : Carrier) (e : Effect) (tomb : Bool) : Grows s (commitEffect s op a c e tomb) := by
  unfold commitEffect; try dsimp only
  all_goals repeat' first | with_reducible exact Grows.refl _ | (with_reducible apply Grows.trans; rotate_left; with_reducible apply foldl_grows; intro s x; try dsimp only) | (with_reducible apply Grows.trans; rotate_left; with_reducible apply Keeps.grows; with_reducible apply finish_keeps) | (with_reducible apply Grows.trans; rotate_left; with_reducible apply takeEffect_grows) | (with_reducible apply Grows.trans; rotate_left; with_reducible apply Keeps.grows; with_reducible apply modDict_keeps) | refine Grows.trans ?_ ((beginRecord_keeps _ _ _ _ (by assumption)).grows) | split | grind [Keeps, Grows, FusesLe.refl, FusesLe.trans, beginRecord_keeps, finish_keeps, takeEffect_grows, modDict_keeps]
theorem perform_grows (s : State) (op : Byte) (a : Access) (c : Carrier) : Grows s (perform s op a c) := by
  unfold perform; try dsimp only
  all_goals repeat' first | with_reducible exact Grows.refl _ | (with_reducible apply Grows.trans; rotate_left; with_reducible apply foldl_grows; intro s x; try dsimp only) | (with_reducible apply Grows.trans; rotate_left; with_reducible apply Keeps.grows; with_reducible apply finish_keeps) | (with_reducible apply Grows.trans; rotate_left; with_reducible apply Keeps.grows; with_reducible apply readAccess_keeps) | (with_reducible apply Grows.trans; rotate_left; with_reducible apply commitEffect_grows) | refine Grows.trans ?_ (Grows.of_fst ((readAccess_keeps _ _ _).grows) (by assumption)) | split | grind [Keeps, Grows, FusesLe.refl, FusesLe.trans, woutGrows, finish_keeps, readAccess_keeps, writeAccess_grows, commitEffect_grows]
theorem drain_grows (x0 : Nat) (s : State) : Grows s (drain x0 s) := by
  fun_induction drain x0 s <;> grind [Keeps, Grows, FusesLe.refl, FusesLe.trans, drain, perform_grows, modDict_keeps]
theorem drainAll_grows (s : State) : Grows s (drainAll s) := by
  grind [Keeps, Grows, FusesLe.refl, FusesLe.trans, drainAll, drain_grows]
theorem deliver_grows (s : State) (op : Byte) (a : Access) (c : Carrier) : Grows s (deliver s op a c) := by
  grind [Keeps, Grows, FusesLe.refl, FusesLe.trans, deliver, drainAll_grows, modDict_keeps]
theorem sealed_grows (s : State) (w : Awaiting) : Grows s (sealed s w) := by
  grind [Keeps, Grows, FusesLe.refl, FusesLe.trans, sealed, compactionTrigger_keeps, keepRecord_keeps, drainAll_grows, respond_keeps, applyEffect_keeps, modDict_keeps]
theorem sealFailed_grows (s : State) (w : Awaiting) (page : BitVec 6) : Grows s (sealFailed s w page) := by
  grind [Keeps, Grows, FusesLe.refl, FusesLe.trans, sealFailed, recordFailed_keeps, drainAll_grows, respond_keeps, modDict_keeps]
theorem recordSealed_grows (s : State) (o : FlashOutcome) : Grows s (recordSealed s o) := by
  unfold recordSealed; try dsimp only
  all_goals repeat' first | with_reducible exact Grows.refl _ | (with_reducible apply Grows.trans; rotate_left; with_reducible apply foldl_grows; intro s x; try dsimp only) | (with_reducible apply Grows.trans; rotate_left; with_reducible apply sealed_grows) | (with_reducible apply Grows.trans; rotate_left; with_reducible apply sealFailed_grows) | split | grind [Keeps, Grows, FusesLe.refl, FusesLe.trans, sealed_grows, sealFailed_grows]
theorem flashPoll_grows (s : State) (o : FlashOutcome) : Grows s (flashPoll s o) := by
  unfold flashPoll; try dsimp only
  all_goals repeat' first | with_reducible exact Grows.refl _ | (with_reducible apply Grows.trans; rotate_left; with_reducible apply foldl_grows; intro s x; try dsimp only) | (with_reducible apply Grows.trans; rotate_left; with_reducible apply sealFailed_grows) | split | grind [Keeps, Grows, FusesLe.refl, FusesLe.trans, sealFailed_grows]
theorem stageExpiry_keeps (s : State) (i : U16) (sub : Byte) (ten : Tenant) : Keeps s (stageExpiry s i sub ten) := by
  grind [Keeps, stageExpiry, logEvent_keeps, modDict_keeps]

/-! ### Machine/Carriers.lean -/

theorem takeSlot_keeps (s : State) (w n : Nat) : Keeps s (takeSlot s w n) := by
  grind [Keeps, takeSlot, modWin_keeps]
theorem slotDoorbell_grows (s : State) (win : WindowId) (n : Nat) (pre : PreCheck) : Grows s (slotDoorbell s win n pre) := by
  grind [Keeps, Grows, FusesLe.refl, FusesLe.trans, slotDoorbell, deliver_grows, takeSlot_keeps, modWin_keeps]
theorem storeBody_keeps (s : State) (win : WindowId) (n : Nat) (l : List Byte) : Keeps s (storeBody s win n l) := by
  grind [Keeps, storeBody, modWin_keeps]
theorem windowClear_keeps (s : State) (win : WindowId) (off v : Nat) : Keeps s (windowClear s win off v) := by
  grind [Keeps, windowClear, modWin_keeps]
theorem hostAccess_grows (s : State) (t : Nat) (h : HostBytes) (pre : PreCheck) : Grows s (hostAccess s t h pre) := by
  grind [Keeps, Grows, FusesLe.refl, FusesLe.trans, hostAccess, runCmd_keeps, finishCmd_keeps, finish_keeps, deliver_grows]
theorem hostGroupControl_grows (s : State) (t : Nat) (pre : PreCheck) : Grows s (hostGroupControl s t pre) := by
  grind [Keeps, Grows, FusesLe.refl, FusesLe.trans, hostGroupControl, finishCmd_keeps, deliver_grows, runCmd_keeps]
theorem spiRequest_grows (s : State) (x : SpiTransaction) (pre : PreCheck) : Grows s (spiRequest s x pre) := by
  grind [Keeps, Grows, FusesLe.refl, FusesLe.trans, spiRequest, spiRequestTaken_keeps, shiftOut_keeps, deliver_grows, finish_keeps]
theorem canRequest_grows (s : State) (f : CanFrame) (pre : PreCheck) : Grows s (canRequest s f pre) := by
  grind [Keeps, Grows, FusesLe.refl, FusesLe.trans, canRequest, onViolation_keeps, finish_keeps, deliver_grows, modCan_keeps]
theorem accessStep_grows (op : Byte) (a : Access) (s : State) : ∀ nxt, (accessStep op a s) = .next nxt → Grows s nxt := by
  grind [Keeps, Grows, FusesLe.refl, FusesLe.trans, accessStep, deliver_grows]
theorem entryStep_grows (mn : String) (base : Nat) (op : Byte) (a : Access) (s : State) : ∀ nxt, (entryStep mn base op a s) = .next nxt → Grows s nxt := by
  grind [Keeps, Grows, FusesLe.refl, FusesLe.trans, entryStep, accessStep_grows]
theorem execDictRead_grows (a : Access) (s : State) : ∀ nxt, (execDictRead a s) = .next nxt → Grows s nxt := by
  grind [Keeps, Grows, FusesLe.refl, FusesLe.trans, execDictRead, accessStep_grows]
theorem execDictReadInformation_grows (a : Access) (s : State) : ∀ nxt, (execDictReadInformation a s) = .next nxt → Grows s nxt := by
  grind [Keeps, Grows, FusesLe.refl, FusesLe.trans, execDictReadInformation, accessStep_grows]
theorem execDictWrite_grows (a : Access) (s : State) : ∀ nxt, (execDictWrite a s) = .next nxt → Grows s nxt := by
  grind [Keeps, Grows, FusesLe.refl, FusesLe.trans, execDictWrite, accessStep_grows]
theorem execStagedWrite_grows (a : Access) (s : State) : ∀ nxt, (execStagedWrite a s) = .next nxt → Grows s nxt := by
  grind [Keeps, Grows, FusesLe.refl, FusesLe.trans, execStagedWrite, accessStep_grows]
theorem execCommit_grows (a : Access) (s : State) : ∀ nxt, (execCommit a s) = .next nxt → Grows s nxt := by
  grind [Keeps, Grows, FusesLe.refl, FusesLe.trans, execCommit, accessStep_grows]
theorem execDiscardStage_grows (a : Access) (s : State) : ∀ nxt, (execDiscardStage a s) = .next nxt → Grows s nxt := by
  grind [Keeps, Grows, FusesLe.refl, FusesLe.trans, execDiscardStage, accessStep_grows]
theorem execRestoreDefault_grows (a : Access) (s : State) : ∀ nxt, (execRestoreDefault a s) = .next nxt → Grows s nxt := by
  grind [Keeps, Grows, FusesLe.refl, FusesLe.trans, execRestoreDefault, accessStep_grows]
theorem execWritePiece_grows (a : Access) (s : State) : ∀ nxt, (execWritePiece a s) = .next nxt → Grows s nxt := by
  grind [Keeps, Grows, FusesLe.refl, FusesLe.trans, execWritePiece, accessStep_grows]
theorem execStageExpiry_keeps (i : U16) (sub : Byte) (ten : Tenant) (s : State) : ∀ nxt, (execStageExpiry i sub ten s) = .next nxt → Keeps s nxt := by
  grind [Keeps, execStageExpiry, stageExpiry_keeps]
theorem execWindowSlotDoorbell_grows (win : WindowId) (v : U32) (written : List Byte) (pre : PreCheck) (s : State) : ∀ nxt, (execWindowSlotDoorbell win v written pre s) = .next nxt → Grows s nxt := by
  grind [Keeps, Grows, FusesLe.refl, FusesLe.trans, execWindowSlotDoorbell, slotDoorbell_grows, storeBody_keeps]
theorem execWindowCompletionClear_keeps (win : WindowId) (off : U16) (v : U32) (s : State) : ∀ nxt, (execWindowCompletionClear win off v s) = .next nxt → Keeps s nxt := by
  grind [Keeps, execWindowCompletionClear, windowClear_keeps]
theorem execJournalRecordSealed_grows (o : FlashOutcome) (s : State) : ∀ nxt, (execJournalRecordSealed o s) = .next nxt → Grows s nxt := by
  grind [Keeps, Grows, FusesLe.refl, FusesLe.trans, execJournalRecordSealed, recordSealed_grows]
theorem execFlashStatusPoll_grows (o : FlashOutcome) (s : State) : ∀ nxt, (execFlashStatusPoll o s) = .next nxt → Grows s nxt := by
  grind [Keeps, Grows, FusesLe.refl, FusesLe.trans, execFlashStatusPoll, flashPoll_grows]
theorem execLifeCycleTransition_grows (a : Access) (s : State) : ∀ nxt, (execLifeCycleTransition a s) = .next nxt → Grows s nxt := by
  grind [Keeps, Grows, FusesLe.refl, FusesLe.trans, execLifeCycleTransition, entryStep_grows]
theorem execVcoreFSetpointCommit_grows (a : Access) (s : State) : ∀ nxt, (execVcoreFSetpointCommit a s) = .next nxt → Grows s nxt := by
  grind [Keeps, Grows, FusesLe.refl, FusesLe.trans, execVcoreFSetpointCommit, entryStep_grows]
theorem execPowerStateRequest_grows (a : Access) (s : State) : ∀ nxt, (execPowerStateRequest a s) = .next nxt → Grows s nxt := by
  grind [Keeps, Grows, FusesLe.refl, FusesLe.trans, execPowerStateRequest, entryStep_grows]
theorem execHoldRecoveryRequest_grows (a : Access) (s : State) : ∀ nxt, (execHoldRecoveryRequest a s) = .next nxt → Grows s nxt := by
  grind [Keeps, Grows, FusesLe.refl, FusesLe.trans, execHoldRecoveryRequest, entryStep_grows]
theorem execGroupStart_grows (a : Access) (s : State) : ∀ nxt, (execGroupStart a s) = .next nxt → Grows s nxt := by
  grind [Keeps, Grows, FusesLe.refl, FusesLe.trans, execGroupStart, entryStep_grows]
theorem execGroupPreempt_grows (a : Access) (s : State) : ∀ nxt, (execGroupPreempt a s) = .next nxt → Grows s nxt := by
  grind [Keeps, Grows, FusesLe.refl, FusesLe.trans, execGroupPreempt, entryStep_grows]
theorem execGroupResume_grows (a : Access) (s : State) : ∀ nxt, (execGroupResume a s) = .next nxt → Grows s nxt := by
  grind [Keeps, Grows, FusesLe.refl, FusesLe.trans, execGroupResume, entryStep_grows]
theorem execGroupAbort_grows (a : Access) (s : State) : ∀ nxt, (execGroupAbort a s) = .next nxt → Grows s nxt := by
  grind [Keeps, Grows, FusesLe.refl, FusesLe.trans, execGroupAbort, entryStep_grows]
theorem execRouteTableWrite_grows (a : Access) (s : State) : ∀ nxt, (execRouteTableWrite a s) = .next nxt → Grows s nxt := by
  grind [Keeps, Grows, FusesLe.refl, FusesLe.trans, execRouteTableWrite, entryStep_grows]
theorem execBenchSubstitution_grows (a : Access) (s : State) : ∀ nxt, (execBenchSubstitution a s) = .next nxt → Grows s nxt := by
  grind [Keeps, Grows, FusesLe.refl, FusesLe.trans, execBenchSubstitution, entryStep_grows]
theorem execLinkDisable_grows (a : Access) (s : State) : ∀ nxt, (execLinkDisable a s) = .next nxt → Grows s nxt := by
  grind [Keeps, Grows, FusesLe.refl, FusesLe.trans, execLinkDisable, entryStep_grows]
theorem execLinkEnable_grows (a : Access) (s : State) : ∀ nxt, (execLinkEnable a s) = .next nxt → Grows s nxt := by
  grind [Keeps, Grows, FusesLe.refl, FusesLe.trans, execLinkEnable, entryStep_grows]
theorem execRingConfigure_grows (a : Access) (s : State) : ∀ nxt, (execRingConfigure a s) = .next nxt → Grows s nxt := by
  grind [Keeps, Grows, FusesLe.refl, FusesLe.trans, execRingConfigure, entryStep_grows]
theorem execQueueEnable_grows (a : Access) (s : State) : ∀ nxt, (execQueueEnable a s) = .next nxt → Grows s nxt := by
  grind [Keeps, Grows, FusesLe.refl, FusesLe.trans, execQueueEnable, entryStep_grows]
theorem execQueueDisable_grows (a : Access) (s : State) : ∀ nxt, (execQueueDisable a s) = .next nxt → Grows s nxt := by
  grind [Keeps, Grows, FusesLe.refl, FusesLe.trans, execQueueDisable, entryStep_grows]
theorem execAlarmClear_grows (a : Access) (s : State) : ∀ nxt, (execAlarmClear a s) = .next nxt → Grows s nxt := by
  grind [Keeps, Grows, FusesLe.refl, FusesLe.trans, execAlarmClear, entryStep_grows]
theorem execKeyDigestWrite_grows (a : Access) (s : State) : ∀ nxt, (execKeyDigestWrite a s) = .next nxt → Grows s nxt := by
  grind [Keeps, Grows, FusesLe.refl, FusesLe.trans, execKeyDigestWrite, entryStep_grows]
theorem execUnlockChallengeRead_grows (a : Access) (s : State) : ∀ nxt, (execUnlockChallengeRead a s) = .next nxt → Grows s nxt := by
  grind [Keeps, Grows, FusesLe.refl, FusesLe.trans, execUnlockChallengeRead, entryStep_grows]
theorem execUnlockResponseWrite_grows (a : Access) (s : State) : ∀ nxt, (execUnlockResponseWrite a s) = .next nxt → Grows s nxt := by
  grind [Keeps, Grows, FusesLe.refl, FusesLe.trans, execUnlockResponseWrite, entryStep_grows]
theorem execTenantReset_grows (a : Access) (s : State) : ∀ nxt, (execTenantReset a s) = .next nxt → Grows s nxt := by
  grind [Keeps, Grows, FusesLe.refl, FusesLe.trans, execTenantReset, entryStep_grows]
theorem execEventLogClear_grows (a : Access) (s : State) : ∀ nxt, (execEventLogClear a s) = .next nxt → Grows s nxt := by
  grind [Keeps, Grows, FusesLe.refl, FusesLe.trans, execEventLogClear, entryStep_grows]
theorem execCounterClear_grows (a : Access) (s : State) : ∀ nxt, (execCounterClear a s) = .next nxt → Grows s nxt := by
  grind [Keeps, Grows, FusesLe.refl, FusesLe.trans, execCounterClear, entryStep_grows]
theorem execHostDictionaryAccess_grows (t : Tenant) (h : HostBytes) (pre : PreCheck) (s : State) : ∀ nxt, (execHostDictionaryAccess t h pre s) = .next nxt → Grows s nxt := by
  grind [Keeps, Grows, FusesLe.refl, FusesLe.trans, execHostDictionaryAccess, hostAccess_grows]
theorem execHostGroupControl_grows (t : Tenant) (pre : PreCheck) (s : State) : ∀ nxt, (execHostGroupControl t pre s) = .next nxt → Grows s nxt := by
  grind [Keeps, Grows, FusesLe.refl, FusesLe.trans, execHostGroupControl, hostGroupControl_grows]
theorem execSpiRequest_grows (x : SpiTransaction) (pre : PreCheck) (s : State) : ∀ nxt, (execSpiRequest x pre s) = .next nxt → Grows s nxt := by
  grind [Keeps, Grows, FusesLe.refl, FusesLe.trans, execSpiRequest, spiRequest_grows]
theorem execCanDictionaryRequest_grows (f : CanFrame) (pre : PreCheck) (s : State) : ∀ nxt, (execCanDictionaryRequest f pre s) = .next nxt → Grows s nxt := by
  grind [Keeps, Grows, FusesLe.refl, FusesLe.trans, execCanDictionaryRequest, canRequest_grows]

/-! ### Machine/LoadStore.lean -/

theorem windowWrite_grows (s : State) (g r : Nat) (l : List Byte) : Grows s (windowWrite s g r l) := by
  grind [Keeps, Grows, FusesLe.refl, FusesLe.trans, windowWrite, slotDoorbell_grows, windowClear_keeps, useFree_keeps, modWin_keeps]
theorem remoteParts_keeps (x0 : Nat) (s : State) (x2 : Nat) (x3 : Nat) (x4 : Nat) (x5 : Nat) (x6 : Nat) : Keeps s (remoteParts x0 s x2 x3 x4 x5 x6).1 := by
  fun_induction remoteParts x0 s x2 x3 x4 x5 x6 <;> grind [Keeps, remoteParts, translate_keeps, Mem.wf]
theorem remoteLoad_keeps (s : State) (c d a n : Nat) : Keeps s (remoteLoad s c d a n) := by
  unfold remoteLoad; try dsimp only
  all_goals repeat' first | with_reducible exact Keeps.refl _ | (with_reducible apply Keeps.trans; rotate_left; with_reducible apply foldl_keeps; intro s x; try dsimp only) | (with_reducible apply Keeps.trans; rotate_left; with_reducible apply remoteParts_keeps) | (with_reducible apply Keeps.trans; rotate_left; with_reducible apply memFault_keeps) | (with_reducible apply Keeps.trans; rotate_left; with_reducible apply coreRequest_keeps) | (with_reducible apply Keeps.trans; rotate_left; with_reducible apply modCore_keeps) | refine Keeps.trans ?_ (Keeps.of_fst (remoteParts_keeps _ _ _ _ _ _ _) (by assumption)) | split | grind [Keeps, remoteParts_keeps, memFault_keeps, coreRequest_keeps, modCore_keeps, Mem.wf]
theorem remoteStore_keeps (s : State) (c a : Nat) (l : List Byte) : Keeps s (remoteStore s c a l) := by
  unfold remoteStore; try dsimp only
  all_goals repeat' first | with_reducible exact Keeps.refl _ | (with_reducible apply Keeps.trans; rotate_left; with_reducible apply foldl_keeps; intro s x; try dsimp only) | (with_reducible apply Keeps.trans; rotate_left; with_reducible apply remoteParts_keeps) | (with_reducible apply Keeps.trans; rotate_left; with_reducible apply coreRequest_keeps) | (with_reducible apply Keeps.trans; rotate_left; with_reducible apply memFault_keeps) | refine Keeps.trans ?_ (Keeps.of_fst (remoteParts_keeps _ _ _ _ _ _ _) (by assumption)) | split | grind [Keeps, remoteParts_keeps, coreRequest_keeps, memFault_keeps, Mem.wf]
theorem windowCheck_keeps (s : State) (c a n right : Nat) : Keeps s (windowCheck s c a n right).1 := by
  grind [Keeps, windowCheck, translate_keeps]
theorem loadOp_keeps (c : Nat) (w : U32) (n : Nat) (s : State) : Keeps s (loadOp c w n s) := by
  grind [Keeps, loadOp, cpFault_keeps, windowCheck_keeps, memFault_keeps, useFree_keeps, result_keeps, coreLoad_keeps, remoteLoad_keeps, Mem.wf]
theorem storeOp_grows (c : Nat) (w : U32) (n : Nat) (s : State) : Grows s (storeOp c w n s) := by
  unfold storeOp; try dsimp only
  all_goals repeat' first | with_reducible exact Grows.refl _ | (with_reducible apply Grows.trans; rotate_left; with_reducible apply foldl_grows; intro s x; try dsimp only) | (with_reducible apply Grows.trans; rotate_left; with_reducible apply Keeps.grows; with_reducible apply cpFault_keeps) | (with_reducible apply Grows.trans; rotate_left; with_reducible apply Keeps.grows; with_reducible apply windowCheck_keeps) | (with_reducible apply Grows.trans; rotate_left; with_reducible apply Keeps.grows; with_reducible apply memFault_keeps) | (with_reducible apply Grows.trans; rotate_left; with_reducible apply windowWrite_grows) | (with_reducible apply Grows.trans; rotate_left; with_reducible apply Keeps.grows; with_reducible apply coreWrite_keeps) | (with_reducible apply Grows.trans; rotate_left; with_reducible apply Keeps.grows; with_reducible apply remoteStore_keeps) | (with_reducible apply Grows.trans; rotate_left; with_reducible apply Keeps.grows; with_reducible apply modCore_keeps) | refine Grows.trans ?_ (Grows.of_fst ((windowCheck_keeps _ _ _ _ _).grows) (by assumption)) | refine Grows.trans ?_ (Grows.of_fst ((coreWrite_keeps _ _ _ _).grows) (by assumption)) | split | grind [Keeps, Grows, FusesLe.refl, FusesLe.trans, cpFault_keeps, windowCheck_keeps, memFault_keeps, windowWrite_grows, coreWrite_keeps, remoteStore_keeps, modCore_keeps, Mem.wf]
theorem execLoad_keeps (c : CoreId) (w : U32) (s : State) : ∀ nxt, (execLoad c w s) = .next nxt → Keeps s nxt := by
  unfold execLoad; exact coreStep_keeps _ _ _ _ _ _ (by first | with_reducible exact loadOp_keeps .. | grind [Keeps, coreStep_keeps, loadOp_keeps])
theorem execStore_grows (c : CoreId) (w : U32) (s : State) : ∀ nxt, execStore c w s = .next nxt → Grows s nxt := by
  unfold execStore coreStep
  intro nxt h
  repeat' split at h
  all_goals first
    | (cases h; exact (illegal_keeps ..).grows)
    | (cases h; exact storeOp_grows ..)
    | (cases h; exact Grows.refl _)
    | cases h

end Sys2Proof.Machine
end

