-- ==== Sys2Proof/Laws/Reads.lean ====
section
/-!
SUPPORT. What a read gives where nothing stands in its way: one lemma each for the checked read, the read of an agent that has no
translation cache, and the slate engine's read; and the fields of a record that lies in memory.
-/
set_option Elab.async false
set_option linter.all false
namespace Sys2Proof.Machine

/-- A part of a range that is read is that part's own read. -/
theorem slice_cellRead (m : List Host.Cell) (k n o j : Nat) (h : o + j ≤ n) : slice (cellRead m k n) o j = cellRead m (k + o) j := by
  apply List.ext_getElem
  · simp [slice, cellRead]; omega
  · intro i h1 h2
    simp [slice, cellRead, Nat.add_assoc]

/-- A field of a record in memory depends on its own bytes alone. -/
theorem fieldAt_cellRead (m : List Host.Cell) (k n o j : Nat) (h : o + j ≤ n) :
    fieldAt (cellRead m k n) o j = leNat (cellRead m (k + o) j) := by rw [fieldAt, slice_cellRead m k n o j h]

/-- A read that meets no word in error answers the bytes and changes nothing. -/
theorem eccRead_clean (s : State) (k n : Nat) (h : badIn s k n = []) : eccRead s k n = (s, cellRead s.mem.cells k n, none) := by
  simp [eccRead, h, eccScan]

/-- A checked read of bytes that exist, on no failed channel and with no word in error, answers them and changes nothing. -/
theorem physRead_clean (s : State) (sp o n : Nat) (d : Agent) (h : physCheck s sp o n d = none) (f : sp = 2 → failedStock s o n = none)
    (b : badIn s (memKey sp o) n = []) : physRead s sp o n d = (s, cellRead s.mem.cells (memKey sp o) n, none) := by
  by_cases e : sp = 2
  · subst e; simp [physRead, h, f rfl, eccRead_clean _ _ _ b]
  · simp [physRead, h, e, eccRead_clean _ _ _ b]

/-- A read within one granule of this package by an agent without a translation cache. -/
theorem readAs_one (s : State) (who : Agent) (f t a n p sp off o : Nat) (place : splitAddr s a = (p, sp, off)) (tr : translateAt s t p sp off rightRead = .ok o)
    (pos : 0 < n) (granule : a % 2 ^ 21 + n ≤ 2 ^ 21) (h : physCheck s sp o n who = none) (c : sp = 2 → failedStock s o n = none)
    (b : badIn s (memKey sp o) n = []) : readAs (f + 1) s who t a n = (s, cellRead s.mem.cells (memKey sp o) n, none) := by
  have m : inGranule a n = n := by unfold inGranule; omega
  have z : readAs f s who t (a + n) 0 = (s, [], none) := by cases f <;> simp [readAs]
  simp [readAs, m, place, tr, physRead_clean s sp o n who h c b, z, Nat.pos_iff_ne_zero.mp pos]

/-- The slate engine's read within one granule. -/
theorem slateRead_one (s : State) (a n p sp o : Nat) (place : splitAddr s a = (p, sp, o)) (pos : 0 < n) (granule : a % 2 ^ 21 + n ≤ 2 ^ 21)
    (h : physCheck s sp o n .slate = none) (c : sp = 2 → failedStock s o n = none) (b : badIn s (memKey sp o) n = []) :
    slateRead s a n = (s, .ok (cellRead s.mem.cells (memKey sp o) n)) := by
  have t : translateAt s 0 p sp o rightRead = .ok o := by simp [translateAt]
  simp [slateRead, granules, readAs_one s .slate n 0 a n p sp o o place t pos granule h c b]

end Sys2Proof.Machine
end

