-- ==== Sys2Proof/Tests/Slice0.lean ====
section
/-!
SUPPORT. The model's own tests: ill-formed commands that each check refuses, words written out from the manual's instruction formats,
one case for each statement that has hypotheses, and results worked out from the manual by hand.
-/
namespace Sys2Proof.Tests

open Sys2Proof Sys2Proof.Machine Sys2Proof.Claims

set_option Elab.async false
set_option linter.all false

/-! ## Instruction words, written from the table Instruction formats (R222) -/

/-- Formats A and V: class [31:27], d [26:22], a [21:17], b [16:12], and bits [11:0]. -/
def wordA (cls d a b fn : Nat) : U32 := BitVec.ofNat 32 (cls * 2 ^ 27 + d * 2 ^ 22 + a * 2 ^ 17 + b * 2 ^ 12 + fn)
/-- Format I: class, d, a, function [16:15], immediate [14:0]. -/
def wordI (cls d a fn imm : Nat) : U32 := BitVec.ofNat 32 (cls * 2 ^ 27 + d * 2 ^ 22 + a * 2 ^ 17 + fn * 2 ^ 15 + imm)
/-- Format B: class 0x04, a [26:22], b [21:17], condition [16:14], offset [13:0]. -/
def wordB (cond a b off : Nat) : U32 := BitVec.ofNat 32 (4 * 2 ^ 27 + a * 2 ^ 22 + b * 2 ^ 17 + cond * 2 ^ 14 + off)
/-- Format E: class, a [26:22], b [21:17], function [16:8], tag [7:0]. -/
def wordE (cls a b fn tag : Nat) : U32 := BitVec.ofNat 32 (cls * 2 ^ 27 + a * 2 ^ 22 + b * 2 ^ 17 + fn * 2 ^ 8 + tag)

/-! ## A bench: the package up, core 0 alone in the running group 0 -/

/-- Package 5 with its rails and domains on, stock in service, the dictionary ready, and group 0 of core 0 running under the operator. -/
def bench : State :=
  let s := State.reset
  let s := { s with
    pins := { s.pins with pwrOk := true, stkResetLow := false, misoHiZ := false }
    gaffer := { s.gaffer with running := true, dictReady := true, diesReleased := true, readiness := 0xFF }
    flash := { s.flash with writable := true }
    groups := [(0, { Group.reset with state := .running, request := 1 })]
    cores := [(0, { Core.reset with regs := [(1, 0x40), (2, 3)] })] }
  let s := { s with
    mem := { s.mem with stock := (List.range 16).map (fun c => (c, { density := 64, state := 2, rate := 8533, failedInService := false })) }
    power := { s.power with
      regs := (List.range 8).map (fun r => (r, { Regulator.reset with on := true, stable := nominalMv r }))
      domains := (List.range 16).map (fun d => (d, { Domain.reset with state := .on })) } }
  setVal (setVal s 0x4100 1 0 (1 :: zeros 127)) 0x1004 0 0 [5, 0]

/-- Core 0 of the bench with these registers. -/
def withRegs (s : State) (l : List (Nat × U64)) : State := modCore s 0 (fun k => { k with regs := l })

/-- The global address of offset o of space sp of the bench's package. -/
def addr (sp o : Nat) : Nat := 5 * 2 ^ 51 + sp * 2 ^ 47 + o

/-! ## The control processor -/

theorem test_words_integer : ∀ f < 16, spell (wordA 0 3 1 2 f) = .integer f := by decide
theorem test_words_immediate : ∀ f < 4, spell (wordI 1 3 1 f 5) = .immediate f := by decide
theorem test_words_branch : ∀ f < 6, spell (wordB f 1 2 4) = .branch f := by decide
theorem test_words_plain : spell (wordI 5 3 1 0 4) = .jump ∧ spell (wordA 0x0F 0 0 0 0) = .nop ∧ spell (wordA 0x0F 3 0 0 1) = .beats ∧
    spell (wordA 0x0F 0 1 0 2) = .fault ∧ spell (wordA 0x1F 0 0 0 0) = .illegal ∧ spell (wordB 6 1 2 4) = .illegal := by decide
theorem test_words_loads : ∀ f < 4, spell (wordI 2 3 1 f 0) = .load (2 ^ f) ∧ spell (wordI 3 3 1 f 0) = .store (2 ^ f) := by decide
theorem test_words_engines : spell (wordE 8 1 2 1 7) = .arrGo ∧ spell (wordE 8 1 2 2 7) = .arrWait ∧ spell (wordE 0xB 1 2 1 7) = .dmaGo ∧
    spell (wordE 0xB 1 2 2 7) = .dmaWait ∧ (∀ f, 1 ≤ f → f ≤ 5 → spell (wordE 0xA 1 2 f 7) = .message f) := by
  refine ⟨by decide, by decide, by decide, by decide, ?_⟩
  intro f h h2
  have : f = 1 ∨ f = 2 ∨ f = 3 ∨ f = 4 ∨ f = 5 := by omega
  rcases this with rfl | rfl | rfl | rfl | rfl <;> decide
theorem test_words_vector : spell (wordA 9 1 2 3 0x00) = .vectorArith ∧ spell (wordA 9 1 2 3 0x0F) = .vectorSelect ∧
    spell (wordA 9 1 2 3 0x10) = .vectorFn 0x10 ∧ spell (wordA 9 1 2 3 0x20) = .vectorReduce 0x20 ∧
    spell (wordA 9 1 2 3 0x30) = .vectorLoadStore 0x30 ∧ spell (wordA 9 1 2 3 0x40) = .softmax := by decide
theorem test_words_rest : spell (wordA 0xC 1 2 3 1) = .rngGen ∧ spell (wordA 0xC 1 2 3 2) = .rngVfill ∧ spell (wordA 0xD 0 0 0 1) = .hud ∧
    spell (wordA 0xD 0 0 0 2) = .hudLocal ∧ (∀ f < 11, spell (wordA 0xE 1 2 3 f) = .atomic f 4 ∧
      spell (wordA 0xE 1 2 3 (f + 16)) = .atomic f 8) ∧ spell (wordA 0xE 1 2 3 0xB) = .atomic 0xB 4 ∧
    spell (wordA 0xE 1 2 3 0x1C) = .atomic 0xC 8 ∧ spell (wordA 0xE 1 2 3 0x1D) = .atomic 0xD 8 := by decide

/-- A core of the bench issues, for the statements on the control processor. -/
theorem test_issue_case : ∀ w : U32, issues bench 0 w = true := by intro w; rfl
theorem test_running_case : runningGroup bench 0 = some 0 := by decide
theorem test_reset_inv : Machine.Inv State.reset := by unfold Machine.Inv; decide
theorem test_inv_case : Machine.Inv { bench with mem := { bench.mem with cells := [⟨64, 1⟩] } } := by unfold Machine.Inv; decide
theorem test_queue_case : ({ State.reset with pending := [.stockWipeComplete] } : State).pending = .stockWipeComplete :: [] := rfl
theorem test_link_case : ∀ n, (linkOf State.reset n).state ≠ .up := by intro n; exact nofun
theorem test_fits_case : fits (.intAdd 0 (wordA 0 3 1 2 0)) bench = true := by decide
theorem test_rail_fits_case : fits (.railExcursion .vio 1800 false) bench = true := by decide
theorem test_stall_case : let s := modCore bench 0 (fun k => { k with dmaQ :=
      [{ tag := 7, off := 0, slot := 0, fill := false, rows := 1, src := 0, dst := 0, rowLen := 64, srcStride := 0, dstStride := 0
         pattern := 0, start := 0, next := 0, pend := [], came := [] }] })
    (∃ d ∈ (coreOf s 0).dmaQ, d.tag = 7) ∧ (coreOf s 0).fenced = false := by decide
/-! ## Loads, stores and atomics -/

/-- The bench with s1 at 0x40 of core 0's own scratchpad. -/
def near : State := withRegs bench [(1, BitVec.ofNat 64 (addr 0 0x40)), (2, 3)]
/-- The bench with s1 in package 6. -/
def far : State := withRegs bench [(1, BitVec.ofNat 64 (6 * 2 ^ 51 + 0x40)), (2, 3)]
/-- The bench with s1 in space sp of its package, at offset o. -/
def inSpace (sp o : Nat) : State := withRegs bench [(1, BitVec.ofNat 64 (addr sp o)), (2, 3)]
/-- The bench with a word in the scratchpad and its holder listed. -/
def leased (v : Nat) : State := { near with mem := { near.mem with cells := cellWrite near.mem.cells 0x40 (leBytes 8 v), leases := [0x40] } }
/-- The bench with core 0's lease list full. -/
def crowded : State := { near with mem := { near.mem with leases := (List.range 64).map (fun k => 0x1000 + 8 * k) } }

theorem test_load_case : issues near 0 (wordI 2 3 1 3 0) = true ∧ spell (wordI 2 3 1 3 0) = .load (2 ^ wFnI (wordI 2 3 1 3 0)) ∧
    Reaches near 0 (lsAddr near 0 (wordI 2 3 1 3 0)) 8 rightRead (loadAgent near 0) 0x40 ∧ WayOpen near 0 (lsAddr near 0 (wordI 2 3 1 3 0)) 8 0x40 := by
  refine ⟨by decide, by decide, ?_, by unfold WayOpen; decide⟩; constructor <;> decide
theorem test_store_case : issues near 0 (wordI 3 2 1 3 0) = true ∧ spell (wordI 3 2 1 3 0) = .store (2 ^ wFnI (wordI 3 2 1 3 0)) ∧
    Reaches near 0 (lsAddr near 0 (wordI 3 2 1 3 0)) 8 rightWrite .engine 0x40 ∧ NoRelease near 0x40 8 := by
  refine ⟨by decide, by decide, ?_, by unfold NoRelease; decide⟩; constructor <;> decide
theorem test_stock_load_case : Reaches (inSpace 2 0x40) 0 (lsAddr (inSpace 2 0x40) 0 (wordI 2 3 1 3 0)) 8 rightRead (loadAgent (inSpace 2 0x40) 0) 0x40 := by
  constructor <;> decide
/-- Stock over a bridge whose link reference has stopped, and the same with it running. -/
theorem test_way_held_case : let s := inSpace 2 0x40
    placeWay { s with fabric := { s.fabric with refStopped := (true, true) } } 0 (ownPkg s) 2 0x40 8 = .held ∧
    WayOpen s 0 (lsAddr s 0 (wordI 2 3 1 3 0)) 8 0x40 := by unfold WayOpen; decide
theorem test_way_open_case : WayOpen near 0 (lsAddr near 0 (wordI 3 2 1 3 0)) 8 0x40 ∧ WayOpen near 0 (sreg near 0 1).toNat 8 0x40 ∧
    WayOpen near 0 (sreg near 0 1).toNat 4 0x40 ∧ WayOpen crowded 0 (sreg crowded 0 1).toNat 8 0x40 ∧ wayOut far 0 = .open' ∧
    tenantResetting far (coreTenant far 0) = false := by unfold WayOpen; decide
theorem test_away_case : let p := splitAddr far (lsAddr far 0 (wordI 2 3 1 3 0))
    p.1 ≠ ownPkg far ∧ p.2.1 < 3 ∧ lsAddr far 0 (wordI 2 3 1 3 0) % 2 ^ 21 + 8 ≤ 2 ^ 21 ∧
    translateAt far (coreTenant far 0) p.1 p.2.1 p.2.2 rightRead = .ok 0x40 ∧
    translateAt far (coreTenant far 0) p.1 p.2.1 p.2.2 rightWrite = .ok 0x40 := by decide
theorem test_window_case : let s := inSpace 4 0x1800
    let p := splitAddr s (lsAddr s 0 (wordI 2 3 1 3 0))
    p.1 = ownPkg s ∧ p.2.1 = 4 ∧ p.2.2 + 8 ≤ 2 ^ 24 ∧ 0x1000 ≤ p.2.2 % 2 ^ 16 ∧ p.2.2 % 2 ^ 16 + 8 ≤ 2 ^ 16 ∧ coreTenant s 0 = 0 := by
  decide
theorem test_no_space_case : (splitAddr (inSpace 3 0) (lsAddr (inSpace 3 0) 0 (wordI 2 3 1 3 0))).2.1 = 3 ∧
    4 < (splitAddr (inSpace 9 0) (lsAddr (inSpace 9 0) 0 (wordI 2 3 1 3 0))).2.1 := by decide
theorem test_atomic_case : (sreg near 0 (wA (wordA 0xE 3 1 2 0x13))).toNat % 8 = 0 ∧ spell (wordA 0xE 3 1 2 0x13) = .atomic 3 8 ∧
    spell (wordA 0xE 3 1 2 3) = .atomic 3 4 ∧ spell (wordA 0xE 3 1 2 0xB) = .atomic 0xB 4 ∧
    Reaches near 0 (sreg near 0 1).toNat 8 rightAtomic .engine 0x40 ∧ Reaches near 0 (sreg near 0 1).toNat 4 rightAtomic .engine 0x40 ∧
    NoRelease near 0x40 8 ∧ NoRelease near 0x40 4 := by
  refine ⟨by decide, by decide, by decide, by decide, ?_, ?_, by unfold NoRelease; decide, by unfold NoRelease; decide⟩ <;>
    constructor <;> decide
theorem test_misaligned_case : runningGroup (inSpace 0 0x41) 0 = some 0 ∧ (sreg (inSpace 0 0x41) 0 1).toNat % 8 ≠ 0 := by decide
theorem test_lease_free_case : let old := leNat (cellRead near.mem.cells 0x40 8)
    0 + ownPkg near * 2 ^ 10 + (groupOfCore near 0).getD 0 * 2 ^ 23 + coreTenant near 0 * 2 ^ 31 < 2 ^ 62 ∧ old < 2 ^ 63 ∧
    leasesAt near (leaseHome near 0x40).1 < (leaseHome near 0x40).2 := by decide
theorem test_lease_full_case : ¬ (0x40 ∈ crowded.mem.leases ∨ leasesAt crowded (leaseHome crowded 0x40).1 < (leaseHome crowded 0x40).2) ∧
    Reaches crowded 0 (sreg crowded 0 1).toNat 8 rightAtomic .engine 0x40 := by
  refine ⟨by decide, ?_⟩; constructor <;> decide
theorem test_lease_held_case : let s := leased (2 ^ 63 + 5 * 2 ^ 10)
    let old := leNat (cellRead s.mem.cells 0x40 8)
    2 ^ 63 ≤ old ∧ old % 2 ^ 43 = 0 + ownPkg s * 2 ^ 10 + (groupOfCore s 0).getD 0 * 2 ^ 23 + coreTenant s 0 * 2 ^ 31 ∧
    Reaches s 0 (sreg s 0 1).toNat 8 rightAtomic .engine 0x40 := by
  refine ⟨by decide, by decide, ?_⟩; constructor <;> decide
/-! ## Vectors and random numbers -/

/-- The bench with bytes in core 0's scratchpad. -/
def withBytes (s : State) (off : Nat) (l : List Byte) : State := { s with mem := { s.mem with cells := cellWrite s.mem.cells off l } }
/-- The bench with a softmax descriptor at 0x40: one row of four values from 0x100, to 0x200. -/
def softmaxed : State := withBytes bench 0x40 (leBytes 4 0x100 ++ leBytes 4 4 ++ leBytes 4 1 ++ leBytes 4 0x200)

theorem test_vector_case : (coreOf bench 0).snapB = none ∧ (coreOf (modCore bench 0 (fun k => { k with snapB := some true })) 0).snapB ≠ none := by
  decide
theorem test_vector_memory_case : let w := wordA 9 4 1 2 (0x30 + 2 ^ 7)
    spell w = .vectorLoadStore 0x30 ∧ wC w % 8 = 1 ∧ fmtOf 1 = some .fp16 ∧ ScratchClean bench 0 (sreg bench 0 (wA w)).toNat (Fmt.fp16.bytes 64) ∧
    wC w / 16 % 2 = 0 := by unfold ScratchClean; decide
theorem test_vector_mxfp4_case : ∃ n < 6, fmtOf n = some .mxfp4 := by decide
theorem test_vector_acc_case : let w := wordA 9 4 1 2 0x38
    spell w = .vectorLoadStore 0x38 ∧ 8 ≤ 0x38 % 16 ∧ (sreg bench 0 (wA w)).toNat + 4 ≤ 1024 ∧ wC w / 16 % 2 = 0 := by decide
theorem test_vector_illegal_case : let w := wordA 9 4 1 31 (0x30 + 17 * 2 ^ 7)
    spell w = .vectorLoadStore 0x30 ∧ wC w / 16 % 2 = 1 ∧ wB w = 31 ∧ runningGroup bench 0 = some 0 := by decide
theorem test_softmax_case : spell (wordA 9 0 1 0 0x40) = .softmax ∧ (sreg softmaxed 0 (wA (wordA 9 0 1 0 0x40))).toNat = 0x40 ∧
    ScratchClean softmaxed 0 0x40 16 ∧ ScratchClean softmaxed 0 0x100 16 ∧ ScratchClean softmaxed 0 0x200 16 ∧
    cellRead softmaxed.mem.cells 0x40 16 = leBytes 4 0x100 ++ leBytes 4 4 ++ leBytes 4 1 ++ leBytes 4 0x200 := by
  unfold ScratchClean; decide
theorem test_rng_case : spell (wordA 0xC 3 1 2 1) = .rngGen ∧ wD (wordA 0xC 3 1 2 1) ≠ 0 ∧ wD (wordA 0xC 3 1 2 1) ≠ 31 ∧
    wD (wordA 0xC 31 1 2 1) = 31 ∧ spell (wordA 0xC 3 1 2 2) = .rngVfill := by decide
theorem test_nan_case : isNan 0x7FC00000 = true := by decide
theorem test_add_one : fAdd 0x3F800000 0x3F800000 = 0x40000000 := by decide
theorem test_multiply_half : fMul 0x3F000000 0x40400000 = 0x3FC00000 := by decide
/-! ## Messages and DMA -/

/-- The bench with a message descriptor at 0x40 for mailbox 2 of core 0 of package pkg: payload of 8 bytes at 0x100. -/
def mailing (pkg : Nat) : State := withBytes bench 0x40
  (leBytes 8 (pkg * 2 ^ 51) ++ [2, 0, 9, 0] ++ leBytes 2 8 ++ [0, 0] ++ leBytes 4 0x100 ++ zeros 12)
/-- Core 0 of a state holds a reservation of its mailbox 2 at package pkg. -/
def holding (s : State) (pkg : Nat) : State :=
  modCore s 0 (fun k => { k with
    resv := [{ pkg := BitVec.ofNat 13 pkg, core := 0, mailbox := 2 }]
    boxes := [(2, { Mailbox.reset with reserved := [(5, 0, some 0, 0)] })] })
/-- A message in sequence from core 0 to itself. -/
def note : Msg := { pkg := 5, core := 0, tenant := 0, userTag := 9, crossed := false, seq := 0, num := 0, payload := [1, 2, 3, 4] }
/-- The bench with that message placed, or arrived, in mailbox 2. -/
def mailed (arrived : Bool) : State := modCore bench 0 (fun k => { k with
  boxes := [(2, if arrived then { Mailbox.reset with arrived := [note] } else { Mailbox.reset with placed := [note] })] })
/-- The bench with a DMA descriptor at 0x40: a copy of 64 bytes of the scratchpad from 0x100 to 0x200, or a fill. -/
def moving (op rows : Nat) : State := withBytes bench 0x40
  ([BitVec.ofNat 8 op, 0, 0, 0] ++ leBytes 4 rows ++ leBytes 8 (addr 0 0x100) ++ leBytes 8 (addr 0 0x200) ++ leBytes 4 64 ++ zeros 36)
/-- A copy whose answers are all there, and the bench with it queued. -/
def moved : DmaCmd := { tag := 7, off := 0x40, slot := 0, fill := false, rows := 1, src := 0, dst := 0, rowLen := 64, srcStride := 0
                        dstStride := 0, pattern := 0, start := 0, next := 64, pend := [], came := [] }
def queued : State := modCore (moving 1 1) 0 (fun k => { k with dmaQ := [moved] })

theorem test_reserve_case : spell (wordE 0xA 1 2 1 7) = .message 1 ∧ ownPkg (mailing 5) = 5 ∧ Describes (mailing 5) 0 (wordE 0xA 1 2 1 7) 9 5 0 2 := by
  refine ⟨by decide, by decide, ?_⟩; constructor <;> first | decide | (unfold ScratchClean; decide)
theorem test_reserve_away_case : ownPkg (mailing 6) ≠ 6 ∧ (coreOf (mailing 6) 0).resv.length < 16 ∧
    Describes (mailing 6) 0 (wordE 0xA 1 2 1 7) 9 6 0 2 := by
  refine ⟨by decide, by decide, ?_⟩; constructor <;> first | decide | (unfold ScratchClean; decide)
/-- The same with a copy of stock bytes of package 6 into the receiver's scratchpad under way. -/
def owing : State := modCore (holding (mailing 5) 5) 0 (fun k => { k with dmaQ :=
  [{ moved with src := 6 * 2 ^ 51 + 2 * 2 ^ 47, dst := addr 0 0x200, next := 64, pend := [(9, 0)] }] })
theorem test_owing_case : owesWrites owing 0 (ownPkg owing) 0 = true := by decide
theorem test_unreserve_case : ∀ p ∈ [5, 6], spell (wordE 0xA 1 2 5 7) = .message 5 ∧
    heldResv (holding (mailing p) p) 0 p 0 2 = some { pkg := BitVec.ofNat 13 p, core := 0, mailbox := 2 } := by decide
theorem test_message_way_case : (∀ p ∈ [5, 6], messageWay (mailing p) 0 p 0 = .open' ∧ tenantResetting (mailing p) (coreTenant (mailing p) 0) = false ∧
    messageWay (holding (mailing p) p) 0 p 0 = .open') ∧ wayAcross (holding (mailing 5) 5) 0 0 = .open' ∧
    owesWrites (holding (mailing 5) 5) 0 (ownPkg (holding (mailing 5) 5)) 0 = false ∧ ownPkg (mailing 5) < 2 ^ 13 ∧ fieldAt (leBytes 2 8) 0 2 ≤ 4096 := by
  decide
theorem test_unreserve_slot_case : findSlot (holding (mailing 5) 5) 0 2 5 0 = some (5, 0, some 0, 0) := by decide
theorem test_send_case : let s := holding (mailing 5) 5
    Describes s 0 (wordE 0xA 1 2 2 7) 32 (ownPkg s) 0 2 ∧ ScratchClean s 0 0x100 8 ∧
    heldResv s 0 (ownPkg s) 0 2 = some { pkg := 5, core := 0, mailbox := 2 } ∧ destStatus s 0 0 = 0 ∧
    findSlot s 0 2 (ownPkg s) 0 = some (5, 0, some 0, 0) := by
  refine ⟨?_, by unfold ScratchClean; decide, by decide, by decide, by decide⟩
  constructor <;> first | decide | (unfold ScratchClean; decide)
theorem test_send_unheld_case : heldResv (mailing 5) 0 (ownPkg (mailing 5)) 0 2 = none := by decide
theorem test_receive_case : (boxOf (mailed true) 0 (wTag (wordE 0xA 1 2 3 2) % 16)).arrived = note :: [] ∧
    ScratchClean (mailed true) 0 (sreg (mailed true) 0 1).toNat (msgHeader note 2 ++ note.payload).length ∧
    spell (wordE 0xA 1 2 3 2) = .message 3 ∧ spell (wordE 0xA 1 2 4 2) = .message 4 := by unfold ScratchClean; decide
theorem test_receive_none_case : (boxOf bench 0 (wTag (wordE 0xA 1 2 3 2) % 16)).arrived = [] := by decide
theorem test_arrival_case : (boxOf (mailed false) 0 2).placed.find? (fun x => x.pkg == 5 && x.core == 0 &&
    x.seq == tget (coreOf (mailed false) 0).recvSeq (senderKey 5 0 2) 0) = some note := by decide
theorem test_dma_case : ∀ op ∈ [1, 2], let s := moving op 1
    spell (wordE 0xB 1 0 1 7) = .dmaGo ∧ ScratchClean s 0 0x40 64 ∧ Reaches s 0 (addr 0 0x200) 64 rightWrite .engine 0x200 ∧
    Reaches s 0 (addr 0 0x100) 64 rightRead .engine 0x100 ∧ NoRelease s 0x200 64 ∧
    plainAddr s (addr 0 0x100) + 64 ≤ plainAddr s (addr 0 0x200) ∧ fieldAt (cellRead s.mem.cells 0x40 64) 0x18 4 = 64 := by
  intro op h
  have : op = 1 ∨ op = 2 := by simpa using h
  rcases this with rfl | rfl <;>
    refine ⟨by decide, by unfold ScratchClean; decide, ?_, ?_, by unfold NoRelease; decide, by decide, by decide⟩ <;>
    constructor <;> decide
theorem test_dma_way_case : ∀ op ∈ [1, 2], let s := moving op 1
    let l := cellRead s.mem.cells (scratchKey 0 0x40) 64
    WayOpen s 0 (addr 0 0x200) 64 0x200 ∧ WayOpen s 0 (addr 0 0x100) 64 0x100 ∧ fieldAt l 4 4 = 1 ∧ fieldAt l 1 1 % 2 = 0 ∧ fieldAt l 0x30 8 = 0 ∧
    fieldAt l 0 1 = op := by unfold WayOpen; decide
theorem test_dma_reserved_case : fieldAt (cellRead (moving 3 1).mem.cells 0x40 64) 0 1 = 3 ∧
    2 ^ 20 < fieldAt (cellRead (moving 1 (2 ^ 20 + 1)).mem.cells 0x40 64) 4 4 := by decide
theorem test_dma_busy_case : ¬ ((coreOf queued 0).dmaQ.length < 8 ∧ ∀ d ∈ (coreOf queued 0).dmaQ, d.tag.toNat ≠ wTag (wordE 0xB 1 0 1 7)) ∧
    fieldAt (cellRead queued.mem.cells 0x40 64) 0 1 = 1 := by decide
theorem test_dma_wait_case : spell (wordE 0xB 1 0 2 7) = .dmaWait ∧ (∃ d ∈ (coreOf queued 0).dmaQ, d.tag.toNat = wTag (wordE 0xB 1 0 2 7)) ∧
    (coreOf bench 0).dmaQ = [] := by decide
theorem test_dma_complete_case : (coreOf queued 0).dmaQ.find? (fun d => d.tag == 7 && d.pend == []) = some moved ∧
    badIn queued (scratchKey 0 (moved.off + 0x38)) 4 = [] ∧ coreOn queued 0 = true ∧ moved.came = [] ∧ moved.total ≤ moved.next ∧ moved.pend = [] ∧
    ({ moved with pend := [(9, 0)] } : DmaCmd).pend ≠ [] := by decide
theorem test_retained_case : coreOn (modDom bench 0 (fun d => { d with state := .retention })) 0 = false := by decide
/-! ## The array queue and streams -/

/-- Bytes of an array descriptor at 0x40: a BF16 product of one row, one column and one term. -/
def productBytes : List Byte :=
  [1, 0, 0, 0] ++ leBytes 2 1 ++ leBytes 2 1 ++ leBytes 4 1 ++ zeros 4 ++ leBytes 4 0x100 ++ leBytes 4 2 ++ leBytes 4 0x200 ++ leBytes 4 2 ++
    zeros 32
def producing : State := withBytes bench 0x40 productBytes
/-- An attention command on stream 3 with one page in the scratchpad. -/
def attending : State :=
  let s := withBytes bench 0x40 ([2, 0] ++ leBytes 2 16 ++ [1, 1] ++ leBytes 2 1 ++ leBytes 4 0x100 ++ leBytes 4 0x200 ++ leBytes 4 0x300 ++
    leBytes 4 32 ++ leBytes 4 0x400 ++ leBytes 4 0x2000 ++ leBytes 4 0 ++ leBytes 4 0x1000 ++ leBytes 4 0x3F800000 ++ zeros 12 ++
    leBytes 4 0x8000 ++ leBytes 2 0 ++ leBytes 2 1)
  let s := withBytes (withBytes s 0x100 (leBytes 2 3)) 0x400 (leBytes 8 (addr 0 0x10000))
  { s with serving := { s.serving with trackers := [(3, { Tracker.reset with state := .running, tokens := 5, pages := [(0, 0)] })] } }

theorem test_product_case : spell (wordE 8 1 0 1 7) = .arrGo ∧ CanQueue producing 0 (wordE 8 1 0 1 7) 64 ∧
    descOf producing 0 (wordE 8 1 0 1 7) 64 = productBytes ∧ productBad (productOf productBytes) none = none ∧
    (productOf productBytes).chain = 0 ∧ operandFmt 0 = some .bf16 ∧ (coreOf producing 0).arrQ = [] := by
  refine ⟨by decide, ?_, by decide, by decide, by decide, by decide, by decide⟩
  constructor <;> first | decide | (unfold ScratchClean; decide)
/-- The same product with a chain at 0x500: an FP32 store at 0x600. -/
def chainBytes : List Byte := [0, 1] ++ zeros 30 ++ [0x26, 6, 0, 0] ++ leBytes 4 0x600 ++ leBytes 4 4 ++ leBytes 4 0
def producingChain : State := withBytes (withBytes bench 0x40 (putAt productBytes 0x2C (leBytes 4 0x500))) 0x500 chainBytes
theorem test_product_chain_case : let s := producingChain
    let d := productOf (descOf s 0 (wordE 8 1 0 1 7) 64)
    productBad d none = none ∧ d.chain = 0x500 ∧ (chainOf chainBytes).prologue = [] ∧ chainOk (chainOf chainBytes) d .bf16 48 = true ∧
    (coreOf s 0).arrQ = [] := by decide
theorem test_product_read_case : readChain producingChain 0 0x500 = (producingChain, some (.ok (chainOf chainBytes, 48))) := by rfl
theorem test_product_lines_case : let d := productOf productBytes
    copyingLines producing 0 d.line (d.m * linesPerRow d.n) = false ∧
    copyingLines (modCore producing 0 (fun k => { k with snapB := some false, snapLines := [0] })) 0 d.line (d.m * linesPerRow d.n) = true ∧
    (∀ m < d.m, badIn producing (scratchKey 0 (d.actAddr + m * d.actStride)) (Fmt.bf16.bytes d.k) = []) ∧
    (∀ j < d.k, badIn producing (scratchKey 0 (d.wAddr + j * d.wStride)) (Fmt.bf16.bytes d.n) = []) ∧ runningGroup producing 0 = some 0 := by decide
theorem test_product_bad_case : operandFmt 6 = none ∧ (productOf productBytes).mode ≤ 2 := by decide
theorem test_attention_case : let w := wordE 8 1 0 1 7
    let a := attnOf (descOf attending 0 w 64)
    CanQueue attending 0 w 64 ∧ attnBad a = none ∧ a.format = some .bf16 ∧ (a.s, a.q, a.g, a.firstPage, a.pageCount) = (1, 1, 1, 0, 1) ∧
    a.flags = 0 ∧ fieldAt (cellRead attending.mem.cells (scratchKey 0 a.list) 2) 0 2 % 16384 = 3 ∧
    (trackerOf attending 3).pages = [(0, 0)] ∧ (trackerOf attending 3).tokens < 64 ∧ (trackerOf attending 3).tenant.toNat = coreTenant attending 0 ∧
    (placeWay attending 0 5 0 0x10000 2048 = .open' ∧ placeWay attending 0 5 0 0x11000 2048 = .open') ∧
    Reaches attending 0 (addr 0 0x10000) 2048 rightRead .engine 0x10000 ∧ Reaches attending 0 (addr 0 0x11000) 2048 rightRead .engine 0x11000 := by
  refine ⟨?_, by decide, by decide, by decide, by decide, by decide, by decide, by decide, by decide, by decide, ?_, ?_⟩ <;>
    constructor <;> first | decide | (unfold ScratchClean; decide)

/-- The bench with an array command queued. -/
def arrayed (k : ArrKind) (started : Bool) (streams : List Nat) : State :=
  modCore bench 0 (fun x => { x with arrQ := [{ newCmd 7 0x40 k with started := started, streams := streams }] })
theorem test_arrays_busy_case : (∃ a ∈ (coreOf (arrayed (.product (productOf productBytes) none) true []) 0).arrQ,
    a.tag.toNat = wTag (wordE 8 1 0 2 7)) ∧ (coreOf bench 0).arrQ = [] ∧ spell (wordE 8 1 0 2 7) = .arrWait := by decide
theorem test_array_complete_case : ∀ b, (coreOf (arrayed (.product (productOf productBytes) none) b []) 0).arrQ =
    [{ newCmd 7 0x40 (.product (productOf productBytes) none) with started := b }] := by decide
/-- A finished product with a chain of one store, and one of a store and a send whose block has gone. -/
def chainedDone (l : List StageRec) : ArrCmd :=
  { newCmd 7 0x40 (.product (productOf productBytes) (some { flags := 0, rowBase := 0, colBase := 0, kBase := 0, stream := 0, prologue := []
                                                             epilogue := l })) with started := true, block := 1, sent := 1 }
theorem test_chain_complete_case : ∀ l ∈ [[(⟨0x26, 6, 0, 0x300, 4, 0⟩ : StageRec)], [⟨0x26, 6, 0, 0x300, 4, 0⟩, ⟨0x27, 0, 0, 2 ^ 21, 5 * 2 ^ 19, 4⟩]],
    let h : Chain := { flags := 0, rowBase := 0, colBase := 0, kBase := 0, stream := 0, prologue := [], epilogue := l }
    let s := modCore bench 0 (fun x => { x with arrQ := [chainedDone l] })
    chainDone (chainedDone l) (productOf productBytes) h (arrayMode s 0 (productOf productBytes).mode) = true ∧
    (∀ i ∈ sendStages h, sendNotifies (epilogueAt h i) = false) ∧ coreOn s 0 = true ∧
    badIn s (scratchKey 0 ((productOf productBytes).chain + 0x18)) 4 = [] := by decide
theorem test_attention_complete_case : let s := arrayed (.attention (attnOf (zeros 64))) true [3]
    (coreOf s 0).arrQ.map (fun a => (a.started, a.streams)) = [(true, [3])] ∧ (trackerOf s 3).state ≠ .closing ∧ NoDrain s := by
  unfold NoDrain; decide

/-- A stream command at 0x40 with its block after it, and stream 3 of group 0 in a state, with a front reel 7. -/
def streaming (l : List Byte) (x : Tracker) : State :=
  let s := withBytes bench 0x40 l
  { s with
    serving := { s.serving with trackers := [(3, x)], pools := 8 :: List.replicate 15 0 }
    reels := { s.reels with bankA := { state := .front, reel := 7, policy := 0 }, posted := 7, anyPosted := true } }
/-- A stream command: its number, stream, count, address, adapter, ring and flags. -/
def command (cmd stream count a adapter ring flags : Nat) : List Byte :=
  [3, BitVec.ofNat 8 cmd] ++ leBytes 2 stream ++ leBytes 4 count ++ leBytes 8 a ++ zeros 8 ++ leBytes 2 adapter ++
    [BitVec.ofNat 8 ring, BitVec.ofNat 8 flags] ++ zeros 4
def live (st : TState) (tokens pages readers : Nat) : Tracker :=
  { Tracker.reset with state := st, tokens := tokens, prompt := 4, pages := (List.range pages).map (fun i => (0, i)), readers := readers }

theorem test_stream_state_case : ∀ p ∈ [(3, TState.running), (4, .parked), (5, .running), (8, .lost), (3, .free)],
    let s := streaming (command p.1 3 0 0 0 0 0) (live p.2 4 2 1)
    (coreOf s 0).arrQ = [] ∧ fieldAt (descOf s 0 (wordE 8 1 0 1 7) 32) 0 1 = 3 ∧ fieldAt (descOf s 0 (wordE 8 1 0 1 7) 32) 1 1 = p.1 ∧
    frontReel s = some 7 ∧ (trackerOf s 3).group.toNat = 0 ∧ (trackerOf s 3).tenant.toNat = groupTenant s 0 ∧
    (trackerOf s 3).readers ≠ 0 := by decide
theorem test_stream_ready_case : StreamReady (streaming (command 3 3 0 0 0 0 0) (live .running 4 2 1)) 0 (wordE 8 1 0 1 7) 3 := by
  refine ⟨?_, by decide, by decide⟩; constructor <;> first | decide | (unfold ScratchClean; decide)
theorem test_stream_owner_case : let s := streaming (command 3 3 0 0 0 0 0) (live .running 4 2 1)
    Owns s 0 3 0 ∧ NoDrain s := by unfold Owns NoDrain; decide
theorem test_stream_lag_case : 3 < reelLag 11 7 ∧ ¬ 3 < reelLag 7 7 := by decide
theorem test_stream_tenant_case : ({ live .running 4 2 1 with tenant := 9 } : Tracker).tenant.toNat ≠
    groupTenant (streaming (command 3 3 0 0 0 0 0) (live .running 4 2 1)) 0 := by decide
theorem test_stream_read_case : let s := streaming (command 6 3 0 0x200 0 0 0) (live .running 4 2 1)
    let k := streamCmdOf (descOf s 0 (wordE 8 1 0 1 7) 32)
    (k.stream, k.addr.toNat) = (3, 0x200) ∧ ScratchClean s 0 0x200 64 ∧ (sreg s 0 1).toNat + 0x20 ≤ 0x200 := by
  unfold ScratchClean; decide
theorem test_stream_roster_case : let s := streaming (command 7 0 5 0x200 0 0 0) (live .running 4 2 1)
    let k := streamCmdOf (descOf s 0 (wordE 8 1 0 1 7) 32)
    ((s.serving.trackers.filter (fun e => e.2.state == .running && e.2.group.toNat == 0 && e.2.bucket == k.ring)).map (·.1)).take k.count =
      [3] := by decide
theorem test_stream_roster_foreign_case : let s := streaming (command 7 0 5 0x200 0 0 0) { live .running 4 2 1 with tenant := 9 }
    ∃ e ∈ s.serving.trackers, e.2.state = .running ∧ e.2.group.toNat = 0 ∧ e.2.bucket = 0 ∧ e.2.tenant.toNat ≠ groupTenant s 0 :=
  ⟨_, List.mem_singleton.mpr rfl, by decide⟩
/-- A stream's page list in slice 0, and ring 1 configured at home. -/
def opening (stream : Nat) : State :=
  setVal (streaming (command 1 stream 4 (addr 1 0x1000) 0x8000 1 0) (live .free 0 0 0)) 0x7131 2 0 [6]
theorem test_stream_open_case : let s := opening 3
    let k := streamCmdOf (descOf s 0 (wordE 8 1 0 1 7) 32)
    k.ring < 8 ∧ ringSize s k.ring ≠ 0 ∧ splitAddr s k.addr.toNat = (ownPkg s, 1, 0x1000) ∧ k.adapter.toNat.testBit 15 = true ∧
    k.stream = 3 ∧ (trackerOf s 3).state = .free ∧ k.count + 64 ≤ boundOf s 15 ∧
    translateAt s (coreTenant s 0) (ownPkg s) 1 0x1000 rightWrite = .ok 0x1000 ∧
    4 * ((boundOf s 15 + 63) / 64) = 131072 ∧ k.addr.toNat % 2 ^ 21 + 131072 ≤ 2 ^ 21 ∧ physCheck s 1 0x1000 131072 .engine = none ∧
    s.mem.bad = [] ∧ frontReel s = some 7 := by decide
theorem test_stream_open_refused_case : ∀ x ∈ [(live .running 4 2 1, true), ({ live .running 4 2 1 with tenant := 9 }, false)],
    let s := { opening 3 with serving := { (opening 3).serving with trackers := [(3, x.1)] } }
    (trackerOf s (3 % 16384)).state ≠ .free ∧ (((trackerOf s 3).tenant.toNat = groupTenant s 0 ∧ (trackerOf s 3).group.toNat = 0) ↔ x.2 = true) ∧
    frontReel { opening 3 with reels := { bench.reels with bankA := { state := .filling, reel := 7, policy := 0 } } } = none ∧
    boundOf s 15 < boundOf s 15 + 64 := by decide
/-- A stream's trackers from i on, all running. -/
def occupied (i : Nat) : Nat → Tbl Tracker
  | 0 => []
  | n + 1 => (i, live .running 4 2 1) :: occupied (i + 1) n
theorem tfind_occupied (n i k : Nat) (h : i ≤ k) (h' : k < i + n) : tfind (occupied i n) k = some (live .running 4 2 1) := by
  induction n generalizing i with
  | zero => omega
  | succ n ih =>
    by_cases e : i = k
    · simp [occupied, tfind, e]
    · simp only [occupied, tfind, if_neg e]; exact ih (i + 1) (by omega) (by omega)
theorem test_stream_open_full_case :
    lowestFreeStream { opening 0xFFFF with serving := { (opening 0xFFFF).serving with trackers := occupied 0 16384 } } = none := by
  rw [lowestFreeStream, List.find?_eq_none]
  intro k hk
  have := tfind_occupied 16384 0 k (Nat.zero_le _) (by have := List.mem_range.mp hk; omega)
  simp only [trackerOf, tget, this]; decide
theorem test_stream_open_lowest_case : lowestFreeStream (opening 0xFFFF) = some 0 := by decide +kernel
theorem test_commit_case : ∀ p ∈ [(1, TState.open', 0), (0, .running, 5)],
    let s := streaming (command 2 3 4 0 0 0 p.1) (live p.2.1 p.2.2 3 0)
    let k := streamCmdOf (descOf s 0 (wordE 8 1 0 1 7) 32)
    k.flags.toNat = p.1 ∧ k.count = 4 ∧ k.addr = 0 ∧ (trackerOf s 3).prompt = 4 ∧
    fieldAt (cellRead s.mem.cells (scratchKey 0 0x60) 80) 2 1 % 2 = 0 ∧ tfind s.serving.boards 3 = none := by decide
theorem test_commit_fits_case : let s := streaming (command 2 3 4 0 0 0 0) (live .running 5 3 0)
    CommitFits s 0 3 0 7 (streamCmdOf (descOf s 0 (wordE 8 1 0 1 7) 32)) := by
  constructor <;> first | decide | (unfold Owns; decide) | (unfold NoDrain; decide)

/-- A commit of one token that waits: its follow reel and the block's flags, and the storyboard vector at 0x300. -/
def awaitingCommit (count addr flags : Nat) (st : TState) : State :=
  let s := withBytes (streaming [] (live st 5 2 0)) 0x60 (leBytes 2 7 ++ [BitVec.ofNat 8 flags])
  let s := withBytes s 0x300 ([0, 0] ++ leBytes 2 3 ++ leBytes 4 6 ++ zeros 8 ++ [0xFF] ++ zeros 79 ++ leBytes 2 32 ++ leBytes 2 32)
  let s := modCore s 0 (fun x => { x with arrQ :=
    [{ newCmd 7 0x40 (.stream (streamCmdOf (command 2 3 count addr 0 0 0))) with started := true }] })
  if st = .verifying then { s with serving := { s.serving with boards :=
    [(3, { n := 1, parents := [0xFF], rootReel := 7, rootPolicy := 0, base := 6 })] } } else s
theorem test_follow_wait_case : let s := awaitingCommit 1 0 1 .running
    let block := cellRead s.mem.cells (scratchKey 0 0x60) 32
    fieldAt block 0 2 = 7 ∧ fieldAt block 2 1 % 2 = 1 ∧ s.reels.bankA.state = .front ∧ s.reels.bankA.reel.toNat = 7 ∧
    (coreOf s 0).arrQ.map (fun a => a.started) = [true] ∧ (trackerOf s 3).state = .running ∧ tfind s.serving.boards 3 = none := by decide
theorem test_ring_wait_case : let s := awaitingCommit 1 0 0 .running
    fieldAt (cellRead s.mem.cells (scratchKey 0 0x60) 32) 2 1 % 2 = 0 ∧
    CommitFits s 0 3 0 7 (streamCmdOf (command 2 3 1 0 0 0 0)) := by
  refine ⟨by decide, ?_⟩
  constructor <;> first | decide | (unfold Owns; decide) | (unfold NoDrain; decide)
theorem test_compaction_case : let s := awaitingCommit 1 0x300 0 .verifying
    let v := cellRead s.mem.cells (scratchKey 0 0x300) 128
    (trackerOf s 3).state = .verifying ∧ (trackerOf s 3).readers = 0 ∧ vectorBad v 3 6 = none ∧ fieldAt v 0 1 = 0 ∧ fieldAt v 8 1 = 0 ∧
    1 = depthOf [0xFF] 64 0 ∧ moves 5 (pathTo [0xFF] 64 0) = [] ∧ fieldAt v 0x60 2 = 32 ∧ fieldAt v 0x62 2 = 32 ∧ fieldAt v 0x50 4 = 0 ∧
    (tfind s.serving.boards 3).map (fun b => b.n) = some 1 := by decide
/-! ## Chains and groups -/

/-- A product of one row and one column with a chain of these epilogue stages at the head of the array queue. -/
def chained (l : List StageRec) (block : Nat) : State :=
  modCore bench 0 (fun k => { k with arrQ := [{ newCmd 7 0x40 (.product (productOf productBytes) (some
    { flags := 0, rowBase := 0, colBase := 0, kBase := 0, stream := 0, prologue := [], epilogue := l })) with
      started := true, block := block }] })
/-- An FP32 store at 0x300, an INT8 quantise of kind 1 at 0x300 with its scales at 0x400, and a send to core 1. -/
def storeStage : StageRec := { code := 0x26, fmt := 6, option := 0, a := 0x300, param := 4, b := 0 }
def quantStage : StageRec := { code := 0x25, fmt := 4, option := 1, a := 0x300, param := 4, b := 0x400 }
def sendStage : StageRec := { code := 0x27, fmt := 0, option := 0, a := 2 ^ 21, param := 5 * 2 ^ 19, b := 4 }

theorem test_store_block_case : 4 * (productOf productBytes).n ≤ storeStage.param ∧ ScratchClean (chained [storeStage] 0) 0 0x300 4 ∧
    ((coreOf (chained [storeStage] 0) 0).arrQ.map (fun a => (a.block, a.started))) = [(0, true)] ∧
    (∀ h : Chain, h.epilogue = [storeStage] → h.epilogue = [] ++ [storeStage]) ∧
    0 < unitCount (arrayMode (chained [storeStage] 0) 0 0) { flags := 0, rowBase := 0, colBase := 0, kBase := 0, stream := 0
                                                             prologue := [], epilogue := [storeStage] } 1 := by
  refine ⟨by decide, by unfold ScratchClean; decide, by decide, fun h e => e, by decide⟩
theorem test_sweep_case : let s := chained [quantStage] 0
    ScratchClean s 0 quantStage.a 4 ∧ ScratchClean s 0 quantStage.b 1 ∧ quantStage.a + 4 ≤ quantStage.b ∧
    (coreOf s 0).arrQ.map (fun a => a.swept) = [false] ∧ (productOf productBytes).n ≤ quantStage.param := by unfold ScratchClean; decide
theorem test_tile_send_case : let s := chained [storeStage, sendStage] 1
    splitAddr s (sendDest sendStage) = (ownPkg s, 0, 1 * 2 ^ 21 + 0) ∧ 4 * 1 ≤ sendStride sendStage ∧
    destStatus s 1 (coreTenant s 0) = 0 ∧ ScratchClean s 1 0 4 := by unfold ScratchClean; decide
/-- The block that the tile-send took: one row of four bytes. -/
theorem test_tile_send_ready_case : let s := modHead (chained [storeStage, sendStage] 1) 0 (fun a => { a with ready := [(0, 1, 0, [1, 2, 3, 4])] })
    let d := productOf productBytes
    (coreOf s 0).arrQ.map (fun a => (a.sent, a.block, a.failed, a.started)) = [(0, 1, [], true)] ∧
    ((coreOf s 0).arrQ.map (fun a => (a.ready.filter (fun x => x.1 == 0 && x.2.1 == 1)).map (fun x => x.2.2))) =
      [(List.range d.m).map (fun m => (((m * sendStride sendStage + 4 * (0 * 16) : Nat) : Int), [1, 2, 3, 4]))] ∧
    4 * min (tileN (arrayMode s 0 d.mode)) (d.n - 0) = 4 ∧ sendDest sendStage < 2 ^ 64 ∧ storeStage.code = 0x26 ∧ sendStage.code = 0x27 ∧
    coreOn s 0 = true := by decide

/-- The bench with every command of core 0 done, or one outstanding. -/
theorem test_huddle_case : spell (wordA 0xD 0 0 0 1) = .hud ∧ spell (wordA 0xD 0 0 0 2) = .hudLocal ∧
    ((coreOf bench 0).arrQ = [] ∧ (coreOf bench 0).dmaQ = [] ∧ (coreOf bench 0).waiting = []) ∧
    (coreOf (modCore bench 0 (fun k => { k with waiting := [1] })) 0).waiting ≠ [] := by decide
/-- Group 0 with core 0 arrived, its shot list in slice 0 at 0x2000, after kernel k of two. -/
def arrivedAt (k : Nat) (flags : U32) : State :=
  let s := modCore bench 0 (fun x => { x with arrived := true })
  let s := modGroup s 0 (fun x => { x with kernel := k, header := { members := 1, kernels := 2, flags := flags, codeBase := 0, argBase := 0 } })
  setVal s 0x4100 3 0 (leBytes 8 (addr 1 0x2000))
theorem test_settled_case : Settled bench := by unfold Settled; decide
theorem test_release_case : ∀ k < 2, let s := arrivedAt k 0
    (groupOf s 0).state = .running ∧ (groupOf s 0).saving = false ∧ (groupOf s 0).pending = false ∧
    (∀ m ∈ members s 0, (coreOf s m).arrived = true ∧ (coreOf s m).fenced = false ∧ coreOn s m = true ∧ (coreOf s m).snapB = none) ∧
    s.serving.trackers = [] ∧ s.mem.bad = [] ∧ ((groupOf s 0).header.kernels ≤ k + 1 ↔ k = 1) := by decide
theorem test_kernel_case : KernelAt (arrivedAt 0 0) 0 1 0x2060 ∧ KernelAt (arrivedAt 1 1) 0 0 0x2040 := by
  constructor <;> constructor <;> decide
theorem test_snapshot_case : ∀ b, let s := modCore bench 0 (fun k => { k with snapB := some b, snapLines := [3] })
    (coreOf s 0).snapB = some b ∧ (coreOf s 0).arrQ = [] ∧ (∀ n ∈ (coreOf s 0).snapLines, n < 1024) ∧ runningGroup s 0 = some 0 := by decide
/-- The bench with group 0 ended. -/
def ended : State := modGroup bench 0 (fun x => { x with state := .idle })
theorem test_copy_fault_case : (∃ f : SaveFault, f.fault = .memory ∧ f.core.toNat ∈ members bench 0) ∧
    memNat bench (contKey 0 0x20) 1 = 0 ∧ isMember bench 0 0 = true ∧ (groupOf bench 0).saving = false ∧ (groupOf bench 0).state = .running ∧
    isMember ended 0 0 = true ∧ (groupOf ended 0).state = .idle ∧ runningGroup ended 0 = none ∧ restoringGroup ended 0 = none :=
  ⟨⟨{ core := 0, fault := .memory, detail := 0 }, by decide⟩, by decide⟩
/-- Group 0 being saved, or preempted and being restored, its slots from 0x400000 of the vault. -/
def saving (restoring : Bool) : State :=
  modGroup (arrivedAt 0 0) 0 (fun x => { x with
    saving := !restoring, restoring := restoring, state := if restoring then .preempted else .running, savedMembers := 1
    saveSpace := 1, saveBase := 0x400000, savedKernel := 1 })
theorem test_save_case : ∀ b, SlotsFit (saving b) 0 ∧ Settled (saving b) ∧ (∀ m ∈ members (saving b) 0, coreOn (saving b) m = true) ∧
    (∀ m ∈ members (saving b) 0, (coreOf (saving b) m).snapB = none) ∧ groupRole (saving b) 0 ≠ 2 ∧ (saving b).mem.bad = [] := by
  unfold SlotsFit Settled; decide
theorem test_restore_saved_case : (groupOf (saving true) 0).savedKernel < (groupOf (saving true) 0).header.kernels ∧
    (saving true).serving.trackers = [] ∧ 0 ∈ members (saving true) 0 := by decide
theorem test_restore_kernel_case : KernelAt (saving true) 0 1 0x2060 := by constructor <;> decide
/-! ## Fabric, domains and sensing -/

/-- A flit from edge die E0 to core 0, one from core 0 to core 33 of its die, and one on to core 512 of the other die. -/
def flit0 : FabricFlit := { src := .edge .e0 0, dst := .core 0, response := false, seq := 0, data := [1] }
def flit1 : FabricFlit := { src := .core 0, dst := .core 33, response := false, seq := 0, data := [1] }
def flit2 : FabricFlit := { src := .core 0, dst := .core 512, response := false, seq := 0, data := [1] }
/-- The bench with channel 0 of bridge E0 and its pair in a state, or with flits on the mesh. -/
def channelled (out : Bool) (fails : Nat) (held : List FabricFlit) (pairOut : Bool) : State :=
  { bench with fabric := { bench.fabric with channels :=
    [(0, { out := out, lanes := [(2, { fails := fails, buffer := held, behind := [] })] }), (1, { Channel.reset with out := pairOut })] } }
def meshed (l : List (CoreId × FabricFlit)) : State := { bench with fabric := { bench.fabric with transit := l } }
theorem test_bridge_case : bridgeNum .edge0 = 0 ∧ flitCrossing flit0 0 = some (0, 2) ∧ flitRouted flit0 = true ∧ fabricUp bench = true ∧
    useChannel bench 0 0 = some 0 ∧ clockStopped bench 0 = false ∧ exitRouter 0 0 2 = some 0 ∧
    (∀ r ∈ bridgeRouters 0 0, spineHeldAt bench r = false) ∧ flit0.seq = sentOf bench flit0 ∧ flit0 ∉ inFabric bench ∧
    ((chanOf bench 0).lane 2).flits = [] ∧ ((chanOf (channelled false 1 [flit0] false) 0).lane 2).flits.head? = some flit0 ∧
    useChannel (channelled false 1 [flit0] false) 0 0 = some 0 := by decide
theorem test_bridge_behind_case : let s := channelled false 0 [flit1, flit0] false
    flit0 ∈ ((chanOf s 0).lane 2).flits ∧ ((chanOf s 0).lane 2).flits.head? ≠ some flit0 := by decide
theorem test_bridge_stopped_case : ∀ e, let s := { bench with fabric := { bench.fabric with refStopped := (true, true) } }
    clockStopped s (edgeBridge e) = true ∧ flit0 ∉ ((chanOf s 0).lane 2).flits := by intro e; cases e <;> decide
theorem test_bridge_out_case : (∃ e ∈ (chanOf (channelled false 17 [flit0] false) 0).lanes, 16 < e.2.fails) ∧
    (∀ p, (chanOf (channelled false 17 [flit0] p) 0).out = false ∧ (chanOf (channelled false 17 [flit0] p) 1).out = p) ∧
    (∀ x < 4, ((chanOf (channelled false 17 [flit0] false) 0).lane x).flits.Nodup ∧
      ∀ f ∈ ((chanOf (channelled false 17 [flit0] false) 0).lane x).flits, f ∉ ((chanOf (channelled false 17 [flit0] false) 1).lane x).flits) := by
  decide
theorem test_bridge_detour_case : useChannel (channelled true 0 [] false) 0 0 = some 1 ∧ useChannel (channelled true 0 [] true) 0 0 = none ∧
    (∀ p, flit0.seq = sentOf (channelled true 0 [] p) flit0 ∧ flit0 ∉ inFabric (channelled true 0 [] p)) ∧ flitOwner flit0 = some 0 ∧
    runningGroup (channelled true 0 [] true) 0 = some 0 := by decide
theorem test_bridge_stall_case : edgeBridge .e0 = 0 ∧ (chanOf (channelled false 0 [flit0] false) 0).flits ≠ [] ∧
    flitOwner flit0 = some 0 ∧ isMember bench 0 0 = true ∧ (groupOf bench 0).saving = false := by decide
theorem test_mesh_case : flitRouted flit1 = true ∧ fabricUp bench = true ∧ spineHeldAt bench 0 = false ∧ flit1.seq = sentOf bench flit1 ∧
    flit1 ∉ inFabric bench ∧ nextHop bench flit1 0 = .router 1 ∧ nextHop bench flit1 33 = .arrive ∧ (33, flit1) ∈ (meshed [(33, flit1)]).fabric.transit ∧
    overtakes (meshed [(33, flit1)]) flit1 = false ∧ overtakes (meshed [(33, { flit1 with seq := 1 }), (1, flit1)]) { flit1 with seq := 1 } = true ∧
    runningGroup bench 0 = some 0 ∧ flitOwner flit1 = some 0 := by decide
theorem test_mesh_bridge_case : nextHop bench flit2 480 = .bridge 1 0 ∧ flitCrossing flit2 1 = some (0, 2) ∧ flitRouted flit2 = true ∧
    flit2 ∉ ((chanOf bench 32).lane 2).flits := by decide
theorem test_mesh_path : nextHop bench flit1 1 = .router 33 ∧ nextHop bench flit2 0 = .router 32 := by decide
theorem test_vault_case : (regOf bench 1).on = true ∧ bench.gaffer.running = true ∧ (∀ d, periodOf bench d ∈ [500, 707, 1000, 1414, 2000]) := by
  refine ⟨by decide, by decide, ?_⟩; intro d; cases d <;> decide
theorem test_refresh_case : refreshAt 1001 = 500 ∧ refreshAt 850 = 2000 := by decide
/-- The bench with a wrong word at the start of slice 0. -/
def worn (fatal : Bool) : State := { bench with mem := { bench.mem with bad := [(2 ^ 47, fatal)] } }
theorem test_scrub_case : ∀ b, badIn (worn b) (sliceKey 0 0) (2 ^ 25) = [(2 ^ 47, b)] ∧ keySpace (2 ^ 47) = 1 := by decide
theorem test_stock_case : (stockOf bench 3).state = 2 := by decide
/-- Domain 0 of the bench in a state. -/
def domained (f : Domain → Domain) : State := { modDom bench 0 f with groups := [] }
theorem test_domain_case : ∀ k ∈ [{ Domain.reset with state := PState.on, drain := some .retention, request := 1 },
      { Domain.reset with state := .on, drain := some .off, request := 2 }, { Domain.reset with state := .staging, stage := 3 },
      { Domain.reset with state := .staging, stage := 8 }, { Domain.reset with state := .retention, request := 0, droop := true }],
    let s := domained (fun _ => k)
    SettledBut s 0 ∧ domOf s 0 = k ∧ holdingOn s 0 = [] ∧ domGroups s 0 (fun x => x.state == .fenced) = [] ∧ (regOf s 0).on = true := by
  unfold SettledBut; decide
theorem test_staging_case : stagingCount (domained (fun k => { k with state := .retention, droop := true })) < 2 := by decide
theorem test_trip_held_case : ∀ r, let s := { bench with gaffer := { bench.gaffer with warm := true, running := r, dictReady := false } }
    SettledBut s 0 ∧ s.gaffer.warm = true ∧ s.gaffer.running = r := by unfold SettledBut; decide
theorem test_sense_case : (∀ d < 16, (domOf bench d).hot = false) ∧ (List.replicate 16 (400 : Int)).length = 16 ∧
    (∀ d < 16, (List.replicate 16 (400 : Int)).getD d 0 ≤ 1050) ∧ 1050 < (List.replicate 16 (1060 : Int)).getD 0 0 ∧
    (domOf bench 0).state = .on := by decide
theorem test_window_power_case : bench.power.trans = none ∧ 1350000 * [1400000].length < [1400000].sum := by decide
theorem test_canary_case : (domOf bench 0).state = .on ∧ (domOf (domained (fun k => { k with state := .off })) 0).state ≠ .on := by decide
theorem test_ageing_case : bench.flash.writable = true ∧ bench.ageing.store = [] ∧
    ({ bench with flash := { bench.flash with writable := false } } : State).flash.writable = false ∧
    ({ bench.ageing with pos := 5 } : Ageing).pos % 1024 ≠ 0 ∧ [true].getD 0 true = true := by decide
/-! ## Rails and the two-wire buses -/

/-- A transition of VCORE_F from 700 to 750 mV, and the bench with it under way. -/
def rise (stop returning lost : Bool) : Transition :=
  { kind := .vcore true, fromMv := 700, toMv := 750, command := true, stopSeen := stop, returning := returning, lost := lost }
def railed (x : Transition) : State :=
  { bench with power := { bench.power with trans := some x, committed := true, chain := true } }
theorem test_transition_case : (railed (rise true false false)).pins.pmbReq = false ∧ effective (railed (rise true false false)) = 750 ∧
    (rise true false false).toMv = valNat (railed (rise true false false)) 0x2000 0 0 750 ∧
    (railed (rise true true false)).power.again = false ∧ (railed (rise true false true)).i2c.pm ≠ .stuck := by decide
theorem test_transition_short_case : let s := setVal (railed (rise true false false)) 0x2000 0 0 (leBytes 2 800)
    750 ≠ effective s ∧ s.power.chain = true ∧ ChainMay s := by unfold ChainMay; decide
theorem test_settle_stuck_case : ({ railed (rise true true true) with i2c := { bench.i2c with pm := .stuck } } : State).i2c.pm = .stuck := by
  decide
theorem test_retry_case : let s := setVal { bench with power := { bench.power with retry := true } } 0x2000 0 0 (leBytes 2 800)
    s.power.trans = none ∧ ChainMay s ∧ (regOf s 0).stable ≠ effective s := by unfold ChainMay; decide
theorem test_rail_step_case : let s := { bench with
      power := { bench.power with waiting := [1] }, net := { bench.net with quads := [(1, { Quad.reset with target := 950, synth := .locked })] } }
    s.power.waiting = 1 :: [] ∧ stepPermitted s 1 = true ∧ busReady s = true ∧ (quadOf s 1).synth ≠ .tuning ∧ (quadOf s 1).target = 950 ∧
    (regOf s (quadRail 1)).stable < 925 := by decide
theorem test_bus_case : busReady bench = true ∧ transacting bench = false ∧ bench.power.trans = none ∧ bench.i2c.pm = .idle := by decide
theorem test_status_case : (statusTraffic .vio 0xC004).length = 5 ∧ (statusTraffic .vio 0).length = 2 := by decide
theorem test_bus_transacting_case : let s := railed (rise false false false)
    transacting s = true ∧ s.i2c.failed = false ∧ s.i2c.retries < 3 ∧ s.power.trans ≠ none := by decide
theorem test_bus_failed_case : let s := { railed (rise false true false) with i2c := { bench.i2c with failed := true } }
    s.i2c.failed = true ∧ s.i2c.pm = .idle ∧ 3 ≤ ({ bench.i2c with retries := 3 } : I2c).retries := by decide
theorem test_bus_lent_case : let s := { bench with i2c := { bench.i2c with lent := true } }
    s.i2c.lent = true ∧ valNat s 0x2051 0 0 0 ≠ 1 ∧ s.power.chain = false := by decide
theorem test_recovery_case : bench.i2c.pm = .idle ∧ bench.i2c.lent = false ∧ bench.i2c.mod = .idle ∧
    ({ bench.i2c with pm := .recovering, pmRounds := 2, mod := .recovering, modRounds := 2 } : I2c).pmCause ≠ .request := by decide
theorem test_recovery_hold_case : let s := { bench with
      power := { bench.power with hold := true }, i2c := { bench.i2c with pm := .recovering, pmRounds := 1, pmCause := .request } }
    s.power.hold = true ∧ s.i2c.pmRounds ≠ 0 ∧ s.i2c.failed = false ∧ s.power.chain = false ∧ s.pins.pmbReq = false := by decide
theorem test_module_case : present bench 3 = false ∧ present { bench with i2c := { bench.i2c with present := 8 } } 3 = true ∧
    (zeros 128).length = 128 := ⟨by decide, by decide, by simp [zeros]⟩
theorem test_module_up_case : (linkOf { bench with net := { bench.net with links := [(3, { Link.reset with state := .up })] } } 3).state = .up := by
  decide
/-! ## Pass links -/

/-- The bench with link 3 as given, and the links released or not. -/
def linked (l : Link) : State := { bench with net := { bench.net with links := [(3, l)] } }
/-- A mode word with these low 56 bits and its CRC-8. -/
def word (v : Nat) : U64 := BitVec.ofNat 64 (v + crc8 (leBytes 7 v) * 2 ^ 56)
/-- A link in a state with the candidate that an offer of everything gives first. -/
def top : Cand := { mode := 3, width := 3, deep := true }
def trying (st : LState) : Link := { Link.reset with state := st, cands := [top, noCand], mode := some top }
theorem test_words_heard_case : ∀ k ∈ [1, 2, 3, 4], ∀ st ∈ [LState.offering, .holding, .training], HearsWord (linked (trying st)) 3
    (word (k + 15 * 2 ^ 4 + 15 * 2 ^ 8 + 3 * 2 ^ 12 + 3 * 2 ^ 33 + 3 * 2 ^ 35 + 2 ^ 37)) k := by unfold HearsWord; decide +kernel
theorem test_offer_case : let s := linked { Link.reset with state := .offering }
    (candidates (offered s 3) (15, 15, 3)).head?.map (fun c => (c.mode, c.width)) = some (3, 3) ∧
    candidates (offered s 3) (0, 15, 3) = [] ∧ (linkOf s 3).recovering = false := by decide +kernel
theorem test_choice_case : mwChoice (word (2 + 3 * 2 ^ 33 + 3 * 2 ^ 35 + 2 ^ 37)).toNat = top ∧ (quadOf bench 0).synth ≠ .failed ∧
    (linkOf (linked (trying .offering)) 3).cands.head? = some top := by decide +kernel
theorem test_confirm_case : let l := { trying .training with confirming := true }
    l.recovering = false ∧ l.unacked = [] ∧ l.txq = [] ∧ (trying .training).confirming = false ∧ (trying .training).confirmSeen = false := by
  decide
theorem test_signal_case : let s := { linked Link.reset with i2c := { bench.i2c with present := 8 } }
    (linkOf s 3).state = .down ∧ present s 3 = true ∧ ready s 4 = true ∧
    ready { s with gaffer := { s.gaffer with readiness := 0 } } 4 = false := by decide
theorem test_training_case : let s := { linked { trying .training with mode := some noCand } with power := bench.power }
    (quadOf s 0).stepping = false ∧ noCand.mode ≠ 3 ∧ (linkOf s 3).confirmSeen = false := by decide
theorem test_training_fast_case : let s := { linked (trying .training) with power := { bench.power with regs :=
      [(3, { Regulator.reset with on := true, stable := 950 })] } }
    top.mode = 3 ∧ quadMv s 0 = 950 := by decide

/-- The 256 bytes of a flit of a channel byte, a type, a sequence, an ack, a credit field and a payload, with its CRC-32C. -/
def flit (ch ty seq ack cr : Nat) (l : List Byte) : List Byte :=
  let head := [BitVec.ofNat 8 ch, BitVec.ofNat 8 ty] ++ leBytes 2 5 ++ leBytes 2 6 ++ leBytes 2 seq ++ leBytes 2 ack ++ leBytes 2 cr
  let body := fit 240 l
  head ++ leBytes 4 (flitCrc (head ++ zeros 4 ++ body)) ++ body
/-- An up link with two unacknowledged flits. -/
def busyLink : Link := { Link.reset with
  state := .up, txSeq := 2, unacked := [{ flit := blankFlit, packet := none }, { flit := blankFlit, packet := none }], spent := [(1, 3)] }
/-- A one-flit packet for this package: a read of 8 bytes. -/
def readFlit : List Byte := flit (2 + 8 + 16) 0 0 0 0 ([0x20, 1] ++ leBytes 2 0 ++ leBytes 2 4 ++ leBytes 2 9 ++ leBytes 8 (addr 0 0x40) ++ leBytes 4 8)
theorem test_packet_flit_case : let s := linked busyLink
    let f := flitOf readFlit
    PlainFlit readFlit 0 ∧ f.seq = busyLink.rxSeq ∧ (f.first, f.last, f.dst, f.response, f.vc) = (true, true, 5, false, 2) ∧
    tget busyLink.taken f.pool 0 < poolSize f.pool ∧ tget busyLink.part f.pool [] = [] ∧ fieldAt f.payload 4 2 ≤ 224 ∧
    packetFoul s (packetOf [f]) 4 = none ∧ tenantResetting s (packetOf [f]).tenant = false := by unfold PlainFlit; decide +kernel
theorem test_quiet_case : QuietUp busyLink := by unfold QuietUp; decide
theorem test_later_flit_case : PlainFlit (flit 26 0 7 0 0 []) 0 ∧ (flitOf (flit 26 0 7 0 0 [])).seq ≠ busyLink.rxSeq ∧
    flitOk (zeros 256) = false := by unfold PlainFlit; decide +kernel
theorem test_ack_case : let f := flitOf (flit 0 (1 + 16) 0 0 (1 + 2 * 16) [])
    flitOk (flit 0 (1 + 16) 0 0 (1 + 2 * 16) []) = true ∧ (f.ftype, f.ackValid, f.crPool, f.crCount) = (1, true, 1, 2) ∧
    (f.ack - baseSeq busyLink + 1).toNat ≤ busyLink.unacked.length ∧ f.crCount ≤ tget busyLink.spent 1 0 := by decide +kernel
theorem test_replay_case : ∀ a ∈ [1, 9], flitOk (flit 0 2 0 a 0 []) = true ∧ (flitOf (flit 0 2 0 a 0 [])).ftype = 2 ∧
    (((flitOf (flit 0 2 0 a 0 [])).ack - baseSeq busyLink).toNat ≤ busyLink.unacked.length ↔ a = 1) := by decide +kernel
theorem test_foul_case : PlainFlit (flit 0 3 0 0 0 [1, 1]) 3 ∧ (flitOf (flit 0 3 0 0 0 [1, 1])).seq = busyLink.rxSeq ∧
    (eventBudget bench busyLink.recvLog).1 = true := by unfold PlainFlit; decide +kernel
theorem test_foul_budget_case : (eventBudget bench (0, 16)).1 = false := by decide
theorem test_control_case : ∀ k ∈ [1, 2], PlainFlit (flit 0 4 0 0 0 [BitVec.ofNat 8 k]) 4 ∧
    fieldAt (flitOf (flit 0 4 0 0 0 [BitVec.ofNat 8 k])).payload 0 1 = k := by unfold PlainFlit; decide +kernel
theorem test_pause_case : let l := { Link.reset with state := .paused, pause := some .partner }
    l.state = .paused ∧ l.pause = some .partner ∧ l.txq = [] ∧ l.owed = [] := by decide
theorem test_recovery_link_case : (linkOf (linked { Link.reset with state := .recovery }) 3).state = .recovery ∧
    (linkOf (linked busyLink) 3).state = .up := by decide

/-- A read request of this package's to a package of its frame, or to one that no route reaches. -/
def asking (dst : Nat) : Packet :=
  { vc := 2, response := false, dst := dst, src := 5, hops := 0, op := 0x20, wantsAnswer := true, tenant := 0, tag := 9, arg := 0, body := leBytes 4 8 }
def crossing (dst : Nat) : State :=
  let s := linked { Link.reset with state := .up }
  { setVal s 0x5000 0 0 (zeros 6 ++ [0x83] ++ zeros 100) with net := { s.net with xbar := [{ packet := asking dst, fromLink := none }] } }
theorem test_unrouted_case : (idNumber bench, packetRoute (crossing 1000) (asking 1000)) = (5, Route.none) := by decide +kernel
theorem test_routed_case : ∃ n, packetRoute (crossing 6) (asking 6) = .link n ∧ hasQueue (crossing 6) n (asking 6) = true := by
  refine ⟨3, ?_⟩; decide +kernel
/-- A packet that came in on link 0 of the other die, while both link references run, or one has stopped. -/
def inTransit (stop : Bool) : State :=
  let s := crossing 6
  { s with
    net := { s.net with xbar := [{ packet := asking 6, fromLink := some 8 }] }
    fabric := { s.fabric with refStopped := (stop, false) } }
theorem test_transit_case : ∀ stop, transitPasses (inTransit stop) = !stop ∧ packetRoute (inTransit stop) (asking 6) = .link 3 ∧ 8 / 8 ≠ 3 / 8 ∧
    tenantResetting (inTransit stop) (asking 6).tenant = false := by decide +kernel
theorem test_up_word_case : mwOk (word 1).toNat = true ∧ (linkOf (linked busyLink) 3).state = .up := by decide +kernel
theorem test_synthesiser_case : ∀ st ∈ [SynthState.tuning, .failed, .locked, .recalibrating],
    (quadOf { bench with net := { bench.net with quads := [(0, { Quad.reset with synth := st })] } } 0).synth = st := by decide
theorem test_recalibration_case : 80 < ((100 : Int) - Quad.reset.calTenths).natAbs ∧ ((50 : Int) - Quad.reset.calTenths).natAbs ≤ 80 := by decide
/-! ## Packets of other packages -/

/-- The bench with one packet of package 6, or of another, received on port 3. -/
def pack (op vc : Nat) (response : Bool) (tenant tag arg : Nat) (body : List Byte) : Packet :=
  { vc := vc, response := response, dst := 5, src := 6, hops := 0, op := op, wantsAnswer := true, tenant := tenant, tag := tag, arg := arg, body := body }
def got (s : State) (p : Packet) : State := { s with net := { s.net with inbox := [(3, p)] } }
theorem test_received_case (s : State) (p : Packet) (own : ownPkg s = 5) (away : p.src = 6) (kept : tenantResetting s p.tenant = false) :
    Received (got s p) 3 p p.op p.vc p.response := by
  refine ⟨rfl, rfl, ⟨rfl, rfl⟩, ?_, .inr kept⟩
  have h : ownPkg (got s p) = ownPkg s := rfl
  rw [h, own, away]; decide
/-- A message of core 0 of package 6 to mailbox 2 of core 0, in a slot reserved for it or not. -/
def messageBody : List Byte := leBytes 2 6 ++ leBytes 2 0 ++ leBytes 2 0 ++ leBytes 2 4 ++ leBytes 2 9 ++ [2, 0] ++ leBytes 4 0 ++ [1, 2, 3, 4]
def boxed (n : Nat) : State := modCore bench 0 (fun k => { k with boxes := [(2, { reserved := List.replicate n (6, 0, none, 0), placed := [], arrived := [] })] })
theorem test_message_packet_case : let m := msgOf messageBody
    ownPkg (boxed 1) = 5 ∧ (2 : Nat) * 2 ^ 21 / 2 ^ 21 % 1024 = 2 ∧ destStatus (boxed 1) 0 m.tenant.toNat = 0 ∧
    fieldAt messageBody 0xA 1 % 16 = 2 ∧ findSlot (boxed 1) 0 2 m.pkg.toNat m.core.toNat = some (6, 0, none, 0) ∧
    findSlot (boxed 0) 0 2 m.pkg.toNat m.core.toNat = none := by decide
theorem test_tile_packet_case : (splitAddr bench (addr 0 0x40)).2 = (0, 0 * 2 ^ 21 + 0x40) ∧ destStatus bench 0 0 = 0 ∧ destStatus bench 0 7 = 3 ∧
    badIn bench (scratchKey 0 0x40) 4 = [] ∧ addr 0 0x40 / 2 ^ 21 % 1024 = 0 := by decide
theorem test_reserve_packet_case : let b := [(2 : Byte), 0, 0, 0] ++ leBytes 4 (6 * 2 ^ 10)
    fieldAt b 0 1 = 2 ∧ (coreOf (boxed 0) 0).closed = false ∧ (boxOf (boxed 7) 0 2).used = 7 ∧ (boxOf (boxed 8) 0 2).used = 8 ∧
    destStatus (boxed 8) 0 0 = 0 ∧ findSlot (boxed 1) 0 2 (fieldAt b 4 4 / 2 ^ 10 % 2 ^ 13) (fieldAt b 4 4 % 2 ^ 10) = some (6, 0, none, 0) := by decide
theorem test_access_packet_case : ∀ sp ∈ [0, 1, 2], (splitAddr bench (addr sp 0x40)).2 = (sp, 0x40) ∧ 0 < fieldAt (leBytes 4 8) 0 4 ∧
    addr sp 0x40 % 2 ^ 21 + 8 ≤ 2 ^ 21 ∧ physCheck bench sp 0x40 8 .operatorLoad = none ∧
    physCheck bench sp 0x40 8 .engine = none ∧ drainHolds bench 0x40 8 = false ∧ tenantResetting bench 0 = false ∧ badIn bench (memKey sp 0x40) 8 = [] ∧
    failedStock bench 0x40 8 = none ∧ (∀ k < 8, isHome bench k = false) := by decide +kernel
theorem test_access_release_case : ∀ sp, NoRelease bench (memKey sp 0x40) 8 := by
  intro sp k hk h
  have none : ∀ k < 8, isHome bench k = false := by decide
  rw [none k hk] at h; cases h

/-- Core 0 waits for the answer of tag 9. -/
def expecting (k : RemoteKind) : State :=
  let s := modCore bench 0 (fun x => { x with waiting := [9] })
  { s with net := { s.net with out := [(9, .core 0 k)] } }
theorem test_answer_case : ∀ k ∈ [RemoteKind.reserve 2 6 0 2, .reserve 0 6 0 2, .load 2 8 (addr 2 0x40), .load 0 8 (addr 2 0x40), .store (addr 2 0x40)],
    (coreOf (expecting k) 0).waiting = [9] ∧ tfind (expecting k).net.out 9 = some (.core 0 k) ∧ ownPkg (expecting k) = 5 ∧
    runningGroup (expecting k) 0 = some 0 ∧ (groupOf (expecting k) 0).saving = false ∧ (9 : Nat) ≠ 0 := by decide
theorem test_undeliverable_case : ∀ b ∈ [(1 : Byte), 4, 0x40, 0x4F], fieldAt [b] 0 1 < 0x20 ∨ 0x40 ≤ fieldAt [b] 0 1 ∧ fieldAt [b] 0 1 < 0x50 := by decide
theorem test_revocation_packet_case : let arg := 2 ^ 28 + 6 * 2 ^ 10 + 3
    arg % 2 ^ 32 = 2 ^ 28 + (6 : Pkg).toNat * 2 ^ 10 + (3 : CoreId).toNat ∧ (∀ k ∈ (leased 0).mem.leases, k % 8 = 0) ∧ (leased 0).mem.leases ≠ [] := by decide
theorem test_revocation_answer_case : (2 ^ 28 + 5 * 2 ^ 10 + 0) % 2 ^ 32 = (Tag.core (ownPkg bench) (0 : CoreId).toNat).encode := by decide
theorem test_mem_whole_case : MemWhole bench := ⟨rfl, by decide⟩
theorem test_tenant_notice_case : (0x7 * 2 ^ 16) / 2 ^ 16 % 2 ^ 12 = 7 ∧ tenantResetting bench 7 = false ∧ (∀ g ∈ runningGroups bench, (groupOf bench g).saving = false) ∧
    runningGroups bench ≠ [] := by decide
def resetting (step : Nat) (awaiting : List Nat) : State := modTq bench 7 (fun q => { q with resetStep := step, awaiting := awaiting, former := [0] })
theorem test_tenant_reset_case : (tqOf (resetting 4 []) 7).resetStep = 4 ∧ (tqOf (resetting 4 []) 7).awaiting = [] ∧
    (tqOf (resetting 4 [6]) 7).resetStep = 4 ∧ (tqOf (resetting 6 []) 7).resetStep = 6 ∧ ((resetting 4 []).serving.trackers.map (·.1)).Nodup := by decide

/-! ## Experience rings -/

/-- Ring 1 of 2^4 records at 0x10000 of package p's stock. -/
def ringed (p : Nat) : State := setVal (setVal bench 0x7131 1 0 (leBytes 8 (p * 2 ^ 51 + 2 * 2 ^ 47 + 0x10000))) 0x7131 2 0 [4]
theorem test_ring_request_case : let s := ringed 5
    homeRing s (addr 2 0x10000) = some 1 ∧ homeRing s (addr 2 0x20000) = none ∧ (ringOf s 1).deferred = [] ∧
    memNat s (ringKey s 1 - 64 + 8) 8 ≤ (ringOf s 1).released ∧ (ringOf s 1).granted + 16 ≤ (ringOf s 1).released + 2 ^ ringSize s 1 ∧
    (ringOf s 1).released + 2 ^ ringSize s 1 < (ringOf s 1).granted + 17 ∧ tenantResetting s 0 = false ∧ s.mem.bad = [] ∧
    (∀ e ∈ s.mem.stock, e.2.failedInService = false) := by decide
theorem test_ring_grant_case : let s := ringed 6
    let s := { s with reels := { s.reels with queue := [{ ring := 1, bytes := zeros 64 }, { ring := 1, bytes := zeros 64 }] }
                      net := { s.net with out := [(9, .ringAsk 1)] } }
    tfind s.net.out 9 = some (.ringAsk 1) ∧ (∀ x ∈ s.reels.queue, x.ring = 1) ∧ s.reels.queue.length = fieldAt (leBytes 2 2) 0 2 ∧
    ringHome s 1 ≠ ownPkg s ∧ ringSize s 1 ≠ 0 ∧ tenantResetting s 0 = false := by decide
theorem test_ring_release_case : let s := ringed 6
    FeedsRing s 1 6 (2 * 2 ^ 47 + 0x10000) ∧ ∀ j, j < 8 → FeedsRing s j 6 (2 * 2 ^ 47 + 0x10000) → j = 1 := by unfold FeedsRing; decide +kernel
theorem test_ring_publish_case : let s := modRing (ringed 5) 1 (fun r => { r with arrived := [(0, zeros 64)] })
    isHome s 1 = true ∧ (ringOf s 1).arrived = [((ringOf s 1).written, zeros 64)] ∧ (zeros 64).length = 64 ∧ s.mem.bad = [] ∧
    (∀ e ∈ s.mem.stock, e.2.failedInService = false) := by decide
/-! ## Reels -/

/-- Slice 0 as a source: region at 0x1000 of 0x1000 bytes, seal word at 0x100 of reel 9, and one push entry of 224 bytes to package 6,
slice 1, incoming index 2, offset 0x40, in a state; the seal word in its own. -/
def pushing (sealed entry : Nat) : State :=
  let d := sliceKey 0 directoryBase
  let w (k : Nat) (l : List Byte) (m : List Host.Cell) : List Host.Cell := cellWrite m k l
  let cells := w (d + 0x20) (leBytes 4 0x1000 ++ leBytes 4 0x1000 ++ leBytes 4 0x100) (w (d + 0x1C) [1, 0]
    (w (d + 0x2040) (leBytes 4 0 ++ leBytes 4 224 ++ leBytes 2 6 ++ leBytes 2 1 ++ leBytes 4 0x40 ++ leBytes 2 2 ++ [BitVec.ofNat 8 entry, 0] ++
      leBytes 4 0 ++ [9, 0]) (w (sliceKey 0 0x100) [9, 0, BitVec.ofNat 8 sealed] [])))
  { bench with mem := { bench.mem with cells := cells }, reels := { bench.reels with sources := [0] } }
/-- A reel frame of package 6 for reel 9, incoming index 2 and slice 1. -/
def framed (kind value : Nat) : Packet :=
  pack 0 3 false 0 0 0 (leBytes 1 kind ++ [0] ++ leBytes 2 9 ++ leBytes 2 2 ++ leBytes 2 1 ++ leBytes 4 value ++ zeros 4 ++ (if kind = 5 then List.replicate 224 7 else []))
theorem test_frame_case : ∀ kind ∈ [1, 2, 3, 4, 5, 6], FrameAt (got (pushing 2 1) (framed kind 0)) 3 (framed kind 0) kind := by
  intro kind h
  have e : fieldAt (framed kind 0).body 0 1 = kind := by revert kind; decide +kernel
  exact ⟨rfl, rfl, e, by change (6 : Nat) ≠ ownPkg (pushing 2 1); decide, by decide⟩
theorem test_source_case : let s := pushing 1 0
    (0 : CoreId) ∈ s.reels.sources ∧ dirNat s 0 0x28 4 + 4 ≤ directoryBase ∧ sealState s 0 = 1 ∧ pushCount s 0 = 1 ∧
    (∀ i < pushCount s 0, pushDst s 0 i ≠ ownPkg s) := by decide +kernel
theorem test_named_case : ∀ st ∈ [1, 2], let s := pushing 2 st
    findPush s 6 1 2 9 = some (0, 0) ∧ pushMark s 0 0 = 0 ∧ pushLen s 0 0 = 224 ∧ dirNat s 0 (pushOff 0) 4 + 224 ≤ dirNat s 0 0x24 4 ∧
    dirNat s 0 0x20 4 + dirNat s 0 (pushOff 0) 4 + 224 ≤ directoryBase ∧ badIn s (sliceKey 0 0x1000) 224 = [] ∧ dirNat s 0 0x20 4 = 0x1000 ∧
    sealState s 0 = 2 ∧ (∀ j < pushCount s 0, j ≠ 0 → pushState s 0 j = 3) := by decide +kernel
theorem test_resend_case : let s := pushing 2 2
    (0 : U16).toNat < pushCount s 0 ∧ pushState s 0 0 = 2 ∧ pushDst s 0 0 ≠ ownPkg s := by decide +kernel
/-- The argument of a write done with tag 0: data at offset 0x40 or the done frame of incoming index 2, slice 1, reel 9. -/
def performedArg (kind value : Nat) : Nat := kind + 2 * 2 ^ 3 + 1 * 2 ^ 13 + 9 * 2 ^ 23 + value * 2 ^ 39
theorem test_performed_case : ∀ kind ∈ [5, 6], let s := pushing 2 1
    let a := performedArg kind 0x40
    findPush s 6 (a / 2 ^ 13 % 1024) (a / 2 ^ 3 % 1024) (a / 2 ^ 23 % 65536) = some (0, 0) ∧ pushState s 0 0 = 1 ∧ a % 8 = kind ∧
    a / 2 ^ 39 % 2 ^ 25 = dirNat s 0 (pushOff 0 + 0xC) 4 ∧ tenantResetting s 0 = false ∧ s.mem.bad = [] ∧
    (∀ e ∈ s.mem.stock, e.2.failedInService = false) := by decide +kernel

/-- Slice 1 as the weight region: shares of 4,096 bytes at 0x2000 and 0x4000, and three incoming entries, the first two done. -/
def receiving (x other : BState) (region : List CoreId) : State :=
  let d := sliceKey 1 directoryBase
  let done (i : Nat) (m : List Host.Cell) : List Host.Cell := cellWrite m (d + 0x46 + 8 * i) [1, 0]
  { bench with
    mem := { bench.mem with cells := cellWrite (cellWrite (done 1 (done 0 [])) (d + 8) (leBytes 4 0x2000 ++ leBytes 4 0x4000 ++ leBytes 4 0x1000)) (d + 0x16) [3, 0] }
    reels := { bench.reels with
      slices := region, bankA := { state := x, reel := 8, policy := 0 }
      bankB := { state := other, reel := if other = .filling then 9 else 7, policy := 0 }, arriving := [(1026, { len := some 224, start := none, performed := 0, ended := none })] } }
theorem test_receiving_case : ∀ y ∈ [BState.front, .filling], let s := receiving .front y [1]
    s.mem.bad = [] ∧ (∀ e ∈ s.mem.stock, e.2.failedInService = false) ∧ tenantResetting s 0 = false := by decide +kernel
theorem test_offer_taken_case : let s := receiving .front .empty [1]
    (1 : Nat) ∈ s.reels.slices.map (fun x => x.toNat) ∧ (bankOf s (!true)).state = .front ∧ newer 9 (bankOf s (!true)).reel.toNat = true ∧
    (bankOf s true).state = .empty ∧ (∃ x ∈ s.reels.slices, 0 < incomingCount s x.toNat) ∧ s.reels.anyPosted = false := by decide +kernel
theorem test_offer_held_case : let s := { receiving .front .draining [1] with serving := { bench.serving with trackers := [(3, { live .running 0 0 0 with reel := 7 })] } }
    (bankOf s true).state = .draining ∧ reelHeld s (bankOf s true).reel.toNat = true := by decide +kernel
theorem test_offer_stale_case : let s := receiving .front .empty []
    ¬ (1 : Nat) ∈ s.reels.slices.map (fun x => x.toNat) ∧ NoDrain s := by unfold NoDrain; decide +kernel
theorem test_data_frame_case : let s := receiving .front .filling [1]
    (coreOf s 1).revoking = [] ∧ fillingBank s = some true ∧ (bankOf s true).reel.toNat = 9 ∧
    tget s.reels.arriving (1 * 1024 + 2) Arrival.reset = { len := some 224, start := none, performed := 0, ended := none } ∧ (framed 5 0).body.length = 240 ∧ badIn s (sliceKey 1 (dirNat s 1 0xC 4 + 0)) 224 = [] ∧
    min (min 224 224) (dirNat s 1 0x10 4 - 0) = 224 := by decide +kernel
theorem test_done_frame_case : let s := receiving .front .filling [1]
    2 < incomingCount s 1 ∧ (∀ x ∈ s.reels.slices, ∀ i < incomingCount s x.toNat, (x.toNat, i) ≠ (1, 2) → doneBit s x.toNat i = true) ∧
    fieldAt (framed 6 0).body 8 4 ≤ (tget s.reels.arriving 1026 Arrival.reset).performed ∧
    (tget s.reels.arriving 1026 Arrival.reset).performed < fieldAt (framed 6 224).body 8 4 := by decide +kernel
theorem test_done_frame_more_case : let s := receiving .front .filling [1]
    1 < incomingCount s 1 ∧ (∃ x ∈ s.reels.slices, ∃ i < incomingCount s x.toNat, (x.toNat, i) ≠ (1, 1) ∧ doneBit s x.toNat i = false) := by
  refine ⟨by decide +kernel, 1, by decide, 2, by decide +kernel, by decide, by decide +kernel⟩
/-! ## Slates -/

/-- The bench with 4 MiB of its stock lent, its stock usable, function 0 a bus master and the slate word at 0x8000 of stock. -/
def lending : State :=
  let s := setVal bench 0x7210 2 0 (leBytes 8 (2 ^ 22))
  let s := modFn s 0 (fun f => { f with busMaster := true })
  { s with slate := { s.slate with word := BitVec.ofNat 64 (addr 2 0x8000) } }
def slateCmd (op pkg step a length : Nat) : SlateCmd := { op := op, pkg := pkg, step := step, addr := BitVec.ofNat 64 a, length := BitVec.ofNat 64 length }
def operation (c : SlateCmd) (o : SlateOrigin) (p : SlatePhase) (buf : Tbl (List Byte)) : SlateOp := 
  { cmd := c, origin := o, id := 3, phase := p, gen := 0, acks := 0, buf := buf, mark := 0, template := [], reels := [] }
theorem test_slate_word_case : let s := { lending with mem := { lending.mem with cells := cellWrite [] (memKey 2 0x8000) (leBytes 8 (11 + 1 * 2 ^ 48)) } }
    s.slate.word ≠ 0 ∧ splitAddr s s.slate.word.toNat = (ownPkg s, 2, 0x8000) ∧ memNat s (memKey 2 0x8000) 8 / 2 ^ 48 % 256 = 1 ∧
    s.slate.take = none ∧ s.slate.restore = none ∧ ready s 7 = true := by decide +kernel
/-- A take begun by the slate word, with no keeper or with package 6. -/
def taking (p : SlatePhase) : State :=
  { lending with slate := { lending.slate with take := some (operation (slateCmd 1 0 11 0 0) .word p []) }, net := { lending.net with out := [(9, .slate 3 0)] } }
theorem test_take_case : ∀ p ∈ [SlatePhase.requested, .closing, .claiming], splitAddr (taking p) (taking p).slate.word.toNat = (ownPkg (taking p), 2, 0x8000) ∧
    (taking p).slate.take = some (operation (slateCmd 1 0 11 0 0) .word p []) ∧ keeperPkg (taking p) = 0x1FFF ∧ tfind (taking p).net.out 9 = some (.slate (operation (slateCmd 1 0 11 0 0) .word p []).id 0) ∧
    (taking p).mem.bad = [] ∧ (∀ e ∈ (taking p).mem.stock, e.2.failedInService = false) ∧ (operation (slateCmd 1 0 11 0 0) .word p []).acks = 0 := by decide +kernel
theorem test_claim_case : ∀ p ∈ [SlatePhase.requested, .choosing, .manifest], let s := setVal (taking p) 0x7210 1 0 (leBytes 2 6)
    keeperPkg s = 6 ∧ keeperPkg s ≠ 0x1FFF ∧ keeperPkg s ≠ ownPkg s ∧ s.slate.claimed ≠ some (keeperPkg s) ∧ tenantResetting s 0 = false ∧
    (s.slate.take.map (fun k => (k.phase, k.acks))) = some (p, 0) := by decide
theorem test_keeper_case : lentSize lending ≠ 0 ∧ lending.slate.revoked = false ∧ lending.slate.keeperOf = none ∧ lentSize bench = 0 ∧
    (9 * 2 ^ 28 + 6) % 2 ^ 13 = 6 := by decide
theorem test_release_dailies_case : let k := operation (slateCmd 6 6 0 0 0) (.host 4) .requested []
    let s := { lending with slate := { lending.slate with release := some k, keeperOf := some 6 } }
    s.slate.release = some k ∧ k.origin = .host 4 ∧ s.slate.keeperOf = some (resolvePkg s k.cmd.pkg) ∧
    lending.slate.keeperOf ≠ some (resolvePkg lending k.cmd.pkg) := by decide

/-- A manifest of one extent of two FP32 elements stored whole, of package 6 and step 11, for 0x40 of the bench's vault. -/
def manifest : List Byte :=
  [0x53, 0x4C, 0x41, 0x54, 1, 0, 1, 0] ++ leBytes 8 11 ++ leBytes 2 6 ++ zeros 4 ++ leBytes 2 6 ++ zeros 6 ++ leBytes 2 1 ++ zeros 96 ++
    leBytes 8 (addr 1 0x40) ++ leBytes 8 0 ++ leBytes 4 2 ++ leBytes 4 3 ++ [2, 0, 0, 0] ++ leBytes 4 0
def extent : Extent := { source := addr 1 0x40, element := 0, count := 2, tensor := 3, content := 2, code := 0, reserved := 0, data := 0 }
/-- A drain of that generation to host memory. -/
def draining : State :=
  { lending with
    mem := { lending.mem with cells := cellWrite [] (memKey 2 (2 ^ 40 - 2 ^ 22)) manifest }
    slate := { lending.slate with drain := some (operation (slateCmd 2 6 11 0x1000 (2 ^ 40)) (.host 4) .requested []), keeperOf := some 6 } }
theorem test_drain_refused_case : let s := { draining with slate := { draining.slate with keeperOf := none } }
    s.slate.keeperOf ≠ some (resolvePkg s 6) := by decide
theorem test_drain_generation_case : let s := draining
    s.slate.keeperOf = some (resolvePkg s 6) ∧ resolvePkg s 6 ≠ ownPkg s ∧ heldGen s 6 11 = some 0 ∧ genBase s (ownPkg s) 0 = 2 ^ 40 - 2 ^ 22 ∧
    stockAddr s (genBase s (ownPkg s) 0) = addr 2 (2 ^ 40 - 2 ^ 22) ∧ stockAddr s (genBase s (ownPkg s) 0 + 2 ^ 20) = addr 2 (2 ^ 40 - 2 ^ 22 + 2 ^ 20) ∧
    stockAddr s (genBase s (ownPkg s) 1) = addr 2 (2 ^ 40 - 2 ^ 21) ∧ tenantResetting s 0 = false ∧
    fieldAt (genHeader s 0) 7 1 % 2 = 0 ∧ fieldAt (genHeader s 0) 0x16 2 % 2 ^ 13 = fieldAt (genHeader s 0) 0x10 2 % 2 ^ 13 ∧
    (fnOf s 0).busMaster = true := by decide +kernel
theorem test_drain_size_case : let n := extentsSize (manifestExtents (cellRead draining.mem.cells (memKey 2 (2 ^ 40 - 2 ^ 22)) (2 ^ 20)))
    n = 64 ∧ 2 ^ 20 + n ≤ (BitVec.ofNat 64 (2 ^ 40)).toNat := by
  have count : fieldAt (cellRead draining.mem.cells (memKey 2 (2 ^ 40 - 2 ^ 22)) (2 ^ 20)) 0x1E 2 = 1 := by
    rw [fieldAt_cellRead _ _ _ _ _ (by omega)]; decide +kernel
  have entry : storedSize (extentOf (cellRead draining.mem.cells (memKey 2 (2 ^ 40 - 2 ^ 22)) (2 ^ 20)) 0) = 8 := by
    simp only [extentOf, storedSize, elementSize]
    repeat rw [fieldAt_cellRead _ _ _ _ _ (by omega)]
    decide +kernel
  revert count entry
  generalize cellRead draining.mem.cells (memKey 2 (2 ^ 40 - 2 ^ 22)) (2 ^ 20) = l
  intro count entry
  have size : extentsSize (manifestExtents l) = 64 := by
    rw [manifestExtents, count, List.range_one, List.map_singleton, extentsSize, extentsSize, entry]; decide
  rw [size]; decide
theorem test_drain_read_case : ∀ x ∈ [(2 ^ 40 - 2 ^ 22, 2 ^ 20), (2 ^ 40 - 2 ^ 22 + 2 ^ 20, 64), (2 ^ 40 - 2 ^ 22, 128), (2 ^ 40 - 2 ^ 21, 128)],
    slateRead draining (addr 2 x.1) x.2 = (draining, .ok (cellRead draining.mem.cells (memKey 2 x.1) x.2)) := by
  intro x h; simp only [List.mem_cons, List.not_mem_nil, or_false] at h
  rcases h with rfl | rfl | rfl | rfl <;>
    exact slateRead_one draining _ _ 5 2 _ (by decide +kernel) (by omega) (by decide +kernel) (by decide +kernel) (by decide +kernel) (by decide +kernel)

/-- A restore from package 6, asked for by the host command at index 4. -/
def restoring (c : SlateCmd) (p : SlatePhase) (buf : Tbl (List Byte)) : State :=
  { lending with slate := { lending.slate with restore := some (operation c (.host 4) p buf) } }
theorem test_restore_request_case : let s := restoring (slateCmd 3 6 11 0 0) .requested []
    s.slate.restore = some (operation (slateCmd 3 6 11 0 0) (.host 4) .requested []) ∧ resolvePkg s 6 ≠ ownPkg s := by decide
theorem test_restore_data_case (base : Nat) : let k := operation (slateCmd 3 6 11 0 0) (.host 4) .data [(base, manifest), (base + 2 ^ 20, [1, 2, 3, 4, 5, 6, 7, 8])]
    fieldAt (slateGot k base 128) 0x1E 2 = 1 ∧ manifestExtents (slateGot k base 160) = [extent] ∧
    widenBytes extent (slateGot k (base + 2 ^ 20 + 64 * extent.data) (storedSize extent)) = [1, 2, 3, 4, 5, 6, 7, 8] := by
  intro k
  have first (n : Nat) (h : (n + 4095) / 4096 = 1) : slateGot k base n = fit n manifest := by
    simp [slateGot, h, k, operation, tget, tfind]
  have second : slateGot k (base + 2 ^ 20 + 64 * extent.data) (storedSize extent) = fit 8 [1, 2, 3, 4, 5, 6, 7, 8] := by
    simp [slateGot, storedSize, extent, elementSize, k, operation, tget, tfind]
  rw [first 128 (by omega), first 160 (by omega), second]
  decide +kernel
theorem test_takes_bytes_case : TakesBytes (restoring (slateCmd 3 6 11 0 0) .data []) (addr 1 0x40) 8 1 0x40 := by constructor <;> decide +kernel
/-- Host memory with bytes at an address. -/
def hostAt (l : List (Nat × List Byte)) : HostBytes := l.flatMap (fun e => (List.range e.2.length).map (fun i => (e.1 + i, e.2.getD i 0)))
theorem test_restore_host_case : let c := slateCmd 4 0 0 (addr 2 0x9000) 1
    let item := leBytes 8 0x10000 ++ leBytes 8 1 ++ leBytes 4 1 ++ leBytes 4 3 ++ leBytes 8 (addr 1 0x80)
    let s := { restoring c .requested [] with mem := { lending.mem with cells := cellWrite [] (memKey 2 0x9000) item } }
    let h := hostAt [(0x10000, manifest), (0x10000 + 2 ^ 20, [1, 2, 3, 4, 5, 6, 7, 8])]
    let x : RestoreItem := { image := 0x10000, element := 1, count := 1, tensor := 3, dest := addr 1 0x80 }
    splitAddr s c.addr.toNat = (ownPkg s, 2, 0x9000) ∧ cellRead s.mem.cells (memKey 2 0x9000) 32 = item ∧ (fnOf s 0).busMaster = true ∧
    (fieldAt item 0 8, fieldAt item 8 8, fieldAt item 0x10 4, fieldAt item 0x14 4, fieldAt item 0x18 8) = (0x10000, 1, 1, 3, addr 1 0x80) ∧
    hostBytes h x.image 160 = manifest ∧ (manifestExtents manifest).filter (fun e => e.tensor == 3) = [extent] ∧
    (hostBytes h (x.image + 2 ^ 20 + 64 * extent.data) (storedSize extent)).length = storedSize extent ∧
    extent.element ≤ 1 ∧ 1 + 1 ≤ extent.element + extent.count := by decide +kernel
theorem test_restore_list_case : let s := { restoring (slateCmd 4 0 0 (addr 2 0x9000) 1) .requested [] with mem := { lending.mem with cells := [] } }
    slateRead s (addr 2 0x9000) 32 = (s, .ok (cellRead s.mem.cells (memKey 2 0x9000) 32)) :=
  slateRead_one _ _ _ 5 2 0x9000 (by decide +kernel) (by omega) (by decide +kernel) (by decide +kernel) (by decide +kernel) (by decide +kernel)
theorem test_item_case : let h := hostAt [(0x10000, manifest)]
    (itemExtents h { image := 0x10000, element := 1, count := 1, tensor := 3, dest := addr 1 0x80 }).toOption = some [extent] := by decide +kernel
/-- A shard header with these flags, extents and layout record. -/
def shard (flags extents layout : Nat) : List Byte :=
  [0x53, 0x48, 0x52, 0x44] ++ leBytes 2 1 ++ leBytes 2 flags ++ leBytes 2 5 ++ [1, 0] ++ leBytes 2 9 ++ leBytes 2 extents ++ leBytes 8 layout ++ leBytes 8 (addr 2 0x8000) ++ zeros 32
theorem test_shard_case : ∀ flags ∈ [0, 2], let h := hostAt [(0x1000, shard flags 1 0 ++ leBytes 8 0x3000 ++ leBytes 8 (addr 1 0x40) ++ leBytes 8 4 ++ zeros 8), (0x3000, [1, 2, 3, 4])]
    let l := hostBytes h 0x1000 64
    let x := hostBytes h (0x1000 + 64) 32
    l.length = 64 ∧ shardOk lending l = true ∧ ownImage lending (fieldAt l 8 2 % 2 ^ 13) = true ∧ (fieldAt l 6 2).testBit 0 = false ∧ fieldAt l 0xE 2 = 1 ∧
    x.length = 32 ∧ (hostBytes h (fieldAt x 0 8) (fieldAt x 0x10 8)).length = fieldAt x 0x10 8 ∧ fieldAt x 8 8 = addr 1 0x40 ∧ fieldAt x 0x18 8 = 0 := by decide +kernel
theorem test_shard_bytes_case : TakesBytes (restoring (slateCmd 5 0 0 0x1000 0) .requested []) (addr 1 0x40) 4 1 0x40 := by constructor <;> decide +kernel
theorem test_shard_layout_case : let r := [0x52, 0x4C, 0x41, 0x59] ++ leBytes 2 1 ++ leBytes 2 1 ++ zeros 24 ++ leBytes 2 1 ++ zeros 30 ++ ([2] : List Byte) ++ zeros 127
    let h := hostAt [(0x1000, shard 1 0 0x4000), (0x4000, r ++ leBytes 2 1 ++ leBytes 2 0 ++ leBytes 4 0)]
    let l := hostBytes h 0x1000 64
    shardOk lending l = true ∧ (fieldAt l 6 2).testBit 0 = true ∧ fieldAt l 0xE 2 = 0 ∧
    (layoutOf h (fieldAt l 0x10 8)).toOption.isSome = true := by decide +kernel

/-- A fetched command of a queue pair. -/
def hostCmd (op : Nat) (body : List Byte) (n : Nat) : HostCmd :=
  { index := 4, discard := false, state := .fetched, entry := { opcode := op, flags := 0, cid := 1, dataAddr := 0x1000, dataLen := n, body := body, reservedSet := false } }
def fetched (ten op : Nat) (body : List Byte) (n : Nat) : State := modTq lending ten (fun q => { q with cmds := [hostCmd op body n] })
def slateBody (op : Nat) : List Byte := [BitVec.ofNat 8 op, 0] ++ leBytes 2 (if op = 2 ∨ op = 3 ∨ op = 6 then 6 else 0) ++ zeros 4 ++ leBytes 8 11 ++ zeros 48
theorem test_slate_command_case : ∀ op ∈ [0, 1, 2, 3, 4, 5, 6, 7], let s := modGroup (fetched 0 4 (slateBody op) 0) 0 (fun g => { g with state := .idle })
    nextCmd s 0 4 = some (hostCmd 4 (slateBody op) 0) ∧ slateCmdOk (slateBody op) = true ∧
    (slateRefusal s (slateCmdOf (slateBody op)) = 0 ↔ op ∈ [1, 2, 3, 4, 5, 6]) ∧
    s.mem.bad = [] ∧ (∀ e ∈ s.mem.stock, e.2.failedInService = false) ∧ ready s 7 = true ∧ slateCmdOk (putAt (slateBody op) 0x20 [1]) = false := by decide +kernel
theorem test_slate_tenant_case : nextCmd (fetched 7 4 (slateBody 1) 0) 7 4 = some (hostCmd 4 (slateBody 1) 0) := by decide
/-! ## The host port -/

/-- The host port out of retry status. -/
def enumerated : State := { bench with host := { bench.host with retryStatus := false, vfEnable := false } }
theorem test_host_port_case : bench.gaffer.diesReleased = true ∧ bench.pins.pwrOk = true ∧ bench.host.retryStatus = true ∧
    enumerated.host.retryStatus = false ∧ ready { bench with gaffer := { bench.gaffer with readiness := 0 } } 3 = false := by decide
theorem test_config_case : ∀ f ∈ [0, 31], let k := fnOf enumerated f
    (∀ e ∈ k.msix, e.2.pendingBit = false) ∧ (3 : U32).toNat % 4 = 3 ∧ (0 : U32).toNat % 4 = 0 ∧ (1 : U32).toNat.testBit 0 = true ∧
    (fnOf (modFn enumerated f (fun k => { k with d3hot := true })) f).d3hot = true ∧ enumerated.host.vfEnable = false ∧
    ({ enumerated with host := { enumerated.host with vfEnable := true } }).host.vfEnable = true ∧ (31 : U32).toNat ≤ 31 := by decide
theorem test_msix_case : ∀ pend, let s := modFn enumerated 0 (fun k => { k with msixEnable := true, fnMask := false
                                                                                msix := [(2047, { MsixEntry.reset with pendingBit := pend })] })
    (2047 : U16).toNat < 2048 ∧ (tget (fnOf s 0).msix 2047 MsixEntry.reset).pendingBit = pend ∧ (fnOf s 0).msixEnable = true ∧
    (fnOf s 0).fnMask = false ∧ (0 : U32).toNat.testBit 0 = false := by decide
theorem test_bar4_case : let o := 2 ^ 36 - 8
    bench.host.bar4 = true ∧ ready bench 7 = true ∧ o + 8 ≤ 2 ^ 36 ∧ o + 8 ≤ capacityGiB bench * 2 ^ 30 ∧ failedStock bench o 8 = none ∧
    badIn bench (memKey 2 o) 8 = [] ∧ (∀ k < 8, isHome bench k = false) := by decide +kernel
/-- A copy of 8 bytes in a direction, to or from 0x40 of the vault. -/
def copyBody (dir : Nat) : List Byte := [BitVec.ofNat 8 dir] ++ zeros 7 ++ leBytes 8 (addr 1 0x40) ++ zeros 48
theorem test_copy_case : ∀ dir ∈ [0, 1], let s := fetched 0 3 (copyBody dir) 8
    nextCmd s 0 3 = some (hostCmd 3 (copyBody dir) 8) ∧ (∀ b ∈ slice (copyBody dir) 1 7 ++ slice (copyBody dir) 0x10 48, b = 0) ∧
    (fnOf s (queueFn s 0)).busMaster = true ∧ fieldAt (copyBody dir) 0 1 = dir ∧ fieldAt (copyBody dir) 8 8 = addr 1 0x40 ∧
    (hostBytes (hostAt [(0x1000, [1, 2, 3, 4, 5, 6, 7, 8])]) 0x1000 8).length = 8 := by decide +kernel
theorem test_copy_place_case : ∀ right, CopyAt (fetched 0 3 (copyBody 0) 8) 0 (addr 1 0x40) 8 right 1 0x40 ∧
    CopyAt (fetched 0 3 (copyBody 1) 8) 0 (addr 1 0x40) 8 right 1 0x40 := by
  intro right; constructor <;> constructor <;> first | rfl | decide +kernel
theorem test_read_completion_case : ∀ op ∈ [0, 1, 5, 6], let s := { bench with host := { bench.host with reads := [(2, .entry 7)] } }
    let l := [BitVec.ofNat 8 op, 3] ++ leBytes 2 9 ++ zeros 4 ++ leBytes 8 0x1000 ++ leBytes 4 8 ++ zeros 108
    tfind s.host.reads 2 = some (.entry 7) ∧ l.length = 128 ∧ fieldAt l 1 1 < 4 ∧ (∀ b ∈ slice l 4 4 ++ slice l 0x14 44, b = 0) ∧
    (tqOf s 7).error = false := by decide +kernel
/-! ## The object dictionary -/

/-- An access of the physical function's window. -/
def dictAccess (index sub flags offset length : Nat) (data : List Byte) : Access :=
  { path := .window 0, flags := BitVec.ofNat 8 flags, index := BitVec.ofNat 16 index, sub := BitVec.ofNat 8 sub, sel := 7, offset := BitVec.ofNat 32 offset
    length := BitVec.ofNat 16 length, tag := 9, data := data, pre := { faultBit := none, ioutMa := none } }
/-- A half of generation 1 with these records. -/
def written (recs : List JournalRec) : Half :=
  { header := headerBytes 1, commit := some ((commitRecord 0 []).withSeal true), recs := recs, next := 112 + (recs.map JournalRec.len).sum }
theorem test_written_case : (written []).generation = some 1 ∧ (written []).committed = true ∧ (written []).skipped = [] := by decide +kernel
/-- The bench with no group running and a journal whose half A can be written. -/
def journalled : State :=
  let s := modGroup bench 0 (fun g => { g with state := .idle })
  { s with dict := { s.dict with journal := { s.dict.journal with halfA := written [] } } }
/-- The entry of an index and subindex. -/
def entry (i sub : Nat) : Desc := (desc i sub).getD { ty := 0, rights := 0, cls := 0, persist := false, perTen := false, once := false, kept := false, dflt := [] }
theorem test_write_case : ∀ x ∈ [(0x2003, [0xE8, 3], 0), (0x2003, [0xE8, 3], 1), (0x3031, [64], 0), (0x3031, [65], 0), (0x2003, [0, 0], 0)],
    WriteReaches journalled (dictAccess x.1 0 x.2.2 0 x.2.1.length x.2.1) (entry x.1 0) := by
  intro x h; simp only [List.mem_cons, List.not_mem_nil, or_false] at h
  rcases h with rfl | rfl | rfl | rfl | rfl <;> (refine ⟨⟨rfl, rfl, rfl⟩, ?_, rfl, ?_, ?_, ?_, ?_⟩ <;> decide)
theorem test_write_value_case : ∀ x ∈ [(0x2003, [0xE8, 3], true), (0x3031, [64], true), (0x3031, [65], false), (0x2003, [0, 0], false)],
    x.2.1.length = (entry x.1 0).dflt.length ∧ (valueCheck x.1 0 (entry x.1 0) x.2.1 = 0 ↔ x.2.2 = true) ∧ entryCode journalled x.1 (leNat x.2.1) = 0 ∧
    (∀ ten, ten ∈ [0, 7] → quietBusy journalled x.1 ten [(0, x.2.1)] = false) ∧ ((entry x.1 0).persist = true ↔ x.1 = 0x2003) ∧ keptScalar x.1 := by
  unfold keptScalar; decide
theorem test_write_record_case : (beginRecord journalled (newRecord journalled 0x2003 0 0 false [0xE8, 3])).isSome = true := by decide +kernel
theorem test_restore_default_case : ∀ x ∈ [(0x2003, 5), (0x3031, 4)], WriteReaches journalled (dictAccess x.1 0 x.2 0 0 []) (entry x.1 0) := by
  intro x h; simp only [List.mem_cons, List.not_mem_nil, or_false] at h
  rcases h with rfl | rfl <;> (refine ⟨⟨rfl, rfl, rfl⟩, ?_, rfl, ?_, ?_, ?_, ?_⟩ <;> decide)
theorem test_restore_value_case : ∀ x ∈ [(0x2003, 5), (0x3031, 4)], let d := entry x.1 0
    (BitVec.ofNat 8 x.2).toNat.testBit 2 = true ∧ valueCheck x.1 0 d d.dflt = 0 ∧ entryCode journalled x.1 (leNat d.dflt) = 0 ∧
    (∀ ten, ten ∈ [0, 7] → quietBusy journalled x.1 ten [(0, d.dflt)] = false) ∧ ((BitVec.ofNat 8 x.2).toNat.testBit 0 = true ∨ d.persist = false) := by decide
/-- Bytes of tenant 7's segment table written so far by the physical function, and the next piece. -/
def pieced (n : Nat) : State :=
  { journalled with dict := { journalled.dict with claims := if n = 0 then [] else
    [{ index := 0x3030, sub := 0, tenant := 7, holder := holderOf journalled (.window 0), bytes := zeros n }] } }
theorem test_piece_case : ∀ x ∈ [(0, 0, 8), (512, 8, 512)], let a := dictAccess 0x3030 0 x.2.1 x.1 x.2.2 (zeros x.2.2)
    WriteReaches (pieced x.1) a (entry 0x3030 0) := by
  intro x h; simp only [List.mem_cons, List.not_mem_nil, or_false] at h
  rcases h with rfl | rfl <;> (refine ⟨⟨rfl, rfl, rfl⟩, ?_, rfl, ?_, ?_, ?_, ?_⟩ <;> decide +kernel)
theorem test_piece_claim_case : ∀ x ∈ [(0, 0, 8), (512, 8, 512)], let a := dictAccess 0x3030 0 x.2.1 x.1 x.2.2 (zeros x.2.2)
    instanceOf (pieced x.1) a (entry 0x3030 0) = 7 ∧ quietBusy (pieced x.1) 0x3030 7 [] = false ∧
    ((claimOf (pieced x.1) a 7).map (fun c => c.bytes)).getD [] = zeros x.1 ∧
    (claimOf (pieced x.1) a 7).all (fun c => c.holder == holderOf (pieced x.1) a.path) = true ∧ a.offset.toNat = x.1 ∧
    a.flags.toNat.testBit 3 = decide (x.1 = 512) := by decide +kernel

/-- A stage of field 3 of group record 1, held by the physical function or by the SPI target. -/
def staged (p : DictPath) (fs : Tbl (List Byte)) : State :=
  { journalled with dict := { journalled.dict with stages := [{ index := 0x4101, ten := 0, holder := holderOf journalled p, fields := fs }] } }
theorem test_stage_reaches_case : ∀ a ∈ [dictAccess 0x4101 3 0 0 8 (leBytes 8 (addr 1 0)), dictAccess 0x4101 0 0 0 1 [1], dictAccess 0x4101 0 0 0 1 [0]],
    ∀ p ∈ [DictPath.window 0, .spi], WriteReaches (staged p [(3, leBytes 8 (addr 1 0))]) a (entry 0x4101 a.sub.toNat) := by
  intro a h p q; simp only [List.mem_cons, List.not_mem_nil, or_false] at h q
  rcases h with rfl | rfl | rfl <;> rcases q with rfl | rfl <;> (refine ⟨⟨rfl, rfl, rfl⟩, ?_, rfl, ?_, ?_, ?_, ?_⟩ <;> decide)
theorem test_stage_case : let s := staged (.window 0) [(3, leBytes 8 (addr 1 0))]
    isRecord 0x4101 = true ∧ (entry 0x4101 3).dflt.length = 8 ∧ countOf s 0x4101 0 = 0 ∧ instanceOf s (dictAccess 0x4101 3 0 0 8 []) (entry 0x4101 3) = 0 ∧
    instanceOf s (dictAccess 0x4101 0 0 0 1 []) (entry 0x4101 0) = 0 ∧
    (∀ x ∈ s.dict.stages, x.holder = holderOf s (.window 0)) ∧ (∀ x ∈ (staged .spi []).dict.stages, x.holder ≠ holderOf s (.window 0)) ∧
    (ownStage s 0x4101 0 (holderOf s (.window 0))).map (fun x => x.fields) = some [(3, leBytes 8 (addr 1 0))] ∧
    quietBusy s 0x4101 0 [(3, leBytes 8 (addr 1 0))] = false ∧ valueCheck 0x4101 3 (entry 0x4101 3) (leBytes 8 (addr 1 0)) = 0 ∧
    recordCode s 0x4101 0 [(3, leBytes 8 (addr 1 0))] { faultBit := none, ioutMa := none } = 0 ∧ keptRecord 0x4101 := by
  unfold keptRecord; decide
/-! ## Host queues -/

/-- Tenant 0's queue pair enabled with 64 entries, its head, its tail and its room; function 0 is a bus master with a clear vector 0. -/
def paired (subTail compHead compTail : Nat) (cmds : List HostCmd) : State :=
  let s := setVal lending 0x8100 5 0 [1]
  let s := modFn s 0 (fun f => { f with msixEnable := true, fnMask := false, msix := [(0, { MsixEntry.reset with masked := false })] })
  modTq s 0 (fun q => { q with subTail := subTail, compHead := compHead, compTail := compTail, cmds := cmds })
/-- The same with tenant 0 bound to virtual function 3. -/
def boundTo3 : State := setVal (paired 0 0 0 []) 0x8013 0 0 [0, 0]
theorem test_doorbell_case : let s := paired 5 2 4 []
    pageTenant s (.pf 0) = some 0 ∧ pageTenant boundTo3 (.vf 3) = some 0 ∧ queueOn s 0 = true ∧ boundVf s 0 = none ∧ boundVf boundTo3 0 = some 3 ∧
    queueSize s 0 = 64 ∧ ahead 64 5 63 + ahead 64 0 5 ≤ 63 ∧ ahead 64 2 4 ≤ ahead 64 2 4 ∧ (tqOf s 0).error = false ∧ queueOn bench 0 = false := by decide
theorem test_fetch_case : let s := paired 5 2 4 []
    (tqOf s 0).fetching = 0 ∧ (tqOf s 0).subHead ≠ (tqOf s 0).subTail ∧ (fnOf s (queueFn s 0)).busMaster = true := by decide
def finished (flags : Nat) : HostCmd := { hostCmd 3 [] 8 with state := .finished (plainDone 0), entry := { (hostCmd 3 [] 8).entry with flags := flags } }
theorem test_post_case : ∀ flags ∈ [0, 2], let s := paired 5 2 63 [finished flags]
    (∀ y ∈ (tqOf s 0).cmds, y.discard = false) ∧ postable (tqOf s 0).cmds false = some (finished flags) ∧
    ((tqOf s 0).compTail + 1) % queueSize s 0 ≠ (tqOf s 0).compHead ∧ flags.testBit 1 = decide (flags = 2) ∧
    vectorPlace (queueVector s 0) = some (0, 0) ∧ (fnOf s 0).msixEnable = true ∧ (fnOf s 0).fnMask = false ∧
    (tget (fnOf s 0).msix 0 MsixEntry.reset).masked = false := by decide
theorem test_no_operation_case : nextCmd (paired 5 2 4 [hostCmd 5 (zeros 64) 0]) 0 5 = some (hostCmd 5 (zeros 64) 0) := by decide
/-- A dictionary read of 0x1004 of two bytes, and a request 1 to 4 of group 0, that does not wait or does. -/
def readBody : List Byte := [1, 0] ++ leBytes 2 0x1004 ++ zeros 8 ++ leBytes 2 2 ++ leBytes 2 1 ++ zeros 48
def groupBody (r wait : Nat) : List Byte := [0, BitVec.ofNat 8 r, BitVec.ofNat 8 wait] ++ zeros 61
def commanded (op : Nat) (body : List Byte) (st : GState) : State :=
  let s := modTq journalled 0 (fun q => { q with cmds := [{ hostCmd op body 0 with entry := { (hostCmd op body 0).entry with dataAddr := 0 } }] })
  modGroup s 0 (fun g => { g with state := st })
theorem test_dictionary_command_case : let s := runCmd (commanded 1 readBody .idle) 0 4
    let a : Access := { accessOf (.queue 0) { faultBit := none, ioutMa := none } (readBody.take 16) with data := [] }
    nextCmd (commanded 1 readBody .idle) 0 1 = (tqOf (commanded 1 readBody .idle) 0).cmds.head? ∧ (∀ b ∈ readBody.drop 16, b = 0) ∧ bodyOp readBody = 1 ∧
    a.tag.toNat = 1 ∧ DictIdle s ∧ bodyCode 1 a = 0 ∧ accessCode s 1 a (entry 0x1004 0) = 0 ∧ isText (entry 0x1004 0).ty = false ∧ a.offset = 0 ∧
    (entry 0x1004 0).dflt.length ≤ a.length.toNat ∧ a.length.toNat ≤ 12 ∧ a.index ≠ 0x7000 := by unfold DictIdle; decide +kernel
theorem test_dictionary_entry_case : findEntry (runCmd (commanded 1 readBody .idle) 0 4) { accessOf (.queue 0) { faultBit := none, ioutMa := none } (readBody.take 16) with data := [] } =
    .ok (entry 0x1004 0) := by rfl
def groupAccess (r : Nat) : Access := { path := .queue 0, flags := 0, index := 0x4300, sub := 0, sel := 0, offset := 0, length := 1, tag := 0,
                                        data := [BitVec.ofNat 8 r], pre := { faultBit := none, ioutMa := none } }
theorem test_group_command_case : ∀ r ∈ [1, 2, 3, 4], ∀ wait ∈ [0, 1], let s := commanded 2 (groupBody r wait) .running
    nextCmd s 0 2 = (tqOf s 0).cmds.head? ∧ fieldAt (groupBody r wait) 1 1 = r ∧ fieldAt (groupBody r wait) 2 1 = wait ∧
    (∀ b ∈ (groupBody r wait).drop 3, b = 0) ∧ (groupBody r wait).length = 64 ∧
    (groupRequest (runCmd s 0 4) 0 r).2 < 2 ^ 16 ∧ (tqOf (groupRequest (runCmd s 0 4) 0 r).1 0).cmds = (tqOf (runCmd s 0 4) 0).cmds := by decide +kernel
theorem test_group_reaches_case : ∀ r ∈ [1, 2, 3, 4], WriteReaches (runCmd (commanded 2 (groupBody r 0) .running) 0 4) (groupAccess r) (entry 0x4300 0) := by
  intro r h; simp only [List.mem_cons, List.not_mem_nil, or_false] at h
  rcases h with rfl | rfl | rfl | rfl <;> (refine ⟨⟨rfl, rfl, rfl⟩, ?_, rfl, ?_, ?_, ?_, ?_⟩ <;> decide +kernel)
theorem test_group_wait_case : ∀ r ∈ [1, 2, 3, 4], ∀ st ∈ [GState.running, .preempted, .fenced, .lost, .idle],
    let s := modGroup (runCmd (commanded 2 (groupBody r 1) st) 0 4) 0 (fun g => { g with request := 4 })
    (tqOf s 0).cmds.find? (fun x => x.index == (4 : U16).toNat && x.state == .running && x.entry.opcode == 2) = (tqOf s 0).cmds.head? ∧
    (tqOf s 0).cmds ≠ [] ∧ (groupOf s 0).state = st ∧ (groupOf s 0).restoring = false ∧ (groupOf s 0).request = 4 := by decide +kernel
/-! ## The field port -/

/-- The bench's field port in a state, with the dictionary ready or not. -/
def fielded (st : CanState) (valid : Nat) (saw ready : Bool) : State :=
  { bench with can := { bench.can with state := st, valid := valid, sawBrs := saw }, gaffer := { bench.gaffer with dictReady := ready } }
theorem test_search_case : ∀ st ∈ [CanState.standby, .nominalSearch, .dataSearch, .active, .busOff], ∀ valid ∈ [0, 1, 2], let s := fielded st valid false false
    s.can.state = st ∧ s.pins.pwrOk = true ∧ s.gaffer.inReset = false ∧ s.can.fixedNominal = 0 ∧ s.can.fixedData = 0 ∧ s.can.data = 0 ∧
    s.can.sawBrs = false ∧ s.gaffer.dictReady = false ∧ s.can.busOffs = [] ∧ s.can.time = none ∧ ready s 2 = true := by decide
/-- A frame of a class, destination, source, service and tag. -/
def canFrame (cls dst src svc tag : Nat) (data : List Byte) : CanFrame := { extended := true, ident := fieldIdent cls dst src svc tag, fd := true, brs := true, data := data }
theorem test_time_sync_case : let f : CanFrame := { extended := false, ident := 0x100, fd := true, brs := true, data := leBytes 8 5 }
    f.extended = false ∧ f.ident = 0x100 ∧ f.data.length = 8 := by decide
/-- As many alarms in the buffer. -/
def alarmed (n : Nat) : State := { fielded .active 0 false true with
  can := { (fielded .active 0 false true).can with alarms := List.replicate n { ident := 1, fd := true, brs := true, dropped := 0, data := [] } } }
theorem test_alarm_case : ∀ n ∈ [7, 8], let f := canFrame 0 0 3 3 9 (zeros 64)
    canMatches (alarmed n) f = true ∧ idClass f = 0 ∧ f.data.length ≤ 64 ∧ (fnOf (alarmed n) 0).msixEnable = false ∧ (alarmed n).can.alarms.length = n ∧
    (∀ x ∈ (alarmed n).can.alarms, x.dropped ≤ 0xFFFF) := by decide
theorem test_field_request_case : let s := fielded .active 0 false true
    let f := canFrame 1 s.can.node 3 1 9 ([1, 0] ++ leBytes 2 0x1004 ++ zeros 8 ++ leBytes 2 2 ++ leBytes 2 9)
    let held : State := { s with can := { s.can with pending := s.can.pending ++ [f.ident] } }
    let a := accessOf (.field (BitVec.ofNat 7 (idSrc f))) { faultBit := none, ioutMa := none } f.data
    canMatches s f = true ∧ violationOf s f = none ∧ idSvc f = 1 ∧ idClass f ≠ 0 ∧ DictIdle held ∧ bodyOp f.data = 1 ∧ a.tag.toNat = idTag f ∧ bodyCode 1 a = 0 ∧
    accessCode held 1 a (entry 0x1004 0) = 0 ∧ isText (entry 0x1004 0).ty = false ∧ a.offset = 0 ∧
    (entry 0x1004 0).dflt.length ≤ min a.length.toNat 48 ∧ a.index ≠ 0x7000 := by unfold DictIdle; decide +kernel
theorem test_field_entry_case : let s := fielded .active 0 false true
    let f := canFrame 1 s.can.node 3 1 9 ([1, 0] ++ leBytes 2 0x1004 ++ zeros 8 ++ leBytes 2 2 ++ leBytes 2 9)
    let held : State := { s with can := { s.can with pending := s.can.pending ++ [f.ident] } }
    findEntry held (accessOf (.field (BitVec.ofNat 7 (idSrc f))) { faultBit := none, ioutMa := none } f.data) = .ok (entry 0x1004 0) := by rfl
theorem test_violation_case : let s := fielded .active 0 false true
    let f := canFrame 1 s.can.node 3 6 9 []
    let own := canFrame 1 3 s.can.node 1 9 []
    f.extended = true ∧ idClass f ≠ 0 ∧ idClass own ≠ 0 ∧ idSrc own = s.can.node ∧ canMatches s f = true ∧ idSrc f ≠ s.can.node ∧ idSrc f ≠ 0 ∧
    (idSvc f = 0 ∨ 6 ≤ idSvc f) ∧ tfind s.can.rejectMs (idSrc f) = none ∧
    (if s.can.violLog.1 = s.log.ms.toNat / 1000 then s.can.violLog.2 else 0) < 16 := by decide
/-! ## The SPI target port and the boot flash -/

/-- The port driven, with a response waiting. -/
def answering : State := { journalled with spi := { journalled.spi with response := some (response 1 (dictAccess 0x1004 0 0 0 2 []) 0 0 0 2 [5, 0]) } }
theorem test_spi_case : let s := answering
    s.pins.pwrOk = true ∧ s.gaffer.inReset = false ∧ s.pins.misoHiZ = false ∧ s.gaffer.dictReady = true ∧ s.spi.waiting = false ∧ s.spi.sticky.testBit 3 = false ∧
    s.spi.sticky.testBit 1 = false ∧ 3 ≤ (0x03000000 : U32).toNat / 2 ^ 24 ∧ (0x02000000 : U32).toNat / 2 ^ 24 = 2 ∧
    ready { s with gaffer := { s.gaffer with readiness := 0 } } 1 = false ∧ s.spi.response.isSome = true := by decide
/-- The words of a read request of 0x1004. -/
def requestWords : List U32 := toWords ([1, 0] ++ leBytes 2 0x1004 ++ zeros 8 ++ leBytes 2 2 ++ leBytes 2 9 ++ zeros 4)
theorem test_spi_request_case : let c : U32 := 0x01005000
    let held : State := { journalled with
      spi := { journalled.spi with waiting := true, response := none }, freeCount := journalled.freeCount + 1
      outputs := .miso [idleStatus journalled] :: journalled.outputs }
    let a := accessOf .spi { faultBit := none, ioutMa := none } (wordBytes' requestWords)
    c.toNat / 2 ^ 24 = 1 ∧ c.toNat / 2 ^ 12 % 2 ^ 12 = requestWords.length ∧ requestWords.length = 5 ∧ crcWord (c :: requestWords) + 1 ≠ crcWord (c :: requestWords) ∧
    spiLengthOk (wordBytes' requestWords) = true ∧ DictIdle held ∧ bodyOp (wordBytes' requestWords) = 1 ∧ bodyCode 1 a = 0 ∧
    accessCode held 1 a (entry 0x1004 0) = 0 ∧ isText (entry 0x1004 0).ty = false ∧ a.offset = 0 ∧
    (entry 0x1004 0).dflt.length ≤ min a.length.toNat 1024 ∧ a.index ≠ 0x7000 := by unfold DictIdle; decide +kernel
theorem test_spi_entry_case : findEntry { journalled with
      spi := { journalled.spi with waiting := true, response := none }, freeCount := journalled.freeCount + 1
      outputs := .miso [idleStatus journalled] :: journalled.outputs }
    (accessOf .spi { faultBit := none, ioutMa := none } (wordBytes' requestWords)) = .ok (entry 0x1004 0) := by rfl
/-- A commit of 0x2003 that waits for its record. -/
def sealing : Awaiting :=
  { rec' := newRecord journalled 0x2003 0 0 false [0xE8, 3], resp := reply journalled 2 (dictAccess 0x2003 0 0 0 2 [0xE8, 3]) 0 []
    effect := { index := 0x2003, ten := 0, record := false, fields := [(0, [0xE8, 3])], holder := holderOf journalled (.window 0), volatile := false }
    carrier := .direct }
theorem test_seal_case : let s := { journalled with dict := { journalled.dict with awaiting := some sealing } }
    WaitsForSeal s sealing 0x2003 [0xE8, 3] ∧ (authHalf s).fill + sealing.rec'.len < compactAt ∧ (∀ page ∈ [(0 : BitVec 6), 63], (recordFailed s sealing.rec' page).2.isSome = true) := by
  refine ⟨⟨rfl, rfl, rfl, by decide, ?_, rfl, rfl⟩, by decide +kernel, by decide +kernel⟩
  unfold keptScalar; decide
/-- A record of a segment table, and one left unsealed that fills half A to the trigger. -/
def record (k : Nat) : JournalRec := ({ newRecord journalled 0x3030 0 7 false [] with seq := k, value := zeros 7 ++ [BitVec.ofNat 8 k] }.withCrc).withSeal true
def compacting (run : Bool) (abandoned : Nat) (recs : List JournalRec) : State :=
  { journalled with dict := { journalled.dict with journal := { journalled.dict.journal with
      compacting := run, abandoned := abandoned, halfA := written recs } } }
theorem test_journal_compaction_case : ∀ abandoned ∈ [0, 2], let s := compacting true abandoned [record 1, record 2]
    s.dict.awaiting = none ∧ (authHalf s).generation = some 1 ∧ (∀ r ∈ (authHalf s).recs, r.kind = kEntry ∧ r.good = true) ∧ compactedSize (authHalf s).recs ≤ compactedLimit ∧ s.dict.journal.compacting = true ∧
    s.dict.journal.abandoned < 3 ∧ s.dict.journal.unwritable = false := by decide +kernel
def filler (v : List Byte) : JournalRec := { newRecord journalled 0x3030 0 7 false [] with value := v }
theorem test_filler_case (v : List Byte) (h : v.length = 0x300000) : let s := compacting false 1 [filler v]
    compactAt ≤ (authHalf s).fill ∧ compactedSize (authHalf s).recs ≤ compactedLimit ∧ s.dict.journal.abandoned ≠ 0 ∧ s.dict.journal.compacting = false := by
  refine ⟨?_, by show 0 ≤ 0x200000; decide, by show 1 ≠ 0; decide, rfl⟩
  show compactAt ≤ recLen v.length + 0
  rw [h]; decide
/-! ## Entries with an effect of their own -/

/-- What WriteReaches asks, but for the entry, as a computation. -/
def reaches (s : State) (a : Access) (d : Desc) : Bool :=
  s.gaffer.dictReady && s.dict.queued == [] && s.dict.awaiting == none && bodyCode 2 a == 0 && accessCode s 2 a d == 0 &&
    (pathRole s a.path).map (rightOf d.rights) == some 2 && lifeState s != 4 &&
    decide (instanceOf s a d < 4096 ∧ (a.index = 0xA030 → instanceOf s a d ≠ 0))
theorem writeReaches_of {s : State} {a : Access} {d : Desc} (e : findEntry s a = .ok d) (h : reaches s a d = true) : WriteReaches s a d := by
  simp only [reaches, Bool.and_eq_true, beq_iff_eq, bne_iff_ne, decide_eq_true_eq] at h
  obtain ⟨⟨⟨⟨⟨⟨⟨h1, h2⟩, h3⟩, h4⟩, h5⟩, h6⟩, h7⟩, h8⟩ := h
  exact ⟨⟨h1, h2, h3⟩, h4, e, h5, h6, h7, h8⟩
/-- What ScalarWrite asks, as a computation. -/
def scalarFits (s : State) (a : Access) (d : Desc) (i : Nat) (v : List Byte) : Bool :=
  reaches s a d && a.index.toNat == i && !a.flags.toNat.testBit 2 && a.offset == 0 && a.data.take a.length.toNat == v && v.length == d.dflt.length &&
    !quietBusy s i (instanceOf s a d) [(0, v)] && valueCheck i 0 d v == 0 && entryCode s i (leNat v) == 0 && (a.flags.toNat.testBit 0 || !d.persist)
theorem scalarWrite_of {s : State} {a : Access} {d : Desc} {i : Nat} {v : List Byte} (e : findEntry s a = .ok d) (h : scalarFits s a d i v = true) :
    ScalarWrite s a d i v := by
  simp only [scalarFits, Bool.and_eq_true, Bool.or_eq_true, beq_iff_eq, Bool.not_eq_true'] at h
  obtain ⟨⟨⟨⟨⟨⟨⟨⟨⟨h1, h2⟩, h3⟩, h4⟩, h5⟩, h6⟩, h7⟩, h8⟩, h9⟩, h10⟩ := h
  exact ⟨writeReaches_of e h1, h2, ⟨h3, h4, h5, h6⟩, h7, ⟨h8, h9⟩, h10⟩
/-- What RecordCommit asks, as a computation. -/
def commitFits (s : State) (a : Access) (d : Desc) (i : Nat) (fs : Tbl (List Byte)) : Bool :=
  reaches s a d && a.index.toNat == i && a.sub == 0 && !a.flags.toNat.testBit 2 && a.offset == 0 &&
    a.data.take a.length.toNat == [BitVec.ofNat 8 (countOf s i (instanceOf s a d) + 1)] &&
    (ownStage s i (instanceOf s a d) (holderOf s a.path)).map (fun x => x.fields) == some fs && !quietBusy s i (instanceOf s a d) fs &&
    fs.all (fun f => (desc i f.1).all (fun e => valueCheck i f.1 e f.2 == 0)) && recordCode s i (instanceOf s a d) fs a.pre == 0 &&
    (a.flags.toNat.testBit 0 || persistFields i == [])
theorem recordCommit_of {s : State} {a : Access} {d : Desc} {i : Nat} {fs : Tbl (List Byte)} (e : findEntry s a = .ok d) (h : commitFits s a d i fs = true) :
    RecordCommit s a d i fs := by
  simp only [commitFits, Bool.and_eq_true, Bool.or_eq_true, beq_iff_eq, Bool.not_eq_true', List.all_eq_true] at h
  obtain ⟨⟨⟨⟨⟨⟨⟨⟨⟨⟨h1, h2⟩, h3⟩, h4⟩, h5⟩, h6⟩, h7⟩, h8⟩, h9⟩, h10⟩, h11⟩ := h
  refine ⟨writeReaches_of e h1, ⟨h2, h3⟩, ⟨h4, h5, h6⟩, ?_, h8, ?_, h10, h11⟩
  · cases q : ownStage s i (instanceOf s a d) (holderOf s a.path) with
    | none => rw [q] at h7; cases h7
    | some st => rw [q] at h7; exact ⟨st, rfl, by simpa using h7⟩
  · intro f m x w
    have := h9 f m
    rw [w] at this; simpa using this

/-- A write of a scalar by the physical function, and a commit of a record whose stage it holds. -/
def scalarAccess (i : Nat) (v : List Byte) : Access := dictAccess i 0 1 0 v.length v
def commitAccess (i : Nat) : Access := { dictAccess i 0 1 0 1 [1] with pre := { faultBit := some false, ioutMa := some 0 } }
/-- The machine with the physical function's stage of these fields of a record. -/
def holdingStage (s : State) (i ten : Nat) (fs : Tbl (List Byte)) : State :=
  { s with dict := { s.dict with stages := [{ index := BitVec.ofNat 16 i, ten := BitVec.ofNat 12 ten, holder := holderOf s (.window 0), fields := fs }] } }
theorem test_life_cycle_case : ∀ x ∈ [(1 : Byte), 4], let s := { journalled with fuses := { journalled.fuses with keyDigest := some (zeros 48) } }
    let fs := [(1, [x]), (2, leBytes 4 0x4C435452)]
    RecordCommit (holdingStage s 0x1011 0 fs) (commitAccess 0x1011) (entry 0x1011 0) 0x1011 fs := by
  intro x h; simp only [List.mem_cons, List.not_mem_nil, or_false] at h
  rcases h with rfl | rfl <;> exact recordCommit_of rfl (by decide)
theorem test_setpoint_case : ScalarWrite journalled (scalarAccess 0x2000 (leBytes 2 800)) (entry 0x2000 0) 0x2000 (leBytes 2 800) ∧ ChainMay journalled ∧
    journalled.power.trans = none ∧ (regOf journalled 0).stable ≠ min (leNat (leBytes 2 800)) journalled.power.cap :=
  ⟨scalarWrite_of rfl (by decide), by unfold ChainMay; decide, by decide, by decide⟩
/-- The bench with no group running and domain 3 in a state. -/
def domain3 (st : PState) : State := modDom journalled 3 (fun d => { d with state := st, request := if st = .off then 2 else 0 })
theorem test_power_request_case : ∀ x ∈ [((0 : Byte), PState.off), (1, .on)], let s := holdingStage (domain3 x.2) 0x2013 0 [(1, [x.1])]
    RecordCommit s (commitAccess 0x2013) (entry 0x2013 0) (0x2010 + (3 : DomainId).toNat) [(1, [x.1])] := by
  intro x h; simp only [List.mem_cons, List.not_mem_nil, or_false] at h
  rcases h with rfl | rfl <;> exact recordCommit_of rfl (by decide)
theorem test_power_request_domain_case : ∀ st ∈ [PState.off, .on], SettledBut (domain3 st) 3 ∧ (regOf (domain3 st) 0).on = true ∧ (domOf (domain3 st) 3).state = st ∧
    domCause (domain3 st) 3 = false ∧ stagingCount (domain3 st) < 2 ∧ (domOf (domain3 st) 3).drain = none := by unfold SettledBut; decide
theorem test_hold_request_case : ScalarWrite journalled (scalarAccess 0x2051 [1]) (entry 0x2051 0) 0x2051 [1] ∧ journalled.i2c.lent = false ∧
    journalled.i2c.pm ≠ .recovering := ⟨scalarWrite_of rfl (by decide), by decide, by decide⟩
/-- Group 0 of core 0 in a state, with a shot list of one kernel in slice 0 at 0x2000 and a save segment in the vault. -/
def shotBytes : List Byte := [0x53, 0x48, 0x4F, 0x54] ++ leBytes 2 1 ++ leBytes 2 1 ++ leBytes 4 1 ++ zeros 52
def grouped (st : GState) : State :=
  let s := setVal (setVal journalled 0x4100 3 0 (leBytes 8 (addr 1 0x2000))) 0x3031 0 0 [1]
  let s := setVal s 0x3030 0 0 ([0x17, 1] ++ leBytes 2 0x1FFF ++ leBytes 4 0 ++ leBytes 4 0 ++ leBytes 4 2 ++ zeros 1008)
  modGroup { s with mem := { s.mem with cells := cellWrite [] (memKey 1 0x2000) shotBytes } } 0 (fun g => { g with state := st, savedMembers := 1 })
theorem test_group_request_case : ∀ x ∈ [((1 : Byte), GState.idle), (2, .running), (3, .preempted), (4, .fenced), (4, .running)],
    ScalarWrite (grouped x.2) (scalarAccess 0x4300 [x.1]) (entry 0x4300 0) (0x4300 + (0 : GroupId).toNat) [x.1] := by
  intro x h; simp only [List.mem_cons, List.not_mem_nil, or_false] at h
  rcases h with rfl | rfl | rfl | rfl | rfl <;> exact scalarWrite_of rfl (by decide +kernel)
theorem test_group_state_case : AllOn (grouped .idle) ∧ startCheck (grouped .idle) 0 = .inr (headerOf shotBytes) ∧ KernelAt (grouped .idle) 0 0 0x2040 ∧
    preemptAllowed (grouped .running) 0 = true ∧ (∀ m ∈ members (grouped .preempted) 0, (coreOf (grouped .preempted) m).revoking = []) ∧
    resumeCheck (grouped .preempted) 0 = (0, false) ∧ abortAllowed (grouped .running) 0 = true := by
  refine ⟨by unfold AllOn; decide, by decide +kernel, ?_, by decide +kernel, by decide +kernel, by decide +kernel, by decide +kernel⟩
  constructor <;> decide +kernel

/-- The last piece of a BLOB of n bytes, 16 bytes long, over pieces of zeros. -/
def lastOf (s : State) (i n : Nat) : State :=
  { s with dict := { s.dict with claims := [{ index := BitVec.ofNat 16 i, sub := 0, tenant := 0, holder := holderOf s (.window 0), bytes := zeros (n - 16) }] } }
def lastAccess (i n : Nat) : Access := dictAccess i 0 9 (n - 16) 16 (zeros 16)
/-- The bench in SERVICE with a challenge that waits. -/
def inService : State := { journalled with fuses := { journalled.fuses with rows := 3 }, gaffer := { journalled.gaffer with challengeLive := true } }
theorem test_last_piece_case : ∀ x ∈ [(0x5000, 8192, journalled), (0xA010, 48, journalled), (0xA021, 96, inService)],
    WriteReaches (lastOf x.2.2 x.1 x.2.1) (lastAccess x.1 x.2.1) (entry x.1 0) := by
  intro x h; simp only [List.mem_cons, List.not_mem_nil, or_false] at h
  rcases h with rfl | rfl | rfl <;> exact writeReaches_of rfl (by decide +kernel)
theorem test_last_claim_case : ∀ x ∈ [(0xA010, 48, journalled), (0xA021, 96, inService)], let s := lastOf x.2.2 x.1 x.2.1
    let a := lastAccess x.1 x.2.1
    a.flags.toNat.testBit 2 = false ∧ a.flags.toNat.testBit 3 = true ∧ instanceOf s a (entry x.1 0) = 0 ∧
    (claimOf s a 0).all (fun c => c.holder == holderOf s a.path) = true ∧ ((claimOf s a 0).map (fun c => c.bytes.length)).getD 0 + 16 = x.2.1 ∧
    a.offset.toNat + 16 = x.2.1 ∧ lifeState journalled = 0 ∧ journalled.fuses.keyDigest = none := by decide +kernel
theorem test_route_claim_case : let s := lastOf journalled 0x5000 8192
    let a := lastAccess 0x5000 8192
    (claimOf s a 0) = some { index := 0x5000, sub := 0, tenant := 0, holder := holderOf journalled (.window 0), bytes := zeros 8176 } ∧
    holderOf s a.path = holderOf journalled (.window 0) ∧ a.offset.toNat = 8176 ∧ (zeros 8176).length = 8176 := by
  refine ⟨rfl, rfl, by decide, List.length_replicate⟩
theorem test_record_entries_case : ∀ x ∈ [(0x5001, [(1, [(3 : Byte)]), (2, [67]), (3, [1])], journalled), (0x5103, [(4, [0])], linked busyLink),
      (0x5103, [(4, [1])], linked { Link.reset with state := .disabled }), (0x7131, [(1, leBytes 8 (addr 2 0x10000)), (2, [10])], journalled),
      (0x7131, [(1, leBytes 8 (6 * 2 ^ 51 + 2 * 2 ^ 47 + 2 ^ 32)), (2, [26])], journalled)],
    RecordCommit (holdingStage x.2.2 x.1 0 x.2.1) (commitAccess x.1) (entry x.1 0) x.1 x.2.1 := by
  intro x h; simp only [List.mem_cons, List.not_mem_nil, or_false] at h
  rcases h with rfl | rfl | rfl | rfl | rfl <;> exact recordCommit_of rfl (by decide +kernel)
theorem test_record_engines_case : journalled.reels.sources = [] ∧ journalled.reels.queue = [] ∧ journalled.reels.unplaced = [] ∧ addr 2 0x10000 < 2 ^ 64 ∧
    resolvePkg journalled (addr 2 0x10000 / 2 ^ 51) = ownPkg journalled ∧ (linkOf (linked { Link.reset with state := .disabled }) 3).state = .disabled ∧
    (linkOf (linked busyLink) 3).state = .up := by decide
/-- Ring 1 fed to the package of slot 3, with a request out and a record sent. -/
def feeding : State :=
  let s := setVal (setVal journalled 0x7131 1 0 (leBytes 8 (3 * 2 ^ 51 + 2 * 2 ^ 47 + 0x10000))) 0x7131 2 0 [4]
  modRing { s with net := { s.net with out := [(9, .ringAsk 1), (10, .record 1 0 (zeros 64))] } } 1 (fun r => { r with asked := 1 })
theorem test_substitution_case : ringSize feeding 1 ≠ 0 ∧ ringHome feeding 1 = ownPkg feeding / 128 * 128 + 3 ∧ recordsOut feeding 1 = [(0, zeros 64)] ∧
    feeding.reels.sources = [] := by decide
theorem test_ring_engines_case : (ringOf journalled 1).deferred = [] ∧ journalled.mem.bad = [] ∧
    (∀ e ∈ journalled.mem.stock, e.2.failedInService = false) ∧ resolvePkg journalled 6 ≠ ownPkg journalled := by decide
/-- The queue pair of tenant 0 configured, and enabled or not. -/
def queueSet (on : Byte) : State :=
  let s := setVal (setVal journalled 0x8100 1 7 (leBytes 8 0x10000)) 0x8100 2 7 (leBytes 8 0x20000)
  { setVal (setVal s 0x8100 5 7 [on]) 0xA030 0 7 [1] with can := { journalled.can with state := .active } }
theorem test_queue_entry_case : ∀ v ∈ [(0 : Byte), 1], RecordCommit (holdingStage (queueSet (1 - v)) 0x8100 7 [(5, [v])]) (commitAccess 0x8100) (entry 0x8100 0) 0x8100 [(5, [v])] := by
  intro x h; simp only [List.mem_cons, List.not_mem_nil, or_false] at h
  rcases h with rfl | rfl <;> exact recordCommit_of rfl (by decide +kernel)
theorem test_scalar_entries_case : ∀ x ∈ [(0x9005, (2 : Byte)), (0xA031, 1), (0xF002, 1), (0xF003, 1)],
    ScalarWrite (queueSet 1) (scalarAccess x.1 [x.2]) (entry x.1 0) x.1 [x.2] ∧ (tqOf (queueSet 1) 7).resetStep = 0 := by
  intro x h; simp only [List.mem_cons, List.not_mem_nil, or_false] at h
  rcases h with rfl | rfl | rfl | rfl <;> exact ⟨scalarWrite_of rfl (by decide +kernel), by decide⟩
theorem test_challenge_case : let a := dictAccess 0xA020 0 0 0 48 []
    bodyCode 1 a = 0 ∧ accessCode inService 1 a (entry 0xA020 0) = 0 ∧ 48 ≤ min a.length.toNat (pathLimit a.path) ∧ lifeState inService = 3 := by decide
theorem test_challenge_entry_case : findEntry inService (dictAccess 0xA020 0 0 0 48 []) = .ok (entry 0xA020 0) ∧ DictIdle inService := ⟨rfl, rfl, rfl, rfl⟩
/-! ## Windows, start-up and resets -/

theorem test_read_case : ∀ x ∈ [(0x1004, 0, 2), (0x2003, 0, 2), (0x4101, 3, 8), (0x1001, 0, 5)], let a := dictAccess x.1 x.2.1 0 0 x.2.2 []
    DictIdle journalled ∧ bodyCode 1 a = 0 ∧ accessCode journalled 1 a (entry x.1 x.2.1) = 0 ∧ bodyCode 3 a = 0 ∧ a.offset = 0 ∧
    (isText (entry x.1 x.2.1).ty = false ↔ x.1 ≠ 0x1001) ∧ (entry x.1 x.2.1).dflt.length = x.2.2 ∧ x.2.2 ≤ min a.length.toNat (pathLimit a.path) ∧ x.1 ≠ 0x7000 := by
  unfold DictIdle; decide
theorem test_read_entry_case : ∀ x ∈ [(0x1004, 0, 2), (0x2003, 0, 2), (0x4101, 3, 8), (0x1001, 0, 5), (0xF001, 0, 64)],
    findEntry journalled (dictAccess x.1 x.2.1 0 0 x.2.2 []) = .ok (entry x.1 x.2.1) := by
  intro x h; simp only [List.mem_cons, List.not_mem_nil, or_false] at h
  rcases h with rfl | rfl | rfl | rfl | rfl <;> rfl
theorem test_read_refused_case : entryAt 0x0FFF = none ∧ (∀ op ∈ [(1 : Byte), 2, 3], bodyCode op (dictAccess 0x0FFF 0 0 0 0 []) = 0) ∧
    ({ journalled with gaffer := { journalled.gaffer with dictReady := false } } : State).gaffer.dictReady = false ∧
    (dictAccess 0x1004 0 0 0 2 []).path ≠ .gaffer := by decide
/-- Window of function 0 with slot 15 busy or free. -/
def windowed (busy : Bool) : State := modWin journalled 0 (fun w => { w with busy := if busy then 0x8000 else 0 })
theorem test_doorbell_busy_case : winNum (.fn 0) = 0 ∧ (winOf (windowed true) 0).busy.toNat.testBit 15 = true ∧ (winOf (windowed false) 0).busy.toNat.testBit 15 = false ∧
    (8 : U32).toNat.testBit 3 = true := by decide
def doorbellBody : List Byte := [1, 0] ++ leBytes 2 0x1004 ++ zeros 8 ++ leBytes 2 2 ++ leBytes 2 9
theorem test_doorbell_slot_case : let u := storeBody (windowed false) (.fn 0) 15 doorbellBody
    (winOf u 0).bytes = cellWrite [] 0xF000 doorbellBody := by rfl
theorem test_doorbell_bytes_case : slice (cellRead (cellWrite [] 0xF000 doorbellBody) 0xF000 2048) 0 16 = doorbellBody := by
  rw [slice_cellRead _ _ _ _ _ (by omega)]; decide +kernel
theorem test_doorbell_read_case : let held := takeSlot (storeBody (windowed false) (.fn 0) 15 doorbellBody) 0 15
    let a := accessOf (windowPath (.fn 0)) { faultBit := none, ioutMa := none } (fit 2048 doorbellBody)
    DictIdle held ∧ bodyOp doorbellBody = 1 ∧ bodyCode 1 { a with data := [] } = 0 ∧ accessCode held 1 a (entry 0x1004 0) = 0 ∧ isText (entry 0x1004 0).ty = false ∧
    a.offset = 0 ∧ (entry 0x1004 0).dflt.length ≤ min a.length.toNat (pathLimit a.path) ∧ a.index ≠ 0x7000 := by unfold DictIdle; decide +kernel

/-- The package with its standby rail up and the main power off. -/
def standing (rows : Nat) (retired : Bool) : State :=
  { State.reset with pins := { State.reset.pins with vstby := true }, fuses := { State.reset.fuses with rows := rows, retired := retired } }
theorem test_power_up_case : ∀ retired, let s := standing 0 retired
    s.pins.vstby = true ∧ s.pins.pwrOk = false ∧ s.gaffer.inReset = false ∧ s.dict.awaiting = none ∧ (∀ r < 8, (regOf s r).on = false) ∧
    (lifeState s = 4 ↔ retired = true) := by decide
theorem test_reset_rise_case : let s := { bench with gaffer := { bench.gaffer with inReset := true } }
    s.gaffer.inReset = true ∧ s.pins.pwrOk = true ∧ (regOf s 0).on = true ∧ s.dict.awaiting = none ∧ s.power.trans = none ∧ s.i2c.lent = false ∧ lifeState s ≠ 4 := by
  decide
theorem test_training_stock_case : let s := { bench with gaffer := { bench.gaffer with readiness := 0 } }
    let none : ChannelFinding := { density := 0, passes6400 := false, passes7500 := false, passes8533 := false }
    let l : List ChannelFinding := [{ none with density := 32, passes6400 := true, passes7500 := true }, none, { none with density := 32 }]
    s.gaffer.diesReleased = true ∧ ready s 6 = false ∧ (l[0]?).isSome = true ∧ (densities l 0).length = 1 ∧ 8533 ≤ trainCap s ∧
    ((l[0]?).map (fun f => [6400, 7500, 8533].filter (gradePassed f))) = some [6400, 7500] ∧
    ((l[2]?).map (fun f => [6400, 7500, 8533].filter (gradePassed f))) = some [] ∧ ready { s with gaffer := { s.gaffer with readiness := 0x40 } } 6 = true ∧
    ready { s with gaffer := { s.gaffer with readiness := 0x40 } } 7 = false := by decide
/-- The ROM loading slot A, where the slots are valid or not. -/
def loadingImage (a b : Bool) : State :=
  let image (ok : Bool) : ImageSlot := if ok then ImageSlot.signed else ImageSlot.erased
  { bench with gaffer := { bench.gaffer with loading := true, readiness := 0, slotB := false, imageA := image a, imageB := image b } }
theorem test_signature : ImageSlot.signed.signatureOk = true := by decide +kernel
theorem slotValid_loading (a b x : Bool) : slotValid (loadingImage a b) x = if x then b else a := by
  have no : ImageSlot.erased.formatOk = false := by decide +kernel
  have yes : ImageSlot.signed.formatOk = true := by decide +kernel
  have blank : lifeState (loadingImage a b) = 0 := rfl
  have floor : (loadingImage a b).fuses.floor.toNat = 0 := rfl
  have version : decide (0 ≤ ImageSlot.signed.version) = true := by decide
  cases a <;> cases b <;> cases x <;>
    simp only [slotValid, imageOf, loadingImage, if_true, if_false, Bool.false_eq_true, no, yes, test_signature, Bool.false_and, Bool.true_and, Bool.and_true] <;>
    first | rfl | decide +kernel
theorem test_firmware_case : ∀ a b, let s := loadingImage a b
    s.gaffer.loading = true ∧ ready s 0 = false ∧ s.gaffer.slotB = false ∧ s.power.hold = false ∧ s.power.heldTrips = [] ∧
    s.dict.awaiting = none ∧ tfind s.dict.pend (dictKey 0xA002 0 0) = none ∧ s.gaffer.warm = false := by decide
theorem test_floor_case : let s := { loadingImage true false with dict := { bench.dict with pend := [(dictKey 0xA002 0 0, { bytes := leBytes 4 1, persistent := true })] } }
    tfind s.dict.pend (dictKey 0xA002 0 0) = some { bytes := leBytes 4 1, persistent := true } ∧ s.fuses.floor.toNat < 1 ∧
    1 ≤ (imageOf s false).version ∧ s.fuses.floorWords < 64 := by decide +kernel
/-- A trip of the comparator of domain 3 at 600 mV that came before the firmware ran. -/
def tripHeld : State := { loadingImage true true with power := { bench.power with heldTrips := [(.domain 3, 600)] } }
theorem test_held_trip_case : tripHeld.power.heldTrips = [(.domain 3, 600)] ∧ tripHeld.gaffer.loading = true ∧ ready tripHeld 0 = false ∧
    ∃ u, exec .firmwareStart { tripHeld with power := { tripHeld.power with heldTrips := [] } } = .next u := by
  exact ⟨rfl, rfl, by decide, _, rfl⟩
/-- The firmware started from a blank journal, or from half A with one record, of the node of the field port. -/
def starting (rows : Nat) (recs : List JournalRec) : State :=
  let s := { State.reset with
    pins := { State.reset.pins with pwrOk := true }, fuses := { State.reset.fuses with rows := rows }
    gaffer := { State.reset.gaffer with running := true } }
  if rows = 0 then s else
    { s with dict := { s.dict with journal := { s.dict.journal with halfA := written recs } } }
def nodeRecord : JournalRec := (newRecord State.reset 0x9000 0 0 false [9]).withSeal true
theorem test_dictionary_start_case : ∀ rows ∈ [0, 3], let s := starting rows [nodeRecord]
    s.gaffer.running = true ∧ s.gaffer.dictReady = false ∧ s.gaffer.warm = false ∧ s.ageing.store = [] ∧ s.pins.pwrOk = true ∧
    (lifeState s = rows) ∧ chooseHalf s.dict.journal = (if rows = 0 then none else some false) ∧
    (let vals := ((halfOf s.dict.journal false).recs.filter (fun r => r.good && r.kind == kEntry && !inSkipped (halfOf s.dict.journal false) false r)).foldl (applyRecord (fun _ _ => true)) []
     let u : State := { s with dict := { s.dict with vals := vals } }
     valOf u 0x8002 0 0 [1] = leBytes 1 (b2n s.host.bar4) ∧ (valNat u 0xA001 0 0 0 == 1) = s.gaffer.used.1 ∧
     (∀ e ∈ s.mem.stock, e.2.rate ≤ valNat u 0x3010 0 0 8533) ∧ (rows = 0 ∨ valNat u 0x9000 0 0 127 = 9)) := by decide +kernel
theorem test_links_case : let s := { bench with gaffer := { bench.gaffer with readiness := 0 } }
    s.gaffer.dictReady = true ∧ s.gaffer.diesReleased = true ∧ ready s 4 = false ∧ (regOf s 7).on = true := by decide
theorem test_reset_case : ∀ s ∈ [State.reset, bench], s.dict.awaiting = none ∧ s.power.trans = none ∧ s.dict.queued = [] ∧ s.pins.vstby = true := by decide
theorem test_main_power_case : bench.pins.pwrOk = true ∧ bench.power.hold = false ∧
    ({ bench with power := { bench.power with hold := true } } : State).power.hold = true ∧ bench.gaffer.running = true := by decide
theorem test_excursion_case : ∀ x ∈ [(Rail.vvault, (775 : Int), true), (.vvault, 776, false), (.vvault, 824, false), (.vvault, 825, true), (.vserdesA0, 881, true), (.vserdesA0, 918, false)],
    let c := bandCentre bench x.1
    (-300 : Int) ≤ x.2.1 ∧ x.2.1 ≤ absMax x.1 ∧ (regOf bench (railNum x.1)).on = true ∧ x.1 ≠ .vcoreF ∧ (c - bandOf x.1 ≤ x.2.1 ∧ x.2.1 ≤ c + bandOf x.1 ↔ x.2.2 = false) := by
  decide
theorem test_watchdog_case : ∀ b, let s := { loadingImage true b with gaffer := { (loadingImage true b).gaffer with running := true } }
    s.gaffer.running = true ∧ s.gaffer.slotB = false ∧ s.dict.awaiting = none ∧ s.dict.queued = [] ∧ s.power.trans = none := by decide
/-! ## Operands of another row (one for each check) -/

/-- The command is refused. -/
def refusedBy (i : Instr) (s : State) : Bool := match exec i s with | .refused _ => true | _ => false
theorem test_refused_entry : wellFormed (.groupStart (dictAccess 0x2000 0 0 0 2 [])) = false ∧ refusedBy (.groupStart (dictAccess 0x2000 0 0 0 2 [])) bench = true := by decide
theorem test_refused_word : wellFormed (.intAdd 0 (wordA 0 3 1 2 1)) = false ∧ refusedBy (.intAdd 0 (wordA 0 3 1 2 1)) bench = true := by decide
theorem test_refused_mode_word : wellFormed (.modeWordOffer 3 (word 2)) = false ∧ refusedBy (.modeWordOffer 3 (word 2)) bench = true := by decide +kernel
theorem test_refused_flit : wellFormed (.nullFlit 3 readFlit) = false ∧ refusedBy (.nullFlit 3 readFlit) (linked busyLink) = true := by decide +kernel
theorem test_refused_control : wellFormed (.linkControlPause 3 (flit 0 4 0 0 0 [2])) = false ∧
    refusedBy (.linkControlPause 3 (flit 0 4 0 0 0 [2])) (linked busyLink) = true := by decide +kernel
theorem test_refused_field_request : wellFormed (.canDictionaryRequest (canFrame 0 127 3 1 9 []) { faultBit := none, ioutMa := none }) = false ∧
    refusedBy (.canDictionaryRequest (canFrame 0 127 3 1 9 []) { faultBit := none, ioutMa := none }) (fielded .active 0 false true) = true := by decide
theorem test_refused_spi : ∀ i ∈ [Instr.spiFetch { words := [0], extraEdges := 0 }, .spiNoOperation { words := [0x02000000], extraEdges := 0 },
    .spiRequest { words := [0], extraEdges := 0 } { faultBit := none, ioutMa := none }], wellFormed i = false ∧ refusedBy i journalled = true := by decide +kernel
theorem test_refused_descriptor : fits (.attention 0 (wordE 8 1 2 1 7)) producing = false ∧ refusedBy (.attention 0 (wordE 8 1 2 1 7)) producing = true := by decide +kernel
theorem test_refused_dma : fits (.dmaFill 0 (wordE 0xB 1 2 1 7)) (moving 1 1) = false ∧ refusedBy (.dmaFill 0 (wordE 0xB 1 2 1 7)) (moving 1 1) = true := by decide +kernel

/-! ## Results worked out by hand, or given in the manual -/

/-- Register r of core 0 after a command on the bench. -/
def after (i : Instr) (s : State) (r : Nat) : Nat := match exec i s with | .next t => reg (coreOf t 0) r | _ => 0
theorem test_add_wraps : after (.intAdd 0 (wordA 0 3 1 2 0)) (withRegs bench [(1, 0xFFFFFFFFFFFFFFFF), (2, 2)]) 3 = 1 := by decide
theorem test_add_same_register : after (.intAdd 0 (wordA 0 1 1 1 0)) (withRegs bench [(1, 21)]) 1 = 42 := by decide
theorem test_discarded : after (.intAdd 0 (wordA 0 0 1 2 0)) (withRegs bench [(1, 5), (2, 2)]) 0 = 0 := by decide
theorem test_product_high : after (.intProductHighUnsigned 0 (wordA 0 3 1 2 9)) (withRegs bench [(1, 0x8000000000000000), (2, 6)]) 3 = 3 := by decide
theorem test_arithmetic_right : after (.intArithmeticRight 0 (wordA 0 3 1 2 7)) (withRegs bench [(1, 0xFFFFFFFFFFFFFFF0), (2, 66)]) 3 = 0xFFFFFFFFFFFFFFFC := by decide
theorem test_leading_zeros : after (.intLeadingZeros 0 (wordA 0 3 1 2 0xE)) (withRegs bench [(1, 0x10000)]) 3 = 47 := by decide
theorem test_add_immediate_negative : after (.addImmediate 0 (wordI 1 3 1 0 0x7FFF)) (withRegs bench [(1, 5)]) 3 = 4 := by decide
theorem test_shift_or_immediate : after (.shiftOrImmediate 0 (wordI 1 3 1 3 0x7FFF)) (withRegs bench [(1, 1)]) 3 = 0xFFFF := by decide
/-- Table Test vectors (R387). -/
theorem test_random_vector_1 : xcg10 0 0 0 0 = (0xCB051AC8, 0xD5035E6C, 0xCA079AE6, 0x04A98C19) := by decide +kernel
theorem test_random_vector_2 : xcg10 1 0 0 0x10 = (0xEF13A387, 0x41011738, 0x6F6CE01D, 0x1151EA91) := by decide +kernel
theorem test_random_vector_3 : xcg10 0x0123456789ABCDEF 0x2A 0x000003E800000200 0x30 = (0x38FE1975, 0x2CA4D4AB, 0x44B6CC19, 0xDBECB8BF) := by decide +kernel
/-- Worked example: composing a vault address; core 0x271 is in domain 12 (R827). -/
theorem test_vault_address : splitAddr bench 0x09688004E2123400 = (0x12D, 1, 0x271 * 2 ^ 25 + 0x123400) ∧ domainOf 0x271 = 12 := by decide
/-- Worked example: a stock offset on mixed dies. -/
def mixed : State := { bench with mem := { bench.mem with
  stock := (List.range 16).map (fun c => (c, { density := if c < 8 then 32 else 16, state := 2, rate := 8533, failedInService := false })) } }
theorem test_stock_offset : capacityGiB mixed = 384 ∧ stockPlace mixed 0x25C13 = some (7, 0x2413) ∧ stockPlace mixed 0x5000001D40 = some (7, 0x600000140) := by decide +kernel
/-- Worked example: identifiers of one exchange. -/
theorem test_field_identifiers : fieldIdent 3 0x21 0x05 1 7 = 0x0D085107 ∧ fieldIdent 3 0x05 0x21 2 7 = 0x0C2A1207 := by decide
/-- Worked example: reading one event. -/
theorem test_event_bytes : eventBytes { seq := 0x1A2B, time := 0x12C5F, code := 0x4010, source := srcField 2, detail := 3 } =
    [0x2B, 0x1A, 0x00, 0x00, 0x5F, 0x2C, 0x01, 0x00, 0x10, 0x40, 0x02, 0x70, 0x03, 0x00, 0x00, 0x00] := by decide
/-- Worked example: routes around slot 45 of frame 0, from slot 42 to frame 3 with the entry 0x19. -/
theorem test_route_entry : let s := setVal bench 0x5000 0 0 (zeros 0x1FF ++ [0x19] ++ zeros 16)
    routeEntry s 0x1FF = some 9 ∧ routeEntry s 0x1FE = none := by decide +kernel
/-- R827's rule for the first core of each die, and the largest finite values of the operand formats. -/
theorem test_domains : domainOf 0 = 0 ∧ domainOf 511 = 7 ∧ domainOf 512 = 8 ∧ domainOf 1023 = 15 := by decide
theorem test_format_values : Fmt.e4m3.widen 0x7E = 0x43E00000 ∧ Fmt.fp16.widen 0x7BFF = 0x477FE000 ∧ Fmt.bf16.narrow .even 0x3F808000 = 0x3F80 ∧
    Fmt.bf16.narrow .even 0x3F818000 = 0x3F82 := by decide +kernel

end Sys2Proof.Tests
end

section
/-!
SUPPORT. Messages (R205 to R213): what the shared operations of the message rows do to cores, mailboxes and scratchpads, and
the proof of O18.
-/
namespace Sys2Proof.Machine

open Sys2Proof.Claims

/-! ### Results -/

/-- The claims' reading of a register is the model's. -/
@[simp] theorem sreg_toNat (s : State) (c r : Nat) : (sreg s c r).toNat = reg (coreOf s c) r :=
  Nat.mod_eq_of_lt (reg_lt _ _)

theorem coreOf_result (s : State) (c d v x : Nat) :
    coreOf (result s c d v) x = if x = c then pcNext (setReg (coreOf s c) d v) else coreOf s x := coreOf_modCore ..

@[simp] theorem setReg_boxes (k : Core) (d v : Nat) : (setReg k d v).boxes = k.boxes := by rw [setReg_core]
@[simp] theorem setReg_resv (k : Core) (d v : Nat) : (setReg k d v).resv = k.resv := by rw [setReg_core]
@[simp] theorem setReg_sendSeq (k : Core) (d v : Nat) : (setReg k d v).sendSeq = k.sendSeq := by rw [setReg_core]

/-- Registers are read from the register table alone. -/
theorem reg_congr {k l : Core} (h : k.regs = l.regs) (r : Nat) : reg k r = reg l r := by simp only [reg, h]

theorem sreg_result_self (s : State) {c d : Nat} (v : Nat) (h : d ≠ 0) : sreg (result s c d v) c d = BitVec.ofNat 64 v := by
  apply BitVec.eq_of_toNat_eq
  simp [coreOf_result, reg_setReg_self _ _ h]

theorem sreg_result_ne (s : State) {c d r : Nat} (v : Nat) (h : r ≠ d) : sreg (result s c d v) c r = sreg s c r := by
  simp [sreg, coreOf_result, reg_setReg_ne _ _ h]

/-- A status written over a state that has the core's registers and pc of `s`. -/
theorem status_result {s u : State} {c : Nat} (w : U32) (st : Nat) (hregs : (coreOf u c).regs = (coreOf s c).regs)
    (hpc : (coreOf u c).pc = (coreOf s c).pc) : Status s (result u c (wA w) st) c w st := by
  refine ⟨sreg_result_self u st, fun r hr => ?_, ?_⟩
  · rw [sreg_result_ne u st hr, sreg, sreg, reg_congr hregs]
  · simp [coreOf_result, pcNext, hpc]

/-! ### Frames of cores -/

theorem onlyCore_refl (s : State) (c : Nat) : OnlyCore s s c := ⟨rfl, fun _ _ => rfl⟩

theorem onlyCore_modCore {s t : State} {c : Nat} (h : OnlyCore s t c) (f : Core → Core) : OnlyCore s (modCore t c f) c := by
  obtain ⟨hrest, hcores⟩ := h
  refine ⟨?_, fun k hk => by rw [coreOf_modCore_ne t f hk, hcores k hk]⟩
  rw [modCore_eq, hrest]

theorem onlyCores_refl (s : State) (c e : Nat) : OnlyCores s s c e := ⟨rfl, fun _ _ _ => rfl⟩

theorem onlyCores_symm {s t : State} {c e : Nat} (h : OnlyCores s t c e) : OnlyCores s t e c :=
  ⟨h.1, fun k he hc => h.2 k hc he⟩

theorem onlyCores_modCore {s t : State} {c e : Nat} (h : OnlyCores s t c e) (f : Core → Core) :
    OnlyCores s (modCore t c f) c e := by
  obtain ⟨hrest, hcores⟩ := h
  refine ⟨?_, fun k hc he => by rw [coreOf_modCore_ne t f hc, hcores k hc he]⟩
  rw [modCore_eq, hrest]

theorem writesReg_result (s : State) (c d v : Nat) : WritesReg s (result s c d v) c d (BitVec.ofNat 64 v) where
  written := sreg_result_self s v
  zero := by simp [sreg]
  others _ h := sreg_result_ne s v h
  core := by
    rw [coreOf_result, if_pos rfl, pcNext, setReg_core]
  only := onlyCore_modCore (onlyCore_refl s c) _

/-! ### Mailboxes -/

/-- Mailboxes are read from the table of mailboxes alone. -/
theorem boxOf_congr {s t : State} {c : Nat} (h : (coreOf t c).boxes = (coreOf s c).boxes) (mb : Nat) :
    boxOf t c mb = boxOf s c mb := by simp only [boxOf, h]

/-- A change of a core that keeps its table of mailboxes keeps every mailbox. -/
theorem boxOf_modCore (s : State) (c : Nat) (f : Core → Core) (h : (f (coreOf s c)).boxes = (coreOf s c).boxes) (e b : Nat) :
    boxOf (modCore s c f) e b = boxOf s e b := by
  apply boxOf_congr
  rw [coreOf_modCore]
  split
  case isTrue he => rw [he, h]
  case isFalse => rfl

theorem boxOf_result (s : State) (c d v e b : Nat) : boxOf (result s c d v) e b = boxOf s e b :=
  boxOf_modCore s c _ (by simp [pcNext]) e b

theorem boxOf_modBox_self (s : State) (c mb : Nat) (f : Mailbox → Mailbox) :
    boxOf (modBox s c mb f) c mb = f (boxOf s c mb) := by
  simp [boxOf, modBox]

theorem boxOf_modBox_ne (s : State) {c mb e b : Nat} (f : Mailbox → Mailbox) (h : (e, b) ≠ (c, mb)) :
    boxOf (modBox s c mb f) e b = boxOf s e b := by
  by_cases he : e = c
  · have hb : b ≠ mb := fun hb => h (by rw [he, hb])
    simp [boxOf, modBox, he, tget_tput_ne _ _ _ hb]
  · rw [boxOf, modBox, coreOf_modCore_ne s _ he, boxOf]

/-! ### Scratchpads without errors -/

theorem scratchRead_clean (s : State) (c off n : Nat) (h : badIn s (scratchKey c off) n = []) :
    scratchRead s c off n = (s, cellRead s.mem.cells (scratchKey c off) n, none) := by
  simp [scratchRead, eccRead_clean s _ n h]

theorem scratchWrite_clean (s : State) (c off : Nat) (bs : List Byte) (h : badIn s (scratchKey c off) bs.length = []) :
    scratchWrite s c off bs = (rawWrite s (scratchKey c off) bs, none) := by
  simp [scratchWrite, eccWrite, h, eccScan]

/-- A write of bytes changes memory alone. -/
theorem rawWrite_eq (s : State) (k : Nat) (bs : List Byte) : rawWrite s k bs = { s with mem := (rawWrite s k bs).mem } := by
  unfold rawWrite
  split <;> rfl

theorem coreOf_rawWrite (s : State) (k : Nat) (bs : List Byte) (c : Nat) : coreOf (rawWrite s k bs) c = coreOf s c := by
  rw [rawWrite_eq]
  rfl

theorem otherBytes_rawWrite (s : State) (k : Nat) (bs : List Byte) : OtherBytes s (rawWrite s k bs) k bs.length := by
  intro n hn
  rw [rawWrite_get, if_neg (by omega)]

theorem cellRead_rawWrite (s : State) (k : Nat) {bs : List Byte} (h : bs ≠ []) :
    cellRead (rawWrite s k bs).mem.cells k bs.length = bs := by
  rw [rawWrite_cells s k bs h, cellRead_cellWrite]

/-! ### Descriptors -/

/-- A row whose descriptor names a mailbox runs on that mailbox and the descriptor's bytes. -/
theorem withDesc_described {s : State} {c : Nat} {w : U32} {n pkg dst mb : Nat} (h : Describes s c w n pkg dst mb)
    (outside : State → State) (f : State → Nat → Nat → Nat → List Byte → State) :
    withDesc s c w n outside f = f s pkg dst mb (cellRead s.mem.cells (scratchKey c (sreg s c (wD w)).toNat) n) := by
  obtain ⟨⟨hroom, hbad⟩, haddr, hdst, hmb, hmb16⟩ := h
  simp only [sreg_toNat] at hroom hbad haddr hdst hmb ⊢
  have hpkg := congrArg Prod.fst haddr
  have hspace := congrArg (fun a => a.2.1) haddr
  dsimp only at hpkg hspace
  rw [withDesc, if_neg (by rw [scratchBytes]; omega), msgDesc, scratchRead_clean s c _ n hbad]
  dsimp only
  rw [if_neg (by omega), if_neg (by rw [hspace]; decide), hpkg, ← hdst, ← hmb]

theorem overWay_open {s : State} {c tag : Nat} {way : Way} (h : way = .open') (f : State → State) :
    overWay s c tag way f = f s := by rw [h]; rfl

/-- The shared step of the message rows, for an issued word of the row. -/
theorem coreStep_message {mn : String} {n : Nat} {f : State → State} {c : CoreId} {w : U32} {s : State}
    (hi : issues s c.toNat w = true) (hw : spell w = .message n) :
    coreStep mn (fun p => p == .message n) f c w s = .next (f s) :=
  coreStep_run hi (by simp [hw]) (by simp [hw])

/-! ### MSG.SEND -/

theorem exec_msgSend_issued {s : State} {c : CoreId} {w : U32} (hi : issues s c.toNat w = true) (hw : spell w = .message 2) :
    exec (.msgSend c w) s = .next (msgSend c.toNat w s) := by
  rw [exec_msgSend, execMsgSend]
  exact coreStep_message hi hw

/-- The sequence after one comes later (R209). -/
theorem seqMax_succ (v : U32) : seqMax v (v + 1) = v + 1 := by
  have hne : v ≠ v + 1 := by bv_omega
  have hsub : v + 1 - v = 1 := by bv_omega
  have hlater : seqBefore v (v + 1) = true := by
    rw [seqBefore, hsub, Bool.and_eq_true, bne_iff_ne]
    exact ⟨hne, by decide⟩
  rw [seqMax, if_pos hlater]

section
variable (s : State) (dst mb : Nat) (x : Pkg × CoreId × Option GroupId × Tenant) (m : Msg)

/-- Message m placed in the slot x of a mailbox, and counted. -/
def placeIn : State :=
  modCore (modBox s dst mb (fun b => { b with reserved := b.reserved.erase x, placed := b.placed ++ [m] })) dst
    (fun k => { k with sendSeq := tmod k.sendSeq (senderKey m.pkg.toNat m.core.toNat mb) 0 (fun v => seqMax v (m.seq + 1)) })

/-- Placing a message touches the mailboxes and send counts of the receiver alone. -/
theorem coreOf_placeIn (e : Nat) :
    coreOf (placeIn s dst mb x m) e = { coreOf s e with
      boxes := (coreOf (placeIn s dst mb x m) e).boxes, sendSeq := (coreOf (placeIn s dst mb x m) e).sendSeq } := by
  by_cases he : e = dst
  · simp [placeIn, modBox, he]
  · simp [placeIn, modBox, coreOf_modCore_ne, he]

theorem sendSeq_placeIn :
    (coreOf (placeIn s dst mb x m) dst).sendSeq =
      tmod (coreOf s dst).sendSeq (senderKey m.pkg.toNat m.core.toNat mb) 0 (fun v => seqMax v (m.seq + 1)) := by
  simp [placeIn, modBox]

theorem boxOf_placeIn_self :
    boxOf (placeIn s dst mb x m) dst mb =
      { boxOf s dst mb with reserved := (boxOf s dst mb).reserved.erase x, placed := (boxOf s dst mb).placed ++ [m] } := by
  rw [placeIn, boxOf_modCore _ _ _ rfl, boxOf_modBox_self]

theorem boxOf_placeIn_ne {e b : Nat} (h : (e, b) ≠ (dst, mb)) :
    boxOf (placeIn s dst mb x m) e b = boxOf s e b := by
  rw [placeIn, boxOf_modCore _ _ _ rfl, boxOf_modBox_ne s _ h]

end

section
variable {s : State} {c dst mb : Nat} {m : Msg} {r : Resv} {x : Pkg × CoreId × Option GroupId × Tenant}

/-- A message for which its sender has a slot, at a core that takes messages, is placed there. -/
theorem placeMsg_reserved (hdst : destStatus s dst m.tenant.toNat = 0)
    (hslot : findSlot s dst mb m.pkg.toNat m.core.toNat = some x) :
    placeMsg s dst mb m = (placeIn s dst mb x
      { m with num := m.seq - tget (coreOf s dst).seqBase (senderKey m.pkg.toNat m.core.toNat mb) 0 }, 0) := by
  simp [placeMsg, hdst, hslot, placeIn]

/-- A message placed by its sender, whose reservation is used up. -/
def sendIn (s : State) (c dst mb : Nat) (r : Resv) (x : Pkg × CoreId × Option GroupId × Tenant) (m : Msg) : State :=
  modCore (placeIn s dst mb x m) c (fun k => { k with resv := k.resv.erase r })

theorem sendLocal_reserved (hheld : heldResv s c (ownPkg s) dst mb = some r) (hdst : destStatus s dst m.tenant.toNat = 0)
    (hslot : findSlot s dst mb m.pkg.toNat m.core.toNat = some x) :
    sendLocal s c dst mb m = (sendIn s c dst mb r x
      { m with num := m.seq - tget (coreOf s dst).seqBase (senderKey m.pkg.toNat m.core.toNat mb) 0 }, 0) := by
  have hresv : ∀ n, heldResv (placeIn s dst mb x n) c (ownPkg s) dst mb = some r := fun n => by
    rw [heldResv, coreOf_placeIn]
    exact hheld
  simp only [sendLocal, placeMsg_reserved hdst hslot, if_pos, dropResv, hresv, sendIn]

end

section
variable {s : State} {c : CoreId} {w : U32} {dst mb : Nat} {l : List Byte}
  (hd : Describes s c.toNat w 32 (ownPkg s) dst mb)
  (hl : cellRead s.mem.cells (scratchKey c.toNat (sreg s c.toNat (wD w)).toNat) 32 = l) (hlen : fieldAt l 0xC 2 ≤ 4096)
  (hclean : ScratchClean s c.toNat (fieldAt l 0x10 4) (fieldAt l 0xC 2))
include hd hl hlen hclean

/-- What a well described MSG.SEND to a core of this package comes to, in the order of its checks. -/
theorem msgSend_local :
    msgSend c.toNat w s =
      if heldResv s c.toNat (ownPkg s) dst mb = none then result s c.toNat (wA w) 5
      else if owesWrites s c.toNat (ownPkg s) dst then s
      else overWay s c.toNat (wTag w) (wayAcross s c.toNat dst) (fun _ =>
        let sent := sendLocal s c.toNat dst mb (mkMsg s c.toNat (ownPkg s) dst mb (fieldAt l 0xA 2)
          (cellRead s.mem.cells (scratchKey c.toNat (fieldAt l 0x10 4)) (fieldAt l 0xC 2)))
        result sent.1 c.toNat (wA w) sent.2) := by
  obtain ⟨hroom, hbad⟩ := hclean
  rw [msgSend, withDesc_described hd, hl]
  dsimp only
  rw [if_neg (by omega), if_neg (by rw [scratchBytes]; omega), messageWay, if_pos rfl]
  congr 2
  cases wayAcross s c.toNat dst <;> simp [overWay, scratchRead_clean s _ _ _ hbad]

theorem msgSend_unreserved (hheld : heldResv s c.toNat (ownPkg s) dst mb = none) :
    msgSend c.toNat w s = result s c.toNat (wA w) 5 := by
  rw [msgSend_local hd hl hlen hclean, if_pos hheld]

theorem msgSend_owing {r : Resv} (hheld : heldResv s c.toNat (ownPkg s) dst mb = some r)
    (howes : owesWrites s c.toNat (ownPkg s) dst = true) : msgSend c.toNat w s = s := by
  rw [msgSend_local hd hl hlen hclean, if_neg (by rw [hheld]; exact Option.some_ne_none r), if_pos howes]

/-- A message that nothing holds up is placed, numbered from the start of the receiver's group (R209). -/
theorem msgSend_reserved (hpkg : ownPkg s < 2 ^ 13) {r : Resv}
    (hheld : heldResv s c.toNat (ownPkg s) dst mb = some r)
    (hdst : destStatus s dst (BitVec.ofNat 12 (coreTenant s c.toNat)).toNat = 0)
    {x : Pkg × CoreId × Option GroupId × Tenant} (hslot : findSlot s dst mb (ownPkg s) c.toNat = some x)
    (howes : owesWrites s c.toNat (ownPkg s) dst = false) (hway : wayAcross s c.toNat dst = .open') :
    msgSend c.toNat w s =
      let seq := tget (coreOf s dst).sendSeq (senderKey (ownPkg s) c.toNat mb) 0
      result (sendIn s c.toNat dst mb r x
        { pkg := BitVec.ofNat 13 (ownPkg s), core := c, tenant := BitVec.ofNat 12 (coreTenant s c.toNat)
          userTag := BitVec.ofNat 16 (fieldAt l 0xA 2), crossed := false, seq := seq
          num := seq - tget (coreOf s dst).seqBase (senderKey (ownPkg s) c.toNat mb) 0
          payload := cellRead s.mem.cells (scratchKey c.toNat (fieldAt l 0x10 4)) (fieldAt l 0xC 2) }) c.toNat (wA w) 0 := by
  have hown : (BitVec.ofNat 13 (ownPkg s)).toNat = ownPkg s := Nat.mod_eq_of_lt hpkg
  have hme : (BitVec.ofNat 10 c.toNat : CoreId) = c := by simp
  rw [msgSend_local hd hl hlen hclean, if_neg (by rw [hheld]; exact Option.some_ne_none r), if_neg (by rw [howes]; decide),
    overWay_open hway, sendLocal_reserved (x := x) hheld hdst (by simpa only [mkMsg, hown, hme] using hslot)]
  simp [mkMsg, nextSeq, hown, hme]

end

/-! ### What a sent message leaves -/

section
variable {s : State} {w : U32} {c dst mb e b : Nat} {r : Resv} {x : Pkg × CoreId × Option GroupId × Tenant} {m : Msg}

theorem status_sendIn : Status s (result (sendIn s c dst mb r x m) c (wA w) 0) c w 0 :=
  status_result w 0 (by rw [sendIn, coreOf_modCore_self, coreOf_placeIn]) (by rw [sendIn, coreOf_modCore_self, coreOf_placeIn])

theorem onlyCores_sendIn : OnlyCores s (result (sendIn s c dst mb r x m) c (wA w) 0) c dst :=
  have hplaced : OnlyCores s (placeIn s dst mb x m) dst c := onlyCores_modCore (onlyCores_modCore (onlyCores_refl s dst c) _) _
  onlyCores_modCore (onlyCores_modCore (onlyCores_symm hplaced) _) _

theorem boxOf_sendIn :
    boxOf (result (sendIn s c dst mb r x m) c (wA w) 0) e b = boxOf (placeIn s dst mb x m) e b := by
  rw [boxOf_result, sendIn, boxOf_modCore _ _ _ rfl]

theorem resv_sendIn :
    (coreOf (result (sendIn s c dst mb r x m) c (wA w) 0) c).resv = (coreOf s c).resv.erase r := by
  rw [coreOf_result, if_pos rfl, sendIn, coreOf_modCore_self, coreOf_placeIn]
  exact setReg_resv ..

theorem sendSeq_sendIn : (coreOf (result (sendIn s c dst mb r x m) c (wA w) 0) dst).sendSeq =
    tmod (coreOf s dst).sendSeq (senderKey m.pkg.toNat m.core.toNat mb) 0 (fun v => seqMax v (m.seq + 1)) := by
  rw [coreOf_result, sendIn, coreOf_modCore, coreOf_modCore, ← sendSeq_placeIn s dst mb x m]
  split
  case isTrue h => simp [pcNext, h]
  case isFalse => rfl

end

/-! ### MSG.RECV and MSG.POLL -/

theorem exec_msgRecv_issued {s : State} {c : CoreId} {w : U32} (hi : issues s c.toNat w = true) (hw : spell w = .message 3) :
    exec (.msgRecv c w) s = .next (msgRecv c.toNat w s) := by
  rw [exec_msgRecv, execMsgRecv]
  exact coreStep_message hi hw

theorem exec_msgPoll_issued {s : State} {c : CoreId} {w : U32} (hi : issues s c.toNat w = true) (hw : spell w = .message 4) :
    exec (.msgPoll c w) s = .next (msgPoll c.toNat w s) := by
  rw [exec_msgPoll, execMsgPoll]
  exact coreStep_message hi hw

section
variable {s : State} {c : Nat} {w : U32}

theorem msgRecv_empty (h : (boxOf s c (wTag w % 16)).arrived = []) : msgRecv c w s = s := by simp only [msgRecv, h]

theorem msgPoll_empty (h : (boxOf s c (wTag w % 16)).arrived = []) : msgPoll c w s = result s c (wA w) 1 := by
  simp only [msgPoll, h]

variable {m : Msg} {rest : List Msg}

theorem msgRecv_arrived (h : (boxOf s c (wTag w % 16)).arrived = m :: rest) : msgRecv c w s = receive c w m s := by
  simp only [msgRecv, h]

theorem msgPoll_arrived (h : (boxOf s c (wTag w % 16)).arrived = m :: rest) : msgPoll c w s = receive c w m s := by
  simp only [msgPoll, h]

/-- The oldest arrived message copied to a scratchpad range, and its slot free. -/
def takeIn (s : State) (c mb off : Nat) (bytes : List Byte) : State :=
  modBox (rawWrite s (scratchKey c off) bytes) c mb (fun b => { b with arrived := b.arrived.drop 1 })

theorem receive_clean {bytes : List Byte} (hb : msgHeader m (wTag w % 16) ++ m.payload = bytes)
    (hclean : ScratchClean s c (sreg s c (wD w)).toNat bytes.length) :
    receive c w m s = result (takeIn s c (wTag w % 16) (sreg s c (wD w)).toNat bytes) c (wA w) 0 := by
  obtain ⟨hroom, hbad⟩ := hclean
  simp only [sreg_toNat] at hroom hbad ⊢
  simp only [receive, hb]
  rw [if_neg (by rw [scratchBytes]; omega), scratchWrite_clean s c _ _ hbad]
  rfl

variable {mb off : Nat} {bytes : List Byte}

theorem status_takeIn : Status s (result (takeIn s c mb off bytes) c (wA w) 0) c w 0 :=
  status_result w 0 (by simp [takeIn, modBox, coreOf_rawWrite]) (by simp [takeIn, modBox, coreOf_rawWrite])

theorem onlyCore_takeIn : OnlyCore { s with mem := (rawWrite s (scratchKey c off) bytes).mem }
    (result (takeIn s c mb off bytes) c (wA w) 0) c := by
  rw [← rawWrite_eq, result, takeIn, modBox]
  exact onlyCore_modCore (onlyCore_modCore (onlyCore_refl _ c) _) _

theorem boxOf_takeIn_self (h : (boxOf s c mb).arrived = m :: rest) :
    boxOf (result (takeIn s c mb off bytes) c (wA w) 0) c mb = { boxOf s c mb with arrived := rest } := by
  rw [boxOf_result, takeIn, boxOf_modBox_self, boxOf_congr (congrArg Core.boxes (coreOf_rawWrite ..)), h]
  rfl

theorem boxOf_takeIn_ne {b : Nat} (h : b ≠ mb) :
    boxOf (result (takeIn s c mb off bytes) c (wA w) 0) c b = boxOf s c b := by
  rw [boxOf_result, takeIn, boxOf_modBox_ne _ _ (by simpa using h), boxOf_congr (congrArg Core.boxes (coreOf_rawWrite ..))]

theorem message_ne_nil (m : Msg) (mb : Nat) : msgHeader m mb ++ m.payload ≠ [] := by
  simp [msgHeader, headerWith, leBytes]

end

/-! ### MESSAGE_ARRIVAL -/

section
variable {s : State} {c : CoreId} {mb : BitVec 4} {pkg : Pkg} {src : CoreId} {m : Msg}

/-- The model's search for the message that arrives next is the search among its sender's placed messages. -/
theorem find_arrivesNext (placed : List Msg) (hp : (boxOf s c.toNat mb.toNat).placed = placed) :
    placed.find? (fun x => x.pkg.toNat == pkg.toNat && x.core.toNat == src.toNat && arrivesNext s c.toNat mb.toNat x) =
      let next := tget (coreOf s c.toNat).recvSeq (senderKey pkg.toNat src.toNat mb.toNat) 0
      let same := placed.filter (fun x => x.pkg == pkg && x.core == src)
      same.find? (fun x => !same.any (fun y => seqBefore y.seq x.seq) && (pkg.toNat == ownPkg s || !seqBefore next x.seq)) := by
  dsimp only
  rw [List.find?_filter]
  congr 1
  funext x
  by_cases hx : x.pkg = pkg ∧ x.core = src
  · obtain ⟨rfl, rfl⟩ := hx
    simp only [arrivesNext, hp, beq_self_eq_true, Bool.true_and, true_and, Bool.decide_eq_true]
  · have hx' : ¬(x.pkg.toNat = pkg.toNat ∧ x.core.toNat = src.toNat) := by simpa [BitVec.toNat_inj] using hx
    grind

/-- Message m of a sender moved from the placed to the arrived, and the sender's receive count with it. -/
def arriveIn (s : State) (dst mb pkg c : Nat) (m : Msg) : State :=
  modCore (modBox s dst mb (fun b => { b with placed := b.placed.erase m, arrived := b.arrived ++ [m] })) dst
    (fun k => { k with recvSeq := tmod k.recvSeq (senderKey pkg c mb) 0 (fun v => seqMax v (m.seq + 1)) })

theorem messageArrival_found {dst mb pkg c : Nat} (h : (boxOf s dst mb).placed.find?
    (fun x => x.pkg.toNat == pkg && x.core.toNat == c && arrivesNext s dst mb x) = some m) :
    messageArrival s dst mb pkg c = arriveIn s dst mb pkg c m := by
  simp only [messageArrival, h, arriveIn]

variable {dst mb pkg c : Nat}

theorem boxOf_arriveIn_self : boxOf (arriveIn s dst mb pkg c m) dst mb =
    { boxOf s dst mb with placed := (boxOf s dst mb).placed.erase m, arrived := (boxOf s dst mb).arrived ++ [m] } := by
  rw [arriveIn, boxOf_modCore _ _ _ rfl, boxOf_modBox_self]

theorem boxOf_arriveIn_ne {b : Nat} (h : b ≠ mb) : boxOf (arriveIn s dst mb pkg c m) dst b = boxOf s dst b := by
  rw [arriveIn, boxOf_modCore _ _ _ rfl, boxOf_modBox_ne _ _ (by simpa using h)]

theorem recvSeq_arriveIn : tget (coreOf (arriveIn s dst mb pkg c m) dst).recvSeq (senderKey pkg c mb) 0 =
    seqMax (tget (coreOf s dst).recvSeq (senderKey pkg c mb) 0) (m.seq + 1) := by
  simp [arriveIn, modBox, tmod]

theorem regs_arriveIn : (coreOf (arriveIn s dst mb pkg c m) dst).regs = (coreOf s dst).regs := by
  simp [arriveIn, modBox]

theorem onlyCore_arriveIn : OnlyCore s (arriveIn s dst mb pkg c m) dst :=
  onlyCore_modCore (onlyCore_modCore (onlyCore_refl s dst) _) _

end

/-! ### The statement -/

theorem runs_of_exec {i : Instr} {s t : State} {P : State → Prop} (h : exec i s = .next t) (hP : P t) :
    Runs i s P := ⟨t, h, hP⟩

/-- Settles O18: the three outcomes of a local MSG.SEND, the copy that MSG.RECV and MSG.POLL make, their empty mailbox, and the
message that MESSAGE_ARRIVAL finds. -/
theorem messageTransfers : Obligations.MessageTransfers := by
  unfold Obligations.MessageTransfers
  intro s c w
  refine ⟨?send, ?take, ?empty, ?arrival⟩
  case send =>
    intro dst mb hi hw hd l len off key seq m hlen hclean
    have hexec := exec_msgSend_issued hi hw
    refine ⟨fun hheld => runs_of_exec hexec ?_, fun r hheld howes => ?_,
      fun r x hpkg hheld hdst hslot howes hway => runs_of_exec hexec ?_⟩
    · rw [msgSend_unreserved hd rfl hlen hclean hheld]
      exact writesReg_result ..
    · rw [hexec, msgSend_owing hd rfl hlen hclean hheld howes]
    · have hkey : senderKey m.pkg.toNat m.core.toNat mb = key := by
        simp only [m, key, BitVec.toNat_ofNat, Nat.mod_eq_of_lt hpkg]
      have hsent : msgSend c.toNat w s = result (sendIn s c.toNat dst mb r x m) c.toNat (wA w) 0 :=
        msgSend_reserved hd rfl hlen hclean hpkg hheld hdst hslot howes hway
      rw [hsent]
      refine ⟨status_sendIn, onlyCores_sendIn, ?_, fun e b hne => ?_, resv_sendIn, ?_⟩
      · rw [boxOf_sendIn, boxOf_placeIn_self]
      · rw [boxOf_sendIn, boxOf_placeIn_ne s dst mb x m hne]
      · rw [sendSeq_sendIn, hkey, tmod, tget_tput_self, seqMax_succ]
  case take =>
    intro m rest hi harr bytes off hclean takes
    have htakes : ∀ i, exec i s = .next (receive c.toNat w m s) → takes i := fun i hexec => by
      rw [receive_clean rfl hclean] at hexec
      exact runs_of_exec hexec ⟨status_takeIn, cellRead_rawWrite s _ (message_ne_nil m _), otherBytes_rawWrite s _ _,
        boxOf_takeIn_self harr, fun b hb => boxOf_takeIn_ne hb, onlyCore_takeIn⟩
    exact ⟨fun hw => htakes _ (by rw [exec_msgRecv_issued hi hw, msgRecv_arrived harr]),
      fun hw => htakes _ (by rw [exec_msgPoll_issued hi hw, msgPoll_arrived harr])⟩
  case empty =>
    refine fun hi hnone => ⟨fun hw => ?_, fun hw => runs_of_exec (exec_msgPoll_issued hi hw) ?_⟩
    · rw [exec_msgRecv_issued hi hw, msgRecv_empty hnone]
    · rw [msgPoll_empty hnone]
      exact writesReg_result ..
  case arrival =>
    intro mb pkg src m key next same hfind
    rw [← find_arrivesNext _ rfl] at hfind
    have hexec : exec (.messageArrival c mb pkg src) s = .next (arriveIn s c.toNat mb.toNat pkg.toNat src.toNat m) := by
      rw [exec_messageArrival, execMessageArrival, messageArrival_found hfind]
    exact runs_of_exec hexec
      ⟨boxOf_arriveIn_self, recvSeq_arriveIn, fun b hb => boxOf_arriveIn_ne hb, regs_arriveIn, onlyCore_arriveIn⟩

end Sys2Proof.Machine
end

section
/-!
SUPPORT. A fault of a running group that fences no core (R348): what each step of the table Fault recovery keeps, and what the
whole of it leaves behind.
-/
namespace Sys2Proof.Machine

open Sys2Proof.Claims

/-! ### Frames: the state with what an operation may touch left out -/

/-- All but memory and the event log: what the package's own accesses to memory keep. -/
def beyondMem (s : State) : State := { s with log := State.reset.log, mem := State.reset.mem }

/-- All but memory, the log and the reel engine: what a change of a bank keeps. -/
def beyondReels (s : State) : State := { beyondMem s with reels := State.reset.reels }

/-- All but memory, the log, the reel engine, the trackers and the count of free values: what a stopping engine's stores keep. -/
def beyondStores (s : State) : State := { beyondReels s with serving := State.reset.serving, freeCount := 0 }

theorem beyondReels_of_mem {s t : State} (h : beyondMem t = beyondMem s) : beyondReels t = beyondReels s :=
  congrArg (fun u => { u with reels := State.reset.reels }) h

theorem beyondStores_of_reels {s t : State} (h : beyondReels t = beyondReels s) : beyondStores t = beyondStores s :=
  congrArg (fun u => { u with serving := State.reset.serving, freeCount := 0 }) h

theorem beyondStores_of_mem {s t : State} (h : beyondMem t = beyondMem s) : beyondStores t = beyondStores s :=
  beyondStores_of_reels (beyondReels_of_mem h)

/-- What every action of a fold keeps, the fold keeps. -/
theorem foldl_kept {β γ : Type} (p : State → γ) {f : State → β → State} (h : ∀ s x, p (f s x) = p s) (l : List β) (s : State) :
    p (l.foldl f s) = p s := by
  induction l generalizing s with
  | nil => rfl
  | cons x l ih => rw [List.foldl_cons, ih, h]

/-! ### Events -/

/-- An event that is no alarm is a record in the log and nothing else (R163, R755). -/
theorem logEvent_quiet (s : State) {code : Nat} (h : (BitVec.ofNat 16 code).toNat / 4096 ≠ 4) (src : U16) (d : Nat) :
    logEvent s code src d = appendEvent s
      { seq := s.log.next, time := s.log.ms, code := BitVec.ofNat 16 code, source := src, detail := BitVec.ofNat 32 d } := by
  rw [logEvent, alarmOut, if_neg h]

/-- The event just appended is the last of the log. -/
theorem lastEvent_appendEvent (s : State) (code d : Nat) (src : U16) : LastEvent (appendEvent s
    { seq := s.log.next, time := s.log.ms, code := BitVec.ofNat 16 code, source := src, detail := BitVec.ofNat 32 d }) code src d := by
  have hnext : s.log.next + 1 - 1 = s.log.next := by bv_omega
  refine ⟨{ seq := s.log.next, time := s.log.ms, code := BitVec.ofNat 16 code, source := src, detail := BitVec.ofNat 32 d },
    ?_, ?_, rfl, rfl, rfl⟩
  · simp only [appendEvent, hnext, tfind_tput_self]
  · simp only [appendEvent, hnext]

/-! ### Errors met and words written -/

/-- A correction or an uncorrectable word is noted in the counts of errors and the log alone. -/
theorem eccNote_only (s : State) (k : Nat) (unc : Bool) :
    beyondMem (eccNote s k unc) = beyondMem s ∧ (eccNote s k unc).mem.cells = s.mem.cells := by
  cases unc with
  | false =>
    simp only [eccNote, Bool.false_eq_true, if_false]
    split <;> exact ⟨rfl, rfl⟩
  | true =>
    simp only [eccNote, if_true]
    split
    case h_1 => exact ⟨rfl, rfl⟩
    all_goals
      rw [logEvent_quiet _ (by decide)]
      exact ⟨rfl, rfl⟩

theorem beyondMem_eccNote (s : State) (k : Nat) (unc : Bool) : beyondMem (eccNote s k unc) = beyondMem s :=
  (eccNote_only s k unc).1

theorem cells_eccNote (s : State) (k : Nat) (unc : Bool) : (eccNote s k unc).mem.cells = s.mem.cells :=
  (eccNote_only s k unc).2

theorem beyondMem_mendWord (s : State) (k : Nat) : beyondMem (mendWord s k) = beyondMem s := rfl

theorem beyondMem_eccScan (l : List (Nat × Bool)) (s : State) : beyondMem (eccScan l s).1 = beyondMem s := by
  fun_induction eccScan l s with
  | case1 => rfl
  | case2 => exact beyondMem_eccNote ..
  | case3 s k l ih => rw [ih, beyondMem_mendWord, beyondMem_eccNote]

theorem beyondMem_eccRead (s : State) (k n : Nat) : beyondMem (eccRead s k n).1 = beyondMem s := by
  grind [eccRead, beyondMem_eccScan]

theorem beyondMem_rawWrite (s : State) (k : Nat) (bs : List Byte) : beyondMem (rawWrite s k bs) = beyondMem s := by
  rw [rawWrite_eq]
  rfl

theorem beyondMem_eccWrite (s : State) (k : Nat) (bs : List Byte) : beyondMem (eccWrite s k bs).1 = beyondMem s := by
  grind [eccWrite, beyondMem_eccScan, beyondMem_rawWrite]

theorem beyondMem_physRead (s : State) (sp o n : Nat) (who : Agent) : beyondMem (physRead s sp o n who).1 = beyondMem s := by
  grind [physRead, beyondMem_eccRead]

theorem beyondMem_physWrite (s : State) (sp o : Nat) (bs : List Byte) (who : Agent) :
    beyondMem (physWrite s sp o bs who).1 = beyondMem s := by
  grind [physWrite, beyondMem_eccWrite]

/-! ### The package's own writes -/

/-- A word in error that one of the package's own writes meets: noted, and mended where it can be corrected. -/
def meetWord (s : State) (e : Nat × Bool) : State :=
  if e.2 then eccNote s e.1 true else mendWord (eccNote s e.1 false) e.1

/-- The words in error that a write of n bytes covers in part. -/
def partsMet (s : State) (k n : Nat) : List (Nat × Bool) := (badIn s k n).filter (fun e => partWord k n e.1)

/-- A byte that one of the package's own writes leaves as it is: its word is uncorrectable, or its channel failed. -/
def lostByte (s : State) (k n x : Nat) : Bool := (partsMet s k n).contains (wordKey x, true) || keyFailed s x

/-- The bytes of a list that are not lost, written one by one. -/
def writeKept (lost : Nat → Bool) (k : Nat) (bs : List Byte) (n : Nat) (s : State) : State :=
  (List.range n).foldl (fun s i => if lost (k + i) then s else rawWrite s (k + i) [bs.getD i 0]) s

/-- One of the package's own writes: the words met first, then the bytes at once or one by one. -/
theorem ownWrite_cases (s : State) (k : Nat) (bs : List Byte) :
    ownWrite s k bs = rawWrite ((partsMet s k bs.length).foldl meetWord s) k bs ∨
    ownWrite s k bs =
      writeKept (lostByte s k bs.length) k bs bs.length ((partsMet s k bs.length).foldl meetWord s) := by
  unfold ownWrite
  dsimp only
  split
  · exact .inl rfl
  · exact .inr rfl

theorem beyondMem_meetWord (s : State) (e : Nat × Bool) : beyondMem (meetWord s e) = beyondMem s := by
  unfold meetWord
  split
  · exact beyondMem_eccNote ..
  · rw [beyondMem_mendWord, beyondMem_eccNote]

theorem cells_meetWord (s : State) (e : Nat × Bool) : (meetWord s e).mem.cells = s.mem.cells := by
  unfold meetWord
  split
  · exact cells_eccNote ..
  · exact cells_eccNote ..

theorem beyondMem_writeKept (lost : Nat → Bool) (k : Nat) (bs : List Byte) (n : Nat) (s : State) :
    beyondMem (writeKept lost k bs n s) = beyondMem s := by
  refine foldl_kept beyondMem (fun s i => ?_) _ s
  split
  · rfl
  · exact beyondMem_rawWrite ..

/-- What stands at an address after the bytes that are not lost are written. -/
theorem cellGet_writeKept (lost : Nat → Bool) (k : Nat) (bs : List Byte) (n : Nat) (s : State) (a : Nat) :
    cellGet (writeKept lost k bs n s).mem.cells a =
      if k ≤ a ∧ a < k + n ∧ lost a = false then bs.getD (a - k) 0 else cellGet s.mem.cells a := by
  induction n with
  | zero => rw [if_neg (by omega)]; rfl
  | succ n ih =>
    have hstep : writeKept lost k bs (n + 1) s = if lost (k + n) then writeKept lost k bs n s
        else rawWrite (writeKept lost k bs n s) (k + n) [bs.getD n 0] := by
      rw [writeKept, List.range_succ, List.foldl_append]
      rfl
    rw [hstep]
    by_cases ha : a = k + n
    · subst ha
      cases hlost : lost (k + n)
      · simp [rawWrite_get]
      · simp [ih]
    · have hrange : a < k + (n + 1) ↔ a < k + n := by omega
      simp only [hrange]
      split
      · exact ih
      · rw [rawWrite_get, if_neg (by simp; omega), ih]

theorem beyondMem_ownWrite (s : State) (k : Nat) (bs : List Byte) : beyondMem (ownWrite s k bs) = beyondMem s := by
  have hmet := foldl_kept beyondMem beyondMem_meetWord (partsMet s k bs.length) s
  obtain h | h := ownWrite_cases s k bs
  · rw [h, beyondMem_rawWrite, hmet]
  · rw [h, beyondMem_writeKept, hmet]

theorem reels_ownWrite (s : State) (k : Nat) (bs : List Byte) : (ownWrite s k bs).reels = s.reels := by
  have hreels := congrArg State.reels (beyondMem_ownWrite s k bs)
  exact hreels

/-- One of the package's own writes that loses no byte of its range. -/
theorem cellGet_ownWrite (s : State) (k : Nat) (bs : List Byte)
    (hlost : ∀ x, k ≤ x → x < k + bs.length → lostByte s k bs.length x = false) (a : Nat) :
    cellGet (ownWrite s k bs).mem.cells a =
      if k ≤ a ∧ a < k + bs.length then bs.getD (a - k) 0 else cellGet s.mem.cells a := by
  have hmet := foldl_kept (fun u => u.mem.cells) cells_meetWord (partsMet s k bs.length) s
  obtain h | h := ownWrite_cases s k bs
  · rw [h, rawWrite_get, hmet]
  · rw [h, cellGet_writeKept, hmet]
    by_cases ha : k ≤ a ∧ a < k + bs.length
    · rw [if_pos ha, if_pos ⟨ha.1, ha.2, hlost a ha.1 ha.2⟩]
    · rw [if_neg ha, if_neg (fun hx => ha ⟨hx.1, hx.2.1⟩)]

/-- One of the package's own writes leaves every byte outside its range alone. -/
theorem cellGet_ownWrite_apart (s : State) (k : Nat) (bs : List Byte) {a : Nat} (ha : a < k ∨ k + bs.length ≤ a) :
    cellGet (ownWrite s k bs).mem.cells a = cellGet s.mem.cells a := by
  have hmet := foldl_kept (fun u => u.mem.cells) cells_meetWord (partsMet s k bs.length) s
  obtain h | h := ownWrite_cases s k bs
  · rw [h, rawWrite_get, hmet, if_neg (by omega)]
  · rw [h, cellGet_writeKept, hmet, if_neg (by omega)]

theorem cellRead_ownWrite_apart (s : State) (k : Nat) (bs : List Byte) {a n : Nat} (ha : a + n ≤ k ∨ k + bs.length ≤ a) :
    cellRead (ownWrite s k bs).mem.cells a n = cellRead s.mem.cells a n := by
  refine List.map_congr_left (fun i hi => cellGet_ownWrite_apart s k bs ?_)
  have := List.mem_range.mp hi
  omega

/-- A byte of a vault word that a write covers whole is not lost. -/
theorem lostByte_vault_whole (s : State) {k n x : Nat} (hspace : keySpace x = 1) (hword : keySpace (wordKey x) = 1)
    (hlow : k ≤ wordKey x) (hhigh : wordKey x + 32 ≤ k + n) : lostByte s k n x = false := by
  have hwhole : partWord k n (wordKey x) = false := by
    rw [partWord, hword]
    simp only [wordBytes, if_true, decide_eq_false_iff_not]
    omega
  have hmet : (wordKey x, true) ∉ partsMet s k n := by simp [partsMet, hwhole]
  simp [lostByte, hmet, keyFailed, hspace]

theorem beyondMem_memPut (s : State) (k n v : Nat) : beyondMem (memPut s k n v) = beyondMem s := beyondMem_ownWrite ..

theorem length_leBytes (n v : Nat) : (leBytes n v).length = n := by
  induction n generalizing v with
  | zero => rfl
  | succ n ih => rw [leBytes, List.length_cons, ih]


/-! ### Banks and trackers -/

theorem beyondReels_setBank (s : State) (b : Bool) (k : Bank) : beyondReels (setBank s b k) = beyondReels s := by
  unfold setBank
  refine (foldl_kept beyondReels (fun s c => beyondReels_of_mem ?_) _ _).trans rfl
  rw [dirPut, beyondMem_memPut, dirPut, beyondMem_memPut]

theorem beyondReels_drainBank (s : State) (b : Bool) : beyondReels (drainBank s b) = beyondReels s := by
  unfold drainBank
  split
  · exact beyondReels_setBank ..
  · rfl

theorem beyondReels_drainBanks (s : State) : beyondReels (drainBanks s) = beyondReels s := by
  rw [drainBanks, beyondReels_drainBank, beyondReels_drainBank]

/-- Where no bank drains, none drains out (R485). -/
theorem drainBanks_undrained {s : State} (ha : s.reels.bankA.state ≠ .draining) (hb : s.reels.bankB.state ≠ .draining) :
    drainBanks s = s := by
  have hfirst : drainBank s false = s := if_neg (fun h => ha h.1)
  rw [drainBanks, hfirst]
  exact if_neg (fun h => hb h.1)

theorem beyondStores_modTracker (s : State) (i : Nat) (f : Tracker → Tracker) :
    beyondStores (modTracker s i f) = beyondStores s := rfl

theorem beyondStores_setTracker (s : State) (i : Nat) (t : Tracker) : beyondStores (setTracker s i t) = beyondStores s := rfl

theorem beyondMem_listPiece (s : State) (t : Tracker) (a : Nat) (bs : List Byte) :
    beyondMem (listPiece s t a bs).1 = beyondMem s := by
  grind [listPiece, beyondMem_physWrite]

theorem beyondMem_listPut (s : State) (t : Tracker) (e v : Nat) : beyondMem (listPut s t e v).1 = beyondMem s := by
  grind [listPut, beyondMem_listPiece]

theorem beyondStores_listPut (s : State) (t : Tracker) (e v : Nat) : beyondStores (listPut s t e v).1 = beyondStores s :=
  beyondStores_of_mem (beyondMem_listPut ..)

theorem beyondStores_grantPages (f : Nat) (s : State) (i need : Nat) :
    beyondStores (grantPages f s i need).1 = beyondStores s := by
  induction f generalizing s with
  | zero => rfl
  | succ f ih =>
    unfold grantPages
    dsimp only
    split
    · rfl
    split
    · rfl
    next p _ =>
    split
    next u e h => exact (congrArg (fun r => beyondStores r.1) h).symm.trans (beyondStores_listPut ..)
    next u h =>
      rw [ih]
      exact (congrArg (fun r => beyondStores r.1) h).symm.trans (beyondStores_listPut ..)

theorem beyondStores_leaveWait (s : State) (i : Nat) : beyondStores (leaveWait s i) = beyondStores s := by
  rw [leaveWait, beyondStores_modTracker]
  unfold frontNow
  split <;> rfl

theorem beyondStores_serveWaiters (s : State) : beyondStores (serveWaiters s) = beyondStores s := by
  unfold serveWaiters
  refine foldl_kept beyondStores (fun s b => foldl_kept beyondStores (fun s i => ?_) _ s) _ s
  dsimp only
  generalize pagesNeeded _ = need
  split
  · rw [beyondStores_leaveWait, beyondStores_grantPages]
  · rw [beyondStores_grantPages]

theorem beyondMem_adapterUse (s : State) (a : Nat) (f : Nat → Nat) : beyondMem (adapterUse s a f) = beyondMem s := by
  grind [adapterUse, beyondMem_physRead, beyondMem_physWrite]

theorem beyondStores_freeTracker (s : State) (i : Nat) : beyondStores (freeTracker s i) = beyondStores s := by
  unfold freeTracker
  dsimp only
  split
  · rw [beyondStores_serveWaiters, beyondStores_setTracker, beyondStores_of_mem (beyondMem_adapterUse ..)]
    rfl
  · rfl

theorem beyondStores_dropReader (s : State) (i : Nat) : beyondStores (dropReader s i) = beyondStores s := by
  rw [dropReader, beyondStores_freeTracker, beyondStores_modTracker]

theorem beyondStores_dropReaders (s : State) (c : Nat) : beyondStores (dropReaders s c) = beyondStores s :=
  foldl_kept beyondStores beyondStores_dropReader _ s

/-! ### Engines stop -/

theorem beyondStores_useFree (s : State) (n : Nat) : beyondStores (useFree s n) = beyondStores s := rfl

theorem beyondStores_ownWrite (s : State) (k : Nat) (bs : List Byte) : beyondStores (ownWrite s k bs) = beyondStores s :=
  beyondStores_of_mem (beyondMem_ownWrite ..)

theorem beyondStores_dmaStop (s : State) (c : Nat) (d : DmaCmd) (status : Nat) :
    beyondStores (dmaStop s c d status) = beyondStores s := by
  rw [dmaStop, beyondStores_useFree, dmaWriteMark, beyondStores_ownWrite, beyondStores_ownWrite]

theorem beyondStores_writeMessageMarks (s : State) (c : Nat) : beyondStores (writeMessageMarks s c) = beyondStores s := by
  unfold writeMessageMarks
  rw [beyondStores_useFree, beyondStores_ownWrite]

theorem beyondStores_writeFaultRecordAt (s : State) (c : Nat) (f : FaultInfo) (kernel huddles : Nat) :
    beyondStores (writeFaultRecordAt s c f kernel huddles) = beyondStores s := by
  unfold writeFaultRecordAt
  rw [beyondStores_useFree, setMarkState, beyondStores_of_mem (beyondMem_memPut ..), beyondStores_ownWrite,
    beyondStores_ownWrite]

theorem beyondStores_appendEvent (s : State) (e : EventRec) : beyondStores (appendEvent s e) = beyondStores s := rfl

theorem trackerOf_appendEvent (s : State) (e : EventRec) (i : Nat) : trackerOf (appendEvent s e) i = trackerOf s i := rfl

theorem coreOf_modGroup (s : State) (g : Nat) (f : Group → Group) (k : Nat) : coreOf (modGroup s g f) k = coreOf s k := rfl

/-- A core with its queues and waits emptied: what the stop of its engines leaves of it (R348). -/
def stopped (k : Core) : Core := { k with dmaQ := [], arrQ := [], waiting := [], arrived := false }

/-- Engines stop: nothing beyond their stores and cores changes, and every core keeps its registers and pc. -/
structure EnginesStop (s t : State) : Prop where
  rest : { beyondStores t with cores := [] } = { beyondStores s with cores := [] }
  registers : ∀ k, (coreOf t k).regs = (coreOf s k).regs ∧ (coreOf t k).vregs = (coreOf s k).vregs ∧
    (coreOf t k).acc = (coreOf s k).acc ∧ (coreOf t k).pc = (coreOf s k).pc

theorem EnginesStop.trans {s t u : State} (h : EnginesStop s t) (k : EnginesStop t u) : EnginesStop s u := by
  refine ⟨k.rest.trans h.rest, fun x => ?_⟩
  obtain ⟨hr, hv, ha, hp⟩ := h.registers x
  obtain ⟨kr, kv, ka, kp⟩ := k.registers x
  exact ⟨kr.trans hr, kv.trans hv, ka.trans ha, kp.trans hp⟩

theorem coreOf_of_beyondStores {s t : State} (h : beyondStores t = beyondStores s) (k : Nat) : coreOf t k = coreOf s k := by
  have hcore := congrArg (fun u => coreOf u k) h
  exact hcore

theorem EnginesStop.groupOf {s t : State} (h : EnginesStop s t) (g : Nat) : groupOf t g = groupOf s g := by
  have hgroup := congrArg (fun u => Machine.groupOf u g) h.rest
  exact hgroup

theorem EnginesStop.beyond_modGroup {s t : State} (h : EnginesStop s t) (g : Nat) (f : Group → Group) :
    { beyondStores (modGroup t g f) with cores := [], groups := [] } = { beyondStores s with cores := [], groups := [] } := by
  have hrest := congrArg (fun u : State => { u with groups := [] }) h.rest
  exact hrest

theorem groupOf_of_beyondStores {s t : State} (h : beyondStores t = beyondStores s) (g : Nat) : groupOf t g = groupOf s g := by
  have hgroup := congrArg (fun u => groupOf u g) h
  exact hgroup

theorem members_of_beyondStores {s t : State} (h : beyondStores t = beyondStores s) (g : Nat) : members t g = members s g := by
  have hmembers := congrArg (fun u => members u g) h
  exact hmembers

theorem EnginesStop.of_stores {s t : State} (h : beyondStores t = beyondStores s) : EnginesStop s t where
  rest := congrArg (fun u => { u with cores := [] }) h
  registers k := by rw [coreOf_of_beyondStores h k]; exact ⟨rfl, rfl, rfl, rfl⟩

theorem enginesStop_stopped (s : State) (c : Nat) : EnginesStop s (modCore s c stopped) where
  rest := rfl
  registers k := by
    rw [coreOf_modCore]
    split
    case isTrue h => subst h; exact ⟨rfl, rfl, rfl, rfl⟩
    case isFalse => exact ⟨rfl, rfl, rfl, rfl⟩

theorem stopEngines_kept (s : State) (c status : Nat) :
    stopEngines s c status false = modCore (dropReaders (writeMessageMarks
      ((coreOf s c).dmaQ.foldl (fun s d => dmaStop s c d status) s) c) c) c stopped := rfl

theorem enginesStop_stopEngines (s : State) (c status : Nat) : EnginesStop s (stopEngines s c status false) := by
  rw [stopEngines_kept]
  refine (EnginesStop.of_stores ?_).trans (enginesStop_stopped _ c)
  rw [beyondStores_dropReaders, beyondStores_writeMessageMarks]
  exact foldl_kept beyondStores (fun s d => beyondStores_dmaStop s c d status) _ s

theorem enginesStop_stopEach (l : List Nat) (status : Nat) (s : State) :
    EnginesStop s (l.foldl (fun s c => stopEngines s c status false) s) := by
  induction l generalizing s with
  | nil => exact .of_stores rfl
  | cons c l ih => exact (enginesStop_stopEngines s c status).trans (ih _)

/-- Members stop one by one; only a tenant reset aborts their sends (R266, R348). -/
theorem stopMembers_eq (s : State) (g : Nat) {code : Nat} (h : code ≠ fTenantGone) :
    stopMembers s g code = (members s g).foldl (fun s c => stopEngines s c code false) s := by
  rw [stopMembers, beq_false_of_ne h]

/-! ### Members with nothing under way -/

/-- Of a core with no command queued, the stop writes its message marks alone. -/
theorem stopEngines_idle {s : State} {c : Nat} (hd : (coreOf s c).dmaQ = []) (ha : (coreOf s c).arrQ = []) (status : Nat) :
    stopEngines s c status false = modCore (writeMessageMarks s c) c stopped := by
  have hmarks : (coreOf (writeMessageMarks s c) c).arrQ = [] := by
    rw [coreOf_of_beyondStores (beyondStores_writeMessageMarks s c), ha]
  rw [stopEngines_kept, hd, List.foldl_nil, dropReaders, hmarks]
  rfl

/-- No member of a list has a command queued. -/
def idleCores (s : State) (l : List Nat) : Prop := ∀ m ∈ l, (coreOf s m).dmaQ = [] ∧ (coreOf s m).arrQ = []

theorem idleCores_writeMarks {s : State} {l : List Nat} (h : idleCores s l) (c : Nat) :
    idleCores (modCore (writeMessageMarks s c) c stopped) l := by
  intro m hm
  rw [coreOf_modCore]
  split
  · exact ⟨rfl, rfl⟩
  · rw [coreOf_of_beyondStores (beyondStores_writeMessageMarks s c)]
    exact h m hm

/-- The message marks of any core lie apart from the head of a core's fault record (R332). -/
theorem cellRead_writeMessageMarks (s : State) (m c : Nat) :
    cellRead (writeMessageMarks s m).mem.cells (contKey c 0x40) 24 = cellRead s.mem.cells (contKey c 0x40) 24 := by
  unfold writeMessageMarks
  refine cellRead_ownWrite_apart s _ _ ?_
  simp only [freeBytes, List.length_map, List.length_range, contKey, sliceKey, continuityBase]
  omega

theorem reels_writeMessageMarks (s : State) (m : Nat) : (writeMessageMarks s m).reels = s.reels := reels_ownWrite ..

/-- Cores with nothing queued stop without a change of the banks or of a fault record's head. -/
theorem stopEach_idle (status c : Nat) {l : List Nat} {s : State} (h : idleCores s l) :
    (l.foldl (fun s c => stopEngines s c status false) s).reels = s.reels ∧
    cellRead (l.foldl (fun s c => stopEngines s c status false) s).mem.cells (contKey c 0x40) 24 =
      cellRead s.mem.cells (contKey c 0x40) 24 := by
  induction l generalizing s with
  | nil => exact ⟨rfl, rfl⟩
  | cons m l ih =>
    obtain ⟨hd, ha⟩ := h m List.mem_cons_self
    have hl : idleCores s l := fun x hx => h x (List.mem_cons_of_mem m hx)
    rw [List.foldl_cons, stopEngines_idle hd ha]
    obtain ⟨hreels, hcells⟩ := ih (idleCores_writeMarks hl m)
    exact ⟨hreels.trans (reels_writeMessageMarks s m), hcells.trans (cellRead_writeMessageMarks s m c)⟩

/-! ### The fault record -/

/-- The 24 bytes of a fault record from its code to its detail (R332). -/
def recordHead (s : State) (c : Nat) (f : FaultInfo) (kernel huddles : Nat) : List Byte :=
  leBytes 2 f.code ++ leBytes 2 c ++ leBytes 4 kernel ++ leBytes 8 huddles ++ leBytes 4 (coreOf s c).pc.toNat ++
    leBytes 1 (engineCode f.engine) ++ leBytes 1 f.tag ++ leBytes 2 f.detail

/-- The rest of the 64 bytes: addresses, sequence, reserved. -/
def recordTail (s : State) (f : FaultInfo) : List Byte :=
  leBytes 8 f.addr ++ leBytes 8 f.phys ++ leBytes 4 s.log.next.toNat ++ zeros 20

theorem length_recordHead (s : State) (c : Nat) (f : FaultInfo) (kernel huddles : Nat) :
    (recordHead s c f kernel huddles).length = 24 := by simp [recordHead, length_leBytes]

theorem length_recordTail (s : State) (f : FaultInfo) : (recordTail s f).length = 40 := by
  simp [recordTail, length_leBytes, zeros]

/-- The record is written to the two words of a core's continuity area that hold it, whatever is in error there. -/
theorem cellGet_ownWrite_record (s : State) {c : Nat} (hc : c < 1024) {bs : List Byte} (hlen : bs.length = 64) (a : Nat) :
    cellGet (ownWrite s (contKey c 0x40) bs).mem.cells a =
      if contKey c 0x40 ≤ a ∧ a < contKey c 0x40 + bs.length then bs.getD (a - contKey c 0x40) 0
      else cellGet s.mem.cells a := by
  refine cellGet_ownWrite s _ bs (fun x hlow hhigh => ?_) a
  simp only [hlen, contKey, sliceKey, continuityBase] at hlow hhigh ⊢
  have hspace : keySpace x = 1 := by rw [keySpace]; omega
  have hword : wordKey x = x / 32 * 32 := by rw [wordKey, hspace]; rfl
  refine lostByte_vault_whole s hspace ?_ ?_ ?_
  · rw [hword, keySpace]; omega
  · rw [hword]; omega
  · rw [hword]; omega

/-- A block of bytes that starts a record just written reads back. -/
theorem cellRead_writeFaultRecordAt (s : State) {c : Nat} (hc : c < 1024) (f : FaultInfo) (kernel huddles : Nat) :
    cellRead (writeFaultRecordAt s c f kernel huddles).mem.cells (contKey c 0x40) 24 = recordHead s c f kernel huddles := by
  have hhead := length_recordHead s c f kernel huddles
  have hlen : (recordHead s c f kernel huddles ++ recordTail s f).length = 64 := by
    rw [List.length_append, hhead, length_recordTail]
  have hwrite : writeFaultRecordAt s c f kernel huddles =
      let s1 := ownWrite s (contKey c 0x40) (recordHead s c f kernel huddles ++ recordTail s f)
      useFree (setMarkState (ownWrite s1 (contKey c 0x1000) (freeBytes s1 4096)) c 2) 4096 := by
    simp only [writeFaultRecordAt, recordHead, recordTail, List.append_assoc]
  rw [hwrite]
  refine (cellRead_ownWrite_apart _ _ _ ?_).trans ((cellRead_ownWrite_apart _ _ _ ?_).trans ?_)
  · simp only [length_leBytes, contKey, sliceKey, continuityBase]; omega
  · simp only [freeBytes, List.length_map, List.length_range, contKey, sliceKey, continuityBase]; omega
  · refine List.ext_getElem (by simp [cellRead, hhead]) (fun i hi hi' => ?_)
    have hlow : contKey c 0x40 + i - contKey c 0x40 = i := by omega
    simp only [cellRead, List.getElem_map, List.getElem_range, cellGet_ownWrite_record s hc hlen, hlow, hlen]
    rw [if_pos (by omega), List.getD_eq_getElem?_getD, List.getElem?_append_left hi',
      List.getElem?_eq_getElem hi', Option.getD_some]

theorem reels_writeFaultRecord (s : State) (c g : Nat) (f : FaultInfo) : (writeFaultRecord s c g f).reels = s.reels :=
  (reels_ownWrite ..).trans ((reels_ownWrite ..).trans (reels_ownWrite ..))

/-! ### Streams -/

/-- A tracker of group g whose stream a stop of the group makes lost (R436). -/
def streamStops (g : Nat) (t : Tracker) : Bool := t.group.toNat == g &&
  (match t.state with
    | .open' => true
    | .running => true
    | .parked => true
    | .pageWait => true
    | .cueWait => true
    | .verifying => true
    | _ => false)

/-- A tracker after a stop of group g. -/
def afterStop (g : Nat) (t : Tracker) : Tracker :=
  if streamStops g t then { t with state := .lost, lagFlag := false, nodes := 0, ticket := 0 } else t

/-- The serving unit after a stop of group g. -/
def servingStopped (v : Serving) (g : Nat) : Serving :=
  { v with
    trackers := v.trackers.map (fun e => (e.1, afterStop g e.2))
    boards := v.boards.filter (fun b => !((v.trackers.filter (fun e => streamStops g e.2)).map (·.1)).contains b.1) }

theorem streamsLost_eq (s : State) (g : Nat) :
    streamsLost s g = drainBanks { s with serving := servingStopped s.serving g } := by
  have hmap : (fun e : Nat × Tracker => if streamStops g e.2 then
      (e.1, { e.2 with state := .lost, lagFlag := false, nodes := 0, ticket := 0 }) else e) =
      (fun e => (e.1, afterStop g e.2)) := by
    funext e
    unfold afterStop
    split <;> rfl
  rw [servingStopped, ← hmap]
  rfl

theorem tfind_map {α : Type} (f : α → α) (t : Tbl α) (i : Nat) :
    tfind (t.map (fun e => (e.1, f e.2))) i = (tfind t i).map f := by
  induction t with
  | nil => rfl
  | cons e t ih =>
    obtain ⟨k, v⟩ := e
    rw [List.map_cons, tfind, tfind, ih]
    split <;> rfl

/-- No tracker of a stopped group is open or running. -/
theorem afterStop_stopped {g : Nat} (t : Tracker) (h : (afterStop g t).group.toNat = g) :
    (afterStop g t).state ≠ .running ∧ (afterStop g t).state ≠ .open' := by
  unfold afterStop at h ⊢
  split
  · exact ⟨nofun, nofun⟩
  next hs =>
    rw [if_neg hs] at h
    refine ⟨fun hr => hs ?_, fun ho => hs ?_⟩
    · simp [streamStops, h, hr]
    · simp [streamStops, h, ho]

theorem serving_streamsLost (s : State) (g : Nat) : (streamsLost s g).serving = servingStopped s.serving g := by
  have hserving := congrArg State.serving (beyondReels_drainBanks { s with serving := servingStopped s.serving g })
  rw [streamsLost_eq]
  exact hserving

theorem trackerOf_streamsLost (s : State) (g i : Nat) (h : (trackerOf (streamsLost s g) i).group.toNat = g) :
    (trackerOf (streamsLost s g) i).state ≠ .running ∧ (trackerOf (streamsLost s g) i).state ≠ .open' := by
  have htracker : trackerOf (streamsLost s g) i = ((tfind s.serving.trackers i).map (afterStop g)).getD Tracker.reset := by
    rw [trackerOf, serving_streamsLost, servingStopped, tget, tfind_map]
  rw [htracker] at h ⊢
  cases hfound : tfind s.serving.trackers i with
  | none => exact ⟨nofun, nofun⟩
  | some t =>
    rw [hfound] at h
    exact afterStop_stopped t h

/-- Where no bank drains, a stop touches the serving unit alone. -/
theorem streamsLost_undrained {s : State} {g : Nat} (ha : s.reels.bankA.state ≠ .draining)
    (hb : s.reels.bankB.state ≠ .draining) : streamsLost s g = { s with serving := servingStopped s.serving g } := by
  rw [streamsLost_eq]
  exact drainBanks_undrained ha hb

theorem beyondStores_streamsLost (s : State) (g : Nat) : beyondStores (streamsLost s g) = beyondStores s := by
  rw [streamsLost_eq, beyondStores_of_reels (beyondReels_drainBanks _)]
  rfl

/-! ### The fault as a whole -/

/-- A group that a fault with a code has fenced (R348). -/
def fencedWith (code : Nat) (x : Group) : Group :=
  { x with state := .fenced, lastFault := BitVec.ofNat 16 code, pending := false }

/-- The state with the fault recorded and the members of the group stopped. -/
def membersStopped (s : State) (c g : Nat) (f : FaultInfo) : State := stopMembers (writeFaultRecord s c g f) g f.code

/-- The state with the group fenced besides. -/
def groupFenced (s : State) (c g : Nat) (f : FaultInfo) : State := modGroup (membersStopped s c g f) g (fencedWith f.code)

/-- The event of a fault (R348). -/
def faultEvent (s : State) (g code : Nat) : EventRec :=
  { seq := s.log.next, time := s.log.ms, code := BitVec.ofNat 16 0x3011, source := srcGroup g, detail := BitVec.ofNat 32 code }

/-- A fault that fences no core: record, stop, fence, streams, and the event (table Fault recovery). -/
theorem faultGroup_eq (s : State) (c g : Nat) {f : FaultInfo} (hcore : fencesCore f.code = false) :
    faultGroup s c g f = appendEvent (streamsLost (groupFenced s c g f) g)
      (faultEvent (streamsLost (groupFenced s c g f) g) g f.code) := by
  simp only [faultGroup, faultGroupAt, hcore, Bool.false_eq_true, if_false]
  rw [logEvent_quiet _ (by decide), groupFenced, membersStopped, writeFaultRecord]
  unfold fencedWith faultEvent
  rfl

/-- A state that differs from another in what a fault touches alone. -/
theorem eq_of_beyondStores {s t : State}
    (h : { beyondStores t with cores := [], groups := [] } = { beyondStores s with cores := [], groups := [] }) :
    t = { s with
      freeCount := t.freeCount, outputs := t.outputs, log := t.log, mem := t.mem, cores := t.cores
      groups := t.groups, serving := t.serving, reels := t.reels, host := t.host } := by
  have hback := congrArg (fun u : State => { u with
    freeCount := t.freeCount, outputs := t.outputs, log := t.log, mem := t.mem, cores := t.cores
    groups := t.groups, serving := t.serving, reels := t.reels, host := t.host }) h
  exact hback

section
variable (s : State) (c g : Nat) {f : FaultInfo}

theorem enginesStop_membersStopped (hgone : f.code ≠ fTenantGone) : EnginesStop s (membersStopped s c g f) := by
  rw [membersStopped, stopMembers_eq _ g hgone]
  exact (EnginesStop.of_stores (beyondStores_writeFaultRecordAt ..)).trans (enginesStop_stopEach ..)

/-- The end of a fault touches no core and no group. -/
theorem beyondStores_faultGroup (hcore : fencesCore f.code = false) :
    beyondStores (faultGroup s c g f) = beyondStores (groupFenced s c g f) := by
  rw [faultGroup_eq s c g hcore, beyondStores_appendEvent, beyondStores_streamsLost]

theorem groupOf_faultGroup (hcore : fencesCore f.code = false) (hgone : f.code ≠ fTenantGone) (h : Nat) :
    groupOf (faultGroup s c g f) h = if h = g then fencedWith f.code (groupOf s g) else groupOf s h := by
  have hstop := enginesStop_membersStopped s c g hgone
  rw [groupOf_of_beyondStores (beyondStores_faultGroup s c g hcore), groupFenced, groupOf_modGroup, hstop.groupOf,
    hstop.groupOf]

/-- Where nothing of a group's members is under way and no bank drains, the record stands in memory at the end. -/
theorem cellRead_faultGroup (hc : c < 1024) (hcore : fencesCore f.code = false) (hgone : f.code ≠ fTenantGone)
    (hidle : idleCores s (members s g)) (ha : s.reels.bankA.state ≠ .draining) (hb : s.reels.bankB.state ≠ .draining) :
    cellRead (faultGroup s c g f).mem.cells (contKey c 0x40) 24 =
      recordHead s c f (groupOf s g).kernel (groupOf s g).huddles := by
  have hkept : beyondStores (writeFaultRecord s c g f) = beyondStores s := beyondStores_writeFaultRecordAt ..
  have hidle' : idleCores (writeFaultRecord s c g f) (members s g) := fun m hm => by
    rw [coreOf_of_beyondStores hkept]
    exact hidle m hm
  obtain ⟨hreels, hcells⟩ := stopEach_idle f.code c hidle'
  have hstopped : membersStopped s c g f =
      (members s g).foldl (fun s c => stopEngines s c f.code false) (writeFaultRecord s c g f) := by
    rw [membersStopped, stopMembers_eq _ g hgone, members_of_beyondStores hkept]
  have hbanks : (membersStopped s c g f).reels = s.reels := by
    rw [hstopped, hreels, reels_writeFaultRecord]
  have hcells' : cellRead (membersStopped s c g f).mem.cells (contKey c 0x40) 24 =
      recordHead s c f (groupOf s g).kernel (groupOf s g).huddles := by
    rw [hstopped, hcells]
    exact cellRead_writeFaultRecordAt s hc f _ _
  rw [faultGroup_eq s c g hcore, streamsLost_undrained (by rw [groupFenced, modGroup_reels, hbanks]; exact ha)
    (by rw [groupFenced, modGroup_reels, hbanks]; exact hb), appendEvent_mem, ← hcells', groupFenced, modGroup_mem]

end

/-- A fault that fences no core, of a core of a group that saves nothing, leaves what R348 says. -/
theorem engineFault_faultGroup (s : State) {c : Nat} (g : Nat) {f : FaultInfo} (hc : c < 1024)
    (hcore : fencesCore f.code = false) (hgone : f.code ≠ fTenantGone) :
    EngineFault s (faultGroup s c g f) c g f.code f.detail (engineCode f.engine) f.tag := by
  have hstop := enginesStop_membersStopped s c g hgone
  have hbeyond := beyondStores_faultGroup s c g hcore
  have hgroup := groupOf_faultGroup s c g hcore hgone
  constructor
  case fenced =>
    rw [hgroup, if_pos rfl]
    exact ⟨rfl, rfl⟩
  case logged =>
    rw [faultGroup_eq s c g hcore]
    exact lastEvent_appendEvent ..
  case groups =>
    intro h hne
    rw [hgroup, if_neg hne]
  case registers =>
    intro k
    rw [coreOf_of_beyondStores hbeyond, groupFenced, coreOf_modGroup]
    exact hstop.registers k
  case streams =>
    intro i
    rw [faultGroup_eq s c g hcore, trackerOf_appendEvent]
    exact trackerOf_streamsLost _ g i
  case rest =>
    refine eq_of_beyondStores ?_
    rw [hbeyond, groupFenced]
    exact hstop.beyond_modGroup g (fencedWith f.code)
  case record =>
    intro hidle ha hb
    refine cellRead_faultGroup s c g hc hcore hgone (fun m hm => ?_) ha hb
    obtain ⟨hdma, harr, _⟩ := hidle m hm
    exact ⟨hdma, harr⟩

/-- A core that issues is of a running group that saves nothing (R218). -/
theorem saving_of_issues {s : State} {c g : Nat} {w : U32} (hi : issues s c w = true) (hg : runningGroup s c = some g) :
    (groupOf s g).saving = false := by
  have hcan : canIssue s c = true := by
    rw [issues, Bool.and_eq_true] at hi
    exact hi.1
  rw [canIssue, hg] at hcan
  simp only [Bool.and_eq_true, Bool.not_eq_true'] at hcan
  exact hcan.1.1.1.1

/-- A fault of the control processor of an issuing core. -/
theorem faultTaken_cpFault {s : State} {c : CoreId} {g : Nat} {w : U32} (hi : issues s c.toNat w = true)
    (hg : runningGroup s c.toNat = some g) {code : Nat} (hcore : fencesCore code = false) (hgone : code ≠ fTenantGone)
    (detail addr phys : Nat) : FaultTaken s (cpFault s c.toNat code detail addr phys) c.toNat g code detail := by
  have hfault : cpFault s c.toNat code detail addr phys = faultGroup s c.toNat g
      { code := code, engine := .control, tag := 0, detail := detail, addr := addr, phys := phys } := by
    rw [cpFault, raiseFault, hg]
    dsimp only
    rw [groupFault, saving_of_issues hi hg]
    exact if_neg (by decide)
  rw [hfault]
  exact engineFault_faultGroup s g c.isLt hcore hgone

end Sys2Proof.Machine
end

section
/-!
SUPPORT. Atomics and leases (R302 to R311): what an atomic leaves at its home and in its core, and the proof of O12.
-/
namespace Sys2Proof.Machine

open Sys2Proof.Claims

/-! ### Translation -/

/-- Core c's translation cache and its tenant's count of misses may differ, nothing else (R330). -/
structure CacheUsed (s u : State) (c : Nat) : Prop where
  core : coreOf u c = { coreOf s c with tcache := (coreOf u c).tcache }
  cores : ∀ k, k ≠ c → coreOf u k = coreOf s k
  host : u.host = { s.host with tenants := u.host.tenants } ∧ (coreTenant s c = 0 → u.host = s.host)
  rest : ∃ cs h, u = { s with cores := cs, host := h }

theorem cacheUsed_refl (s : State) (c : Nat) : CacheUsed s s c := ⟨rfl, fun _ _ => rfl, ⟨rfl, fun _ => rfl⟩, _, _, rfl⟩

/-- A use of the cache of a tenant other than the operator. -/
theorem cacheUsed_cacheUse {s : State} {c t : Nat} (ht : coreTenant s c ≠ 0) (e : Option Seg) :
    CacheUsed s (cacheUse s c t e) c := by
  have hmiss (f : TenantQ → TenantQ) : CacheUsed s (modTq s t f) c :=
    ⟨rfl, fun _ _ => rfl, ⟨rfl, fun h => absurd h ht⟩, _, _, rfl⟩
  have hcache {u : State} (hu : CacheUsed s u c) (f : List Seg → List Seg) :
      CacheUsed s (modCore u c (fun k => { k with tcache := f k.tcache })) c := by
    obtain ⟨hcore, hcores, hhost, cs, h, hrest⟩ := hu
    refine ⟨?_, fun k hk => by rw [coreOf_modCore_ne _ _ hk, hcores k hk], hhost, ?_⟩
    · rw [coreOf_modCore_self, hcore]
    · exact ⟨_, h, by rw [modCore_eq, hrest]⟩
  unfold cacheUse
  cases e with
  | none => exact hmiss _
  | some g =>
    dsimp only
    split
    · exact hcache (cacheUsed_refl s c) (fun l => (g :: l.filter (fun x => x != g)).take 16)
    · exact hcache (hmiss _) (fun l => (g :: l.filter (fun x => x != g)).take 16)

/-- A translation answers what the tables give and uses the core's cache. -/
theorem translate_cached (s : State) (c pkg sp off right : Nat) : ∃ u, CacheUsed s u c ∧
    translate s c (coreTenant s c) pkg sp off right = (u, translateAt s (coreTenant s c) pkg sp off right) := by
  unfold translate
  split
  next h => exact ⟨_, cacheUsed_cacheUse h.1 _, rfl⟩
  · exact ⟨s, cacheUsed_refl s c, rfl⟩

/-- A result written to a core whose cache was used. -/
theorem pcNext_setReg_cached {k l : Core} (h : l = { k with tcache := l.tcache }) (d v : Nat) :
    pcNext (setReg l d v) = { k with
      regs := (pcNext (setReg l d v)).regs, tcache := (pcNext (setReg l d v)).tcache, pc := k.pc + 4 } := by
  obtain ⟨x, rfl⟩ : ∃ x, l = { k with tcache := x } := ⟨_, h⟩
  unfold setReg
  split <;> rfl

section
variable {s u : State} {c : Nat} (hu : CacheUsed s u c)
include hu

theorem CacheUsed.mem : u.mem = s.mem := by
  obtain ⟨cs, h, rfl⟩ := hu.rest
  rfl

theorem CacheUsed.sreg (r : Nat) : sreg u c r = Claims.sreg s c r := by
  rw [Claims.sreg, Claims.sreg, hu.core]
  rfl

theorem CacheUsed.fenced (k : Nat) : (coreOf u k).fenced = (coreOf s k).fenced := by
  by_cases hk : k = c
  · rw [hk, hu.core]
  · rw [hu.cores k hk]

theorem CacheUsed.physCheck (sp o n : Nat) (who : Agent) : physCheck u sp o n who = Machine.physCheck s sp o n who := by
  have htarget (k : Nat) : targetDetail u k who = targetDetail s k who := by
    simp only [targetDetail, hu.fenced]
    obtain ⟨cs, h, rfl⟩ := hu.rest
    rfl
  simp only [Machine.physCheck, htarget]
  obtain ⟨cs, h, rfl⟩ := hu.rest
  rfl

theorem CacheUsed.badIn (k n : Nat) : badIn u k n = Machine.badIn s k n := by
  rw [Machine.badIn, Machine.badIn, hu.mem]

theorem CacheUsed.failedStock (o n : Nat) : failedStock u o n = Machine.failedStock s o n := by
  obtain ⟨cs, h, rfl⟩ := hu.rest
  rfl

theorem CacheUsed.wayLost (c' pkg sp o n : Nat) : wayLost u c' pkg sp o n = Machine.wayLost s c' pkg sp o n := by
  obtain ⟨cs, h, rfl⟩ := hu.rest
  rfl

theorem CacheUsed.noRelease {k n : Nat} (h : NoRelease s k n) : NoRelease u k n := by
  obtain ⟨cs, h', rfl⟩ := hu.rest
  exact h

theorem CacheUsed.atomicAt (c' k f w old b d : Nat) : atomicAt u c' k f w old b d = Machine.atomicAt s c' k f w old b d := by
  obtain ⟨cs, h, rfl⟩ := hu.rest
  rfl

/-- After the cache is used, memory changed and a result written, the access is over. -/
theorem CacheUsed.accessed (m : Mem) (d v : Nat) : Accessed s (result { u with mem := m } c d v) c := by
  obtain ⟨hcore, hcores, ⟨hhost, hoperator⟩, cs, h, hrest⟩ := hu
  refine ⟨?_, fun k hk => ?_, ⟨hhost, hoperator⟩, ?_⟩
  · rw [coreOf_result, if_pos rfl]
    exact pcNext_setReg_cached hcore d v
  · rw [coreOf_result, if_neg hk]
    exact hcores k hk
  · rw [hrest]
    rfl

end

/-- A translated offset of a space with memory fits 47 bits (R271). -/
theorem translateAt_lt {s : State} {t pkg sp off right o : Nat} (h : translateAt s t pkg sp off right = .ok o)
    (hoff : off < 2 ^ 47) : o < 2 ^ 47 := by
  unfold translateAt at h
  split at h
  case isTrue => cases h; exact hoff
  split at h
  case isTrue =>
    split at h
    · cases h
    · cases h; exact hoff
  split at h
  case isFalse => cases h; exact hoff
  split at h
  · cases h
  dsimp only at h
  split at h
  · cases h
  split at h
  next ho => cases h; exact ho
  · cases h

/-- The key of a memory offset names its space and offset. -/
theorem keySpace_memKey {sp o : Nat} (h : o < 2 ^ 47) : keySpace (memKey sp o) = sp := by
  rw [keySpace, memKey]; omega

theorem memKey_mod {sp o : Nat} (h : o < 2 ^ 47) : memKey sp o % 2 ^ 47 = o := by
  rw [memKey]; omega

/-- An access within one granule over an open way is not held. -/
theorem accessHeld_open {s : State} {c a n right o : Nat} (f : Nat) (hgranule : a % 2 ^ 21 + n ≤ 2 ^ 21)
    (htrans : translateAt s (coreTenant s c) (splitAddr s a).1 (splitAddr s a).2.1 (splitAddr s a).2.2 right = .ok o)
    (hway : WayOpen s c a n o) : accessHeld (f + 1) s c a n right = false := by
  have hin : inGranule a n = n := by rw [inGranule]; omega
  have hnone : accessHeld f s c (a + n) 0 right = false := by cases f <;> rfl
  have hopen : (placeWay s c (splitAddr s a).1 (splitAddr s a).2.1 o n == Way.held) = false := by rw [hway]; rfl
  simp [accessHeld, hin, htrans, hopen, hnone]

/-! ### Bytes of a word -/

theorem leBytes_leNat (l : List Byte) : leBytes l.length (leNat l) = l := by
  induction l with
  | nil => rfl
  | cons b l ih =>
    have hb := b.isLt
    have hhigh : leNat (b :: l) / 256 = leNat l := by rw [leNat]; omega
    have hlow : BitVec.ofNat 8 (leNat (b :: l)) = b := by
      apply BitVec.eq_of_toNat_eq
      rw [BitVec.toNat_ofNat, leNat]
      omega
    rw [List.length_cons, leBytes, hhigh, hlow, ih]

theorem length_cellRead (m : List Host.Cell) (k n : Nat) : (cellRead m k n).length = n := by simp [cellRead]

theorem leNat_cellRead_lt (m : List Host.Cell) (k n : Nat) : leNat (cellRead m k n) < 256 ^ n := by
  have h := leNat_lt (cellRead m k n)
  rwa [length_cellRead] at h

/-- One of the package's own writes that meets no error and no failed channel. -/
theorem memPut_clean {s : State} {k n : Nat} (hbad : badIn s k n = [])
    (hstock : keySpace k = 2 → failedStock s (k % 2 ^ 47) n = none) (v : Nat) :
    memPut s k n v = rawWrite s k (leBytes n v) := by
  have hfailed : (keySpace k != 2 || (failedStock s (k % 2 ^ 47) n).isNone) = true := by
    by_cases h : keySpace k = 2
    · rw [hstock h, Option.isNone_none, Bool.or_true]
    · rw [bne_iff_ne.mpr h, Bool.true_or]
  simp only [memPut, ownWrite, length_leBytes, hbad, List.filter_nil, List.all_nil, List.foldl_nil, Bool.true_and]
  rw [if_pos hfailed]

theorem foldl_fixed_of_mem {α β : Type} {f : α → β → α} {a : α} {l : List β} (h : ∀ x ∈ l, f a x = a) : l.foldl f a = a := by
  induction l with
  | nil => rfl
  | cons x l ih =>
    rw [List.foldl_cons, h x List.mem_cons_self]
    exact ih (fun y hy => h y (List.mem_cons_of_mem x hy))

/-- A write that touches no release index is noticed by no ring (R519). -/
theorem noticeWrite_noRelease {s : State} {k n : Nat} (h : NoRelease s k n) : noticeWrite s k n = s := by
  refine foldl_fixed_of_mem (fun i hi => if_neg (fun hnotice => ?_))
  simp only [Bool.and_eq_true, decide_eq_true_eq] at hnotice
  have := h i (List.mem_range.mp hi) hnotice.1
  omega

/-! ### The home -/

/-- Memory after an operation at the home: the word written where it changed, and listed where it is held anew (R304, R310). -/
def homeMem (s : State) (key n : Nat) (r : Nat × Bool × Nat) : Mem :=
  let m := if r.1 = leNat (cellRead s.mem.cells key n) then s.mem else (rawWrite s key (leBytes n r.1)).mem
  if r.2.1 && !m.leases.contains key then { m with leases := key :: m.leases } else m

section
variable (s : State) {key n : Nat} (r : Nat × Bool × Nat)

theorem cells_homeMem : (homeMem s key n r).cells =
    if r.1 = leNat (cellRead s.mem.cells key n) then s.mem.cells else (rawWrite s key (leBytes n r.1)).mem.cells := by
  unfold homeMem
  dsimp only
  split <;> split <;> rfl

theorem cellRead_homeMem (hn : 0 < n) : cellRead (homeMem s key n r).cells key n = leBytes n r.1 := by
  rw [cells_homeMem]
  split
  next h =>
    have hback := leBytes_leNat (cellRead s.mem.cells key n)
    rw [length_cellRead] at hback
    rw [h, hback]
  · have hne : leBytes n r.1 ≠ [] := fun h => by
      have := congrArg List.length h
      rw [length_leBytes, List.length_nil] at this
      omega
    have hread := cellRead_rawWrite s key hne
    rwa [length_leBytes] at hread

theorem cellGet_homeMem {a : Nat} (ha : a < key ∨ key + n ≤ a) :
    cellGet (homeMem s key n r).cells a = cellGet s.mem.cells a := by
  rw [cells_homeMem]
  split
  · rfl
  · rw [rawWrite_get, length_leBytes, if_neg (by omega)]

/-- A word left as it is, and not listed, leaves memory as it was. -/
theorem homeMem_unchanged (hword : r.1 = leNat (cellRead s.mem.cells key n)) (hlist : r.2.1 = false) :
    homeMem s key n r = s.mem := by
  simp [homeMem, hword, hlist]

/-- A word held anew is listed at its home. -/
theorem mem_leases_homeMem (hlist : r.2.1 = true) : key ∈ (homeMem s key n r).leases := by
  unfold homeMem
  dsimp only
  generalize (if r.1 = leNat (cellRead s.mem.cells key n) then s.mem else (rawWrite s key (leBytes n r.1)).mem) = m
  by_cases h : key ∈ m.leases
  · simp [h]
  · simp [h, hlist]

end

theorem homeMem_congr {s u : State} (h : u.mem = s.mem) (key n : Nat) (r : Nat × Bool × Nat) :
    homeMem u key n r = homeMem s key n r := by
  have hwrite : (rawWrite u key (leBytes n r.1)).mem = (rawWrite s key (leBytes n r.1)).mem := by
    unfold rawWrite
    split
    · exact h
    · rw [modMem, modMem, h]
  rw [homeMem, homeMem, h, hwrite]

/-- The operation at a home whose word is in no error and holds no release index: one access, and what it returns (R304). -/
theorem atomicHome_clean {s : State} {key n c f b d : Nat} {r : Nat × Bool × Nat} (hbad : badIn s key n = [])
    (hstock : keySpace key = 2 → failedStock s (key % 2 ^ 47) n = none) (hrelease : NoRelease s key n)
    (hr : atomicAt s c key f (8 * n) (leNat (cellRead s.mem.cells key n)) (b % 2 ^ (8 * n)) (d % 2 ^ (8 * n)) = r) :
    atomicHome s c key f n b d = ({ s with mem := homeMem s key n r }, .inl r.2.2) := by
  have hnotice : noticeWrite (memPut s key n r.1) key n = rawWrite s key (leBytes n r.1) := by
    rw [memPut_clean hbad hstock]
    refine noticeWrite_noRelease ?_
    rw [rawWrite_eq]
    exact hrelease
  have hword : (if r.1 = leNat (cellRead s.mem.cells key n) then s else rawWrite s key (leBytes n r.1)) =
      { s with mem := if r.1 = leNat (cellRead s.mem.cells key n) then s.mem else (rawWrite s key (leBytes n r.1)).mem } := by
    split
    · rfl
    · exact rawWrite_eq ..
  have hlist (m : Mem) : (if r.2.1 && !m.leases.contains key then
      modMem { s with mem := m } (fun m => { m with leases := key :: m.leases }) else { s with mem := m }) =
      { s with mem := if r.2.1 && !m.leases.contains key then { m with leases := key :: m.leases } else m } := by
    split <;> rfl
  rw [atomicHome, eccRead_clean s key n hbad]
  dsimp only
  rw [hr, hnotice, hword]
  exact congrArg (fun t => (t, Sum.inl r.2.2)) (hlist _)

/-! ### An atomic that reaches its home -/

/-- A row of the table Atomic operations, for an issued word that spells it. -/
theorem atomicStep_issued {mn : String} {f n : Nat} {s : State} {c : CoreId} {w : U32} (hi : issues s c.toNat w = true)
    (hw : spell w = .atomic f n) (hn : n = 4 ∨ n = 8) :
    atomicStep mn f c w s = .next (atomicOp f n c.toNat w s) := by
  unfold atomicStep
  rw [coreStep_run hi (by rw [hw]; nofun) (by rw [hw]; obtain rfl | rfl := hn <;> simp), hw]

/-- The address that an atomic names. -/
def atomicAddr (s : State) (c : Nat) (w : U32) : Nat := (sreg s c (wA w)).toNat

/-- The key of the word at offset o that it reaches. -/
def atomicKey (s : State) (c : Nat) (w : U32) (o : Nat) : Nat := memKey (splitAddr s (atomicAddr s c w)).2.1 o

/-- The number in that word. -/
def atomicOld (s : State) (c : Nat) (w : U32) (n o : Nat) : Nat := leNat (cellRead s.mem.cells (atomicKey s c w o) n)

/-- An aligned atomic of n bytes that reaches offset o of its space here over an open way, where no release index lies. -/
structure AtomicReady (s : State) (c : Nat) (w : U32) (n o : Nat) : Prop where
  aligned : atomicAddr s c w % n = 0
  reaches : Reaches s c (atomicAddr s c w) n rightAtomic .engine o
  way : WayOpen s c (atomicAddr s c w) n o
  release : NoRelease s (atomicKey s c w o) n

/-- What the home does with the word: what it leaves there, whether the word is listed, what it returns. -/
def homeResult (s : State) (c : Nat) (w : U32) (f n o : Nat) : Nat × Bool × Nat :=
  atomicAt s c (atomicKey s c w o) f (8 * n) (atomicOld s c w n o)
    ((sreg s c (wB w)).toNat % 2 ^ (8 * n)) ((sreg s c (wD w)).toNat % 2 ^ (8 * n))

/-- The checks of an aligned atomic on memory of this package find nothing (R304). -/
theorem atomicCheck_none {s : State} {a n : Nat} (halign : a % n = 0) (hhere : (splitAddr s a).1 = ownPkg s)
    (hspace : (splitAddr s a).2.1 < 3) : atomicCheck s a n = none := by
  rw [atomicCheck, if_neg (by omega), if_neg (by rw [hhere]; exact fun h => h rfl), if_neg (by omega)]

section
variable {s : State} {c : Nat} {w : U32} {f n o : Nat}

/-- A ready atomic leaves memory as the home leaves it, and its result in the core. -/
theorem atomicOp_ready (h : AtomicReady s c w n o) : ∃ u, CacheUsed s u c ∧ atomicOp f n c w s =
    result { u with mem := homeMem s (atomicKey s c w o) n (homeResult s c w f n o) } c (wD w) (homeResult s c w f n o).2.2 := by
  obtain ⟨halign, ⟨hhere, hspace, ⟨hpos, hgranule⟩, htrans, htarget, hclean, hchannel⟩, hway, hrelease⟩ := h
  obtain ⟨u, hu, htranslate⟩ := translate_cached s c (splitAddr s (atomicAddr s c w)).1
    (splitAddr s (atomicAddr s c w)).2.1 (splitAddr s (atomicAddr s c w)).2.2 rightAtomic
  have ho : o < 2 ^ 47 := translateAt_lt htrans (Nat.mod_lt _ (by decide))
  have hheld := accessHeld_open n hgranule htrans hway
  have hread := physRead_clean u _ o n .engine (by rw [hu.physCheck]; exact htarget)
    (fun h => by rw [hu.failedStock]; exact hchannel h) (by rw [hu.badIn]; exact hclean)
  have hlost : wayLost s c (splitAddr s (atomicAddr s c w)).1 (splitAddr s (atomicAddr s c w)).2.1 o n = none := by
    rw [wayLost, hway]
  have hhome : atomicHome u c (atomicKey s c w o) f n (sreg s c (wB w)).toNat (sreg s c (wD w)).toNat =
      ({ u with mem := homeMem u (atomicKey s c w o) n (homeResult s c w f n o) }, .inl (homeResult s c w f n o).2.2) := by
    refine atomicHome_clean (by rw [hu.badIn]; exact hclean) (fun h => ?_) (hu.noRelease hrelease)
      (by rw [hu.atomicAt, hu.mem]; rfl)
    rw [atomicKey, keySpace_memKey ho] at h
    rw [hu.failedStock, atomicKey, memKey_mod ho]
    exact hchannel h
  have haddr : reg (coreOf s c) (wA w) = atomicAddr s c w := (sreg_toNat ..).symm
  refine ⟨u, hu, ?_⟩
  rw [atomicOp]
  simp only [haddr, ← sreg_toNat]
  rw [atomicCheck_none halign hhere hspace]
  dsimp only
  rw [granules, hheld, htranslate, htrans]
  dsimp only
  rw [if_neg (by decide), hu.wayLost, hlost]
  dsimp only
  rw [hread]
  dsimp only
  rw [← atomicKey, hhome, homeMem_congr hu.mem]

/-- After the cache is used, the home has done its part and the result is written, the atomic is done. -/
theorem atomicDone_result {u : State} {key : Nat} (hu : CacheUsed s u c) (hn : 0 < n) (r : Nat × Bool × Nat) :
    AtomicDone s (result { u with mem := homeMem s key n r } c (wD w) r.2.2) c w key n r.2.2 r.1 := by
  refine ⟨hu.accessed _ _ _, cellRead_homeMem s r hn, fun a ha => cellGet_homeMem s r ha,
    sreg_result_self _ _, by simp [sreg], fun x hx => ?_⟩
  rw [sreg_result_ne _ _ hx]
  exact hu.sreg x

end

/-! ### The functions -/

theorem signed_toNat {n : Nat} (x : BitVec n) (hn : 0 < n) : signed n x.toNat = x.toInt := by
  obtain ⟨m, rfl⟩ : ∃ m, n = m + 1 := ⟨n - 1, by omega⟩
  have hpow : (2 : Nat) ^ (m + 1) = 2 * 2 ^ m := by rw [Nat.pow_succ, Nat.mul_comm]
  rw [signed, BitVec.toInt_eq_toNat_cond, Nat.add_sub_cancel]
  by_cases h : x.toNat < 2 ^ m
  · rw [if_pos h, if_pos (by omega)]
  · rw [if_neg h, if_neg (by omega)]
    push_cast
    rfl

/-- The model's functions 0x0 to 0xA on words are those of the table (R302). -/
theorem atomicFn_toNat {f n : Nat} (hf : f ≤ 0xA) (hn : 0 < n) (old b d : BitVec n) :
    atomicFn f n old.toNat b.toNat d.toNat = (atomicNew f old b d).toNat := by
  obtain rfl | rfl | rfl | rfl | rfl | rfl | rfl | rfl | rfl | rfl | rfl : f = 0 ∨ f = 1 ∨ f = 2 ∨ f = 3 ∨ f = 4 ∨ f = 5 ∨
      f = 6 ∨ f = 7 ∨ f = 8 ∨ f = 9 ∨ f = 10 := by omega
  · rfl
  · rfl
  · simp only [atomicFn, atomicNew, ← BitVec.toNat_inj, apply_ite BitVec.toNat]
  · exact (BitVec.toNat_add old b).symm
  · exact (BitVec.toNat_and ..).symm
  · exact (BitVec.toNat_or ..).symm
  · exact (BitVec.toNat_xor ..).symm
  · simp only [atomicFn, atomicNew, signed_toNat _ hn, BitVec.slt, decide_eq_true_eq, apply_ite BitVec.toNat]
    split <;> split <;> omega
  · simp only [atomicFn, atomicNew, signed_toNat _ hn, BitVec.slt, decide_eq_true_eq, apply_ite BitVec.toNat]
    have heq : old.toInt = b.toInt → old.toNat = b.toNat := fun h => congrArg BitVec.toNat (BitVec.eq_of_toInt_eq h)
    split <;> split <;> omega
  · simp only [atomicFn, atomicNew, BitVec.ult, decide_eq_true_eq, apply_ite BitVec.toNat]
    split <;> omega
  · simp only [atomicFn, atomicNew, BitVec.ult, decide_eq_true_eq, apply_ite BitVec.toNat]
    split <;> omega

/-- A word that spells an atomic gives it 4 or 8 bytes (R302). -/
theorem spell_atomic_width {w : U32} {f n : Nat} (h : spell w = .atomic f n) : n = 4 ∨ n = 8 := by
  unfold spell at h
  grind

theorem atomicAt_fn {f : Nat} (hf : f < 0xC) (s : State) (c key w old b d : Nat) :
    atomicAt s c key f w old b d = (atomicFn f w old b d, false, old) := by
  rw [atomicAt, if_neg (by omega), if_neg (by omega)]

theorem atomicAt_add32 (s : State) (c key w old b d : Nat) : atomicAt s c key 0xB w old b d =
    ((fAdd (BitVec.ofNat 32 old) (BitVec.ofNat 32 b)).toNat, false, old) := atomicAt_fn (by decide) ..

/-! ### Leases -/

theorem homeResult_take (s : State) (c : Nat) (w : U32) (n o : Nat) :
    homeResult s c w 0xC n o = leaseTake s c (atomicKey s c w o) (atomicOld s c w n o) := by
  rw [homeResult, atomicAt, if_pos rfl]

theorem homeResult_release (s : State) (c : Nat) (w : U32) (n o : Nat) :
    homeResult s c w 0xD n o = (leaseRelease s c (atomicOld s c w n o), false, atomicOld s c w n o) := by
  rw [homeResult, atomicAt, if_neg (by decide), if_pos rfl]

section
variable {s : State} {c key old : Nat}

/-- A free word is taken where its home has room for it, or lists it already (R308, R310). -/
theorem leaseTake_free (hfree : old < 2 ^ 63)
    (hroom : key ∈ s.mem.leases ∨ leasesAt s (leaseHome s key).1 < (leaseHome s key).2) :
    leaseTake s c key old = (2 ^ 63 + old / 2 ^ 62 * 2 ^ 62 + leaseTag s c, true, old) := by
  have hrevoked : old / 2 ^ 62 % 2 = old / 2 ^ 62 := by omega
  have hlisted : ¬((leaseHome s key).2 ≤ leasesAt s (leaseHome s key).1 ∧ s.mem.leases.contains key = false) := by
    rintro ⟨hfull, habsent⟩
    rw [List.contains_eq_mem, decide_eq_false_iff_not] at habsent
    exact hroom.elim habsent (by omega)
  rw [leaseTake, Nat.testBit_lt_two_pow hfree]
  rw [if_neg (by decide), if_neg hlisted, hrevoked]

/-- A free word that does not fit its home's list is not taken (R310). -/
theorem leaseTake_full (hfree : old < 2 ^ 63)
    (hroom : ¬(key ∈ s.mem.leases ∨ leasesAt s (leaseHome s key).1 < (leaseHome s key).2)) :
    leaseTake s c key old = (old, false, 2 ^ 64 - 1) := by
  obtain ⟨habsent, hfull⟩ := not_or.mp hroom
  rw [leaseTake, Nat.testBit_lt_two_pow hfree]
  rw [if_neg (by decide), if_pos ⟨by omega, by rw [List.contains_eq_mem, decide_eq_false_iff_not]; exact habsent⟩]

/-- A held word is not taken (R308). -/
theorem leaseTake_held (hheld : 2 ^ 63 ≤ old) (hold : old < 2 ^ 64) : leaseTake s c key old = (old, false, old) := by
  have hbit : old.testBit 63 = true := by
    rw [Nat.testBit_eq_decide_div_mod_eq, decide_eq_true_eq]
    omega
  rw [leaseTake, hbit]
  rfl

end

/-! ### The rows -/

section
variable {i : Instr} {s : State} {mn : String} {f n o : Nat} {c : CoreId} {w : U32}
  (hexec : exec i s = atomicStep mn f c w s) (hi : issues s c.toNat w = true) (hw : spell w = .atomic f n)
include hexec hi hw

/-- A row whose access reaches its home. -/
theorem runs_atomic {r : Nat × Bool × Nat} (h : AtomicReady s c.toNat w n o) (hr : homeResult s c.toNat w f n o = r) :
    Runs i s (fun t => AtomicDone s t c.toNat w (atomicKey s c.toNat w o) n r.2.2 r.1 ∧
      t.mem = homeMem s (atomicKey s c.toNat w o) n r) := by
  obtain ⟨u, hu, hop⟩ := atomicOp_ready (f := f) h
  rw [hr] at hop
  have hnext := hexec.trans (atomicStep_issued hi hw (spell_atomic_width hw))
  exact runs_of_exec hnext (hop ▸ ⟨atomicDone_result hu h.reaches.granule.1 r, rfl⟩)

/-- A row that leaves the word and the lists as they are. -/
theorem runs_atomic_unchanged {v : Nat} (h : AtomicReady s c.toNat w n o)
    (hr : homeResult s c.toNat w f n o = (atomicOld s c.toNat w n o, false, v)) :
    Runs i s (fun t => AtomicDone s t c.toNat w (atomicKey s c.toNat w o) n v (atomicOld s c.toNat w n o) ∧ t.mem = s.mem) := by
  obtain ⟨t, hnext, hdone, hmem⟩ := runs_atomic hexec hi hw h hr
  exact ⟨t, hnext, hdone, hmem.trans (homeMem_unchanged s _ rfl rfl)⟩

/-- A row of the functions 0x0 to 0xA on words of n bytes. -/
theorem runs_atomicFn (h : AtomicReady s c.toNat w n o) (hf : f ≤ 0xA) {old b d : BitVec (8 * n)}
    (hold : old.toNat = atomicOld s c.toNat w n o) (hb : b.toNat = (sreg s c.toNat (wB w)).toNat % 2 ^ (8 * n))
    (hd : d.toNat = (sreg s c.toNat (wD w)).toNat % 2 ^ (8 * n)) :
    Runs i s (fun t =>
      AtomicDone s t c.toNat w (atomicKey s c.toNat w o) n old.toNat (atomicNew f old b d).toNat) := by
  have hr : homeResult s c.toNat w f n o = ((atomicNew f old b d).toNat, false, old.toNat) := by
    have hpos := h.reaches.granule.1
    rw [homeResult, ← hold, ← hb, ← hd, atomicAt_fn (by omega), atomicFn_toNat hf (by omega)]
  obtain ⟨t, hnext, hdone, _⟩ := runs_atomic hexec hi hw h hr
  exact ⟨t, hnext, hdone⟩

/-- A misaligned atomic takes the alignment fault (R304). -/
theorem runs_atomic_misaligned {g : Nat} (hg : runningGroup s c.toNat = some g) (halign : atomicAddr s c.toNat w % n ≠ 0) :
    Runs i s (fun t => FaultTaken s t c.toNat g 0x0202 n) := by
  have hnext := hexec.trans (atomicStep_issued hi hw (spell_atomic_width hw))
  have hcheck : atomicCheck s (reg (coreOf s c.toNat) (wA w)) n = some (fAlignment, n) := by
    rw [atomicCheck, ← sreg_toNat]
    exact if_pos halign
  refine runs_of_exec hnext ?_
  rw [atomicOp]
  simp only [hcheck]
  exact faultTaken_cpFault hi hg (by decide) (by decide) _ _ _

end

/-! ### The statement -/

/-- A number of n bytes fits its word. -/
theorem toNat_atomicOld (s : State) (c : Nat) (w : U32) (n o : Nat) :
    (BitVec.ofNat (8 * n) (atomicOld s c w n o)).toNat = atomicOld s c w n o := by
  have hlt := leNat_cellRead_lt s.mem.cells (atomicKey s c w o) n
  rw [show 256 = 2 ^ 8 from rfl, ← Nat.pow_mul] at hlt
  exact BitVec.toNat_ofNat .. ▸ Nat.mod_eq_of_lt hlt

/-- Settles O12: every row is one access at its home, with the result that the table of functions or the rules of leases give; a
misaligned one takes the fault. -/
theorem atomicsAndLeases : Obligations.AtomicsAndLeases := by
  unfold Obligations.AtomicsAndLeases
  refine ⟨?atomics, ?leases⟩
  case atomics =>
    intro s c w o hi a key ready old4 old8 does
    have hold4 : old4.toNat = atomicOld s c.toNat w 4 o := toNat_atomicOld s c.toNat w 4 o
    have hold8 : old8.toNat = atomicOld s c.toNat w 8 o := toNat_atomicOld s c.toNat w 8 o
    have hready {n : Nat} (h : ready n) : AtomicReady s c.toNat w n o := ⟨h.1, h.2.1, h.2.2.1, h.2.2.2⟩
    have hwide (r : Nat) : (sreg s c.toNat r).toNat = (sreg s c.toNat r).toNat % 2 ^ 64 :=
      (Nat.mod_eq_of_lt (BitVec.isLt _)).symm
    have hdoes {mn : String} {f : Nat} {i : Instr} (hf : f ≤ 0xA) (hexec : exec i s = atomicStep mn f c w s) : does f i :=
      ⟨fun hw h => runs_atomicFn hexec hi hw (hready h) hf hold4 (BitVec.toNat_setWidth ..) (BitVec.toNat_setWidth ..),
        fun hw h => runs_atomicFn hexec hi hw (hready h) hf hold8 (hwide _) (hwide _),
        fun g n hg hw halign => runs_atomic_misaligned hexec hi hw hg halign⟩
    refine ⟨hdoes (by decide) rfl, hdoes (by decide) rfl, hdoes (by decide) rfl, hdoes (by decide) rfl, hdoes (by decide) rfl,
      hdoes (by decide) rfl, hdoes (by decide) rfl, hdoes (by decide) rfl, hdoes (by decide) rfl, hdoes (by decide) rfl,
      hdoes (by decide) rfl, fun hw h => ?_⟩
    have hb : BitVec.ofNat 32 ((sreg s c.toNat (wB w)).toNat % 2 ^ 32) = (sreg s c.toNat (wB w)).setWidth 32 := by
      apply BitVec.eq_of_toNat_eq
      rw [BitVec.toNat_ofNat, BitVec.toNat_setWidth, Nat.mod_mod]
    have hr : homeResult s c.toNat w 0xB 4 o =
        ((fAdd old4 ((sreg s c.toNat (wB w)).setWidth 32)).toNat, false, old4.toNat) := by
      rw [homeResult, atomicAt_add32, hb, hold4]
      rfl
    have hexec : exec (.atomicFp32Add c w) s = atomicStep "ATOMIC_FP32_ADD" 0xB c w s := rfl
    obtain ⟨t, hnext, hdone, _⟩ := runs_atomic hexec hi hw (hready h) hr
    exact ⟨t, hnext, hdone⟩
  case leases =>
    intro s c w o hi a key old tag room halign hreach hway hrelease _
    have hready : AtomicReady s c.toNat w 8 o := ⟨halign, hreach, hway, hrelease⟩
    have hold : old < 2 ^ 64 := leNat_cellRead_lt ..
    have htake : exec (.leaseTake c w) s = atomicStep "LEASE_TAKE" 0xC c w s := rfl
    have hgive : exec (.leaseRelease c w) s = atomicStep "LEASE_RELEASE" 0xD c w s := rfl
    refine ⟨fun hw hfree hroom => ?_, fun hw hfree hroom => ?_, fun hw hheld => ?_, fun hw hholder => ?_, fun hw hother => ?_⟩
    · have hr := (homeResult_take s c.toNat w 8 o).trans (leaseTake_free hfree hroom)
      obtain ⟨t, hnext, hdone, hmem⟩ := runs_atomic htake hi hw hready hr
      refine ⟨t, hnext, hdone, ?_⟩
      rw [hmem]
      exact mem_leases_homeMem s _ rfl
    · exact runs_atomic_unchanged htake hi hw hready ((homeResult_take ..).trans (leaseTake_full hfree hroom))
    · exact runs_atomic_unchanged htake hi hw hready ((homeResult_take ..).trans (leaseTake_held hheld hold))
    · have hzero : leaseRelease s c.toNat old = 0 := if_pos hholder
      have hr := (homeResult_release s c.toNat w 8 o).trans (congrArg (fun v => (v, false, old)) hzero)
      obtain ⟨t, hnext, hdone, _⟩ := runs_atomic hgive hi hw hready hr
      exact ⟨t, hnext, hdone⟩
    · have hkept : leaseRelease s c.toNat old = old := if_neg hother
      exact runs_atomic_unchanged hgive hi hw hready
        ((homeResult_release s c.toNat w 8 o).trans (congrArg (fun v => (v, false, old)) hkept))

end Sys2Proof.Machine
end

section
/-!
SUPPORT. Stream commands (10_streams_attention.md R400 to R408): a stream command that finds the array queue empty runs whole
when ARR.GO issues it, what the commands that change or report a tracker do, and the proof of O22.
-/
namespace Sys2Proof.Machine

open Sys2Proof.Claims

/-! ### The run of a stream command -/

/-- The descriptor's offset that an ARR.GO names, and the stream command there. -/
def streamOff (s : State) (c : Nat) (w : U32) : Nat := (sreg s c (wD w)).toNat
def streamAsked (s : State) (c : Nat) (w : U32) : StreamCmd := streamCmdOf (Claims.descOf s c w 32)

/-- The queue entry of a stream command. -/
def streamEntry (s : State) (c : Nat) (w : U32) : ArrCmd :=
  newCmd (wTag w) (streamOff s c w) (.stream (streamAsked s c w))

/-- Core c's stream command has joined the queue, and the core has moved on. -/
def streamQueued (s : State) (c : Nat) (w : U32) : State :=
  modCore s c (fun k => pcNext { k with arrQ := k.arrQ ++ [streamEntry s c w] })

/-- How the queued command ends. -/
def streamOutcomeAt (s : State) (c : Nat) (w : U32) : SOut :=
  streamCommand (streamQueued s c w) c (streamAsked s c w) (streamOff s c w) false

/-- The result word is written and the command leaves the queue. -/
def streamAnswered (u : State) (c off status value : Nat) : State :=
  dropHead (rawWrite u (scratchKey c (off + 0x1C)) (leBytes 2 status ++ leBytes 2 value)) c

/-- A range within a range that no error touches has none. -/
theorem badIn_within {s : State} {k n k' n' : Nat} (h : badIn s k n = []) (hlow : k ≤ k') (hhigh : k' + n' ≤ k + n) :
    badIn s k' n' = [] := by
  rw [badIn, List.filter_eq_nil_iff] at h ⊢
  intro e he hmet
  simp only [decide_eq_true_eq] at h hmet
  exact h e he (by omega)

/-- A write of bytes brings no word into error. -/
theorem badIn_rawWrite {s : State} {k n : Nat} (h : badIn s k n = []) (key : Nat) (bs : List Byte) :
    badIn (rawWrite s key bs) k n = [] := by
  unfold rawWrite
  split
  · exact h
  · rw [badIn, List.filter_eq_nil_iff] at h ⊢
    exact fun e he => h e (List.mem_filter.mp he).1

theorem length_resultWord (status value : Nat) : (leBytes 2 status ++ leBytes 2 value).length = 4 := by
  simp [length_leBytes]

/-- A byte field of a descriptor is the byte that scratchpad holds there. -/
theorem descByte_eq_fieldAt {s : State} {c n j : Nat} (w : U32) (h : j < n) :
    descByte s c w j = fieldAt (Claims.descOf s c w n) j 1 := by
  rw [Claims.descOf, fieldAt_cellRead _ _ _ _ _ (by omega), descByte, sreg_toNat, scratchKey, scratchKey, Nat.add_assoc]
  simp [cellRead, leNat]

section
variable {s : State} {c : Nat} {w : U32} {n : Nat}

/-- ARR.GO on a ready stream command queues it. -/
theorem arrGo_stream (h : StreamReady s c w n) (hn : 1 ≤ n ∧ n ≤ 8) :
    arrGo c w s = startHead (streamQueued s c w) c := by
  obtain ⟨⟨-, -, hfits, hclean⟩, hempty, hop, hcmd⟩ := h
  rw [sreg_toNat] at hfits hclean
  have hbyte : descByte s c w 0 = 3 := (descByte_eq_fieldAt (n := 32) w (by decide)).trans hop
  have hlisted : ¬((streamCmdOf (Claims.descOf s c w 32)).cmd = 0 ∨ 8 < (streamCmdOf (Claims.descOf s c w 32)).cmd) := by
    simp only [streamCmdOf, hcmd]
    omega
  unfold arrGo
  dsimp only
  rw [hbyte, if_pos rfl, hempty, if_neg (by simp), if_neg (by rw [scratchBytes]; omega), scratchRead_clean s c _ 32 hclean]
  dsimp only
  rw [goDescriptor, ← sreg_toNat, ← Claims.descOf, if_neg hlisted]
  rfl

/-- A row of the table Stream command, for an issued word that names a ready descriptor of its own. -/
theorem arrStep_stream {mn : String} {c : CoreId} (hi : issues s c.toNat w = true) (hw : spell w = .arrGo)
    (h : StreamReady s c.toNat w n) (hn : 1 ≤ n ∧ n ≤ 8) :
    arrStep mn 3 n c w s = .next (startHead (streamQueued s c.toNat w) c.toNat) := by
  have hop : descByte s c.toNat w 0 = 3 := (descByte_eq_fieldAt (n := 32) w (by decide)).trans h.op.1
  have hcmd : descByte s c.toNat w 1 = n := (descByte_eq_fieldAt (n := 32) w (by decide)).trans h.op.2
  unfold arrStep
  dsimp only
  rw [hop, hcmd, if_neg (by simp), coreStep_run hi (by simp [hw]) (by simp [hw]), arrGo_stream h hn]

theorem coreOf_streamQueued (hempty : (coreOf s c).arrQ = []) :
    coreOf (streamQueued s c w) c = { coreOf s c with pc := (coreOf s c).pc + 4, arrQ := [streamEntry s c w] } := by
  rw [streamQueued, coreOf_modCore_self, hempty]
  rfl

theorem coreOf_congr {t u : State} (h : u.cores = t.cores) (k : Nat) : coreOf u k = coreOf t k := by
  rw [coreOf, coreOf, h]

/-- A stream command that ends with a result, at the head of its queue: the result is written and nothing follows. -/
theorem startHead_streamQueued (hon : coreOn s c = true) (hempty : (coreOf s c).arrQ = []) {u : State} {status value : Nat}
    (hdone : streamOutcomeAt s c w = .done u status value)
    (hcores : u.cores = (streamQueued s c w).cores)
    (hclean : badIn u (scratchKey c (streamOff s c w + 0x1C)) 4 = []) :
    startHead (streamQueued s c w) c = streamAnswered u c (streamOff s c w) status value := by
  have hhead : headCmd (streamQueued s c w) c = some (streamEntry s c w) := by
    rw [headCmd, coreOf_streamQueued hempty]
    rfl
  have hon' : coreOn (streamQueued s c w) c = true := hon
  have houtcome : streamOutcome (streamQueued s c w) c (streamEntry s c w) (.done u status value) =
      streamAnswered u c (streamOff s c w) status value := by
    rw [streamOutcome, writeResult, scratchWrite_clean _ _ _ _ (by rw [length_resultWord]; exact hclean)]
    rfl
  have hgone : headCmd (streamAnswered u c (streamOff s c w) status value) c = none := by
    rw [headCmd, streamAnswered, dropHead, coreOf_modCore_self, coreOf_rawWrite, coreOf_congr hcores,
      coreOf_streamQueued hempty]
    rfl
  rw [startHead, startHeads, hhead]
  dsimp only
  rw [if_neg (by rw [hon']; rintro (h | h) <;> cases h)]
  change startHeads 4 (streamOutcome _ c _ (streamOutcomeAt s c w)) c = _
  rw [hdone, houtcome, startHeads, hgone]

/-- The bytes just written are read. -/
theorem cellRead_written (s : State) (k : Nat) (bs : List Byte) : cellRead (rawWrite s k bs).mem.cells k bs.length = bs := by
  cases bs with
  | nil => rfl
  | cons b bs => exact cellRead_rawWrite s k (List.cons_ne_nil b bs)

/-- The answer leaves what is read apart from the result word as it was. -/
theorem cellRead_streamAnswered_apart (u : State) {off a m : Nat} (status value : Nat)
    (hapart : a + m ≤ off + 0x1C ∨ off + 0x20 ≤ a) :
    cellRead (streamAnswered u c off status value).mem.cells (scratchKey c a) m = cellRead u.mem.cells (scratchKey c a) m := by
  refine List.map_congr_left (fun i hi => ?_)
  have hlt := List.mem_range.mp hi
  have hother := otherBytes_rawWrite u (scratchKey c (off + 0x1C)) (leBytes 2 status ++ leBytes 2 value) (scratchKey c a + i)
  rw [length_resultWord] at hother
  refine hother ?_
  simp only [scratchKey]
  omega

/-- What an answered stream command leaves, where it wrote the m bytes at a key at most. -/
theorem streamDone_answered (hempty : (coreOf s c).arrQ = []) {u : State} {key m : Nat} (status value : Nat)
    (hcores : u.cores = (streamQueued s c w).cores) (hmem : OtherBytes s u key m) :
    StreamDone s (streamAnswered u c (streamOff s c w) status value) c w status value key m where
  result := by
    have hread := cellRead_written u (scratchKey c (streamOff s c w + 0x1C)) (leBytes 2 status ++ leBytes 2 value)
    rw [length_resultWord] at hread
    exact hread
  bytes k hk hresult := by
    have hother := otherBytes_rawWrite u (scratchKey c (streamOff s c w + 0x1C)) (leBytes 2 status ++ leBytes 2 value) k
    rw [length_resultWord] at hother
    refine (hother ?_).trans (hmem k hk)
    simpa only [scratchKey, streamOff, Nat.add_assoc] using hresult
  core := by
    rw [streamAnswered, dropHead, coreOf_modCore_self, coreOf_rawWrite, coreOf_congr hcores, coreOf_streamQueued hempty]
    rfl
  cores k hk := by
    rw [streamAnswered, dropHead, coreOf_modCore_ne _ _ hk, coreOf_rawWrite, coreOf_congr hcores, streamQueued,
      coreOf_modCore_ne _ _ hk]

/-- A core that issues is in a domain that is on. -/
theorem coreOn_of_issues (hi : issues s c w = true) : coreOn s c = true := by
  unfold issues canIssue at hi
  split at hi
  · cases hi
  · simp only [Bool.and_eq_true] at hi
    obtain ⟨⟨⟨⟨-, hon⟩, -⟩, -⟩, -⟩ := hi
    exact hon

/-- The run of a stream row whose command ends with a result. -/
theorem runs_stream {i : Instr} {mn : String} {c : CoreId} (hexec : exec i s = arrStep mn 3 n c w s)
    (hi : issues s c.toNat w = true) (hw : spell w = .arrGo) (h : StreamReady s c.toNat w n) (hn : 1 ≤ n ∧ n ≤ 8)
    {u : State} {status value : Nat} {P : State → Prop}
    (hdone : streamOutcomeAt s c.toNat w = .done u status value)
    (hcores : u.cores = (streamQueued s c.toNat w).cores)
    (hclean : badIn u (scratchKey c.toNat (streamOff s c.toNat w + 0x1C)) 4 = [])
    (hP : P (streamAnswered u c.toNat (streamOff s c.toNat w) status value)) : Runs i s P := by
  refine runs_of_exec (hexec.trans (arrStep_stream hi hw h hn)) ?_
  rw [startHead_streamQueued (coreOn_of_issues hi) h.empty hdone hcores hclean]
  exact hP

/-- The result word of a ready descriptor is in no error. -/
theorem badIn_resultWord (h : StreamReady s c w n) : badIn s (scratchKey c (streamOff s c w + 0x1C)) 4 = [] :=
  badIn_within h.queue.clean.2 (by simp only [scratchKey, streamOff]; omega) (by simp only [scratchKey, streamOff]; omega)

end

/-! ### Who may change a stream (R400, R439) -/

section
variable {s : State} {c i g : Nat}

theorem issuer_running (hg : runningGroup s c = some g) : issuer s c = (g, groupTenant s g) := by
  rw [issuer, hg]
  rfl

theorem ownerStatus_free (h : (trackerOf s i).state = .free) (anyGroup : Bool) : ownerStatus s c i anyGroup = 2 := if_pos h

theorem ownerStatus_foreign (hg : runningGroup s c = some g) (hused : (trackerOf s i).state ≠ .free)
    (hforeign : (trackerOf s i).tenant.toNat ≠ groupTenant s g) (anyGroup : Bool) : ownerStatus s c i anyGroup = 3 := by
  rw [ownerStatus, issuer_running hg]
  exact (if_neg hused).trans (if_pos hforeign)

theorem ownerStatus_tenant (hg : runningGroup s c = some g) (hused : (trackerOf s i).state ≠ .free)
    (htenant : (trackerOf s i).tenant.toNat = groupTenant s g) : ownerStatus s c i true = 0 := by
  simp [ownerStatus, issuer_running hg, hused, htenant]

theorem ownerStatus_owned (h : Owns s c i g) (hused : (trackerOf s i).state ≠ .free) (anyGroup : Bool) :
    ownerStatus s c i anyGroup = 0 := by
  obtain ⟨hg, hgroup, htenant⟩ := h
  simp [ownerStatus, issuer_running hg, hused, htenant, hgroup]

end

/-! ### What the commands come to -/

section
variable {s : State} {c g off : Nat} {k : StreamCmd} {compact : Bool}

/-- Park, unpark, close and adopt answer the owner's refusal and change nothing. -/
theorem streamCommand_refused {status : Nat} (hstatus : ∀ anyGroup, ownerStatus s c (k.stream % 16384) anyGroup = status)
    (hne : status ≠ 0) (hcmd : k.cmd ∈ [3, 4, 5, 8]) :
    streamCommand s c k off compact = .done s status 0 := by
  simp only [List.mem_cons, List.not_mem_nil, or_false] at hcmd
  obtain h | h | h | h := hcmd
  · simp [streamCommand, h, parkCmd, hstatus, hne]
  · simp [streamCommand, h, unparkCmd, hstatus, hne]
  · simp [streamCommand, h, closeCmd, hstatus, hne]
  · simp [streamCommand, h, adoptCmd, hstatus, hne]

theorem drainBanks_noDrain (h : NoDrain s) : drainBanks s = s := drainBanks_undrained h.1 h.2

theorem streamCommand_park (hcmd : k.cmd = 3) (hdrain : NoDrain s) (howns : Owns s c (k.stream % 16384) g)
    (hstate : (trackerOf s (k.stream % 16384)).state = .running) :
    streamCommand s c k off compact = .done (setTState s (k.stream % 16384) .parked) 0 0 := by
  have hundrained : drainBanks (setTState s (k.stream % 16384) .parked) = setTState s (k.stream % 16384) .parked :=
    drainBanks_noDrain hdrain
  simp [streamCommand, hcmd, parkCmd, ownerStatus_owned howns (by simp [hstate]), hstate, hundrained]

/-- A parked tracker taken up at reel r: it runs, or waits for its cue where the reel lags (R503). -/
def unparkedTracker (s : State) (r : Nat) (t : Tracker) : Tracker :=
  { t with
    reel := BitVec.ofNat 16 r
    state := if lagLimit < reelLag s.reels.posted.toNat r then .cueWait else .running
    lagFlag := decide (lagLimit < reelLag s.reels.posted.toNat r) }

theorem streamCommand_unpark {r : Nat} (hcmd : k.cmd = 4) (howns : Owns s c (k.stream % 16384) g)
    (hstate : (trackerOf s (k.stream % 16384)).state = .parked) (hfront : frontReel s = some r) :
    streamCommand s c k off compact = .done (modTracker s (k.stream % 16384) (unparkedTracker s r))
      (if lagLimit < reelLag s.reels.posted.toNat r then 6 else 0) 0 := by
  have hnow : frontNow s = (s, r) := by rw [frontNow, hfront]
  simp only [streamCommand, hcmd, unparkCmd, ownerStatus_owned howns (by simp [hstate]), hstate, hnow, decide_eq_true_eq]
  rfl

/-- A tracker that is to be closed: it waits for no page and has no storyboard (R405, R471). -/
def closingTracker (t : Tracker) : Tracker := { t with state := .closing, ticket := 0, nodes := 0 }

/-- The tracker of stream i closing, its storyboard gone. -/
def streamClosing (s : State) (i : Nat) : State :=
  let u := modTracker s i closingTracker
  { u with serving := { u.serving with boards := tdel u.serving.boards i } }

/-- A stream with readers only moves to closing (R405). -/
theorem closeTracker_readers {i : Nat} (hdrain : NoDrain s) (hreaders : (trackerOf s i).readers ≠ 0) :
    closeTracker s i = streamClosing s i := by
  have htracker : trackerOf (streamClosing s i) i = closingTracker (trackerOf s i) :=
    (trackerOf_modTracker s i closingTracker i).trans (if_pos rfl)
  have hkept : freeTracker (streamClosing s i) i = streamClosing s i := by
    refine if_neg (fun h => ?_)
    rw [htracker] at h
    exact hreaders h.2
  have hundrained : drainBanks (streamClosing s i) = streamClosing s i := drainBanks_noDrain hdrain
  exact (congrArg drainBanks hkept).trans hundrained

theorem streamCommand_close (hcmd : k.cmd = 5) (hdrain : NoDrain s) (howns : Owns s c (k.stream % 16384) g)
    (hused : (trackerOf s (k.stream % 16384)).state ≠ .free) (hopen : (trackerOf s (k.stream % 16384)).state ≠ .closing)
    (hreaders : (trackerOf s (k.stream % 16384)).readers ≠ 0) :
    streamCommand s c k off compact = .done (streamClosing s (k.stream % 16384)) 0 0 := by
  simp [streamCommand, hcmd, closeCmd, ownerStatus_owned howns hused, hopen, closeTracker_readers hdrain hreaders]

/-- A lost tracker that group g adopts (R408). -/
def adoptedTracker (g : Nat) (t : Tracker) : Tracker := { t with state := .parked, group := BitVec.ofNat 8 g }

theorem streamCommand_adopt (hcmd : k.cmd = 8) (hg : runningGroup s c = some g)
    (hstate : (trackerOf s (k.stream % 16384)).state = .lost)
    (htenant : (trackerOf s (k.stream % 16384)).tenant.toNat = groupTenant s g) :
    streamCommand s c k off compact = .done (modTracker s (k.stream % 16384) (adoptedTracker g)) 0 0 := by
  simp only [streamCommand, hcmd, adoptCmd, ownerStatus_tenant hg (by simp [hstate]) htenant, hstate, issuer_running hg]
  rfl

/-- A tracker's record has 64 bytes (table Stream tracker). -/
theorem length_trackerBytes (s : State) (i : Nat) : (trackerBytes s i).length = 64 := by
  unfold trackerBytes
  dsimp only
  split
  · rfl
  · simp only [List.length_append, length_leBytes, zeros, List.length_replicate]

theorem streamCommand_read (hcmd : k.cmd = 6) (hg : runningGroup s c = some g)
    (hused : (trackerOf s (k.stream % 16384)).state ≠ .free)
    (htenant : (trackerOf s (k.stream % 16384)).tenant.toNat = groupTenant s g) (hclean : ScratchClean s c k.addr.toNat 64) :
    streamCommand s c k off compact =
      .done (rawWrite s (scratchKey c k.addr.toNat) (trackerBytes s (k.stream % 16384))) 0 0 := by
  obtain ⟨hroom, hbad⟩ := hclean
  have hwrite := scratchWrite_clean s c k.addr.toNat (trackerBytes s (k.stream % 16384))
    (by rw [length_trackerBytes]; exact hbad)
  have hfits : ¬scratchBytes < k.addr.toNat + 64 := by rw [scratchBytes]; omega
  simp [streamCommand, hcmd, readCmd, ownerStatus_tenant hg hused htenant, hwrite, hfits]

/-! ### Rosters (R407) -/

/-- The running streams of group g in a bucket, of whatever tenant. -/
def rosterIds (s : State) (g bucket : Nat) : List Nat :=
  (s.serving.trackers.filter (fun e => e.2.state == .running && e.2.group.toNat == g && e.2.bucket == bucket)).map (·.1)

/-- A running stream of group g in a bucket is of another tenant than the group. -/
def ForeignIn (s : State) (g bucket : Nat) : Prop :=
  ∃ e ∈ s.serving.trackers, e.2.state = .running ∧ e.2.group.toNat = g ∧ e.2.bucket = bucket ∧
    e.2.tenant.toNat ≠ groupTenant s g

theorem rosterAll_foreign_eq_nil_iff (bucket : Nat) :
    rosterAll s g bucket (fun t => t != groupTenant s g) = [] ↔ ¬ForeignIn s g bucket := by
  simp only [ForeignIn, rosterAll, List.map_eq_nil_iff, List.filter_eq_nil_iff, Bool.and_eq_true, beq_iff_eq, bne_iff_ne,
    not_exists, and_assoc, not_and]

/-- Where no stream is of another tenant, the roster is of all of them. -/
theorem rosterOf_ids {bucket : Nat} (h : ¬ForeignIn s g bucket) (count : Nat) :
    rosterOf s g bucket count = (rosterIds s g bucket).take count := by
  have hall : rosterAll s g bucket (fun t => t == groupTenant s g) = rosterIds s g bucket := by
    refine congrArg (List.map _) (List.filter_congr (fun e he => ?_))
    rw [Bool.eq_iff_iff]
    simp only [Bool.and_eq_true, beq_iff_eq, and_iff_left_iff_imp]
    rintro ⟨⟨hrun, hgroup⟩, hbucket⟩
    exact Decidable.byContradiction (fun hforeign => h ⟨e, he, hrun, hgroup, hbucket, hforeign⟩)
  rw [rosterOf, hall]

theorem length_flatMap_leBytes (n : Nat) (l : List Nat) : (l.flatMap (leBytes n)).length = n * l.length := by
  induction l with
  | nil => rfl
  | cons v l ih => rw [List.flatMap_cons, List.length_append, length_leBytes, ih, List.length_cons, Nat.mul_succ, Nat.add_comm]

theorem streamCommand_roster_foreign (hcmd : k.cmd = 7) (hg : runningGroup s c = some g)
    (hforeign : ForeignIn s g k.ring)
    (hroom : k.addr.toNat + 2 * k.count ≤ 2 ^ 21) : streamCommand s c k off compact = .done s 3 0 := by
  have hcount : (rosterOf s g k.ring k.count).length ≤ k.count := List.length_take_le ..
  have hfits : ¬scratchBytes < k.addr.toNat + 2 * (rosterOf s g k.ring k.count).length := by rw [scratchBytes]; omega
  simp only [streamCommand, hcmd, rosterCmd, issuer_running hg]
  rw [if_neg hfits, if_pos (fun h => (rosterAll_foreign_eq_nil_iff _).mp h hforeign)]

theorem streamCommand_roster_own {ids : List Nat} (hcmd : k.cmd = 7) (hids : ids = (rosterIds s g k.ring).take k.count)
    (hg : runningGroup s c = some g) (hown : ¬ForeignIn s g k.ring)
    (hclean : ScratchClean s c k.addr.toNat (2 * ids.length)) :
    streamCommand s c k off compact =
      .done (rawWrite s (scratchKey c k.addr.toNat) (ids.flatMap (leBytes 2))) 0 ids.length := by
  obtain ⟨hroom, hbad⟩ := hclean
  have hwrite := scratchWrite_clean s c k.addr.toNat (ids.flatMap (leBytes 2)) (by rw [length_flatMap_leBytes]; exact hbad)
  have hfits : ¬scratchBytes < k.addr.toNat + 2 * ids.length := by rw [scratchBytes]; omega
  simp only [streamCommand, hcmd, rosterCmd, issuer_running hg, rosterOf_ids hown, ← hids]
  rw [if_neg hfits, if_neg (fun h => h ((rosterAll_foreign_eq_nil_iff _).mpr hown)), hwrite]

end

/-! ### The rows -/

/-- A command that may change its own stream alone has ended: status answered, the tracker as x, nothing else but the stores. -/
def StreamEnds (s : State) (c : Nat) (w : U32) (i status : Nat) (x : Tracker) (t : State) : Prop :=
  StreamDone s t c w status 0 0 0 ∧ trackerOf t i = x ∧ (∀ j, j ≠ i → trackerOf t j = trackerOf s j) ∧
    t = { s with cores := t.cores, mem := t.mem, serving := { s.serving with
      trackers := t.serving.trackers, boards := t.serving.boards } }

/-- A command that reports bytes to core c's scratchpad has ended with a value. -/
def StreamReports (s : State) (c : Nat) (w : U32) (a value : Nat) (bytes : List Byte) (t : State) : Prop :=
  StreamDone s t c w 0 value (scratchKey c a) bytes.length ∧
    cellRead t.mem.cells (scratchKey c a) bytes.length = bytes ∧ t = { s with cores := t.cores, mem := t.mem }

/-- From s to u stream i's tracker became x, and at most storyboards changed with it. -/
structure StreamChanged (s u : State) (i : Nat) (x : Tracker) : Prop where
  tracker : trackerOf u i = x
  others : ∀ j, j ≠ i → trackerOf u j = trackerOf s j
  rest : u = { s with serving := { s.serving with trackers := u.serving.trackers, boards := u.serving.boards } }

theorem streamChanged_refl (s : State) (i : Nat) : StreamChanged s s i (trackerOf s i) := ⟨rfl, fun _ _ => rfl, rfl⟩

theorem streamChanged_modTracker (s : State) (i : Nat) (f : Tracker → Tracker) :
    StreamChanged s (modTracker s i f) i (f (trackerOf s i)) where
  tracker := by rw [trackerOf_modTracker, if_pos rfl]
  others j hj := by rw [trackerOf_modTracker, if_neg hj]
  rest := rfl

theorem streamChanged_streamClosing (s : State) (i : Nat) :
    StreamChanged s (streamClosing s i) i (closingTracker (trackerOf s i)) := by
  obtain ⟨htracker, hothers, -⟩ := streamChanged_modTracker s i closingTracker
  exact ⟨htracker, hothers, rfl⟩

theorem streamAnswered_eq (u : State) (c off status value : Nat) : streamAnswered u c off status value =
    { u with
      cores := (streamAnswered u c off status value).cores, mem := (streamAnswered u c off status value).mem } := by
  rw [streamAnswered, dropHead, modCore_eq, rawWrite_eq]

section
variable {s : State} {w : U32} {n : Nat} {cmd : Instr} {mn : String} {c : CoreId}
  (hexec : exec cmd s = arrStep mn 3 n c w s) (hi : issues s c.toNat w = true) (hw : spell w = .arrGo)
  (h : StreamReady s c.toNat w n) (hn : 1 ≤ n ∧ n ≤ 8)
include hexec hi hw h hn

/-- A row whose command changes its own stream alone. -/
theorem runs_streamEnds {u : State} {i status : Nat} {x : Tracker}
    (hdone : streamOutcomeAt s c.toNat w = .done u status 0)
    (hu : StreamChanged (streamQueued s c.toNat w) u i x) : Runs cmd s (StreamEnds s c.toNat w i status x) := by
  obtain ⟨htracker, hothers, hrest⟩ := hu
  have hcores : u.cores = (streamQueued s c.toNat w).cores := by rw [hrest]
  have hmem : u.mem = s.mem := by rw [hrest]; rfl
  have hclean : badIn u (scratchKey c.toNat (streamOff s c.toNat w + 0x1C)) 4 = [] := by
    rw [badIn, hmem]
    exact badIn_resultWord h
  have hserving : (streamAnswered u c.toNat (streamOff s c.toNat w) status 0).serving = u.serving := by
    rw [streamAnswered_eq]
  have htrackers (j : Nat) : trackerOf (streamAnswered u c.toNat (streamOff s c.toNat w) status 0) j = trackerOf u j := by
    rw [trackerOf, trackerOf, hserving]
  refine runs_stream hexec hi hw h hn hdone hcores hclean ⟨?_, ?_, fun j hj => ?_, ?_⟩
  · exact streamDone_answered h.empty status 0 hcores (fun k _ => by rw [hmem])
  · rw [htrackers, htracker]
  · rw [htrackers, hothers j hj]
    rfl
  · rw [hserving, streamAnswered_eq, hrest]
    rfl

/-- A row whose command only answers. -/
theorem runs_streamUnchanged {status : Nat}
    (hdone : streamOutcomeAt s c.toNat w = .done (streamQueued s c.toNat w) status 0) :
    Runs cmd s (fun t => StreamDone s t c.toNat w status 0 0 0 ∧ t = { s with cores := t.cores, mem := t.mem }) := by
  refine runs_stream hexec hi hw h hn hdone rfl (badIn_resultWord h) ⟨?_, ?_⟩
  · exact streamDone_answered h.empty status 0 rfl (fun _ _ => rfl)
  · rw [streamAnswered_eq]
    rfl

/-- A row whose command writes a report apart from its result word. -/
theorem runs_streamReports {a value : Nat} {bytes : List Byte}
    (hdone : streamOutcomeAt s c.toNat w = .done (rawWrite (streamQueued s c.toNat w) (scratchKey c.toNat a) bytes) 0 value)
    (hapart : a + bytes.length ≤ streamOff s c.toNat w + 0x1C ∨ streamOff s c.toNat w + 0x20 ≤ a) :
    Runs cmd s (StreamReports s c.toNat w a value bytes) := by
  have hcores : (rawWrite (streamQueued s c.toNat w) (scratchKey c.toNat a) bytes).cores =
      (streamQueued s c.toNat w).cores := by rw [rawWrite_eq]
  have hclean : badIn (streamQueued s c.toNat w) (scratchKey c.toNat (streamOff s c.toNat w + 0x1C)) 4 = [] :=
    badIn_resultWord h
  refine runs_stream hexec hi hw h hn hdone hcores (badIn_rawWrite hclean _ _) ⟨?_, ?_, ?_⟩
  · exact streamDone_answered h.empty 0 value hcores (otherBytes_rawWrite (streamQueued s c.toNat w) _ _)
  · rw [cellRead_streamAnswered_apart _ _ _ hapart, cellRead_written]
  · rw [streamAnswered_eq, rawWrite_eq]
    rfl

end

/-! ### The statement -/

/-- The rows of park, unpark, close and adopt. -/
theorem changeRow_cases {s : State} {w : U32} {n : Nat} {cmd : Instr} {c : CoreId}
    (hrow : (n, cmd) ∈ [(3, Instr.streamPark c w), (4, .streamUnpark c w), (5, .streamClose c w), (8, .streamAdopt c w)]) :
    n ∈ [3, 4, 5, 8] ∧ (1 ≤ n ∧ n ≤ 8) ∧ ∃ mn, exec cmd s = arrStep mn 3 n c w s := by
  simp only [List.mem_cons, Prod.mk.injEq, List.not_mem_nil, or_false] at hrow
  obtain ⟨rfl, rfl⟩ | ⟨rfl, rfl⟩ | ⟨rfl, rfl⟩ | ⟨rfl, rfl⟩ := hrow
  all_goals exact ⟨by decide, by decide, _, rfl⟩

/-- Settles O22: each command runs whole on the state in which it is queued, and its lemma says what it comes to there. -/
theorem streamStatesAndReports : Obligations.StreamStatesAndReports := by
  unfold Obligations.StreamStatesAndReports
  refine ⟨?states, ?reports⟩
  case states =>
    intro s c w g n hi hw h hg i tr ends
    have hcmd : (streamAsked s c.toNat w).cmd = n := h.op.2
    refine ⟨fun hdrain howns => ⟨fun hn hstate => ?park, fun r hn hstate hfront => ?unpark,
      fun hn hused hopen hreaders => ?close⟩, fun hn hstate htenant => ?adopt, fun cmd hrow => ?refused⟩
    case park =>
      subst hn
      exact runs_streamEnds rfl hi hw h (by decide) (streamCommand_park hcmd hdrain howns hstate)
        (streamChanged_modTracker _ i _)
    case unpark =>
      subst hn
      exact runs_streamEnds rfl hi hw h (by decide) (streamCommand_unpark hcmd howns hstate hfront)
        (streamChanged_modTracker _ i _)
    case close =>
      subst hn
      exact runs_streamEnds rfl hi hw h (by decide) (streamCommand_close hcmd hdrain howns hused hopen hreaders)
        (streamChanged_streamClosing _ i)
    case adopt =>
      subst hn
      exact runs_streamEnds rfl hi hw h (by decide) (streamCommand_adopt hcmd hg hstate htenant)
        (streamChanged_modTracker _ i _)
    case refused =>
      obtain ⟨hn, hrange, mn, hexec⟩ := changeRow_cases (s := s) hrow
      have hends {status : Nat} (hstatus : ∀ anyGroup, ownerStatus s c.toNat i anyGroup = status) (hne : status ≠ 0) :
          ends cmd status tr :=
        runs_streamEnds hexec hi hw h hrange (streamCommand_refused hstatus hne (hcmd ▸ hn))
          (streamChanged_refl _ i)
      exact ⟨fun hfree => hends (ownerStatus_free hfree) (by decide),
        fun hused hforeign => hends (ownerStatus_foreign hg hused hforeign) (by decide)⟩
  case reports =>
    intro s c w g n hi hw h hg off k i a ids apart reports
    have hcmd : (streamAsked s c.toNat w).cmd = n := h.op.2
    refine ⟨fun hn hused htenant hclean hapart => ?read, fun hn hforeign hroom => ?foreign,
      fun hn hown hclean hapart _ => ?own⟩
    case read =>
      subst hn
      exact runs_streamReports rfl hi hw h (by decide) (streamCommand_read hcmd hg hused htenant hclean)
        (by rw [length_trackerBytes]; exact hapart)
    case foreign =>
      subst hn
      exact runs_streamUnchanged rfl hi hw h (by decide) (streamCommand_roster_foreign hcmd hg hforeign hroom)
    case own =>
      subst hn
      exact runs_streamReports rfl hi hw h (by decide) (streamCommand_roster_own hcmd rfl hg hown hclean)
        (by rw [length_flatMap_leBytes]; exact hapart)

end Sys2Proof.Machine
end

section
/-!
SUPPORT. Queue pairs of the host port (17_host_port.md R713 to R717, R728, R729): what a doorbell, a fetch and a post of a
completion do to a tenant's queue pair, and the proof of O51.
-/
namespace Sys2Proof.Machine

open Sys2Proof.Claims

/-! ### One queue pair -/

theorem queueBecomes_refl (s : State) (n : Nat) : QueueBecomes s s n (tqOf s n) := ⟨rfl, fun _ _ => rfl, rfl⟩

theorem queueBecomes_modTq {s t : State} {n : Nat} {q : TenantQ} (h : QueueBecomes s t n q) (f : TenantQ → TenantQ) :
    QueueBecomes s (modTq t n f) n (f q) := by
  obtain ⟨hself, hothers, hrest⟩ := h
  refine ⟨by rw [tqOf_modTq, if_pos rfl, hself], fun k hk => by rw [tqOf_modTq, if_neg hk, hothers k hk], ?_⟩
  rw [modTq, hrest]

/-- The first error of a queue pair is recorded with its cause. -/
theorem queueBecomes_queueError {s : State} {n : Nat} (h : (tqOf s n).error = false) (cause : Nat) :
    QueueBecomes s (queueError s n cause) n { tqOf s n with error := true, cause := cause } := by
  have hchange := queueBecomes_modTq (queueBecomes_refl s n)
    (fun q => if q.error then q else { q with error := true, cause := cause })
  rwa [h] at hchange

/-! ### Doorbells -/

section
variable {s : State} {page : DoorbellPage} {n : Nat} (f : State → Nat → State) (hpage : pageTenant s page = some n)
include hpage

/-- An enabled queue pair takes a doorbell on a page of the function that reaches it. -/
theorem doorbell_taken (hon : queueOn s n = true) (hpf : ∀ x, page = .pf x → boundVf s n = none) :
    doorbell s page f = f s n := by
  simp only [doorbell, hpage, hon]
  cases page with
  | pf x => simp [hpf x rfl]
  | vf g => rfl

/-- A disabled queue pair ignores its doorbells (R715). -/
theorem doorbell_ignored (hoff : queueOn s n = false) : doorbell s page f = s := by
  simp only [doorbell, hpage, if_pos hoff]

end

/-- A doorbell on the PF page of a tenant that is bound to a VF takes cause 5 (R713). -/
theorem doorbell_wrongFunction {s : State} {ten : Tenant} (f : State → Nat → State) (hon : queueOn s ten.toNat = true)
    (hbound : boundVf s ten.toNat ≠ none) :
    doorbell s (.pf ten) f = modTq s ten.toNat (fun q => { q with wrongFunction := true }) := by
  simp only [doorbell, pageTenant, hon, if_pos (Option.isSome_iff_ne_none.mpr hbound)]
  rfl

section
variable {s : State} {v n : Nat}

theorem tailWrite_within (hsize : v < queueSize s n)
    (hroom : ahead (queueSize s n) (tqOf s n).subTail v + ahead (queueSize s n) (tqOf s n).subHead (tqOf s n).subTail ≤
      queueSize s n - 1) :
    tailWrite s v n = modTq s n (fun q => { q with subTail := v }) := by
  simp only [tailWrite]
  rw [if_neg (by omega), if_neg (by omega)]

theorem tailWrite_beyond (hsize : queueSize s n ≤ v) : tailWrite s v n = queueError s n 1 := if_pos hsize

theorem headWrite_within (hsize : v < queueSize s n)
    (hposted : ahead (queueSize s n) (tqOf s n).compHead v ≤ ahead (queueSize s n) (tqOf s n).compHead (tqOf s n).compTail) :
    headWrite s v n = modTq s n (fun q => { q with compHead := v }) := by
  simp only [headWrite]
  rw [if_neg (by omega)]

theorem headWrite_beyond (hsize : queueSize s n ≤ v) : headWrite s v n = queueError s n 6 := if_pos (Or.inl hsize)

end

/-! ### Fetches -/

/-- A queue pair with an entry to fetch asks host memory for it (R714, R716). -/
theorem submissionFetch_asks {s : State} {n : Nat} (hon : queueOn s n = true) (herror : (tqOf s n).error = false)
    (hidle : (tqOf s n).fetching = 0) (hsome : (tqOf s n).subHead ≠ (tqOf s n).subTail)
    (hmaster : (fnOf s (queueFn s n)).busMaster = true) :
    submissionFetch s n =
      modTq (hostRequest s (queueFn s n) (subBase s n + 128 * (tqOf s n).subHead) 128 (.entry (BitVec.ofNat 12 n))) n
        (fun q => { q with fetching := 1 }) :=
  if_pos ⟨hon, herror, hidle, hsome, hmaster⟩

theorem tqOf_hostRequest (s : State) (f off len : Nat) (r : HostReq) (k : Nat) :
    tqOf (hostRequest s f off len r) k = tqOf s k := rfl

theorem tfind_reads_hostRequest (s : State) (f off len : Nat) (r : HostReq) :
    tfind (hostRequest s f off len r).host.reads s.host.nextReq = some r := tfind_tput_self ..

/-! ### Completions -/

/-- The claims' reading of a completion entry is the model's. -/
theorem completionBytes_eq (c : HostCmd) (x : Completion) (head : Nat) (phase : Bool) :
    completionBytes c x head phase = completionEntry c x head phase := by
  cases phase <;> simp [completionBytes, completionEntry, leBytes, b2n]

/-- The completion entry of c, driven to the next slot of the completion queue. -/
def completionWrite (s : State) (n : Nat) (c : HostCmd) (x : Completion) : Output :=
  .hostWrite (BitVec.ofNat 5 (queueFn s n)) (compBase s n + 32 * (tqOf s n).compTail)
    (completionEntry c x (tqOf s n).subHead (tqOf s n).phase)

/-- A queue pair of a given size that has posted c's completion. -/
def postedQueue (size : Nat) (c : HostCmd) (q : TenantQ) : TenantQ :=
  { q with
    cmds := q.cmds.erase c, compTail := (q.compTail + 1) % size, completions := (q.completions + 1) % 2 ^ 64
    phase := if (q.compTail + 1) % size = 0 then !q.phase else q.phase }

/-- The state that has posted c's completion and has not yet sent its interrupt. -/
def completionPosted (s : State) (n : Nat) (c : HostCmd) (x : Completion) : State :=
  modTq (dropCmd (emit s (completionWrite s n c x)) n c) n (fun q => { q with
    compTail := (q.compTail + 1) % queueSize s n
    phase := if (q.compTail + 1) % queueSize s n = 0 then !q.phase else q.phase
    completions := (q.completions + 1) % 2 ^ 64 })

theorem outputs_completionPosted (s : State) (n : Nat) (c : HostCmd) (x : Completion) :
    (completionPosted s n c x).outputs = completionWrite s n c x :: s.outputs := rfl

theorem fnOf_completionPosted (s : State) (n : Nat) (c : HostCmd) (x : Completion) (g : Nat) :
    fnOf (completionPosted s n c x) g = fnOf s g := rfl

theorem queueBecomes_completionPosted (s : State) (n : Nat) (c : HostCmd) (x : Completion) :
    QueueBecomes (emit s (completionWrite s n c x)) (completionPosted s n c x) n
      (postedQueue (queueSize s n) c (tqOf s n)) :=
  queueBecomes_modTq (queueBecomes_modTq (queueBecomes_refl (emit s (completionWrite s n c x)) n) _) _

section
variable {s : State} {n : Nat} {c : HostCmd} {x : Completion}
  (hkept : ∀ y ∈ (tqOf s n).cmds, y.discard = false) (hpost : postable (tqOf s n).cmds false = some c)
  (hroom : ((tqOf s n).compTail + 1) % queueSize s n ≠ (tqOf s n).compHead)

include hkept in
theorem find_discarded_eq_none :
    (tqOf s n).cmds.find? (fun y => y.discard && y.completion.isSome) = none := by
  rw [List.find?_eq_none]
  intro y hy
  simp [hkept y hy]

include hkept hpost hroom

/-- A write of a completion entry that fails is cause 4, and the command stays to be posted (R743). -/
theorem completionPost_failed : completionPost s n false = queueError s n 4 := by
  simp only [completionPost, find_discarded_eq_none hkept, hpost]
  rw [if_neg hroom, if_pos (Or.inl trivial)]

/-- A completion is written, and its interrupt follows unless the command asks for none (R717, R728, R729). -/
theorem completionPost_written (hstate : c.state = .finished x) (hmaster : (fnOf s (queueFn s n)).busMaster = true) :
    completionPost s n true =
      if c.entry.flags.testBit 1 then completionPosted s n c x
      else raiseVector (completionPosted s n c x) (queueVector s n) := by
  have hdone : c.completion = some x := by rw [HostCmd.completion, hstate]
  simp only [completionPost, find_discarded_eq_none hkept, hpost, hdone, completionBytes_eq]
  rw [if_neg hroom, if_neg (by simp [hmaster])]
  rfl

end

/-! ### Interrupts -/

/-- A vector that is not masked sends its message, and no queue pair changes (R729). -/
theorem raiseVector_sent {s : State} {v g e : Nat} (hplace : vectorPlace v = some (g, e))
    (henable : (fnOf s g).msixEnable = true) (hfn : (fnOf s g).fnMask = false)
    (hclear : (tget (fnOf s g).msix e MsixEntry.reset).masked = false) :
    (raiseVector s v).outputs = .msix (BitVec.ofNat 5 g) (tget (fnOf s g).msix e MsixEntry.reset).addr
      (tget (fnOf s g).msix e MsixEntry.reset).data :: s.outputs ∧ (raiseVector s v).host.tenants = s.host.tenants := by
  simp only [raiseVector, hplace, sendMsix]
  rw [if_neg (by simp [henable]), if_neg (by simp [hfn, hclear])]
  exact ⟨rfl, rfl⟩

/-! ### The statement -/

/-- Settles O51: a doorbell comes to a tail or head write, to cause 5 or to nothing; a fetch to a request for the entry; and a
post to a written entry with its interrupt after it, or to cause 4. -/
theorem hostQueueFlow : Obligations.HostQueueFlow := by
  unfold Obligations.HostQueueFlow
  intro s ten q n f
  refine ⟨fun page v hpage hon hpf => ?taken, fun page v hpage hoff => ?ignored, fun v hon hbound => ?wrongFunction,
    fun hon herror hidle hsome hmaster => ?fetch, fun c x hkept hpost hstate hroom => ?completion⟩
  case taken =>
    have htail : exec (.submissionTailDoorbell page v) s = .next (tailWrite s v.toNat ten.toNat) :=
      congrArg Host.Outcome.next (doorbell_taken _ hpage hon hpf)
    have hhead : exec (.completionHeadDoorbell page v) s = .next (headWrite s v.toNat ten.toNat) :=
      congrArg Host.Outcome.next (doorbell_taken _ hpage hon hpf)
    refine ⟨fun hsize hwithin => runs_of_exec htail ?_, fun hsize hposted => runs_of_exec hhead ?_,
      fun hsize herror => ⟨runs_of_exec htail ?_, runs_of_exec hhead ?_⟩⟩
    · rw [tailWrite_within hsize hwithin]
      exact queueBecomes_modTq (queueBecomes_refl s ten.toNat) _
    · rw [headWrite_within hsize hposted]
      exact queueBecomes_modTq (queueBecomes_refl s ten.toNat) _
    · rw [tailWrite_beyond hsize]
      exact queueBecomes_queueError herror 1
    · rw [headWrite_beyond hsize]
      exact queueBecomes_queueError herror 6
  case ignored => exact ⟨runs_of_exec rfl (doorbell_ignored _ hpage hoff), runs_of_exec rfl (doorbell_ignored _ hpage hoff)⟩
  case wrongFunction =>
    refine runs_of_exec rfl ?_
    rw [doorbell_wrongFunction _ hon hbound]
    exact queueBecomes_modTq (queueBecomes_refl s ten.toNat) _
  case fetch =>
    refine runs_of_exec rfl ?_
    rw [submissionFetch_asks hon herror hidle hsome hmaster, BitVec.ofNat_toNat, BitVec.setWidth_eq]
    refine ⟨?_, fun k hk => ?_, rfl, by rw [modTq_host_reads, tfind_reads_hostRequest], rfl⟩
    · rw [tqOf_modTq, if_pos rfl, tqOf_hostRequest]
    · rw [tqOf_modTq, if_neg hk, tqOf_hostRequest]
  case completion =>
    have hwritten := completionPost_written hkept hpost hroom hstate
    have hposted := queueBecomes_completionPosted s ten.toNat c x
    refine ⟨fun hmaster hsilent => ?silent, fun g e hmaster hasked hplace henable hfn hclear => ?interrupt,
      fun herror => ?failed⟩
    case silent =>
      refine runs_of_exec rfl ?_
      rw [hwritten hmaster, if_pos hsilent]
      exact ⟨outputs_completionPosted .., hposted⟩
    case interrupt =>
      refine runs_of_exec rfl ?_
      rw [hwritten hmaster, if_neg (by simp [hasked])]
      obtain ⟨hsent, hqueues⟩ := raiseVector_sent (s := completionPosted s ten.toNat c x) hplace henable hfn hclear
      refine ⟨hsent, ?_⟩
      rw [tqOf, hqueues]
      exact hposted.1
    case failed =>
      refine runs_of_exec rfl ?_
      rw [completionPost_failed hkept hpost hroom]
      exact queueBecomes_queueError herror 4

end Sys2Proof.Machine
end
